-- ==== Sys2Proof/Word.lean ====
section
/-! DEFINITION. The word types of the Ixkan (R8, R274, R279): 64-bit registers and V-stream words,
32-bit containers and C-stream words, 16-bit fields, bytes. -/

namespace Sys2Proof

/-- A control-thread or block register, and a V-stream word: 64 bits (R8, R279). -/
abbrev Word := BitVec 64

/-- A container of a vector register, and a C-stream word: 32 bits (R62, R274). -/
abbrev W32 := BitVec 32

/-- One byte of memory (R168: a location is one byte). -/
abbrev Byte := BitVec 8

/-- One element of an accumulator tile: 48 bits (R89). -/
abbrev W48 := BitVec 48

end Sys2Proof
end

