-- ==== Sys2Proof/Syntax.lean ====
section
/-! DEFINITION. The instructions of both streams and the events of the part, as terms: one constructor
per row of spec/opcode_table.json (R252, R274-R284; 95_what_each_step_holds.md). -/

namespace Sys2Proof

/-- A control-thread register x0-x31 (R8). -/
abbrev XReg := BitVec 5
/-- A block register b0-b15 (R8). -/
abbrev BReg := BitVec 4
/-- A vector register v0-v31 (R8). -/
abbrev VReg := BitVec 5
/-- A mask register m0-m7 (R8). -/
abbrev MReg := BitVec 3
/-- An accumulator tile z0-z31 (R8). -/
abbrev ZReg := BitVec 5
/-- A term-stream descriptor s0-s15 (R8). -/
abbrev SReg := BitVec 4
/-- A k-register number 0x000-0xFFF (R8). -/
abbrev KNum := BitVec 12
/-- An element tag code of Table 5-1, or a tile tag code (R84, R120). -/
abbrev Tag := BitVec 6

/-- The conditions of Table 20-1. -/
inductive Cond where
  | eq | ne | lt | ge | ltu | geu
  deriving DecidableEq, Repr, Inhabited

/-- The conditions of vcmp (Table 23-8). -/
inductive VCond where
  | eq | ne | lt | le | gt | ge | un
  deriving DecidableEq, Repr, Inhabited

/-- The widths of ld (R317). -/
inductive LdWidth where
  | b | h | w | d | bu | hu | wu
  deriving DecidableEq, Repr, Inhabited

/-- The widths of st (R354). -/
inductive StWidth where
  | b | h | w | d
  deriving DecidableEq, Repr, Inhabited

/-- The scopes of Table 9-1. -/
inductive Scope where
  | core | dev | sys
  deriving DecidableEq, Repr, Inhabited

/-- The order of a C-stream atomic, mod[1:0] (R293). -/
inductive MemOrd where
  | rlx | acq | rel | acqrel
  deriving DecidableEq, Repr, Inhabited

/-- The operation of amo, fn[5:0] (R293). -/
inductive AmoOp where
  | add | and | or | xor | min | max | minu | maxu | swap
  deriving DecidableEq, Repr, Inhabited

/-- The operation of vamo, VM [18:16] (R279). -/
inductive VAmoOp where
  | add | and | or | xor | min | max | swap
  deriving DecidableEq, Repr, Inhabited

/-- The order field of vamo with its scope (Table 9-2). -/
inductive VmOrd where
  | plain | acq (s : Scope) | rel (s : Scope)
  deriving DecidableEq, Repr, Inhabited

/-- The rounding modes of Table 5-6. -/
inductive Rm where
  | rne | rtz | rup | rdn | rmm | rsto | dyn
  deriving DecidableEq, Repr, Inhabited

/-- The tail override of a word (R72): the vtype's TA, .tu or .ta. -/
inductive Tail where
  | vtype | tu | ta
  deriving DecidableEq, Repr, Inhabited

/-- The operation of mlog (R329). -/
inductive MlogOp where
  | and | or | xor | andn | not
  deriving DecidableEq, Repr, Inhabited

/-- The counter that mchk reads (R322). -/
inductive ChkSel where
  | pass | mismatch | abstain
  deriving DecidableEq, Repr, Inhabited

/-- Source b of a VV word by its kind kb (R279, R280). -/
inductive VSrc where
  | vec (v : VReg) | breg (b : BReg) | imm (i : BitVec 16)
  deriving DecidableEq, Repr, Inhabited

/-- The second source of a block instruction by its I bit (R279). -/
inductive BSrc where
  | reg (b : BReg) | imm (i : W32)
  deriving DecidableEq, Repr, Inhabited

/-- Mask enable, mask register and chunk acquire of a word whose destination has no tail override
(R279, R282). -/
structure MCtl where
  mask : Option MReg
  aq   : Bool
  deriving DecidableEq, Repr, Inhabited

/-- Mask, chunk acquire and tail override of a word (R279). -/
structure VCtl where
  mask : Option MReg
  aq   : Bool
  tail : Tail
  deriving DecidableEq, Repr, Inhabited

/-- What firmware retires (Table 11-3). -/
inductive RUnit where
  | workingLane (core lane : Nat)
  | cluster (core cluster : Nat)
  | halfSlab (tower slab : Nat) (upper : Bool)
  | helm (core : Nat)
  | controlCore (core : Nat)
  deriving DecidableEq, Repr, Inhabited

/-- How a fetch fails (R55, R189, R207): the walk or the permission, the decode of the physical address,
or poisoned data. -/
inductive FetchFault where
  | page | access | poison
  deriving DecidableEq, Repr, Inhabited

/-- Where an error in stored data lies (R206): memory (HBM, the L2, a scratchpad); a container of a vector register, a bit
of a mask register, a block register, an x register of a hart; a cell of a tile or a descriptor of a core; a byte in a
junction buffer or in the strip buffer of a hart's context; an entry of its on-chip queue, the oldest first. -/
inductive EccLoc where
  | mem (pa : BitVec 56)
  | vreg (hart : Nat) (v : VReg) (container : Nat)
  | mreg (hart : Nat) (m : MReg) (row position : Nat)
  | breg (hart : Nat) (b : BReg)
  | xreg (hart : Nat) (x : XReg)
  | tile (core : Nat) (z : ZReg) (row col : Nat)
  | desc (core : Nat) (d : SReg)
  | junction (core : Nat) (pa : BitVec 56)
  | strip (hart : Nat) (pa : BitVec 56)
  | queue (hart entry : Nat)
  | reply (hart entry : Nat)
  deriving DecidableEq, Repr, Inhabited

/-- A firmware image: what its header names (R228), its security version, its two signatures with their public keys, and
whether it is well formed (R230). -/
structure Firmware where
  base     : BitVec 44 := 0     -- HBM range that the image is copied to
  bytes    : List Byte := []
  supEntry : Word := 0
  fwEntry  : Word := 0
  secVer   : Nat := 0
  rsaKey   : List Byte := []
  rsaSig   : List Byte := []
  slhKey   : List Byte := []
  slhSig   : List Byte := []
  malformed : Bool := false
  deriving DecidableEq, Repr, Inhabited

/-- What phase 1 leaves of the links: HLST as training finds it, and the port sets that firmware gives each destination node,
the primary one first (R219, R227, R235). -/
structure LinkTraining where
  hlst   : Word
  routes : List (Nat × List (List Nat))
  deriving DecidableEq, Repr, Inhabited

/-- One constructor per row of spec/opcode_table.json: the words of the two instruction streams and the events of the
part (95_what_each_step_holds.md). The rows with operands come first, in the table's order, then those without. -/
inductive Instr where
  /-- IADD: x[d] ← x[a] + x[b] (R309). -/
  | iadd (d a b : XReg)
  /-- ISUB: x[d] ← x[a] − x[b] (R309). -/
  | isub (d a b : XReg)
  /-- IAND: bitwise AND (R309). -/
  | iand (d a b : XReg)
  /-- IOR: bitwise OR (R309). -/
  | ior (d a b : XReg)
  /-- IXOR: bitwise XOR (R309). -/
  | ixor (d a b : XReg)
  /-- ISHL: shift left by x[b][5:0] (R309). -/
  | ishl (d a b : XReg)
  /-- ISHR: logical shift right (R309). -/
  | ishr (d a b : XReg)
  /-- ISAR: arithmetic shift right (R309). -/
  | isar (d a b : XReg)
  /-- IMUL: low 64 bits of the product (R309). -/
  | imul (d a b : XReg)
  /-- IMULH: bits [127:64] of the product, unsigned with `u` (R309). -/
  | imulh (d a b : XReg) (u : Bool)
  /-- IDIV: quotient toward zero, unsigned with `u` (R309, R310). -/
  | idiv (d a b : XReg) (u : Bool)
  /-- IREM: remainder, unsigned with `u` (R309, R310). -/
  | irem (d a b : XReg) (u : Bool)
  /-- IMIN: the smaller, unsigned with `u` (R309). -/
  | imin (d a b : XReg) (u : Bool)
  /-- IMAX: the larger, unsigned with `u` (R309). -/
  | imax (d a b : XReg) (u : Bool)
  /-- ICLZ: leading zero bits (R309). -/
  | iclz (d a : XReg)
  /-- IPOP: one bits (R309). -/
  | ipop (d a : XReg)
  /-- ISET: 1 if the condition holds, else 0 (R309). -/
  | iset (d a b : XReg) (c : Cond)
  /-- IADD_IMM: adds the sign-extended immediate (R311). -/
  | iaddImm (d a : XReg) (i : BitVec 16)
  /-- IAND_IMM: AND with the zero-extended immediate (R311). -/
  | iandImm (d a : XReg) (i : BitVec 16)
  /-- IOR_IMM: OR with the zero-extended immediate (R311). -/
  | iorImm (d a : XReg) (i : BitVec 16)
  /-- IXOR_IMM: XOR with the zero-extended immediate (R311). -/
  | ixorImm (d a : XReg) (i : BitVec 16)
  /-- ISHL_IMM: shift left by n (R311). -/
  | ishlImm (d a : XReg) (n : BitVec 6)
  /-- ISHR_IMM: logical shift right by n (R311). -/
  | ishrImm (d a : XReg) (n : BitVec 6)
  /-- ISAR_IMM: arithmetic shift right by n (R311). -/
  | isarImm (d a : XReg) (n : BitVec 6)
  /-- ISET_IMM: 1 if the condition holds with the sign-extended immediate (R311). -/
  | isetImm (d a : XReg) (c : Cond) (i : BitVec 13)
  /-- IMOVZ: the chunk at position p, zeros elsewhere (R312). -/
  | imovz (d : XReg) (p : BitVec 2) (i : BitVec 16)
  /-- IMOVK: replaces the chunk at position p (R312). -/
  | imovk (d : XReg) (p : BitVec 2) (i : BitVec 16)
  /-- IPCREL: pc + 4 × offset (R313). -/
  | ipcrel (d : XReg) (o : BitVec 21)
  /-- LD: scalar load (R317). -/
  | ld (d a : XReg) (wd : LdWidth) (o : BitVec 13)
  /-- ST: scalar store of x[d] (R354). -/
  | st (d a : XReg) (wd : StWidth) (o : BitVec 13)
  /-- AMO: atomic read-modify-write (R293, R294). -/
  | amo (d a b : XReg) (dbl : Bool) (o : MemOrd) (s : Scope) (p : AmoOp)
  /-- ACAS: atomic compare and swap (R294). -/
  | acas (d a b : XReg) (dbl : Bool) (o : MemOrd) (s : Scope)
  /-- LDACQ: load-acquire (R318). -/
  | ldacq (d a : XReg) (dbl : Bool) (s : Scope)
  /-- STREL: store-release (R356). -/
  | strel (a b : XReg) (dbl : Bool) (s : Scope)
  /-- FALL: full fence at a scope (R180). -/
  | fall (s : Scope)
  /-- MWATCH: read and arm the monitor, one act (R184, R334). -/
  | mwatch (d a : XReg)
  /-- JMP: jump (R303). -/
  | jmp (o : BitVec 26)
  /-- CALL: push the return address and jump (R195, R303). -/
  | call (o : BitVec 26)
  /-- JR: jump to register (R303). -/
  | jr (a : XReg)
  /-- CALLR: push and jump to register (R303). -/
  | callr (a : XReg)
  /-- BCC: conditional branch (R299). -/
  | bcc (a b : XReg) (c : Cond) (o : BitVec 13)
  /-- VDISP: dispatch a block (R46). -/
  | vdisp (a : XReg) (n : BitVec 6)
  /-- RQGET: take the oldest reply (R338). -/
  | rqget (d : XReg)
  /-- RQPOLL: count of waiting replies (R338). -/
  | rqpoll (d : XReg)
  /-- VQPOS: read kvq (R384). -/
  | vqpos (d : XReg)
  /-- HSPAWN: create a hart (R22). -/
  | hspawn (d a b : XReg)
  /-- GBAR: arrive and wait (R27). -/
  | gbar (d : XReg)
  /-- GARR: arrive (R27). -/
  | garr (d : XReg)
  /-- GWAIT: wait for a generation (R27). -/
  | gwait (a : XReg)
  /-- TRAP: system call (R357). -/
  | trap (c : BitVec 16)
  /-- KREAD: read a k-register (R315). -/
  | kread (d : XReg) (k : KNum)
  /-- KWRITE: write a k-register (R315). -/
  | kwrite (a : XReg) (k : KNum)
  /-- KSET: set bits of a k-register (R288). -/
  | kset (d a : XReg) (k : KNum)
  /-- KCLR: clear bits of a k-register (R288). -/
  | kclr (d a : XReg) (k : KNum)
  /-- SINVAL: invalidate translations (R194, R348). -/
  | sinval (a b : XReg)
  /-- JUNCTION_LINE_DRAIN: line number `line` of the core's junction buffer drains (R170). -/
  | junctionLineDrain (core line : Nat)
  /-- KCTX_SAVE: kwrite kctx, x[a] (R203, R204). -/
  | kctxSave (a : XReg)
  /-- KCTXR_RESTORE: kwrite kctxr, x[a] (R205). -/
  | kctxrRestore (a : XReg)
  /-- KVQ_DISCARD: kwrite kvq, x[a] (R51). -/
  | kvqDiscard (a : XReg)
  /-- KFRM_WRITE: kwrite kfrm, x[a] (R94). -/
  | kfrmWrite (a : XReg)
  /-- KFLAGS_WRITE: kwrite kflags, x[a] (R101). -/
  | kflagsWrite (a : XReg)
  /-- KLPR_WRITE: kwrite klpr, x[a] (R29). -/
  | klprWrite (a : XReg)
  /-- KGANG_WRITE: kwrite kgang, x[a] (R21). -/
  | kgangWrite (a : XReg)
  /-- KSQB_WRITE: kwrite ksqb, x[a] (R50). -/
  | ksqbWrite (a : XReg)
  /-- KCPFQ_WRITE: kwrite kcpfq, x[a] (R161). -/
  | kcpfqWrite (a : XReg)
  /-- KHEAT_WRITE: kwrite kheat, x[a] (R166). -/
  | kheatWrite (a : XReg)
  /-- KPEN_WRITE: kwrite kpen, x[a] (R221). -/
  | kpenWrite (a : XReg)
  /-- KDEADLINE_WRITE: kwrite kdeadline, x[a] (R201). -/
  | kdeadlineWrite (a : XReg)
  /-- KPREQ_PRE: the current hart sets PRE in kpreq of hart `target` (R200). -/
  | kpreqPre (target : Nat)
  /-- KPREQ_IHI: the current hart sets IHI in kpreq of hart `target` (R200). -/
  | kpreqIhi (target : Nat)
  /-- BREAKPOINT_HIT: kbrk is hit in the C-stream or, with `vs`, in the V-stream (R223). -/
  | breakpointHit (vs : Bool)
  /-- BLI: b[bd] ← sign-extended immediate (R297). -/
  | bli (bd : BReg) (imm : W32)
  /-- BADD: block arithmetic (R297). -/
  | badd (bd ba : BReg) (s : BSrc)
  /-- BSUB: block arithmetic (R297). -/
  | bsub (bd ba : BReg) (s : BSrc)
  /-- BMUL: block arithmetic (R297). -/
  | bmul (bd ba : BReg) (s : BSrc)
  /-- BAND: block arithmetic (R297). -/
  | band (bd ba : BReg) (s : BSrc)
  /-- BOR: block arithmetic (R297). -/
  | bor (bd ba : BReg) (s : BSrc)
  /-- BXOR: block arithmetic (R297). -/
  | bxor (bd ba : BReg) (s : BSrc)
  /-- BSHL: block arithmetic (R297). -/
  | bshl (bd ba : BReg) (s : BSrc)
  /-- BSHR: block arithmetic (R297). -/
  | bshr (bd ba : BReg) (s : BSrc)
  /-- BSET: 1 if the condition holds (R297). -/
  | bset (c : Cond) (bd ba : BReg) (s : BSrc)
  /-- BLOOP: open a hardware loop (R301). -/
  | bloop (n : BitVec 2) (ba : BReg) (off : W32)
  /-- BBR: conditional branch of the block (R298). -/
  | bbr (c : Cond) (ba bb : BReg) (off : W32)
  /-- BJMP: jump of the block (R298). -/
  | bjmp (off : W32)
  /-- VREPLY: reply b[n] (R56, R57). -/
  | vreply (n : BReg)
  /-- VREPLY_ANY: reply whether any active position is true (R56). -/
  | vreplyAny (m : MReg)
  /-- VREPLY_NONE: reply whether none is true (R56). -/
  | vreplyNone (m : MReg)
  /-- VREPLY_POP: reply the count of true active positions (R56). -/
  | vreplyPop (m : MReg)
  /-- BKRD: read a k-register into a block register (R300). -/
  | bkrd (bd : BReg) (k : KNum)
  /-- VMARK: set the context's mark (R380). -/
  | vmark (imm : W32)
  /-- VSETL: open a strip (R68, R69, R393). -/
  | vsetl (bd ba : BReg) (cap : Option BReg) (vt : BitVec 16)
  /-- VTAG: set the tag of a group (R66). -/
  | vtag (vd : VReg) (tag : Tag)
  /-- VRSEED: seed the stochastic states (R95, R389). -/
  | vrseed (s : BSrc)
  /-- VADD: a + b (R361). -/
  | vadd (vd va : VReg) (b : VSrc) (rm : Rm) (sat : Bool) (c : VCtl)
  /-- VSUB: a − b (R379). -/
  | vsub (vd va : VReg) (b : VSrc) (rm : Rm) (sat : Bool) (c : VCtl)
  /-- VMUL: a × b (R379). -/
  | vmul (vd va : VReg) (b : VSrc) (rm : Rm) (sat : Bool) (c : VCtl)
  /-- VMADD: a × b + c, fused (R379). -/
  | vmadd (vd va : VReg) (b : VSrc) (vc : VReg) (rm : Rm) (c : VCtl)
  /-- VMSUB: a × b − c, fused (R379). -/
  | vmsub (vd va : VReg) (b : VSrc) (vc : VReg) (rm : Rm) (c : VCtl)
  /-- VDIV: a / b (R372). -/
  | vdiv (vd va : VReg) (b : VSrc) (rm : Rm) (c : VCtl)
  /-- VMIN: minimum (R99, R381). -/
  | vmin (vd va : VReg) (b : VSrc) (rm : Rm) (p : Bool) (c : VCtl)
  /-- VMAX: maximum (R99, R381). -/
  | vmax (vd va : VReg) (b : VSrc) (rm : Rm) (p : Bool) (c : VCtl)
  /-- VABS: absolute value (R360). -/
  | vabs (vd va : VReg) (rm : Rm) (c : VCtl)
  /-- VNEG: negation (R383). -/
  | vneg (vd va : VReg) (rm : Rm) (c : VCtl)
  /-- VAND: bit patterns combined (R364). -/
  | vand (vd va : VReg) (b : VSrc) (c : VCtl)
  /-- VOR: bit patterns combined (R364). -/
  | vor (vd va : VReg) (b : VSrc) (c : VCtl)
  /-- VXOR: bit patterns combined (R364). -/
  | vxor (vd va : VReg) (b : VSrc) (c : VCtl)
  /-- VSHL: shift left (R390). -/
  | vshl (vd va : VReg) (b : VSrc) (sat : Bool) (c : VCtl)
  /-- VSHR: logical shift right (R390). -/
  | vshr (vd va : VReg) (b : VSrc) (c : VCtl)
  /-- VSAR: arithmetic shift right (R390). -/
  | vsar (vd va : VReg) (b : VSrc) (c : VCtl)
  /-- VCMP: compare into a mask (R369). -/
  | vcmp (cc : VCond) (md : MReg) (va : VReg) (b : VSrc) (c : MCtl)
  /-- VSEL: select by a mask (R392). -/
  | vsel (vd va : VReg) (b : VSrc) (c : VCtl)
  /-- VMOV: copy bits (R382). -/
  | vmov (vd va : VReg) (c : VCtl)
  /-- VBCAST: broadcast a scalar (R365). -/
  | vbcast (vd : VReg) (b : VSrc) (c : VCtl)
  /-- VID: flat element index (R375). -/
  | vid (vd : VReg) (c : VCtl)
  /-- VCVT: convert (R371). -/
  | vcvt (vd va : VReg) (rm : Rm) (c : VCtl)
  /-- VSQRT: square root (R387). -/
  | vsqrt (vd va : VReg) (rm : Rm) (c : VCtl)
  /-- VRSQRT: reciprocal square root (R387). -/
  | vrsqrt (vd va : VReg) (rm : Rm) (c : VCtl)
  /-- VRCP: reciprocal (R387). -/
  | vrcp (vd va : VReg) (rm : Rm) (c : VCtl)
  /-- VEXP2: 2^a (R373). -/
  | vexp2 (vd va : VReg) (rm : Rm) (c : VCtl)
  /-- VLOG2: log2 a (R373). -/
  | vlog2 (vd va : VReg) (rm : Rm) (c : VCtl)
  /-- VTANH: hyperbolic tangent (R387). -/
  | vtanh (vd va : VReg) (rm : Rm) (c : VCtl)
  /-- VCLASS: one-hot class (R368). -/
  | vclass (vd va : VReg) (c : VCtl)
  /-- VSCALE: scale by a power of two (R391). -/
  | vscale (vd va : VReg) (b : VSrc) (rm : Rm) (c : VCtl)
  /-- VRSUM: sum of the active elements (R385). -/
  | vrsum (vd va : VReg) (rm : Rm) (tree : Bool) (c : VCtl)
  /-- VRMAX: maximum (R385). -/
  | vrmax (vd va : VReg) (rm : Rm) (tree : Bool) (c : VCtl)
  /-- VRMIN: minimum (R385). -/
  | vrmin (vd va : VReg) (rm : Rm) (tree : Bool) (c : VCtl)
  /-- VRBIT: count of one bits (R385). -/
  | vrbit (vd va : VReg) (tree : Bool) (c : VCtl)
  /-- VSLIDE: slide (R395). -/
  | vslide (vd va : VReg) (b : VSrc) (c : VCtl)
  /-- VGATH: gather in the register group (R374). -/
  | vgath (vd va vb : VReg) (c : VCtl)
  /-- VCOMP: compress (R370). -/
  | vcomp (vd va : VReg) (c : VCtl)
  /-- VEXPD: expand (R370). -/
  | vexpd (vd va : VReg) (c : VCtl)
  /-- VBSL: bit string shifted left (R366). -/
  | vbsl (vd va : VReg) (b : VSrc) (t : Tail)
  /-- VBSR: bit string shifted right (R366). -/
  | vbsr (vd va : VReg) (b : VSrc) (t : Tail)
  /-- VFUNL: funnel shift left (R366). -/
  | vfunl (vd va vb : VReg) (n : BitVec 16) (t : Tail)
  /-- VFUNR: funnel shift right (R366). -/
  | vfunr (vd va vb : VReg) (n : BitVec 16) (t : Tail)
  /-- VBEXT: extract a field (R366). -/
  | vbext (vd va : VReg) (bn : BReg) (t : Tail)
  /-- VBINS: insert a field (R366). -/
  | vbins (vd va : VReg) (bn : BReg) (t : Tail)
  /-- MLOG: combine masks (R329). -/
  | mlog (op : MlogOp) (md ma mb : MReg)
  /-- MPOP: count true positions (R327). -/
  | mpop (bd : BReg) (ma : MReg)
  /-- MFIRST: first true position (R327). -/
  | mfirst (bd : BReg) (ma : MReg)
  /-- MBEF: positions before the first true one (R321). -/
  | mbef (md ma : MReg)
  /-- MINC: positions up to and including it (R321). -/
  | minc (md ma : MReg)
  /-- MONLY: that position alone (R321). -/
  | monly (md ma : MReg)
  /-- MTEST: any or none (R327). -/
  | mtest (none : Bool) (bd : BReg) (ma : MReg)
  /-- VLD: unit-stride load (R376, R377). -/
  | vld (vd : VReg) (base : BReg) (off : BitVec 16) (t : Tag) (o : Option Scope) (c : VCtl)
  /-- VLDS: strided load (R376). -/
  | vlds (vd : VReg) (base : BReg) (off : BitVec 16) (bs : BReg) (t : Tag) (o : Option Scope) (c : VCtl)
  /-- VLDX: indexed load (R376). -/
  | vldx (vd : VReg) (base : BReg) (off : BitVec 16) (vi : VReg) (t : Tag) (o : Option Scope) (c : VCtl)
  /-- VLDFF: first-fault load (R75, R378). -/
  | vldff (vd : VReg) (base : BReg) (off : BitVec 16) (t : Tag) (o : Option Scope) (c : VCtl)
  /-- VST: unit-stride store (R396, R397). -/
  | vst (vd : VReg) (base : BReg) (off : BitVec 16) (t : Tag) (o : Option Scope) (c : MCtl)
  /-- VSTS: strided store (R396). -/
  | vsts (vd : VReg) (base : BReg) (off : BitVec 16) (bs : BReg) (t : Tag) (o : Option Scope) (c : MCtl)
  /-- VSTX: indexed store (R396). -/
  | vstx (vd : VReg) (base : BReg) (off : BitVec 16) (vi : VReg) (t : Tag) (o : Option Scope) (c : MCtl)
  /-- VTLD: lane-local table load (R76, R399). -/
  | vtld (vd vi : VReg) (t : Tag) (c : VCtl)
  /-- VTST: lane-local table store (R76, R399). -/
  | vtst (vs vi : VReg) (t : Tag) (c : MCtl)
  /-- VAMO: atomic per element (R362). -/
  | vamo (op : VAmoOp) (vd : VReg) (base : BReg) (off : BitVec 16) (vi : VReg) (t : Tag) (o : VmOrd) (c : VCtl)
  /-- MMODE_ENTER: take the matrix array (R104, R330). -/
  | mmodeEnter (shadow : Bool)
  /-- MSETTILE: tile grant (R107, R332). -/
  | msettile (bd bs : BReg) (va vb : VReg)
  /-- MZERO: zero a tile (R336). -/
  | mzero (z : ZReg) (tag : Tag)
  /-- MLDZ: load a tile region (R328). -/
  | mldz (z : ZReg) (b1 b2 : BReg) (tag : Tag)
  /-- MSTZ: store a tile region (R328). -/
  | mstz (z : ZReg) (b1 b2 : BReg)
  /-- MOP: accumulate a tile product (R109, R331). -/
  | mop (z : ZReg) (va vb : VReg) (sc : Option (VReg × VReg))
  /-- MDRAIN: tile rows to registers (R118, R325). -/
  | mdrain (vd : VReg) (z : ZReg) (bn : BReg) (tag : Tag) (rm : Rm)
  /-- MFILL: registers to tile rows (R120, R326). -/
  | mfill (z : ZReg) (va : VReg) (bn : BReg)
  /-- MTAG: retag a tile (R333). -/
  | mtag (z : ZReg) (tag : Tag)
  /-- MCHK: read a check counter (R322). -/
  | mchk (sel : ChkSel) (clr : Bool) (bd : BReg) (z : ZReg)
  /-- CPY: issue a copy (R157). -/
  | cpy (bd bs bl : BReg) (code : BitVec 3) (cb : BitVec 2) (s : Scope) (mk : Option MReg)
  /-- CPYW: wait for a barrier (R162). -/
  | cpyw (cb : BitVec 2) (bst : BReg)
  /-- CPYR: replay held sectors (R162). -/
  | cpyr (cb : BitVec 2)
  /-- CPYQ: read a barrier (R156). -/
  | cpyq (cb : BitVec 2) (bst : BReg)
  /-- COPY_CHUNK_COMPLETE: a chunk of a copy of the current hart completes (R158). -/
  | copyChunkComplete (copy chunk : Nat)
  /-- COPY_SECTOR_FAULT: a chunk of a copy of the current hart faults (R160). -/
  | copySectorFault (copy chunk : Nat)
  /-- SORD: sort (R351). -/
  | sord (sd sa : SReg) (o : BitVec 2)
  /-- SPRM: load the prime table (R132, R352). -/
  | sprm (ba : BReg) (n : BitVec 4)
  /-- SNEW: initialise a descriptor (R349). -/
  | snew (sd : SReg) (ba bb : BReg) (ctl : BitVec 8)
  /-- SLD: load a descriptor (R349). -/
  | sld (sd : SReg) (ba : BReg)
  /-- SST: store a descriptor (R349). -/
  | sst (sa : SReg) (ba : BReg)
  /-- STERM: append a term (R355). -/
  | sterm (sd : SReg) (ba bb bc : BReg)
  /-- SADD: sum (R343). -/
  | sadd (sd sa sb : SReg)
  /-- SSUB: difference (R343). -/
  | ssub (sd sa sb : SReg)
  /-- SMUL: product (R350). -/
  | smul (sd sa sb : SReg)
  /-- SMULM: product with one term (R350). -/
  | smulm (sd sa : SReg) (ba bb : BReg)
  /-- SDIV: division (R140, R345). -/
  | sdiv (sd sa sb q : SReg) (n : BitVec 4)
  /-- SLT: leading term (R346). -/
  | slt (sd sa : SReg) (ba : BReg)
  /-- SDROP: all but the leading term (R346). -/
  | sdrop (sd sa : SReg)
  /-- SRAT: reconstruct rationals (R144, R353). -/
  | srat (sa : SReg) (ba : BReg)
  /-- SEXP: expand into a vector (R145, R344). -/
  | sexp (vd : VReg) (sa : SReg) (ba : BReg)
  /-- SCMP: compress a vector (R145, R344). -/
  | scmp (sd : SReg) (vd : VReg) (ba : BReg)
  /-- SSTAT: read a descriptor field (R349). -/
  | sstat (ba : BReg) (sa : SReg) (sel : BitVec 3)
  /-- SGROW: move a stream (R142, R347). -/
  | sgrow (sd : SReg) (ba bb : BReg)
  /-- HEAT_RECORD_APPEND: an L2 TLB entry is evicted, or its counts reached the threshold (R165). -/
  | heatRecordAppend (tower entry : Nat) (threshold : Bool)
  /-- GANG_REQUEST: firmware call: gang of slabs led by a core (R13, R14). -/
  | gangRequest (leader : Nat)
  /-- UNGANG_REQUEST: firmware call: dissolve it (R14). -/
  | ungangRequest (leader : Nat)
  /-- RETIREMENT: firmware retires a unit (R213). -/
  | retirement (u : RUnit)
  /-- HBM_ROW_SPARE: the row that holds an address is copied to a spare; `limit` is a threshold of firmware's in place of
  the default one (R216). -/
  | hbmRowSpare (addr : BitVec 44) (limit : Option Nat)
  /-- RENCON_TRANSACTION: a memory transaction of the current hart crosses Rencon (R217). -/
  | renconTransaction (write : Bool) (pa : BitVec 56) (data : Word)
  /-- RENCON_RETRANSMIT: a transaction is sent again, or ends unreachable (R217, R219). -/
  | renconRetransmit (id : Nat)
  /-- SPARE_LANE_SWITCH: a spare lane serves a port (R218). -/
  | spareLaneSwitch (port : Nat)
  /-- HOST_LINK_TRAIN: the host link trains (R238). -/
  | hostLinkTrain (cxl : Bool) (width rate : BitVec 3)
  /-- HOST_CXL_MEM_REQUEST: a host request to the part's HBM (R236). -/
  | hostCxlMemRequest (write : Bool) (addr : BitVec 44) (data : Word)
  /-- HOST_STATUS_READ: a host read of BAR 0 (R229). -/
  | hostStatusRead (off : Nat)
  /-- ENGINE_WINDOW_WRITE: a write of an engine window register by the current hart (R234). -/
  | engineWindowWrite (off : Nat) (v : Word)
  /-- POWER_GOOD: bring-up phase 0 (R227). -/
  | powerGood (ok : Bool)
  /-- BRINGUP_PHASE1: bring-up phase 1, `code` a failure of Table 12-3 or 0 (R227). -/
  | bringupPhase1 (code : Byte) (strap : BitVec 12) (links : LinkTraining)
  /-- BRINGUP_PHASE2: bring-up phase 2 with the hoist map applied (R227). -/
  | bringupPhase2 (hoist : List W32)
  /-- BRINGUP_PHASE3: firmware verification; what the Alias certificate holds beside the key, and the nonce of its
  signature, are no rule's (R230, R231). -/
  | bringupPhase3 (serial validity nonce : List Byte)
  /-- RATIO_CHANGE: clock ratio change (R239). -/
  | ratioChange (ratio : BitVec 4) (thr : Bool)
  /-- PLDM_FIRMWARE_UPDATE: PLDM type 5: new image to flash (R230). -/
  | pldmFirmwareUpdate (img : Firmware)
  /-- BECALM_HOLD: the management interface holds a core (R224). -/
  | becalmHold (core : Nat)
  /-- DEBUGGER_ATTACH: a debugger attaches (R224). -/
  | debuggerAttach (core : Nat)
  /-- DEBUGGER_RELEASE: the debugger releases the core (R224). -/
  | debuggerRelease (core : Nat)
  /-- DUMP_LIMIT_EXPIRY: LIMIT passes: the core is dumped (R224, R225). -/
  | dumpLimitExpiry (core : Nat)
  /-- ILLEGAL_INSTRUCTION: a C-stream word that raises illegal instruction (R276, R278). -/
  | illegalInstruction (w : W32)
  /-- C_STREAM_FETCH_FAULT: a C-stream fetch that fails (R189, R207). -/
  | cStreamFetchFault (f : FetchFault)
  /-- BLOCK_WORD_FETCH_FAULT: a block word that cannot be fetched (R55). -/
  | blockWordFetchFault (f : FetchFault)
  /-- KATP_WRITE: kwrite katp, x[a] (R188). -/
  | katpWrite (a : XReg)
  /-- KTERM_WRITE: kwrite kterm, x[a] (R117). -/
  | ktermWrite (a : XReg)
  /-- KMINIMG_WRITE: kwrite kminimg, x[a] (R134). -/
  | kminimgWrite (a : XReg)
  /-- KDUMP_WRITE: kwrite kdump, x[a] (R225). -/
  | kdumpWrite (a : XReg)
  /-- KRASB_WRITE: kwrite krasb, x[a] (R196). -/
  | krasbWrite (a : XReg)
  /-- ECC_ERROR: an error in stored data (R206). -/
  | eccError (loc : EccLoc) (uncorrectable : Bool)
  /-- RENCON_ACKNOWLEDGEMENT: the destination acknowledges a transaction (R217). -/
  | renconAcknowledgement (id : Nat)
  /-- FABRIC_PEER_ACCESS: a peer's transaction arrives (R151). -/
  | fabricPeerAccess (write : Bool) (addr : BitVec 44) (data : Word)
  /-- HOST_BAR_WRITE: a host write of a BAR (R229). -/
  | hostBarWrite (off : Nat) (v : Word)
  /-- RENCON_PORT_REJOIN: a port rejoins the tables (R218). -/
  | renconPortRejoin (port : Nat)
  /-- FSV: scalar accesses before later blocks (R180). -/
  | fsv
  /-- FVS: earlier blocks before later scalar accesses (R180). -/
  | fvs
  /-- FVV: earlier blocks before later blocks (R180). -/
  | fvv
  /-- FENCE_STALL_END: the stalled fence of the current hart completes (R180, R181). -/
  | fenceStallEnd
  /-- MWAIT: wait on the monitor (R335). -/
  | mwait
  /-- MWAIT_WAKE: a write to the watched line ends the mwait of the current hart (R184). -/
  | mwaitWake
  /-- RET: pop the return-address store (R195, R337). -/
  | ret
  /-- VDISP_STALL_END: the stalled vdisp of the current hart enqueues (R46). -/
  | vdispStallEnd
  /-- SQUALL_REFILL: one command comes back from the squall ring of the current hart (R48). -/
  | squallRefill
  /-- RQGET_WAKE: a reply ends the sleep of the current hart's rqget (R59). -/
  | rqgetWake
  /-- VSYNC: sleep until HEAD = NEXT (R384). -/
  | vsync
  /-- VSYNC_WAKE: the sleeping vsync completes (R59). -/
  | vsyncWake
  /-- HEXIT: stop the hart once its blocks have ended (R24). -/
  | hexit
  /-- HEXIT_COMPLETE: the exit of the current hart completes (R24). -/
  | hexitComplete
  /-- HYIELD: give up issue turns (R25). -/
  | hyield
  /-- HYIELD_END: the yielding thread resumes (R25). -/
  | hyieldEnd
  /-- GWAIT_WAKE: the generation changed: the sleeping gwait or gbar ends (R27). -/
  | gwaitWake
  /-- TRET: return from a trap (R358). -/
  | tret
  /-- WFI: wait for an event (R400). -/
  | wfi
  /-- BRK: breakpoint (R302). -/
  | brk
  /-- STORE_STALL_END: the store stalled on a full junction buffer is accepted (R148). -/
  | storeStallEnd
  /-- KVFAULT_RESUME: the kwrite of 0 to kvfault (R60, R199). -/
  | kvfaultResume
  /-- KRAS_FLUSH: the kwrite of FLUSH with the current SPILL to kras (R196). -/
  | krasFlush
  /-- DEADLINE_EXPIRY: time passes until kcycle of the current hart's core reaches WHEN (R201). -/
  | deadlineExpiry
  /-- ASYNC_EVENT_TAKEN: the first pending asynchronous event of the current hart is taken (R202). -/
  | asyncEventTaken
  /-- VECTOR_FAULT_DELIVERY: the vector fault of the current hart is delivered (R199). -/
  | vectorFaultDelivery
  /-- MACHINE_CHECK_TAKEN: the pending machine check is taken whatever IE is (R202). -/
  | machineCheckTaken
  /-- BLOCK_START: the next queued block of the current hart's context starts (R52). -/
  | blockStart
  /-- CLUSTER_STALL_RELEASE: stalled contexts of the current hart's core take free clusters (R31). -/
  | clusterStallRelease
  /-- VEND: end of the block (R53). -/
  | vend
  /-- VBRK: breakpoint vector fault (R367). -/
  | vbrk
  /-- FVV_V: V-stream fence (R179, R180). -/
  | fvvV
  /-- MMODE_LEAVE: release the matrix array (R330). -/
  | mmodeLeave
  /-- MATRIX_ARRAY_GRANT: the first waiting context of the current hart's core takes the array (R104). -/
  | matrixArrayGrant
  /-- CPY_STALL_END: the stalled cpy of the current hart's context issues (R157). -/
  | cpyStallEnd
  /-- CPYW_WAKE: the waiting cpyw returns (R162). -/
  | cpywWake
  /-- SPRM_DRAIN_END: the drain of a stalled sprm ends (R132). -/
  | sprmDrainEnd
  /-- STREAM_UNIT_GRANT: the first waiting context of the current hart's core takes the stream unit (R131). -/
  | streamUnitGrant
  /-- HOIST_MAP_READ: firmware call: the hoist map (R12). -/
  | hoistMapRead
  /-- GANG_CHANGE_EFFECT: the oldest pending gang change takes effect (R14). -/
  | gangChangeEffect
  /-- RETIREMENT_EFFECT: the oldest pending retirement takes effect (R213, R214). -/
  | retirementEffect
  /-- HOST_LINK_DOWN: the host link goes down (R238). -/
  | hostLinkDown
  /-- BRINGUP_PHASE4: firmware loaded, hart 0 started (R228). -/
  | bringupPhase4
  /-- MANAGEMENT_RESET: management reset (R229). -/
  | managementReset
  /-- THERMAL_CUTOFF: power cut at 115 degrees (R239). -/
  | thermalCutoff
  /-- PLDM_GET_STATUS: PLDM GetStatus (R229). -/
  | pldmGetStatus
  /-- PLDM_MONITORING: PLDM type 2 (R233). -/
  | pldmMonitoring
  /-- GET_VERSION: SPDM request (R232). -/
  | getVersion
  /-- GET_CAPABILITIES: SPDM request (R232). -/
  | getCapabilities
  /-- NEGOTIATE_ALGORITHMS: SPDM request (R232). -/
  | negotiateAlgorithms
  /-- GET_DIGESTS: SPDM request (R232). -/
  | getDigests
  /-- GET_CERTIFICATE: SPDM request (R232). -/
  | getCertificate
  /-- CHALLENGE: SPDM request (R232). -/
  | challenge
  /-- GET_MEASUREMENTS: SPDM request (R232). -/
  | getMeasurements
  /-- ILLEGAL_WORD: a block word that raises the illegal-word vector fault (R281). -/
  | illegalWord
  /-- POWER_LOSS: power is removed (R229). -/
  | powerLoss
  /-- COOLED_RESTART: the cooled part restarts from phase 0 (R239). -/
  | cooledRestart
  deriving DecidableEq, Repr, Inhabited

end Sys2Proof
end

