-- ==== Sys2Proof/WellFormed.lean ====
section
/-! DEFINITION. Which instruction terms stand for words that the spec's encodings hold: the conditions on
operands that a bit pattern cannot break or that R278, R285 reject statically. -/

namespace Sys2Proof

/-- A mask control is well formed: the chunk acquire names a mask (R280). -/
def MCtl.wf (c : MCtl) : Bool := !c.aq || c.mask.isSome

/-- A control is well formed: the chunk acquire names a mask (R280). -/
def VCtl.wf (c : VCtl) : Bool := !c.aq || c.mask.isSome

/-- The control of a row whose mask is required (R282). -/
def VCtl.wfMasked (c : VCtl) : Bool := c.mask.isSome

/-- Kinds 01 and 10 only (R282). -/
def VSrc.scalar : VSrc → Bool
  | .vec _ => false
  | .breg _ => true
  | .imm _ => true

/-- Kind 01, 00, or an immediate with [15:8] = 0 (R391). -/
def VSrc.wfScale : VSrc → Bool
  | .imm i => decide (i.toNat < 256)
  | .vec _ => true
  | .breg _ => true

/-- A block shift amount: imm32[31:6] = 0 (R284). -/
def BSrc.wfShift : BSrc → Bool
  | .imm i => decide (i.toNat < 64)
  | .reg _ => true

/-- A B base of a tile product: a multiple of 8 (R331, R332). -/
def tileBaseOk (v : VReg) : Bool := v.toNat % 8 == 0

/-- The term is one that a word of a stream encodes (words), or an event with any data. -/
def Instr.wf : Instr → Bool
  | .bshl _ _ s | .bshr _ _ s => s.wfShift
  | .bloop _ _ off => decide (0 < off.toInt)
  | .vsetl _ _ _ vt => decide (vt.toNat / 0x8000 = 0) && decide (vt.toNat / 256 % 16 < 4)
  | .vadd _ _ _ _ _ c | .vsub _ _ _ _ _ c | .vmul _ _ _ _ _ c | .vmadd _ _ _ _ _ c | .vmsub _ _ _ _ _ c
  | .vdiv _ _ _ _ c | .vmin _ _ _ _ _ c | .vmax _ _ _ _ _ c | .vabs _ _ _ c | .vneg _ _ _ c
  | .vand _ _ _ c | .vor _ _ _ c | .vxor _ _ _ c | .vshl _ _ _ _ c | .vshr _ _ _ c | .vsar _ _ _ c
  | .vmov _ _ c | .vid _ c | .vcvt _ _ _ c | .vsqrt _ _ _ c | .vrsqrt _ _ _ c | .vrcp _ _ _ c
  | .vexp2 _ _ _ c | .vlog2 _ _ _ c | .vtanh _ _ _ c | .vclass _ _ c
  | .vrsum _ _ _ _ c | .vrmax _ _ _ _ c | .vrmin _ _ _ _ c | .vrbit _ _ _ c | .vgath _ _ _ c
  | .vld _ _ _ _ _ c | .vlds _ _ _ _ _ _ c | .vldx _ _ _ _ _ _ c | .vldff _ _ _ _ _ c
  | .vtld _ _ _ c | .vamo _ _ _ _ _ _ _ c => c.wf
  | .vscale _ _ b _ c => b.wfScale && c.wf
  | .vbcast _ b c | .vslide _ _ b c => b.scalar && c.wf
  | .vbsl _ _ b _ | .vbsr _ _ b _ => b.scalar
  | .vsel _ _ _ c | .vcomp _ _ c | .vexpd _ _ c => c.wfMasked
  | .vcmp _ _ _ _ c | .vst _ _ _ _ _ c | .vsts _ _ _ _ _ _ c | .vstx _ _ _ _ _ _ c | .vtst _ _ _ c => c.wf
  | .mlog op _ _ mb => op != .not || mb == 0
  | .msettile _ _ _ vb => tileBaseOk vb
  | .mop _ _ vb _ => tileBaseOk vb
  | .sprm _ n => decide (n.toNat ≤ 8)
  | .snew _ _ _ ctl => decide (ctl.toNat % 4 ≠ 3) && decide (ctl.toNat / 16 ≤ 8)
  | .sdiv _ _ sb q n => decide (1 ≤ n.toNat) && decide (n.toNat ≤ 8)
      && decide (sb.toNat + n.toNat ≤ 16) && decide (q.toNat + n.toNat ≤ 16)
  | .sstat _ _ sel => sel != 7
  | _ => true

end Sys2Proof
end

