-- ==== Sys2Proof/Decode.lean ====
section
/-! DEFINITION. The decoder of both instruction streams, total on any word and rejecting by name, and the
encoder, both from the format tables of R274-R285, R20, R46, R56, R58, R66, R68, R121, R137, R155, R179. -/

namespace Sys2Proof

/-- Why a word is rejected: step 1 or 2 of R278 for the C-stream, step 1 of R285 for the V-stream. -/
inductive DecodeError where
  /-- The opcode is not assigned (R276, R281). -/
  | unassignedOpcode
  /-- The fn, function code or operation code is not listed for the opcode (R277, R282). -/
  | unlistedFunction
  /-- A field that is reserved in this row is not 0 (R5, R277, R282-R284). -/
  | reservedField
  /-- A field holds a reserved code: a condition, a rounding mode, a width, a scope, an order, a tail
  override, a block size, a layout (R274, R279). -/
  | reservedCode
  /-- The kind of source b is not one that the row allows (R282). -/
  | kindNotAllowed
  /-- E = 0 with mr ≠ 0, aq = 1 with E = 0, or a required mask is missing (R280, R282). -/
  | maskField
  /-- An operand lies outside the range its entry gives it (R137, R301, R331). -/
  | operandRange
  deriving DecidableEq, Repr, Inhabited

/-! ### Field layouts -/

/-- CR fields (R274). -/
structure CrWord where
  op : BitVec 6
  xd : BitVec 5
  xa : BitVec 5
  xb : BitVec 5
  mod : BitVec 3
  fn : BitVec 8
  deriving DecidableEq, Repr

/-- CI and CS fields (R274). -/
structure CiWord where
  op : BitVec 6
  xd : BitVec 5
  xa : BitVec 5
  imm : BitVec 16
  deriving DecidableEq, Repr

/-- CB and CM fields (R274). -/
structure CbWord where
  op : BitVec 6
  xa : BitVec 5
  xb : BitVec 5
  cc : BitVec 3
  off : BitVec 13
  deriving DecidableEq, Repr

/-- CJ fields (R274), also the 26 operand bits of tret, mwait, wfi and brk. -/
structure CjWord where
  op : BitVec 6
  off : BitVec 26
  deriving DecidableEq, Repr

/-- ipcrel fields (R275). -/
structure CpWord where
  op : BitVec 6
  xd : BitVec 5
  off : BitVec 21
  deriving DecidableEq, Repr

/-- vdisp fields (R46). -/
structure CdWord where
  op : BitVec 6
  xa : BitVec 5
  res : BitVec 5
  nrep : BitVec 6
  res2 : BitVec 10
  deriving DecidableEq, Repr

/-- VB fields (R279). -/
structure VbWord where
  op : BitVec 8
  bd : BitVec 4
  ba : BitVec 4
  bb : BitVec 4
  cc : BitVec 3
  i : BitVec 1
  fn : BitVec 8
  imm : BitVec 32
  deriving DecidableEq, Repr

/-- VV fields (R279). -/
structure VvWord where
  op : BitVec 8
  vd : BitVec 5
  va : BitVec 5
  vb : BitVec 5
  vc : BitVec 5
  e : BitVec 1
  mr : BitVec 3
  rm : BitVec 3
  kb : BitVec 2
  tl : BitVec 2
  aq : BitVec 1
  fn : BitVec 8
  imm : BitVec 16
  deriving DecidableEq, Repr

/-- VM fields (R279). -/
structure VmWord where
  op : BitVec 8
  data : BitVec 5
  base : BitVec 4
  stride : BitVec 4
  index : BitVec 5
  res : BitVec 2
  e : BitVec 1
  mr : BitVec 3
  tag : BitVec 6
  tl : BitVec 2
  aq : BitVec 1
  ord : BitVec 2
  sc : BitVec 2
  fn : BitVec 3
  off : BitVec 16
  deriving DecidableEq, Repr

/-- VT fields (R121). -/
structure VtWord where
  op : BitVec 8
  tile : BitVec 5
  v1 : BitVec 5
  v2 : BitVec 5
  v3 : BitVec 5
  v4 : BitVec 5
  s : BitVec 1
  b1 : BitVec 4
  b2 : BitVec 4
  tag : BitVec 6
  rm : BitVec 3
  res : BitVec 13
  deriving DecidableEq, Repr

/-- VC fields (R155). -/
structure VcWord where
  op : BitVec 8
  bd : BitVec 4
  bs : BitVec 4
  bl : BitVec 4
  mkr : BitVec 3
  e : BitVec 1
  res : BitVec 4
  code : BitVec 4
  cb : BitVec 4
  bst : BitVec 4
  flags : BitVec 24
  deriving DecidableEq, Repr

/-- VS fields (R137). -/
structure VsWord where
  op : BitVec 8
  sd : BitVec 4
  sa : BitVec 4
  sb : BitVec 4
  q : BitVec 4
  ba : BitVec 4
  bb : BitVec 4
  bc : BitVec 4
  vd : BitVec 5
  fn : BitVec 7
  imm : BitVec 16
  deriving DecidableEq, Repr

/-- Reads the fields of a CR word, the first field in its top bits. -/
def CrWord.of (w : W32) : CrWord :=
  ⟨ w.extractLsb' 26 6, w.extractLsb' 21 5, w.extractLsb' 16 5, w.extractLsb' 11 5, w.extractLsb' 8 3, w.extractLsb' 0 8 ⟩

/-- The word with these fields. -/
def CrWord.word (f : CrWord) : W32 :=
  f.op ++ f.xd ++ f.xa ++ f.xb ++ f.mod ++ f.fn

/-- Reads the fields of a CI word, the first field in its top bits. -/
def CiWord.of (w : W32) : CiWord :=
  ⟨ w.extractLsb' 26 6, w.extractLsb' 21 5, w.extractLsb' 16 5, w.extractLsb' 0 16 ⟩

/-- The word with these fields. -/
def CiWord.word (f : CiWord) : W32 :=
  f.op ++ f.xd ++ f.xa ++ f.imm

/-- Reads the fields of a CB word, the first field in its top bits. -/
def CbWord.of (w : W32) : CbWord :=
  ⟨ w.extractLsb' 26 6, w.extractLsb' 21 5, w.extractLsb' 16 5, w.extractLsb' 13 3, w.extractLsb' 0 13 ⟩

/-- The word with these fields. -/
def CbWord.word (f : CbWord) : W32 :=
  f.op ++ f.xa ++ f.xb ++ f.cc ++ f.off

/-- Reads the fields of a CJ word, the first field in its top bits. -/
def CjWord.of (w : W32) : CjWord :=
  ⟨ w.extractLsb' 26 6, w.extractLsb' 0 26 ⟩

/-- The word with these fields. -/
def CjWord.word (f : CjWord) : W32 :=
  f.op ++ f.off

/-- Reads the fields of a CP word, the first field in its top bits. -/
def CpWord.of (w : W32) : CpWord :=
  ⟨ w.extractLsb' 26 6, w.extractLsb' 21 5, w.extractLsb' 0 21 ⟩

/-- The word with these fields. -/
def CpWord.word (f : CpWord) : W32 :=
  f.op ++ f.xd ++ f.off

/-- Reads the fields of a CD word, the first field in its top bits. -/
def CdWord.of (w : W32) : CdWord :=
  ⟨ w.extractLsb' 26 6, w.extractLsb' 21 5, w.extractLsb' 16 5, w.extractLsb' 10 6, w.extractLsb' 0 10 ⟩

/-- The word with these fields. -/
def CdWord.word (f : CdWord) : W32 :=
  f.op ++ f.xa ++ f.res ++ f.nrep ++ f.res2

/-- Reads the fields of a VB word, the first field in its top bits. -/
def VbWord.of (w : Word) : VbWord :=
  ⟨ w.extractLsb' 56 8, w.extractLsb' 52 4, w.extractLsb' 48 4, w.extractLsb' 44 4, w.extractLsb' 41 3, w.extractLsb' 40 1, w.extractLsb' 32 8, w.extractLsb' 0 32 ⟩

/-- The word with these fields. -/
def VbWord.word (f : VbWord) : Word :=
  f.op ++ f.bd ++ f.ba ++ f.bb ++ f.cc ++ f.i ++ f.fn ++ f.imm

/-- Reads the fields of a VV word, the first field in its top bits. -/
def VvWord.of (w : Word) : VvWord :=
  ⟨ w.extractLsb' 56 8, w.extractLsb' 51 5, w.extractLsb' 46 5, w.extractLsb' 41 5, w.extractLsb' 36 5, w.extractLsb' 35 1, w.extractLsb' 32 3, w.extractLsb' 29 3, w.extractLsb' 27 2, w.extractLsb' 25 2, w.extractLsb' 24 1, w.extractLsb' 16 8, w.extractLsb' 0 16 ⟩

/-- The word with these fields. -/
def VvWord.word (f : VvWord) : Word :=
  f.op ++ f.vd ++ f.va ++ f.vb ++ f.vc ++ f.e ++ f.mr ++ f.rm ++ f.kb ++ f.tl ++ f.aq ++ f.fn ++ f.imm

/-- Reads the fields of a VM word, the first field in its top bits. -/
def VmWord.of (w : Word) : VmWord :=
  ⟨ w.extractLsb' 56 8, w.extractLsb' 51 5, w.extractLsb' 47 4, w.extractLsb' 43 4, w.extractLsb' 38 5, w.extractLsb' 36 2, w.extractLsb' 35 1, w.extractLsb' 32 3, w.extractLsb' 26 6, w.extractLsb' 24 2, w.extractLsb' 23 1, w.extractLsb' 21 2, w.extractLsb' 19 2, w.extractLsb' 16 3, w.extractLsb' 0 16 ⟩

/-- The word with these fields. -/
def VmWord.word (f : VmWord) : Word :=
  f.op ++ f.data ++ f.base ++ f.stride ++ f.index ++ f.res ++ f.e ++ f.mr ++ f.tag ++ f.tl ++ f.aq ++ f.ord ++ f.sc ++ f.fn ++ f.off

/-- Reads the fields of a VT word, the first field in its top bits. -/
def VtWord.of (w : Word) : VtWord :=
  ⟨ w.extractLsb' 56 8, w.extractLsb' 51 5, w.extractLsb' 46 5, w.extractLsb' 41 5, w.extractLsb' 36 5, w.extractLsb' 31 5, w.extractLsb' 30 1, w.extractLsb' 26 4, w.extractLsb' 22 4, w.extractLsb' 16 6, w.extractLsb' 13 3, w.extractLsb' 0 13 ⟩

/-- The word with these fields. -/
def VtWord.word (f : VtWord) : Word :=
  f.op ++ f.tile ++ f.v1 ++ f.v2 ++ f.v3 ++ f.v4 ++ f.s ++ f.b1 ++ f.b2 ++ f.tag ++ f.rm ++ f.res

/-- Reads the fields of a VC word, the first field in its top bits. -/
def VcWord.of (w : Word) : VcWord :=
  ⟨ w.extractLsb' 56 8, w.extractLsb' 52 4, w.extractLsb' 48 4, w.extractLsb' 44 4, w.extractLsb' 41 3, w.extractLsb' 40 1, w.extractLsb' 36 4, w.extractLsb' 32 4, w.extractLsb' 28 4, w.extractLsb' 24 4, w.extractLsb' 0 24 ⟩

/-- The word with these fields. -/
def VcWord.word (f : VcWord) : Word :=
  f.op ++ f.bd ++ f.bs ++ f.bl ++ f.mkr ++ f.e ++ f.res ++ f.code ++ f.cb ++ f.bst ++ f.flags

/-- Reads the fields of a VS word, the first field in its top bits. -/
def VsWord.of (w : Word) : VsWord :=
  ⟨ w.extractLsb' 56 8, w.extractLsb' 52 4, w.extractLsb' 48 4, w.extractLsb' 44 4, w.extractLsb' 40 4, w.extractLsb' 36 4, w.extractLsb' 32 4, w.extractLsb' 28 4, w.extractLsb' 23 5, w.extractLsb' 16 7, w.extractLsb' 0 16 ⟩

/-- The word with these fields. -/
def VsWord.word (f : VsWord) : Word :=
  f.op ++ f.sd ++ f.sa ++ f.sb ++ f.q ++ f.ba ++ f.bb ++ f.bc ++ f.vd ++ f.fn ++ f.imm

/-! ### Codes -/

/-- Requires a condition of a row, or rejects by name. -/
def need (ok : Bool) (e : DecodeError) : Except DecodeError Unit := if ok then .ok () else .error e

/-- Conditions of CB, CR (iset) and VB fields (R274, R279). -/
def decCond (c : BitVec 3) : Except DecodeError Cond :=
  match c with
  | 0b000#3 => .ok .eq
  | 0b001#3 => .ok .ne
  | 0b010#3 => .ok .lt
  | 0b011#3 => .ok .ge
  | 0b100#3 => .ok .ltu
  | 0b101#3 => .ok .geu
  | _ => .error .reservedCode

/-- The code of a condition. -/
def Cond.code : Cond → BitVec 3
  | .eq => 0b000 | .ne => 0b001 | .lt => 0b010 | .ge => 0b011 | .ltu => 0b100 | .geu => 0b101

/-- Conditions of vcmp (R279). -/
def decVCond (c : BitVec 3) : Except DecodeError VCond :=
  match c with
  | 0b000#3 => .ok .eq
  | 0b001#3 => .ok .ne
  | 0b010#3 => .ok .lt
  | 0b011#3 => .ok .le
  | 0b100#3 => .ok .gt
  | 0b101#3 => .ok .ge
  | 0b110#3 => .ok .un
  | _ => .error .reservedCode

/-- The code of a vcmp condition. -/
def VCond.code : VCond → BitVec 3
  | .eq => 0b000 | .ne => 0b001 | .lt => 0b010 | .le => 0b011 | .gt => 0b100 | .ge => 0b101 | .un => 0b110

/-- Rounding modes (Table 5-6). -/
def decRm (c : BitVec 3) : Except DecodeError Rm :=
  match c with
  | 0b000#3 => .ok .rne
  | 0b001#3 => .ok .rtz
  | 0b010#3 => .ok .rup
  | 0b011#3 => .ok .rdn
  | 0b100#3 => .ok .rmm
  | 0b101#3 => .ok .rsto
  | 0b110#3 => .ok .dyn
  | _ => .error .reservedCode

/-- The code of a rounding mode. -/
def Rm.code : Rm → BitVec 3
  | .rne => 0b000 | .rtz => 0b001 | .rup => 0b010 | .rdn => 0b011 | .rmm => 0b100 | .rsto => 0b101
  | .dyn => 0b110

/-- Tail overrides (R72, R279). -/
def decTail (c : BitVec 2) : Except DecodeError Tail :=
  match c with
  | 0b00#2 => .ok .vtype
  | 0b01#2 => .ok .tu
  | 0b10#2 => .ok .ta
  | _ => .error .reservedCode

/-- The code of a tail override. -/
def Tail.code : Tail → BitVec 2
  | .vtype => 0b00 | .tu => 0b01 | .ta => 0b10

/-- Scopes (R171, R277). -/
def decScope (c : BitVec 2) : Except DecodeError Scope :=
  match c with
  | 0b00#2 => .ok .core
  | 0b01#2 => .ok .dev
  | 0b10#2 => .ok .sys
  | _ => .error .reservedCode

/-- The code of a scope. -/
def Scope.code : Scope → BitVec 2
  | .core => 0b00 | .dev => 0b01 | .sys => 0b10

/-- The order of a C-stream atomic (R171). -/
def decMemOrd (c : BitVec 2) : MemOrd :=
  match c with
  | 0b00#2 => .rlx
  | 0b01#2 => .acq
  | 0b10#2 => .rel
  | _ => .acqrel

/-- The code of an order. -/
def MemOrd.code : MemOrd → BitVec 2
  | .rlx => 0b00 | .acq => 0b01 | .rel => 0b10 | .acqrel => 0b11

/-- A flag as one bit. -/
def bit (b : Bool) : BitVec 1 := if b then 1 else 0

/-! ### C-stream decoder -/

/-- Opcode 0x01 (Table 19-4). -/
def decAlu (f : CrWord) : Except DecodeError Instr :=
  let plain (i : Instr) : Except DecodeError Instr := do need (f.mod == 0) .reservedField; .ok i
  let unary (i : Instr) : Except DecodeError Instr := do
    need (f.mod == 0 && f.xb == 0) .reservedField; .ok i
  let uns (k : Bool → Instr) : Except DecodeError Instr := do
    need (f.mod == 0 || f.mod == 1) .reservedField; .ok (k (f.mod == 1))
  match f.fn with
  | 0x00#8 => plain (.iadd f.xd f.xa f.xb)
  | 0x01#8 => plain (.isub f.xd f.xa f.xb)
  | 0x02#8 => plain (.iand f.xd f.xa f.xb)
  | 0x03#8 => plain (.ior f.xd f.xa f.xb)
  | 0x04#8 => plain (.ixor f.xd f.xa f.xb)
  | 0x05#8 => plain (.ishl f.xd f.xa f.xb)
  | 0x06#8 => plain (.ishr f.xd f.xa f.xb)
  | 0x07#8 => plain (.isar f.xd f.xa f.xb)
  | 0x08#8 => plain (.imul f.xd f.xa f.xb)
  | 0x09#8 => uns (.imulh f.xd f.xa f.xb)
  | 0x0A#8 => uns (.idiv f.xd f.xa f.xb)
  | 0x0B#8 => uns (.irem f.xd f.xa f.xb)
  | 0x0C#8 => uns (.imin f.xd f.xa f.xb)
  | 0x0D#8 => uns (.imax f.xd f.xa f.xb)
  | 0x0E#8 => unary (.iclz f.xd f.xa)
  | 0x0F#8 => unary (.ipop f.xd f.xa)
  | 0x10#8 => do let c ← decCond f.mod; .ok (.iset f.xd f.xa f.xb c)
  | _ => .error .unlistedFunction

/-- Opcode 0x06: imm16[15:14] selects, [13:6] is reserved, [5:0] is the amount (R275). -/
def decShiftImm (f : CiWord) : Except DecodeError Instr :=
  let n := f.imm.extractLsb' 0 6
  match f.imm.extractLsb' 14 2 with
  | 0b00#2 => do need (f.imm.extractLsb' 6 8 == 0) .reservedField; .ok (.ishlImm f.xd f.xa n)
  | 0b01#2 => do need (f.imm.extractLsb' 6 8 == 0) .reservedField; .ok (.ishrImm f.xd f.xa n)
  | 0b10#2 => do need (f.imm.extractLsb' 6 8 == 0) .reservedField; .ok (.isarImm f.xd f.xa n)
  | _ => .error .reservedCode

/-- Opcode 0x10 (R317). -/
def decLd (f : CbWord) : Except DecodeError Instr :=
  match f.cc with
  | 0b000#3 => .ok (.ld f.xa f.xb .b f.off)
  | 0b001#3 => .ok (.ld f.xa f.xb .h f.off)
  | 0b010#3 => .ok (.ld f.xa f.xb .w f.off)
  | 0b011#3 => .ok (.ld f.xa f.xb .d f.off)
  | 0b100#3 => .ok (.ld f.xa f.xb .bu f.off)
  | 0b101#3 => .ok (.ld f.xa f.xb .hu f.off)
  | 0b110#3 => .ok (.ld f.xa f.xb .wu f.off)
  | _ => .error .reservedCode

/-- The width code of ld. -/
def LdWidth.code : LdWidth → BitVec 3
  | .b => 0b000 | .h => 0b001 | .w => 0b010 | .d => 0b011 | .bu => 0b100 | .hu => 0b101 | .wu => 0b110

/-- Opcode 0x11 (R354). -/
def decSt (f : CbWord) : Except DecodeError Instr :=
  match f.cc with
  | 0b000#3 => .ok (.st f.xa f.xb .b f.off)
  | 0b001#3 => .ok (.st f.xa f.xb .h f.off)
  | 0b010#3 => .ok (.st f.xa f.xb .w f.off)
  | 0b011#3 => .ok (.st f.xa f.xb .d f.off)
  | _ => .error .reservedCode

/-- The width code of st. -/
def StWidth.code : StWidth → BitVec 3
  | .b => 0b000 | .h => 0b001 | .w => 0b010 | .d => 0b011

/-- Opcode 0x12: fn[7:6] is the scope, fn[5:0] the operation, mod[2] the size, mod[1:0] the order (R277). -/
def decAtomic (f : CrWord) : Except DecodeError Instr := do
  let s ← decScope (f.fn.extractLsb' 6 2)
  let dbl := f.mod.extractLsb' 2 1 == 1
  let o := decMemOrd (f.mod.extractLsb' 0 2)
  match f.fn.extractLsb' 0 6 with
  | 0x00#6 => .ok (.amo f.xd f.xa f.xb dbl o s .add)
  | 0x01#6 => .ok (.amo f.xd f.xa f.xb dbl o s .and)
  | 0x02#6 => .ok (.amo f.xd f.xa f.xb dbl o s .or)
  | 0x03#6 => .ok (.amo f.xd f.xa f.xb dbl o s .xor)
  | 0x04#6 => .ok (.amo f.xd f.xa f.xb dbl o s .min)
  | 0x05#6 => .ok (.amo f.xd f.xa f.xb dbl o s .max)
  | 0x06#6 => .ok (.amo f.xd f.xa f.xb dbl o s .minu)
  | 0x07#6 => .ok (.amo f.xd f.xa f.xb dbl o s .maxu)
  | 0x08#6 => .ok (.amo f.xd f.xa f.xb dbl o s .swap)
  | 0x10#6 => .ok (.acas f.xd f.xa f.xb dbl o s)
  | 0x20#6 => do
      need (f.mod.extractLsb' 0 2 == 0 && f.xb == 0) .reservedField; .ok (.ldacq f.xd f.xa dbl s)
  | 0x21#6 => do
      need (f.mod.extractLsb' 0 2 == 0 && f.xd == 0) .reservedField; .ok (.strel f.xa f.xb dbl s)
  | _ => .error .unlistedFunction

/-- The operation code of amo. -/
def AmoOp.code : AmoOp → BitVec 6
  | .add => 0x00 | .and => 0x01 | .or => 0x02 | .xor => 0x03 | .min => 0x04 | .max => 0x05 | .minu => 0x06
  | .maxu => 0x07 | .swap => 0x08

/-- Opcode 0x13: [15:12] is the kind, [1:0] the scope of fall (R179). -/
def decFence (f : CiWord) : Except DecodeError Instr := do
  need (f.xd == 0 && f.xa == 0 && f.imm.extractLsb' 2 10 == 0) .reservedField
  let sc := f.imm.extractLsb' 0 2
  match f.imm.extractLsb' 12 4 with
  | 0b0001#4 => do need (sc == 0) .reservedField; .ok .fsv
  | 0b0010#4 => do need (sc == 0) .reservedField; .ok .fvs
  | 0b0011#4 => do need (sc == 0) .reservedField; .ok .fvv
  | 0b0100#4 => do let s ← decScope sc; .ok (.fall s)
  | _ => .error .unlistedFunction

/-- Opcode 0x1A (R277). -/
def decJr (f : CrWord) : Except DecodeError Instr := do
  need (f.xd == 0 && f.xb == 0 && f.mod == 0) .reservedField
  match f.fn with
  | 0x00#8 => .ok (.jr f.xa)
  | 0x01#8 => .ok (.callr f.xa)
  | 0x02#8 => do need (f.xa == 0) .reservedField; .ok .ret
  | _ => .error .unlistedFunction

/-- Opcode 0x21 (R58). -/
def decCouple (f : CrWord) : Except DecodeError Instr := do
  need (f.xa == 0 && f.xb == 0 && f.mod == 0) .reservedField
  match f.fn with
  | 0x00#8 => .ok (.rqget f.xd)
  | 0x01#8 => .ok (.rqpoll f.xd)
  | 0x02#8 => do need (f.xd == 0) .reservedField; .ok .vsync
  | 0x03#8 => .ok (.vqpos f.xd)
  | _ => .error .unlistedFunction

/-- Opcode 0x22 (R20). -/
def decHart (f : CrWord) : Except DecodeError Instr := do
  need (f.mod == 0) .reservedField
  match f.fn with
  | 0x00#8 => do need (f.xd == 0 && f.xa == 0 && f.xb == 0) .reservedField; .ok .hexit
  | 0x01#8 => do need (f.xd == 0 && f.xa == 0 && f.xb == 0) .reservedField; .ok .hyield
  | 0x02#8 => .ok (.hspawn f.xd f.xa f.xb)
  | _ => .error .unlistedFunction

/-- Opcode 0x23 (R20). -/
def decGang (f : CrWord) : Except DecodeError Instr := do
  need (f.mod == 0 && f.xb == 0) .reservedField
  match f.fn with
  | 0x00#8 => do need (f.xa == 0) .reservedField; .ok (.gbar f.xd)
  | 0x01#8 => do need (f.xa == 0) .reservedField; .ok (.garr f.xd)
  | 0x02#8 => do need (f.xd == 0) .reservedField; .ok (.gwait f.xa)
  | _ => .error .unlistedFunction

/-- A word whose 26 operand bits are reserved (R277). -/
def decBare (f : CjWord) (i : Instr) : Except DecodeError Instr := do
  need (f.off == 0) .reservedField; .ok i

/-- The instruction that a C-stream word holds (R276-R278, steps 1 and 2). -/
def decodeC (w : W32) : Except DecodeError Instr :=
  let ci := CiWord.of w
  let cr := CrWord.of w
  let cb := CbWord.of w
  let cj := CjWord.of w
  match ci.op with
  | 0x01#6 => decAlu cr
  | 0x02#6 => .ok (.iaddImm ci.xd ci.xa ci.imm)
  | 0x03#6 => .ok (.iandImm ci.xd ci.xa ci.imm)
  | 0x04#6 => .ok (.iorImm ci.xd ci.xa ci.imm)
  | 0x05#6 => .ok (.ixorImm ci.xd ci.xa ci.imm)
  | 0x06#6 => decShiftImm ci
  | 0x07#6 => do let c ← decCond cb.cc; .ok (.isetImm cb.xa cb.xb c cb.off)
  | 0x08#6 => do
      need (ci.xa.extractLsb' 2 3 == 0) .reservedField; .ok (.imovz ci.xd (ci.xa.extractLsb' 0 2) ci.imm)
  | 0x09#6 => do
      need (ci.xa.extractLsb' 2 3 == 0) .reservedField; .ok (.imovk ci.xd (ci.xa.extractLsb' 0 2) ci.imm)
  | 0x0A#6 => let f := CpWord.of w; .ok (.ipcrel f.xd f.off)
  | 0x10#6 => decLd cb
  | 0x11#6 => decSt cb
  | 0x12#6 => decAtomic cr
  | 0x13#6 => decFence ci
  | 0x14#6 => do need (cr.xb == 0 && cr.mod == 0 && cr.fn == 0) .reservedField; .ok (.mwatch cr.xd cr.xa)
  | 0x15#6 => decBare cj .mwait
  | 0x18#6 => .ok (.jmp cj.off)
  | 0x19#6 => .ok (.call cj.off)
  | 0x1A#6 => decJr cr
  | 0x1B#6 => do let c ← decCond cb.cc; .ok (.bcc cb.xa cb.xb c cb.off)
  | 0x20#6 =>
      let f := CdWord.of w
      do need (f.res == 0 && f.res2 == 0) .reservedField; .ok (.vdisp f.xa f.nrep)
  | 0x21#6 => decCouple cr
  | 0x22#6 => decHart cr
  | 0x23#6 => decGang cr
  | 0x30#6 => do need (ci.xd == 0 && ci.xa == 0) .reservedField; .ok (.trap ci.imm)
  | 0x31#6 => decBare cj .tret
  | 0x32#6 => do
      need (ci.xa == 0 && ci.imm.extractLsb' 12 4 == 0) .reservedField
      .ok (.kread ci.xd (ci.imm.extractLsb' 0 12))
  | 0x33#6 => do
      need (ci.xd == 0 && ci.imm.extractLsb' 12 4 == 0) .reservedField
      .ok (.kwrite ci.xa (ci.imm.extractLsb' 0 12))
  | 0x34#6 => do
      need (ci.imm.extractLsb' 12 4 == 0) .reservedField; .ok (.kset ci.xd ci.xa (ci.imm.extractLsb' 0 12))
  | 0x35#6 => do
      need (ci.imm.extractLsb' 12 4 == 0) .reservedField; .ok (.kclr ci.xd ci.xa (ci.imm.extractLsb' 0 12))
  | 0x36#6 => decBare cj .wfi
  | 0x37#6 => do need (cr.xd == 0 && cr.mod == 0 && cr.fn == 0) .reservedField; .ok (.sinval cr.xa cr.xb)
  | 0x38#6 => decBare cj .brk
  | _ => .error .unassignedOpcode

/-! ### V-stream decoder -/

/-- A block source: imm32 when I = 1, else a register with imm32 = 0 (R284, R297). DESIGN CHOICE (log 126): where I = 1 the
unused bb is a reserved field, and a word in which it is not 0 is illegal. -/
def decBSrc (f : VbWord) : Except DecodeError BSrc :=
  if f.i == 1 then (do need (f.bb == 0) .reservedField; .ok (.imm f.imm))
  else (do need (f.imm == 0) .reservedField; .ok (.reg f.bb))

/-- A shift amount of a block instruction: imm32[31:6] = 0 (R297). -/
def decBShift (f : VbWord) : Except DecodeError BSrc := do
  let s ← decBSrc f
  need s.wfShift .reservedField
  .ok s

/-- The VB instructions (Table 19-9, R56, R68). -/
def decodeVb (f : VbWord) : Except DecodeError Instr :=
  match f.op with
  | 0x01#8 => do
      need (f.ba == 0 && f.bb == 0 && f.cc == 0 && f.i == 1 && f.fn == 0) .reservedField
      .ok (.bli f.bd f.imm)
  | 0x02#8 => do need (f.cc == 0 && f.fn == 0) .reservedField; let s ← decBSrc f; .ok (.badd f.bd f.ba s)
  | 0x03#8 => do need (f.cc == 0 && f.fn == 0) .reservedField; let s ← decBSrc f; .ok (.bsub f.bd f.ba s)
  | 0x04#8 => do need (f.cc == 0 && f.fn == 0) .reservedField; let s ← decBSrc f; .ok (.bmul f.bd f.ba s)
  | 0x05#8 => do need (f.cc == 0 && f.fn == 0) .reservedField; let s ← decBSrc f; .ok (.band f.bd f.ba s)
  | 0x06#8 => do need (f.cc == 0 && f.fn == 0) .reservedField; let s ← decBSrc f; .ok (.bor f.bd f.ba s)
  | 0x07#8 => do need (f.cc == 0 && f.fn == 0) .reservedField; let s ← decBSrc f; .ok (.bxor f.bd f.ba s)
  | 0x08#8 => do need (f.cc == 0 && f.fn == 0) .reservedField; let s ← decBShift f; .ok (.bshl f.bd f.ba s)
  | 0x09#8 => do need (f.cc == 0 && f.fn == 0) .reservedField; let s ← decBShift f; .ok (.bshr f.bd f.ba s)
  | 0x0A#8 => do
      need (f.fn == 0) .reservedField
      let c ← decCond f.cc
      let s ← decBSrc f
      .ok (.bset c f.bd f.ba s)
  | 0x0B#8 => do
      need (f.bb == 0 && f.cc == 0 && f.i == 0 && f.fn == 0 && f.bd.extractLsb' 2 2 == 0) .reservedField
      need (decide (0 < f.imm.toInt)) .operandRange
      .ok (.bloop (f.bd.extractLsb' 0 2) f.ba f.imm)
  | 0x0C#8 => do
      need (f.bd == 0 && f.i == 0 && f.fn == 0) .reservedField
      let c ← decCond f.cc
      .ok (.bbr c f.ba f.bb f.imm)
  | 0x0D#8 => do
      need (f.bd == 0 && f.ba == 0 && f.bb == 0 && f.cc == 0 && f.i == 0 && f.fn == 0) .reservedField
      .ok (.bjmp f.imm)
  | 0x0E#8 => do
      need (f.bd == 0 && f.ba == 0 && f.bb == 0 && f.cc == 0 && f.i == 0 && f.fn == 0 && f.imm == 0)
        .reservedField
      .ok .vend
  | 0x0F#8 => do
      need (f.bd == 0 && f.bb == 0 && f.cc == 0 && f.i == 0 && f.imm == 0) .reservedField
      let m : MReg := f.ba.extractLsb' 0 3
      match f.fn with
      | 0x00#8 => .ok (.vreply f.ba)
      | 0x01#8 => do need (f.ba.extractLsb' 3 1 == 0) .reservedField; .ok (.vreplyAny m)
      | 0x02#8 => do need (f.ba.extractLsb' 3 1 == 0) .reservedField; .ok (.vreplyNone m)
      | 0x03#8 => do need (f.ba.extractLsb' 3 1 == 0) .reservedField; .ok (.vreplyPop m)
      | _ => .error .unlistedFunction
  | 0x10#8 => do
      need (f.ba == 0 && f.bb == 0 && f.cc == 0 && f.i == 0 && f.fn == 0 && f.imm.extractLsb' 12 20 == 0)
        .reservedField
      .ok (.bkrd f.bd (f.imm.extractLsb' 0 12))
  | 0x12#8 => do
      need (f.bd == 0 && f.ba == 0 && f.bb == 0 && f.cc == 0 && f.i == 1 && f.fn == 0) .reservedField
      .ok (.vmark f.imm)
  | 0x13#8 => do
      need (f.bd == 0 && f.ba == 0 && f.bb == 0 && f.cc == 0 && f.i == 0 && f.fn == 0 && f.imm == 0)
        .reservedField
      .ok .vbrk
  | 0x20#8 => do
      let vt := f.imm.extractLsb' 0 16
      need (f.cc == 0 && f.i == 0 && f.fn == 0 && f.imm.extractLsb' 17 15 == 0 && vt.extractLsb' 15 1 == 0)
        .reservedField
      need (vt.extractLsb' 10 2 == 0) .reservedCode
      if f.imm.extractLsb' 16 1 == 1 then .ok (.vsetl f.bd f.ba (some f.bb) vt)
      else do need (f.bb == 0) .reservedField; .ok (.vsetl f.bd f.ba none vt)
  | 0x22#8 => do
      need (f.bd == 0 && f.bb == 0 && f.cc == 0 && f.fn == 0) .reservedField
      if f.i == 1 then (do need (f.ba == 0) .reservedField; .ok (.vrseed (.imm f.imm)))
      else (do need (f.imm == 0) .reservedField; .ok (.vrseed (.reg f.ba)))
  | _ => .error .unassignedOpcode

/-- Mask enable, register and chunk acquire (R280). -/
def decMask (e : BitVec 1) (mr : BitVec 3) (aq : BitVec 1) : Except DecodeError (Option MReg) :=
  if e == 1 then .ok (some mr)
  else (do need (mr == 0 && aq == 0) .maskField; .ok none)

/-- The mask, chunk acquire and tail override of a VV word. -/
def decCtl (f : VvWord) : Except DecodeError VCtl := do
  let m ← decMask f.e f.mr f.aq
  let t ← decTail f.tl
  .ok ⟨m, f.aq == 1, t⟩

/-- The same where the row requires a mask (R282). -/
def decCtlReq (f : VvWord) : Except DecodeError VCtl := do
  let c ← decCtl f
  need c.wfMasked .maskField
  .ok c

/-- The mask control of a VV word whose destination is a mask: to is reserved (R282). -/
def decMCtl (f : VvWord) : Except DecodeError MCtl := do
  let m ← decMask f.e f.mr f.aq
  need (f.tl == 0) .reservedField
  .ok ⟨m, f.aq == 1⟩

/-- The tail override of a row whose E, mr and aq are reserved (R77, R282). -/
def decTailOnly (f : VvWord) : Except DecodeError Tail := do
  need (f.e == 0 && f.mr == 0 && f.aq == 0) .maskField
  decTail f.tl

/-- Source b of a row that allows the kinds 00, 01 and 10 (R279, R282). -/
def decSrc (f : VvWord) : Except DecodeError VSrc :=
  match f.kb with
  | 0b00#2 => do need (f.imm == 0) .reservedField; .ok (.vec f.vb)
  | 0b01#2 => do
      need (f.imm == 0 && f.vb.extractLsb' 4 1 == 0) .reservedField; .ok (.breg (f.vb.extractLsb' 0 4))
  | 0b10#2 => do need (f.vb == 0) .reservedField; .ok (.imm f.imm)
  | _ => .error .reservedCode

/-- Source b of a row that allows the kinds 01 and 10 only (R282). -/
def decScalarSrc (f : VvWord) : Except DecodeError VSrc := do
  let s ← decSrc f
  need s.scalar .kindNotAllowed
  .ok s

/-- A row with kind 00 and vb = 0 (R282). -/
def noSrc (f : VvWord) : Bool := f.kb == 0 && f.vb == 0 && f.imm == 0

/-- vd va b with rounding, mask and tail; `fn` the allowed function bits (Table 19-8, row 1). -/
def decBin (f : VvWord) (fnOk : Bool) (k : VSrc → Rm → VCtl → Instr) : Except DecodeError Instr := do
  need (f.vc == 0 && fnOk) .reservedField
  let b ← decSrc f
  let rm ← decRm f.rm
  let c ← decCtl f
  .ok (k b rm c)

/-- vd va b without rounding (Table 19-8). -/
def decBits (f : VvWord) (fnOk : Bool) (k : VSrc → VCtl → Instr) : Except DecodeError Instr := do
  need (f.vc == 0 && f.rm == 0 && fnOk) .reservedField
  let b ← decSrc f
  let c ← decCtl f
  .ok (k b c)

/-- vd va with rounding (Table 19-8). -/
def decUn (f : VvWord) (fnOk : Bool) (k : Rm → VCtl → Instr) : Except DecodeError Instr := do
  need (f.vc == 0 && noSrc f && fnOk) .reservedField
  let rm ← decRm f.rm
  let c ← decCtl f
  .ok (k rm c)

/-- vd va without rounding (Table 19-8). -/
def decUnBits (f : VvWord) (fnOk : Bool) (k : VCtl → Instr) : Except DecodeError Instr := do
  need (f.vc == 0 && f.rm == 0 && noSrc f && fnOk) .reservedField
  let c ← decCtl f
  .ok (k c)

/-- The mask rows 0x68-0x6E: only va holds an operand mask, E, mr, aq and to are reserved (R282). -/
def decMaskRow (f : VvWord) : Except DecodeError MReg := do
  need (f.vc == 0 && f.rm == 0 && f.e == 0 && f.mr == 0 && f.aq == 0 && f.tl == 0 && f.kb == 0 && f.imm == 0
    && f.va.extractLsb' 3 2 == 0) .reservedField
  .ok (f.va.extractLsb' 0 3)

/-- The VV instructions (Table 19-8). -/
def decodeVv (f : VvWord) : Except DecodeError Instr :=
  let fn0 := f.fn == 0
  let sat := f.fn == 2
  let tree := f.fn == 1
  let p := f.fn == 4
  match f.op with
  | 0x21#8 => do
      need (f.va == 0 && f.vb == 0 && f.vc == 0 && f.e == 0 && f.mr == 0 && f.rm == 0 && f.kb == 0 && f.tl == 0
        && f.aq == 0 && fn0 && f.imm.extractLsb' 6 10 == 0) .reservedField
      .ok (.vtag f.vd (f.imm.extractLsb' 0 6))
  | 0x30#8 => decBin f (fn0 || sat) fun b r c => .vadd f.vd f.va b r sat c
  | 0x31#8 => decBin f (fn0 || sat) fun b r c => .vsub f.vd f.va b r sat c
  | 0x32#8 => decBin f (fn0 || sat) fun b r c => .vmul f.vd f.va b r sat c
  | 0x33#8 => do
      need fn0 .reservedField
      let b ← decSrc f
      let rm ← decRm f.rm
      let c ← decCtl f
      .ok (.vmadd f.vd f.va b f.vc rm c)
  | 0x34#8 => do
      need fn0 .reservedField
      let b ← decSrc f
      let rm ← decRm f.rm
      let c ← decCtl f
      .ok (.vmsub f.vd f.va b f.vc rm c)
  | 0x35#8 => decBin f fn0 fun b r c => .vdiv f.vd f.va b r c
  | 0x36#8 => decBin f (fn0 || p) fun b r c => .vmin f.vd f.va b r p c
  | 0x37#8 => decBin f (fn0 || p) fun b r c => .vmax f.vd f.va b r p c
  | 0x38#8 => decUn f fn0 fun r c => .vabs f.vd f.va r c
  | 0x39#8 => decUn f fn0 fun r c => .vneg f.vd f.va r c
  | 0x3A#8 => decBits f fn0 fun b c => .vand f.vd f.va b c
  | 0x3B#8 => decBits f fn0 fun b c => .vor f.vd f.va b c
  | 0x3C#8 => decBits f fn0 fun b c => .vxor f.vd f.va b c
  | 0x3D#8 => decBits f (fn0 || sat) fun b c => .vshl f.vd f.va b sat c
  | 0x3E#8 => decBits f fn0 fun b c => .vshr f.vd f.va b c
  | 0x3F#8 => decBits f fn0 fun b c => .vsar f.vd f.va b c
  | 0x40#8 => do
      need (f.vc == 0 && fn0 && f.vd.extractLsb' 3 2 == 0) .reservedField
      let cc ← decVCond f.rm
      let b ← decSrc f
      let c ← decMCtl f
      .ok (.vcmp cc (f.vd.extractLsb' 0 3) f.va b c)
  | 0x41#8 => do
      need (f.vc == 0 && f.rm == 0 && fn0) .reservedField
      let b ← decSrc f
      let c ← decCtlReq f
      .ok (.vsel f.vd f.va b c)
  | 0x42#8 => decUnBits f fn0 fun c => .vmov f.vd f.va c
  | 0x43#8 => do
      need (f.va == 0 && f.vc == 0 && f.rm == 0 && fn0) .reservedField
      let b ← decScalarSrc f
      let c ← decCtl f
      .ok (.vbcast f.vd b c)
  | 0x44#8 => decUnBits f (fn0 && f.va == 0) fun c => .vid f.vd c
  | 0x45#8 => decUn f fn0 fun r c => .vcvt f.vd f.va r c
  | 0x46#8 => decUn f fn0 fun r c => .vsqrt f.vd f.va r c
  | 0x47#8 => decUn f fn0 fun r c => .vrsqrt f.vd f.va r c
  | 0x48#8 => decUn f fn0 fun r c => .vrcp f.vd f.va r c
  | 0x49#8 => decUn f fn0 fun r c => .vexp2 f.vd f.va r c
  | 0x4A#8 => decUn f fn0 fun r c => .vlog2 f.vd f.va r c
  | 0x4B#8 => decUn f fn0 fun r c => .vtanh f.vd f.va r c
  | 0x4C#8 => decUnBits f fn0 fun c => .vclass f.vd f.va c
  | 0x4D#8 => do
      need (f.vc == 0 && fn0) .reservedField
      let b ← decSrc f
      need b.wfScale .reservedField
      let rm ← decRm f.rm
      let c ← decCtl f
      .ok (.vscale f.vd f.va b rm c)
  | 0x50#8 => decUn f (fn0 || tree) fun r c => .vrsum f.vd f.va r tree c
  | 0x51#8 => decUn f (fn0 || tree) fun r c => .vrmax f.vd f.va r tree c
  | 0x52#8 => decUn f (fn0 || tree) fun r c => .vrmin f.vd f.va r tree c
  | 0x53#8 => decUnBits f (fn0 || tree) fun c => .vrbit f.vd f.va tree c
  | 0x58#8 => do
      need (f.vc == 0 && f.rm == 0 && fn0) .reservedField
      let b ← decScalarSrc f
      let c ← decCtl f
      .ok (.vslide f.vd f.va b c)
  | 0x59#8 => do
      need (f.vc == 0 && f.rm == 0 && fn0 && f.imm == 0) .reservedField
      need (f.kb == 0) .kindNotAllowed
      let c ← decCtl f
      .ok (.vgath f.vd f.va f.vb c)
  | 0x5A#8 => do
      need (f.vc == 0 && f.rm == 0 && fn0 && noSrc f) .reservedField
      let c ← decCtlReq f
      .ok (.vcomp f.vd f.va c)
  | 0x5B#8 => do
      need (f.vc == 0 && f.rm == 0 && fn0 && noSrc f) .reservedField
      let c ← decCtlReq f
      .ok (.vexpd f.vd f.va c)
  | 0x60#8 => do
      need (f.vc == 0 && f.rm == 0 && fn0) .reservedField
      let b ← decScalarSrc f
      let t ← decTailOnly f
      .ok (.vbsl f.vd f.va b t)
  | 0x61#8 => do
      need (f.vc == 0 && f.rm == 0 && fn0) .reservedField
      let b ← decScalarSrc f
      let t ← decTailOnly f
      .ok (.vbsr f.vd f.va b t)
  | 0x62#8 => do
      need (f.vc == 0 && f.rm == 0 && fn0) .reservedField
      need (f.kb == 0) .kindNotAllowed
      let t ← decTailOnly f
      .ok (.vfunl f.vd f.va f.vb f.imm t)
  | 0x63#8 => do
      need (f.vc == 0 && f.rm == 0 && fn0) .reservedField
      need (f.kb == 0) .kindNotAllowed
      let t ← decTailOnly f
      .ok (.vfunr f.vd f.va f.vb f.imm t)
  | 0x64#8 => do
      need (f.vc == 0 && f.rm == 0 && fn0 && f.imm == 0 && f.vb.extractLsb' 4 1 == 0) .reservedField
      need (f.kb == 1) .kindNotAllowed
      let t ← decTailOnly f
      .ok (.vbext f.vd f.va (f.vb.extractLsb' 0 4) t)
  | 0x65#8 => do
      need (f.vc == 0 && f.rm == 0 && fn0 && f.imm == 0 && f.vb.extractLsb' 4 1 == 0) .reservedField
      need (f.kb == 1) .kindNotAllowed
      let t ← decTailOnly f
      .ok (.vbins f.vd f.va (f.vb.extractLsb' 0 4) t)
  | 0x68#8 => do
      let ma ← decMaskRow f
      need (f.vd.extractLsb' 3 2 == 0 && f.vb.extractLsb' 3 2 == 0) .reservedField
      let md : MReg := f.vd.extractLsb' 0 3
      let mb : MReg := f.vb.extractLsb' 0 3
      match f.fn with
      | 0x00#8 => .ok (.mlog .and md ma mb)
      | 0x01#8 => .ok (.mlog .or md ma mb)
      | 0x02#8 => .ok (.mlog .xor md ma mb)
      | 0x03#8 => .ok (.mlog .andn md ma mb)
      | 0x04#8 => do need (mb == 0) .reservedField; .ok (.mlog .not md ma mb)
      | _ => .error .unlistedFunction
  | 0x69#8 => do
      let ma ← decMaskRow f
      need (f.vb == 0 && fn0 && f.vd.extractLsb' 4 1 == 0) .reservedField
      .ok (.mpop (f.vd.extractLsb' 0 4) ma)
  | 0x6A#8 => do
      let ma ← decMaskRow f
      need (f.vb == 0 && fn0 && f.vd.extractLsb' 4 1 == 0) .reservedField
      .ok (.mfirst (f.vd.extractLsb' 0 4) ma)
  | 0x6B#8 => do
      let ma ← decMaskRow f
      need (f.vb == 0 && fn0 && f.vd.extractLsb' 3 2 == 0) .reservedField
      .ok (.mbef (f.vd.extractLsb' 0 3) ma)
  | 0x6C#8 => do
      let ma ← decMaskRow f
      need (f.vb == 0 && fn0 && f.vd.extractLsb' 3 2 == 0) .reservedField
      .ok (.minc (f.vd.extractLsb' 0 3) ma)
  | 0x6D#8 => do
      let ma ← decMaskRow f
      need (f.vb == 0 && fn0 && f.vd.extractLsb' 3 2 == 0) .reservedField
      .ok (.monly (f.vd.extractLsb' 0 3) ma)
  | 0x6E#8 => do
      let ma ← decMaskRow f
      need (f.vb == 0 && f.vd.extractLsb' 4 1 == 0) .reservedField
      need (f.fn == 0 || f.fn == 1) .unlistedFunction
      .ok (.mtest (f.fn == 1) (f.vd.extractLsb' 0 4) ma)
  | _ => .error .unassignedOpcode

/-- The mask, chunk acquire and tail override of a VM word. -/
def decVmCtl (f : VmWord) : Except DecodeError VCtl := do
  let m ← decMask f.e f.mr f.aq
  let t ← decTail f.tl
  .ok ⟨m, f.aq == 1, t⟩

/-- The mask control of a VM word that stores: to is reserved (R283). -/
def decVmMCtl (f : VmWord) : Except DecodeError MCtl := do
  let m ← decMask f.e f.mr f.aq
  need (f.tl == 0) .reservedField
  .ok ⟨m, f.aq == 1⟩

/-- Plain, or the order `o` (1 acquire, 2 release) with its scope (R171). -/
def decOrd (f : VmWord) (o : BitVec 2) : Except DecodeError (Option Scope) :=
  if f.ord == 0 then (do need (f.sc == 0) .reservedField; .ok none)
  else (do need (f.ord == o) .reservedCode; let s ← decScope f.sc; .ok (some s))

/-- The order of vamo (R171). -/
def decVmOrd (f : VmWord) : Except DecodeError VmOrd :=
  match f.ord with
  | 0b00#2 => do need (f.sc == 0) .reservedField; .ok .plain
  | 0b01#2 => do let s ← decScope f.sc; .ok (.acq s)
  | 0b10#2 => do let s ← decScope f.sc; .ok (.rel s)
  | _ => .error .reservedCode

/-- A vector load: the order is plain or acquire (Table 19-10). -/
def decVLoad (f : VmWord) (fieldsOk : Bool) (k : Option Scope → VCtl → Instr) : Except DecodeError Instr := do
  need (f.res == 0 && f.fn == 0 && fieldsOk) .reservedField
  let o ← decOrd f 1
  let c ← decVmCtl f
  .ok (k o c)

/-- A vector store: the order is plain or release (Table 19-10). -/
def decVStore (f : VmWord) (fieldsOk : Bool) (k : Option Scope → MCtl → Instr) : Except DecodeError Instr := do
  need (f.res == 0 && f.fn == 0 && fieldsOk) .reservedField
  let o ← decOrd f 2
  let c ← decVmMCtl f
  .ok (k o c)

/-- The VM instructions (Table 19-10). -/
def decodeVm (f : VmWord) : Except DecodeError Instr :=
  let st0 := f.stride == 0
  let ix0 := f.index == 0
  let bare := f.base == 0 && st0 && f.ord == 0 && f.sc == 0 && f.fn == 0 && f.off == 0 && f.res == 0
  match f.op with
  | 0x70#8 => decVLoad f (st0 && ix0) fun o c => .vld f.data f.base f.off f.tag o c
  | 0x71#8 => decVLoad f ix0 fun o c => .vlds f.data f.base f.off f.stride f.tag o c
  | 0x72#8 => decVLoad f st0 fun o c => .vldx f.data f.base f.off f.index f.tag o c
  | 0x73#8 => decVLoad f (st0 && ix0) fun o c => .vldff f.data f.base f.off f.tag o c
  | 0x74#8 => decVStore f (st0 && ix0) fun o c => .vst f.data f.base f.off f.tag o c
  | 0x75#8 => decVStore f ix0 fun o c => .vsts f.data f.base f.off f.stride f.tag o c
  | 0x76#8 => decVStore f st0 fun o c => .vstx f.data f.base f.off f.index f.tag o c
  | 0x77#8 => do
      need bare .reservedField
      let c ← decVmCtl f
      .ok (.vtld f.data f.index f.tag c)
  | 0x78#8 => do
      need bare .reservedField
      let c ← decVmMCtl f
      .ok (.vtst f.data f.index f.tag c)
  | 0x79#8 => do
      need (f.res == 0 && st0) .reservedField
      let o ← decVmOrd f
      let c ← decVmCtl f
      match f.fn with
      | 0b000#3 => .ok (.vamo .add f.data f.base f.off f.index f.tag o c)
      | 0b001#3 => .ok (.vamo .and f.data f.base f.off f.index f.tag o c)
      | 0b010#3 => .ok (.vamo .or f.data f.base f.off f.index f.tag o c)
      | 0b011#3 => .ok (.vamo .xor f.data f.base f.off f.index f.tag o c)
      | 0b100#3 => .ok (.vamo .min f.data f.base f.off f.index f.tag o c)
      | 0b101#3 => .ok (.vamo .max f.data f.base f.off f.index f.tag o c)
      | 0b110#3 => .ok (.vamo .swap f.data f.base f.off f.index f.tag o c)
      | _ => .error .reservedCode
  | 0x7A#8 => do
      need (bare && ix0 && f.data == 0 && f.e == 0 && f.mr == 0 && f.tag == 0 && f.tl == 0 && f.aq == 0)
        .reservedField
      .ok .fvvV
  | _ => .error .unassignedOpcode

/-- The operation code of vamo. -/
def VAmoOp.code : VAmoOp → BitVec 3
  | .add => 0 | .and => 1 | .or => 2 | .xor => 3 | .min => 4 | .max => 5 | .swap => 6

/-- The VT instructions (Table 6-7). -/
def decodeVt (f : VtWord) : Except DecodeError Instr :=
  let v0 := f.v3 == 0 && f.v4 == 0
  let b0 := f.b1 == 0 && f.b2 == 0
  let end0 := f.rm == 0 && f.res == 0
  match f.op with
  | 0x80#8 => do
      need (f.tile == 0 && f.v1 == 0 && f.v2 == 0 && v0 && f.s == 0 && b0 && end0) .reservedField
      match f.tag with
      | 0b000000#6 => .ok .mmodeLeave
      | 0b000001#6 => .ok (.mmodeEnter false)
      | 0b000011#6 => .ok (.mmodeEnter true)
      | _ => .error .reservedField
  | 0x81#8 => do
      need (f.tile == 0 && v0 && f.s == 0 && f.tag == 0 && end0) .reservedField
      need (tileBaseOk f.v2) .operandRange
      .ok (.msettile f.b2 f.b1 f.v1 f.v2)
  | 0x82#8 => do
      need (f.v1 == 0 && f.v2 == 0 && v0 && f.s == 0 && b0 && end0) .reservedField
      .ok (.mzero f.tile f.tag)
  | 0x83#8 => do
      need (f.v1 == 0 && f.v2 == 0 && v0 && f.s == 0 && end0) .reservedField
      .ok (.mldz f.tile f.b1 f.b2 f.tag)
  | 0x84#8 => do
      need (f.v1 == 0 && f.v2 == 0 && v0 && f.s == 0 && f.tag == 0 && end0) .reservedField
      .ok (.mstz f.tile f.b1 f.b2)
  | 0x85#8 => do
      need (b0 && f.tag == 0 && end0) .reservedField
      need (tileBaseOk f.v2) .operandRange
      if f.s == 1 then .ok (.mop f.tile f.v1 f.v2 (some (f.v3, f.v4)))
      else do need v0 .reservedField; .ok (.mop f.tile f.v1 f.v2 none)
  | 0x86#8 => do
      need (f.v2 == 0 && v0 && f.s == 0 && f.b2 == 0 && f.res == 0) .reservedField
      let rm ← decRm f.rm
      .ok (.mdrain f.v1 f.tile f.b1 f.tag rm)
  | 0x87#8 => do
      need (f.v2 == 0 && v0 && f.s == 0 && f.b2 == 0 && f.tag == 0 && end0) .reservedField
      .ok (.mfill f.tile f.v1 f.b1)
  | 0x88#8 => do
      need (f.v1 == 0 && f.v2 == 0 && v0 && f.s == 0 && b0 && end0) .reservedField
      .ok (.mtag f.tile f.tag)
  | 0x89#8 => do
      need (f.v1 == 0 && f.v2 == 0 && v0 && f.s == 0 && f.b2 == 0 && f.tag.extractLsb' 3 3 == 0 && end0)
        .reservedField
      let clr := f.tag.extractLsb' 2 1 == 1
      match f.tag.extractLsb' 0 2 with
      | 0b00#2 => .ok (.mchk .pass clr f.b1 f.tile)
      | 0b01#2 => .ok (.mchk .mismatch clr f.b1 f.tile)
      | 0b10#2 => .ok (.mchk .abstain clr f.b1 f.tile)
      | _ => .error .reservedCode
  | _ => .error .unassignedOpcode

/-- The VC instructions (Table 8-3). -/
def decodeVc (f : VcWord) : Except DecodeError Instr :=
  let cb := f.cb.extractLsb' 0 2
  let noOps := f.bd == 0 && f.bs == 0 && f.bl == 0 && f.mkr == 0 && f.e == 0 && f.res == 0 && f.code == 0
    && f.flags == 0
  match f.op with
  | 0x90#8 => do
      need (f.res == 0 && f.bst == 0 && f.flags.extractLsb' 2 22 == 0) .reservedField
      need (f.code.extractLsb' 3 1 == 0 && f.cb.extractLsb' 2 2 == 0) .reservedCode
      let s ← decScope (f.flags.extractLsb' 0 2)
      let m ← decMask f.e f.mkr 0
      .ok (.cpy f.bd f.bs f.bl (f.code.extractLsb' 0 3) cb s m)
  | 0x91#8 => do
      need noOps .reservedField
      need (f.cb.extractLsb' 2 2 == 0) .reservedCode
      .ok (.cpyw cb f.bst)
  | 0x92#8 => do
      need (noOps && f.bst == 0) .reservedField
      need (f.cb.extractLsb' 2 2 == 0) .reservedCode
      .ok (.cpyr cb)
  | 0x93#8 => do
      need noOps .reservedField
      need (f.cb.extractLsb' 2 2 == 0) .reservedCode
      .ok (.cpyq cb f.bst)
  | _ => .error .unassignedOpcode

/-- The VS instructions (Table 7-4). -/
def decodeVs (f : VsWord) : Except DecodeError Instr :=
  let sd0 := f.sd == 0
  let sa0 := f.sa == 0
  let sb0 := f.sb == 0
  let q0 := f.q == 0
  let ba0 := f.ba == 0
  let bb0 := f.bb == 0
  let bc0 := f.bc == 0
  let vd0 := f.vd == 0
  let fn0 := f.fn == 0
  let im0 := f.imm == 0
  match f.op with
  | 0xA0#8 => do
      need (sb0 && q0 && ba0 && bb0 && bc0 && vd0 && fn0 && f.imm.extractLsb' 2 14 == 0) .reservedField
      .ok (.sord f.sd f.sa (f.imm.extractLsb' 0 2))
  | 0xA1#8 => do
      need (sd0 && sa0 && sb0 && q0 && bb0 && bc0 && vd0 && fn0 && f.imm.extractLsb' 4 12 == 0) .reservedField
      let n : BitVec 4 := f.imm.extractLsb' 0 4
      need (decide (n.toNat ≤ 8)) .operandRange
      .ok (.sprm f.ba n)
  | 0xA2#8 => do
      need (sa0 && sb0 && q0 && bc0 && vd0 && fn0 && f.imm.extractLsb' 8 8 == 0) .reservedField
      let ctl : BitVec 8 := f.imm.extractLsb' 0 8
      need (decide (ctl.toNat % 4 ≠ 3) && decide (ctl.toNat / 16 ≤ 8)) .reservedCode
      .ok (.snew f.sd f.ba f.bb ctl)
  | 0xA3#8 => do
      need (sa0 && sb0 && q0 && bb0 && bc0 && vd0 && fn0 && im0) .reservedField; .ok (.sld f.sd f.ba)
  | 0xA4#8 => do
      need (sd0 && sb0 && q0 && bb0 && bc0 && vd0 && fn0 && im0) .reservedField; .ok (.sst f.sa f.ba)
  | 0xA5#8 => do
      need (sa0 && sb0 && q0 && vd0 && fn0 && im0) .reservedField; .ok (.sterm f.sd f.ba f.bb f.bc)
  | 0xA6#8 => do
      need (q0 && ba0 && bb0 && bc0 && vd0 && fn0 && im0) .reservedField; .ok (.sadd f.sd f.sa f.sb)
  | 0xA7#8 => do
      need (q0 && ba0 && bb0 && bc0 && vd0 && fn0 && im0) .reservedField; .ok (.ssub f.sd f.sa f.sb)
  | 0xA8#8 => do
      need (q0 && ba0 && bb0 && bc0 && vd0 && fn0 && im0) .reservedField; .ok (.smul f.sd f.sa f.sb)
  | 0xA9#8 => do
      need (sb0 && q0 && bc0 && vd0 && fn0 && im0) .reservedField; .ok (.smulm f.sd f.sa f.ba f.bb)
  | 0xAA#8 => do
      need (ba0 && bb0 && bc0 && vd0 && fn0 && f.imm.extractLsb' 4 12 == 0) .reservedField
      let n : BitVec 4 := f.imm.extractLsb' 0 4
      need (decide (1 ≤ n.toNat) && decide (n.toNat ≤ 8)
        && decide (f.sb.toNat + n.toNat ≤ 16) && decide (f.q.toNat + n.toNat ≤ 16)) .operandRange
      .ok (.sdiv f.sd f.sa f.sb f.q n)
  | 0xAB#8 => do
      need (sb0 && q0 && bb0 && bc0 && vd0 && fn0 && im0) .reservedField; .ok (.slt f.sd f.sa f.ba)
  | 0xAC#8 => do
      need (sb0 && q0 && ba0 && bb0 && bc0 && vd0 && fn0 && im0) .reservedField; .ok (.sdrop f.sd f.sa)
  | 0xAD#8 => do
      need (sd0 && sb0 && q0 && bb0 && bc0 && vd0 && fn0 && im0) .reservedField; .ok (.srat f.sa f.ba)
  | 0xAE#8 => do
      need (sd0 && sb0 && q0 && bb0 && bc0 && fn0 && im0) .reservedField; .ok (.sexp f.vd f.sa f.ba)
  | 0xAF#8 => do
      need (sa0 && sb0 && q0 && bb0 && bc0 && fn0 && im0) .reservedField; .ok (.scmp f.sd f.vd f.ba)
  | 0xB0#8 => do
      need (sd0 && sb0 && q0 && bb0 && bc0 && vd0 && fn0 && f.imm.extractLsb' 3 13 == 0) .reservedField
      let sel : BitVec 3 := f.imm.extractLsb' 0 3
      need (sel != 7) .reservedCode
      .ok (.sstat f.ba f.sa sel)
  | 0xB1#8 => do
      need (sa0 && sb0 && q0 && bc0 && vd0 && fn0 && im0) .reservedField; .ok (.sgrow f.sd f.ba f.bb)
  | _ => .error .unassignedOpcode

/-- The instruction that a V-stream word holds (R281, R285 step 1): the format follows from the opcode
(Table 19-7b). -/
def decodeV (w : Word) : Except DecodeError Instr :=
  let op : BitVec 8 := w.extractLsb' 56 8
  match w.extractLsb' 60 4 with
  | 0x0#4 => decodeVb (VbWord.of w)
  | 0x1#4 => decodeVb (VbWord.of w)
  | 0x2#4 => if op == 0x21 then decodeVv (VvWord.of w) else decodeVb (VbWord.of w)
  | 0x3#4 => decodeVv (VvWord.of w)
  | 0x4#4 => decodeVv (VvWord.of w)
  | 0x5#4 => decodeVv (VvWord.of w)
  | 0x6#4 => decodeVv (VvWord.of w)
  | 0x7#4 => decodeVm (VmWord.of w)
  | 0x8#4 => decodeVt (VtWord.of w)
  | 0x9#4 => decodeVc (VcWord.of w)
  | 0xA#4 => decodeVs (VsWord.of w)
  | 0xB#4 => decodeVs (VsWord.of w)
  | _ => .error .unassignedOpcode

/-! ### Encoder -/

/-- The C-stream word of an instruction; none for the instructions of the V-stream and for events. -/
def encodeC : Instr → Option W32
  | .iadd d a b => some (CrWord.word ⟨0x01, d, a, b, 0, 0x00⟩)
  | .isub d a b => some (CrWord.word ⟨0x01, d, a, b, 0, 0x01⟩)
  | .iand d a b => some (CrWord.word ⟨0x01, d, a, b, 0, 0x02⟩)
  | .ior d a b => some (CrWord.word ⟨0x01, d, a, b, 0, 0x03⟩)
  | .ixor d a b => some (CrWord.word ⟨0x01, d, a, b, 0, 0x04⟩)
  | .ishl d a b => some (CrWord.word ⟨0x01, d, a, b, 0, 0x05⟩)
  | .ishr d a b => some (CrWord.word ⟨0x01, d, a, b, 0, 0x06⟩)
  | .isar d a b => some (CrWord.word ⟨0x01, d, a, b, 0, 0x07⟩)
  | .imul d a b => some (CrWord.word ⟨0x01, d, a, b, 0, 0x08⟩)
  | .imulh d a b u => some (CrWord.word ⟨0x01, d, a, b, if u then 1 else 0, 0x09⟩)
  | .idiv d a b u => some (CrWord.word ⟨0x01, d, a, b, if u then 1 else 0, 0x0A⟩)
  | .irem d a b u => some (CrWord.word ⟨0x01, d, a, b, if u then 1 else 0, 0x0B⟩)
  | .imin d a b u => some (CrWord.word ⟨0x01, d, a, b, if u then 1 else 0, 0x0C⟩)
  | .imax d a b u => some (CrWord.word ⟨0x01, d, a, b, if u then 1 else 0, 0x0D⟩)
  | .iclz d a => some (CrWord.word ⟨0x01, d, a, 0, 0, 0x0E⟩)
  | .ipop d a => some (CrWord.word ⟨0x01, d, a, 0, 0, 0x0F⟩)
  | .iset d a b c => some (CrWord.word ⟨0x01, d, a, b, c.code, 0x10⟩)
  | .iaddImm d a i => some (CiWord.word ⟨0x02, d, a, i⟩)
  | .iandImm d a i => some (CiWord.word ⟨0x03, d, a, i⟩)
  | .iorImm d a i => some (CiWord.word ⟨0x04, d, a, i⟩)
  | .ixorImm d a i => some (CiWord.word ⟨0x05, d, a, i⟩)
  | .ishlImm d a n => some (CiWord.word ⟨0x06, d, a, 0b00#2 ++ 0#8 ++ n⟩)
  | .ishrImm d a n => some (CiWord.word ⟨0x06, d, a, 0b01#2 ++ 0#8 ++ n⟩)
  | .isarImm d a n => some (CiWord.word ⟨0x06, d, a, 0b10#2 ++ 0#8 ++ n⟩)
  | .isetImm d a c i => some (CbWord.word ⟨0x07, d, a, c.code, i⟩)
  | .imovz d p i => some (CiWord.word ⟨0x08, d, 0#3 ++ p, i⟩)
  | .imovk d p i => some (CiWord.word ⟨0x09, d, 0#3 ++ p, i⟩)
  | .ipcrel d o => some (CpWord.word ⟨0x0A, d, o⟩)
  | .ld d a wd o => some (CbWord.word ⟨0x10, d, a, wd.code, o⟩)
  | .st d a wd o => some (CbWord.word ⟨0x11, d, a, wd.code, o⟩)
  | .amo d a b dbl o s p => some (CrWord.word ⟨0x12, d, a, b, bit dbl ++ o.code, s.code ++ p.code⟩)
  | .acas d a b dbl o s => some (CrWord.word ⟨0x12, d, a, b, bit dbl ++ o.code, s.code ++ 0x10#6⟩)
  | .ldacq d a dbl s => some (CrWord.word ⟨0x12, d, a, 0, bit dbl ++ 0#2, s.code ++ 0x20#6⟩)
  | .strel a b dbl s => some (CrWord.word ⟨0x12, 0, a, b, bit dbl ++ 0#2, s.code ++ 0x21#6⟩)
  | .fsv => some (CiWord.word ⟨0x13, 0, 0, 0x1000⟩)
  | .fvs => some (CiWord.word ⟨0x13, 0, 0, 0x2000⟩)
  | .fvv => some (CiWord.word ⟨0x13, 0, 0, 0x3000⟩)
  | .fall s => some (CiWord.word ⟨0x13, 0, 0, 0x4#4 ++ 0#10 ++ s.code⟩)
  | .mwatch d a => some (CrWord.word ⟨0x14, d, a, 0, 0, 0⟩)
  | .mwait => some (CjWord.word ⟨0x15, 0⟩)
  | .jmp o => some (CjWord.word ⟨0x18, o⟩)
  | .call o => some (CjWord.word ⟨0x19, o⟩)
  | .jr a => some (CrWord.word ⟨0x1A, 0, a, 0, 0, 0x00⟩)
  | .callr a => some (CrWord.word ⟨0x1A, 0, a, 0, 0, 0x01⟩)
  | .ret => some (CrWord.word ⟨0x1A, 0, 0, 0, 0, 0x02⟩)
  | .bcc a b c o => some (CbWord.word ⟨0x1B, a, b, c.code, o⟩)
  | .vdisp a n => some (CdWord.word ⟨0x20, a, 0, n, 0⟩)
  | .rqget d => some (CrWord.word ⟨0x21, d, 0, 0, 0, 0x00⟩)
  | .rqpoll d => some (CrWord.word ⟨0x21, d, 0, 0, 0, 0x01⟩)
  | .vsync => some (CrWord.word ⟨0x21, 0, 0, 0, 0, 0x02⟩)
  | .vqpos d => some (CrWord.word ⟨0x21, d, 0, 0, 0, 0x03⟩)
  | .hexit => some (CrWord.word ⟨0x22, 0, 0, 0, 0, 0x00⟩)
  | .hyield => some (CrWord.word ⟨0x22, 0, 0, 0, 0, 0x01⟩)
  | .hspawn d a b => some (CrWord.word ⟨0x22, d, a, b, 0, 0x02⟩)
  | .gbar d => some (CrWord.word ⟨0x23, d, 0, 0, 0, 0x00⟩)
  | .garr d => some (CrWord.word ⟨0x23, d, 0, 0, 0, 0x01⟩)
  | .gwait a => some (CrWord.word ⟨0x23, 0, a, 0, 0, 0x02⟩)
  | .trap c => some (CiWord.word ⟨0x30, 0, 0, c⟩)
  | .tret => some (CjWord.word ⟨0x31, 0⟩)
  | .kread d k => some (CiWord.word ⟨0x32, d, 0, 0#4 ++ k⟩)
  | .kwrite a k => some (CiWord.word ⟨0x33, 0, a, 0#4 ++ k⟩)
  | .kset d a k => some (CiWord.word ⟨0x34, d, a, 0#4 ++ k⟩)
  | .kclr d a k => some (CiWord.word ⟨0x35, d, a, 0#4 ++ k⟩)
  | .wfi => some (CjWord.word ⟨0x36, 0⟩)
  | .sinval a b => some (CrWord.word ⟨0x37, 0, a, b, 0, 0⟩)
  | .brk => some (CjWord.word ⟨0x38, 0⟩)
  | _ => none

/-- The fields of a block source: bb, I, imm32 (R284). -/
def BSrc.fields : BSrc → BitVec 4 × BitVec 1 × BitVec 32
  | .reg b => (b, 0, 0)
  | .imm i => (0, 1, i)

/-- A VB word with a block source. -/
def vbWordOf (op : BitVec 8) (bd ba : BReg) (cc : BitVec 3) (s : BSrc) : Word :=
  VbWord.word ⟨op, bd, ba, s.fields.1, cc, s.fields.2.1, 0, s.fields.2.2⟩

/-- The fields of source b: vb, kb, imm16 (R279). -/
def VSrc.fields : VSrc → BitVec 5 × BitVec 2 × BitVec 16
  | .vec v => (v, 0b00, 0)
  | .breg b => (0#1 ++ b, 0b01, 0)
  | .imm i => (0, 0b10, i)

/-- E and mr of an optional mask (R279). -/
def maskE (m : Option MReg) : BitVec 1 := bit m.isSome

/-- mr of an optional mask (R279). -/
def maskR (m : Option MReg) : BitVec 3 := m.getD 0

/-- A VV word with a control, its source b and the fields that the row uses. -/
def vvWordOf (op : BitVec 8) (vd va : BitVec 5) (b : VSrc) (vc : BitVec 5) (rm : BitVec 3) (fn : BitVec 8)
    (c : VCtl) : Word :=
  VvWord.word ⟨op, vd, va, b.fields.1, vc, maskE c.mask, maskR c.mask, rm, b.fields.2.1, c.tail.code, bit c.aq,
    fn, b.fields.2.2⟩

/-- The source of a row without source b: kind 00 with vb = 0 (R282). -/
def VSrc.none : VSrc := .vec 0

/-- A row without a mask: the control fields of R77. -/
def tailCtl (t : Tail) : VCtl := ⟨Option.none, false, t⟩

/-- A row whose destination is a mask or a block register. -/
def maskCtl (c : MCtl) : VCtl := ⟨c.mask, c.aq, .vtype⟩

/-- The order and scope fields of a load or store (Table 9-2); `o` is the order that it may have. -/
def ordFields (o : BitVec 2) : Option Scope → BitVec 2 × BitVec 2
  | .none => (0, 0)
  | some s => (o, s.code)

/-- The order and scope fields of vamo (Table 9-2). -/
def VmOrd.fields : VmOrd → BitVec 2 × BitVec 2
  | .plain => (0, 0)
  | .acq s => (1, s.code)
  | .rel s => (2, s.code)

/-- A VM word. -/
def vmWordOf (op : BitVec 8) (data : VReg) (base stride : BReg) (index : VReg) (t : Tag)
    (ord : BitVec 2 × BitVec 2) (fn : BitVec 3) (off : BitVec 16) (c : VCtl) : Word :=
  VmWord.word ⟨op, data, base, stride, index, 0, maskE c.mask, maskR c.mask, t, c.tail.code, bit c.aq, ord.1,
    ord.2, fn, off⟩

/-- The function bit of .sat (R279). -/
def satFn (s : Bool) : BitVec 8 := if s then 2 else 0

/-- The function bit of .p (R279). -/
def pFn (s : Bool) : BitVec 8 := if s then 4 else 0

/-- The function bit of .tree (R279). -/
def treeFn (s : Bool) : BitVec 8 := if s then 1 else 0

/-- The operation code of mlog (R329). -/
def MlogOp.code : MlogOp → BitVec 8
  | .and => 0 | .or => 1 | .xor => 2 | .andn => 3 | .not => 4

/-- The selector code of mchk (Table 6-7). -/
def ChkSel.code : ChkSel → BitVec 2
  | .pass => 0 | .mismatch => 1 | .abstain => 2

/-- The V-stream word of an instruction; none for the instructions of the C-stream and for events. -/
def encodeV : Instr → Option Word
  | .bli bd imm => some (VbWord.word ⟨0x01, bd, 0, 0, 0, 1, 0, imm⟩)
  | .badd bd ba s => some (vbWordOf 0x02 bd ba 0 s)
  | .bsub bd ba s => some (vbWordOf 0x03 bd ba 0 s)
  | .bmul bd ba s => some (vbWordOf 0x04 bd ba 0 s)
  | .band bd ba s => some (vbWordOf 0x05 bd ba 0 s)
  | .bor bd ba s => some (vbWordOf 0x06 bd ba 0 s)
  | .bxor bd ba s => some (vbWordOf 0x07 bd ba 0 s)
  | .bshl bd ba s => some (vbWordOf 0x08 bd ba 0 s)
  | .bshr bd ba s => some (vbWordOf 0x09 bd ba 0 s)
  | .bset c bd ba s => some (vbWordOf 0x0A bd ba c.code s)
  | .bloop n ba off => some (VbWord.word ⟨0x0B, 0#2 ++ n, ba, 0, 0, 0, 0, off⟩)
  | .bbr c ba bb off => some (VbWord.word ⟨0x0C, 0, ba, bb, c.code, 0, 0, off⟩)
  | .bjmp off => some (VbWord.word ⟨0x0D, 0, 0, 0, 0, 0, 0, off⟩)
  | .vend => some (VbWord.word ⟨0x0E, 0, 0, 0, 0, 0, 0, 0⟩)
  | .vreply n => some (VbWord.word ⟨0x0F, 0, n, 0, 0, 0, 0x00, 0⟩)
  | .vreplyAny m => some (VbWord.word ⟨0x0F, 0, 0#1 ++ m, 0, 0, 0, 0x01, 0⟩)
  | .vreplyNone m => some (VbWord.word ⟨0x0F, 0, 0#1 ++ m, 0, 0, 0, 0x02, 0⟩)
  | .vreplyPop m => some (VbWord.word ⟨0x0F, 0, 0#1 ++ m, 0, 0, 0, 0x03, 0⟩)
  | .bkrd bd k => some (VbWord.word ⟨0x10, bd, 0, 0, 0, 0, 0, 0#20 ++ k⟩)
  | .vmark imm => some (VbWord.word ⟨0x12, 0, 0, 0, 0, 1, 0, imm⟩)
  | .vbrk => some (VbWord.word ⟨0x13, 0, 0, 0, 0, 0, 0, 0⟩)
  | .vsetl bd ba cap vt =>
      some (VbWord.word ⟨0x20, bd, ba, cap.getD 0, 0, 0, 0, 0#15 ++ bit cap.isSome ++ vt⟩)
  | .vtag vd t => some (VvWord.word ⟨0x21, vd, 0, 0, 0, 0, 0, 0, 0, 0, 0, 0, 0#10 ++ t⟩)
  | .vrseed (.reg b) => some (VbWord.word ⟨0x22, 0, b, 0, 0, 0, 0, 0⟩)
  | .vrseed (.imm i) => some (VbWord.word ⟨0x22, 0, 0, 0, 0, 1, 0, i⟩)
  | .vadd vd va b rm sat c => some (vvWordOf 0x30 vd va b 0 rm.code (satFn sat) c)
  | .vsub vd va b rm sat c => some (vvWordOf 0x31 vd va b 0 rm.code (satFn sat) c)
  | .vmul vd va b rm sat c => some (vvWordOf 0x32 vd va b 0 rm.code (satFn sat) c)
  | .vmadd vd va b vc rm c => some (vvWordOf 0x33 vd va b vc rm.code 0 c)
  | .vmsub vd va b vc rm c => some (vvWordOf 0x34 vd va b vc rm.code 0 c)
  | .vdiv vd va b rm c => some (vvWordOf 0x35 vd va b 0 rm.code 0 c)
  | .vmin vd va b rm p c => some (vvWordOf 0x36 vd va b 0 rm.code (pFn p) c)
  | .vmax vd va b rm p c => some (vvWordOf 0x37 vd va b 0 rm.code (pFn p) c)
  | .vabs vd va rm c => some (vvWordOf 0x38 vd va .none 0 rm.code 0 c)
  | .vneg vd va rm c => some (vvWordOf 0x39 vd va .none 0 rm.code 0 c)
  | .vand vd va b c => some (vvWordOf 0x3A vd va b 0 0 0 c)
  | .vor vd va b c => some (vvWordOf 0x3B vd va b 0 0 0 c)
  | .vxor vd va b c => some (vvWordOf 0x3C vd va b 0 0 0 c)
  | .vshl vd va b sat c => some (vvWordOf 0x3D vd va b 0 0 (satFn sat) c)
  | .vshr vd va b c => some (vvWordOf 0x3E vd va b 0 0 0 c)
  | .vsar vd va b c => some (vvWordOf 0x3F vd va b 0 0 0 c)
  | .vcmp cc md va b c => some (vvWordOf 0x40 (0#2 ++ md) va b 0 cc.code 0 (maskCtl c))
  | .vsel vd va b c => some (vvWordOf 0x41 vd va b 0 0 0 c)
  | .vmov vd va c => some (vvWordOf 0x42 vd va .none 0 0 0 c)
  | .vbcast vd b c => some (vvWordOf 0x43 vd 0 b 0 0 0 c)
  | .vid vd c => some (vvWordOf 0x44 vd 0 .none 0 0 0 c)
  | .vcvt vd va rm c => some (vvWordOf 0x45 vd va .none 0 rm.code 0 c)
  | .vsqrt vd va rm c => some (vvWordOf 0x46 vd va .none 0 rm.code 0 c)
  | .vrsqrt vd va rm c => some (vvWordOf 0x47 vd va .none 0 rm.code 0 c)
  | .vrcp vd va rm c => some (vvWordOf 0x48 vd va .none 0 rm.code 0 c)
  | .vexp2 vd va rm c => some (vvWordOf 0x49 vd va .none 0 rm.code 0 c)
  | .vlog2 vd va rm c => some (vvWordOf 0x4A vd va .none 0 rm.code 0 c)
  | .vtanh vd va rm c => some (vvWordOf 0x4B vd va .none 0 rm.code 0 c)
  | .vclass vd va c => some (vvWordOf 0x4C vd va .none 0 0 0 c)
  | .vscale vd va b rm c => some (vvWordOf 0x4D vd va b 0 rm.code 0 c)
  | .vrsum vd va rm tree c => some (vvWordOf 0x50 vd va .none 0 rm.code (treeFn tree) c)
  | .vrmax vd va rm tree c => some (vvWordOf 0x51 vd va .none 0 rm.code (treeFn tree) c)
  | .vrmin vd va rm tree c => some (vvWordOf 0x52 vd va .none 0 rm.code (treeFn tree) c)
  | .vrbit vd va tree c => some (vvWordOf 0x53 vd va .none 0 0 (treeFn tree) c)
  | .vslide vd va b c => some (vvWordOf 0x58 vd va b 0 0 0 c)
  | .vgath vd va vb c => some (vvWordOf 0x59 vd va (.vec vb) 0 0 0 c)
  | .vcomp vd va c => some (vvWordOf 0x5A vd va .none 0 0 0 c)
  | .vexpd vd va c => some (vvWordOf 0x5B vd va .none 0 0 0 c)
  | .vbsl vd va b t => some (vvWordOf 0x60 vd va b 0 0 0 (tailCtl t))
  | .vbsr vd va b t => some (vvWordOf 0x61 vd va b 0 0 0 (tailCtl t))
  | .vfunl vd va vb n t => some (VvWord.word ⟨0x62, vd, va, vb, 0, 0, 0, 0, 0, t.code, 0, 0, n⟩)
  | .vfunr vd va vb n t => some (VvWord.word ⟨0x63, vd, va, vb, 0, 0, 0, 0, 0, t.code, 0, 0, n⟩)
  | .vbext vd va bn t => some (vvWordOf 0x64 vd va (.breg bn) 0 0 0 (tailCtl t))
  | .vbins vd va bn t => some (vvWordOf 0x65 vd va (.breg bn) 0 0 0 (tailCtl t))
  | .mlog op md ma mb => some (vvWordOf 0x68 (0#2 ++ md) (0#2 ++ ma) (.vec (0#2 ++ mb)) 0 0 op.code (tailCtl .vtype))
  | .mpop bd ma => some (vvWordOf 0x69 (0#1 ++ bd) (0#2 ++ ma) .none 0 0 0 (tailCtl .vtype))
  | .mfirst bd ma => some (vvWordOf 0x6A (0#1 ++ bd) (0#2 ++ ma) .none 0 0 0 (tailCtl .vtype))
  | .mbef md ma => some (vvWordOf 0x6B (0#2 ++ md) (0#2 ++ ma) .none 0 0 0 (tailCtl .vtype))
  | .minc md ma => some (vvWordOf 0x6C (0#2 ++ md) (0#2 ++ ma) .none 0 0 0 (tailCtl .vtype))
  | .monly md ma => some (vvWordOf 0x6D (0#2 ++ md) (0#2 ++ ma) .none 0 0 0 (tailCtl .vtype))
  | .mtest k bd ma => some (vvWordOf 0x6E (0#1 ++ bd) (0#2 ++ ma) .none 0 0 (if k then 1 else 0) (tailCtl .vtype))
  | .vld vd base off t o c => some (vmWordOf 0x70 vd base 0 0 t (ordFields 1 o) 0 off c)
  | .vlds vd base off bs t o c => some (vmWordOf 0x71 vd base bs 0 t (ordFields 1 o) 0 off c)
  | .vldx vd base off vi t o c => some (vmWordOf 0x72 vd base 0 vi t (ordFields 1 o) 0 off c)
  | .vldff vd base off t o c => some (vmWordOf 0x73 vd base 0 0 t (ordFields 1 o) 0 off c)
  | .vst vd base off t o c => some (vmWordOf 0x74 vd base 0 0 t (ordFields 2 o) 0 off (maskCtl c))
  | .vsts vd base off bs t o c => some (vmWordOf 0x75 vd base bs 0 t (ordFields 2 o) 0 off (maskCtl c))
  | .vstx vd base off vi t o c => some (vmWordOf 0x76 vd base 0 vi t (ordFields 2 o) 0 off (maskCtl c))
  | .vtld vd vi t c => some (vmWordOf 0x77 vd 0 0 vi t (0, 0) 0 0 c)
  | .vtst vs vi t c => some (vmWordOf 0x78 vs 0 0 vi t (0, 0) 0 0 (maskCtl c))
  | .vamo op vd base off vi t o c => some (vmWordOf 0x79 vd base 0 vi t o.fields op.code off c)
  | .fvvV => some 0x7A00000000000000
  | .mmodeEnter sh => some (VtWord.word ⟨0x80, 0, 0, 0, 0, 0, 0, 0, 0, if sh then 3 else 1, 0, 0⟩)
  | .mmodeLeave => some (VtWord.word ⟨0x80, 0, 0, 0, 0, 0, 0, 0, 0, 0, 0, 0⟩)
  | .msettile bd bs va vb => some (VtWord.word ⟨0x81, 0, va, vb, 0, 0, 0, bs, bd, 0, 0, 0⟩)
  | .mzero z t => some (VtWord.word ⟨0x82, z, 0, 0, 0, 0, 0, 0, 0, t, 0, 0⟩)
  | .mldz z b1 b2 t => some (VtWord.word ⟨0x83, z, 0, 0, 0, 0, 0, b1, b2, t, 0, 0⟩)
  | .mstz z b1 b2 => some (VtWord.word ⟨0x84, z, 0, 0, 0, 0, 0, b1, b2, 0, 0, 0⟩)
  | .mop z va vb none => some (VtWord.word ⟨0x85, z, va, vb, 0, 0, 0, 0, 0, 0, 0, 0⟩)
  | .mop z va vb (some (sa, sb)) => some (VtWord.word ⟨0x85, z, va, vb, sa, sb, 1, 0, 0, 0, 0, 0⟩)
  | .mdrain vd z bn t rm => some (VtWord.word ⟨0x86, z, vd, 0, 0, 0, 0, bn, 0, t, rm.code, 0⟩)
  | .mfill z va bn => some (VtWord.word ⟨0x87, z, va, 0, 0, 0, 0, bn, 0, 0, 0, 0⟩)
  | .mtag z t => some (VtWord.word ⟨0x88, z, 0, 0, 0, 0, 0, 0, 0, t, 0, 0⟩)
  | .mchk sel clr bd z =>
      some (VtWord.word ⟨0x89, z, 0, 0, 0, 0, 0, bd, 0, 0#3 ++ bit clr ++ sel.code, 0, 0⟩)
  | .cpy bd bs bl code cb s mk =>
      some (VcWord.word ⟨0x90, bd, bs, bl, maskR mk, maskE mk, 0, 0#1 ++ code, 0#2 ++ cb, 0, 0#22 ++ s.code⟩)
  | .cpyw cb bst => some (VcWord.word ⟨0x91, 0, 0, 0, 0, 0, 0, 0, 0#2 ++ cb, bst, 0⟩)
  | .cpyr cb => some (VcWord.word ⟨0x92, 0, 0, 0, 0, 0, 0, 0, 0#2 ++ cb, 0, 0⟩)
  | .cpyq cb bst => some (VcWord.word ⟨0x93, 0, 0, 0, 0, 0, 0, 0, 0#2 ++ cb, bst, 0⟩)
  | .sord sd sa o => some (VsWord.word ⟨0xA0, sd, sa, 0, 0, 0, 0, 0, 0, 0, 0#14 ++ o⟩)
  | .sprm ba n => some (VsWord.word ⟨0xA1, 0, 0, 0, 0, ba, 0, 0, 0, 0, 0#12 ++ n⟩)
  | .snew sd ba bb ctl => some (VsWord.word ⟨0xA2, sd, 0, 0, 0, ba, bb, 0, 0, 0, 0#8 ++ ctl⟩)
  | .sld sd ba => some (VsWord.word ⟨0xA3, sd, 0, 0, 0, ba, 0, 0, 0, 0, 0⟩)
  | .sst sa ba => some (VsWord.word ⟨0xA4, 0, sa, 0, 0, ba, 0, 0, 0, 0, 0⟩)
  | .sterm sd ba bb bc => some (VsWord.word ⟨0xA5, sd, 0, 0, 0, ba, bb, bc, 0, 0, 0⟩)
  | .sadd sd sa sb => some (VsWord.word ⟨0xA6, sd, sa, sb, 0, 0, 0, 0, 0, 0, 0⟩)
  | .ssub sd sa sb => some (VsWord.word ⟨0xA7, sd, sa, sb, 0, 0, 0, 0, 0, 0, 0⟩)
  | .smul sd sa sb => some (VsWord.word ⟨0xA8, sd, sa, sb, 0, 0, 0, 0, 0, 0, 0⟩)
  | .smulm sd sa ba bb => some (VsWord.word ⟨0xA9, sd, sa, 0, 0, ba, bb, 0, 0, 0, 0⟩)
  | .sdiv sd sa sb q n => some (VsWord.word ⟨0xAA, sd, sa, sb, q, 0, 0, 0, 0, 0, 0#12 ++ n⟩)
  | .slt sd sa ba => some (VsWord.word ⟨0xAB, sd, sa, 0, 0, ba, 0, 0, 0, 0, 0⟩)
  | .sdrop sd sa => some (VsWord.word ⟨0xAC, sd, sa, 0, 0, 0, 0, 0, 0, 0, 0⟩)
  | .srat sa ba => some (VsWord.word ⟨0xAD, 0, sa, 0, 0, ba, 0, 0, 0, 0, 0⟩)
  | .sexp vd sa ba => some (VsWord.word ⟨0xAE, 0, sa, 0, 0, ba, 0, 0, vd, 0, 0⟩)
  | .scmp sd vd ba => some (VsWord.word ⟨0xAF, sd, 0, 0, 0, ba, 0, 0, vd, 0, 0⟩)
  | .sstat ba sa sel => some (VsWord.word ⟨0xB0, 0, sa, 0, 0, ba, 0, 0, 0, 0, 0#13 ++ sel⟩)
  | .sgrow sd ba bb => some (VsWord.word ⟨0xB1, sd, 0, 0, 0, ba, bb, 0, 0, 0, 0⟩)
  | _ => none

/-- The instruction read from an instruction whose bits are w: a C-stream word is 32 bits, a V-stream word 64
(R274, R279). -/
def decodeTableWord (nbits w : Nat) : Option Instr :=
  if nbits ≤ 32 then (decodeC (BitVec.ofNat 32 w)).toOption
  else (decodeV (BitVec.ofNat 64 w)).toOption

end Sys2Proof
end

