-- ==== Sys2Proof/Config.lean ====
section
/-! DEFINITION. The free values: what spec/ leaves open, as constants without a body, so that nothing can evaluate them
and every statement holds whatever they are. The first argument is State.tick, the second tells apart the values that
one step draws. -/

namespace Sys2Proof.Config

/-- Cycles beyond one that a step of a thread or context takes (00_scope.md: timing; log 7). -/
opaque freeCycles : Nat → Nat → Nat

/-- A choice between the two values that a rule allows (R373, R387; log 8). -/
opaque freeBit : Nat → Nat → Bool

/-- A fraction numerator, read modulo its denominator 2^64, of an exact value known only to lie in an interval
(R373, R387; log 8). -/
opaque freeFraction : Nat → Nat → Word

/-- The candidate of an F48 flush (R112; log 9). -/
opaque freeF48 : Nat → Nat → W48

/-- Busy cycles of a pennant (R220; log 10). -/
opaque freeBusy : Nat → Nat → Nat

/-- A 64-bit value that no rule states (each use is in the log). -/
opaque freeWord : Nat → Nat → Word

/-- The slot of each sector of a copy whose source and destination overlap: whether it reads the source from before the
copy (R158; log 11). -/
opaque freeOverlap : Nat → Nat → Bool

/-! ### What the hardware fixes and no rule states -/

/-- Whether a vsetl of the matrix array's owner with request 0 releases its clusters: R31 and R394 say that it does, R105 and
Table 6-8 that the owner's set cannot change (log 117). -/
opaque ownerReleases : Bool

/-- The HBM bank of a node-local address (R216; log 102). -/
opaque bankOf : Nat → Nat

/-- The HBM row of a node-local address (R216; log 102). -/
opaque rowOf : Nat → Nat

/-- The fused unique device secret (R231; log 103). -/
opaque deviceSecret : List Byte

/-- The ROM's own measurement (R231, R232; log 103). -/
opaque romDigest : List Byte

/-- SHA-384 (R230, R232; log 103). -/
opaque sha384 : List Byte → List Byte

/-- The layer-0 CDI from a secret and a measurement (R231; log 103). -/
opaque deriveCdi : List Byte → List Byte → List Byte

/-- An ECDSA P-384 private key from a CDI and a measurement (R231; log 103). -/
opaque deriveKey : List Byte → List Byte → List Byte

/-- The public key of a private one (R231; log 103). -/
opaque publicKey : List Byte → List Byte

/-- The ECDSA P-384 signature under a private key of a message, with a nonce (R231, R232; log 103). -/
opaque sign : List Byte → List Byte → List Byte → List Byte

/-- The DeviceID certificate, signed in manufacture (R231; log 103). -/
opaque deviceCert : List Byte

/-- The fused hashes of the RSA-3072 and the SLH-DSA public key (R230; log 103). -/
opaque rsaKeyHash : List Byte
opaque slhKeyHash : List Byte

/-- RSASSA-PSS with RSA-3072: a key, a digest and a signature verify (R230; log 103). -/
opaque rsaVerifies : List Byte → List Byte → List Byte → Bool

/-- SLH-DSA-SHA2-192s: a key, a digest and a signature verify (R230; log 103). -/
opaque slhVerifies : List Byte → List Byte → List Byte → Bool

end Sys2Proof.Config
end

