-- ==== Sys2Proof/Machine/State.lean ====
section
/-! DEFINITION. The state of the part, as plain data: every register, queue, buffer and table that spec/ gives it
(INVENTORY.md, State), the reasons a step can stop, and the state right after reset. -/

namespace Sys2Proof.Machine

/-- A map by number: ascending keys, each at most once; what an unlisted key reads as is the reader's default. -/
abbrev Map (α : Type) := List (Nat × α)

/-- A map of words in which no entry equals the default (memory, registers, tiles): equal contents are equal data. -/
abbrev Sparse (w : Nat) := List (Nat × BitVec w)

/-! ### Control thread -/

/-- kcause, ktval, kepc, ktvec, kscratch of one mode (R187). -/
structure TrapRegs where
  cause   : Word := 0
  tval    : Word := 0
  epc     : Word := 0
  tvec    : Word := 0
  scratch : Word := 0
  deriving DecidableEq, Repr, Inhabited

/-- A command of the queue (R43, Table 3-1). -/
structure Command where
  pos   : W32
  nrep  : Nat
  mode  : Nat
  spilt : Bool
  sum   : Bool
  hart  : Nat
  addr  : Word
  args  : List Word
  katp  : Word
  bad   : Bool := false               -- its entry holds an uncorrectable error (R206)
  deriving DecidableEq, Repr, Inhabited

/-- What a control thread sleeps or stalls in; its pc stays at that instruction (R37, R46, R59, R148, R181, R203). In
`release` it waits for earlier writes to perform at sys scope (R182), in `remote` for data of another node, in `fetch` for
its own word from there (R217), in `sinval` for copy chunks that use a removed translation (R194). -/
inductive Wait where
  | rqget | vsync | gwait | gbar | mwait | wfi | vdisp | fence | store | kreg | kctx | kctxr | hexit | release | remote
  | fetch | sinval
  deriving DecidableEq, Repr, Inhabited

/-! ### Vector context -/

/-- An active hardware loop (R301). -/
structure Loop where
  n     : Nat
  first : Word
  last  : Word
  deriving DecidableEq, Repr, Inhabited

/-- The block in progress: its command, the word that runs next, the replies it has sent (R52, R57). -/
structure Block where
  cmd  : Command
  pc   : Word
  sent : Nat
  deriving DecidableEq, Repr, Inhabited

/-- The strip registers (R70). -/
structure Grant where
  vl    : W32 := 0
  vtype : BitVec 16 := 0
  depth : Nat := 96
  g     : W32 := 0
  trim  : Bool := false
  f     : W32 := 0
  deriving DecidableEq, Repr, Inhabited

/-- The counts of a pennant (R220), from the vsetl on. -/
structure Counts where
  start    : Word := 0     -- helm cycle of the vsetl
  arith    : Nat := 0
  memory   : Nat := 0
  tcycles  : Nat := 0
  terms    : Nat := 0
  idle     : Nat := 0
  records  : Nat := 0
  skipped  : Nat := 0
  rewound  : Bool := false
  woff     : W32 := 0
  deriving DecidableEq, Repr, Inhabited

/-- What a shadowed tile was at the vsetl (R122). -/
structure TileMark where
  z   : Nat
  tag : BitVec 6
  nv  : Bool
  of_ : Bool
  deriving DecidableEq, Repr, Inhabited

/-- The checkpoint of a vsetl (R80, R122); `bad` marks the block registers that hold poison in it (R206). -/
structure Checkpoint where
  b     : Sparse 64 := []
  bad   : Map Unit := []
  lc    : List W32 := []
  loops : List Loop := []
  grant : Grant := {}
  pc    : Word := 0
  marks : List TileMark := []
  rnd   : Sparse 32 := []
  deriving DecidableEq, Repr, Inhabited

/-- The open strip (R79-R82). Bit n of `vw` is 1 when v[n] has been written in the strip (it is no longer carried),
of `vr` when v[n] is read-carried; `mw`, `mr` for masks; `zw`, `zr` by tile, one bit for each of its rows (R323). -/
structure Strip where
  isSealed : Bool := false
  ck       : Checkpoint := {}
  vw       : W32 := 0
  vr       : W32 := 0
  mw       : BitVec 8 := 0
  mr       : BitVec 8 := 0
  zw       : Map (BitVec 256) := []
  zr       : Map (BitVec 256) := []
  buf      : Map Byte := []          -- buffered stores, by cell
  bits     : Map Byte := []          -- of a buffered byte that is written in part: its written bits (R398)
  bufBad   : Map Unit := []          -- buffered bytes that were stored poisoned
  storage  : Map Unit := []          -- buffered bytes that were storage writes at their issue (R234, R237)
  stored   : Nat := 0                -- bytes of the buffered stores (R80, R81)
  shadowed : Map (BitVec 256) := []  -- by tile, the rows copied to its shadow
  rewinds  : Nat := 0
  cnt      : Counts := {}
  deriving DecidableEq, Repr, Inhabited

/-- One chunk of a copy: its sectors still unwritten, whether it has faulted since it was last issued, the physical
addresses of its written destination sectors (R158, R160, R163), and the data of its sources on another node: not asked
for, asked for, arrived (R217). -/
structure Chunk where
  unwritten : BitVec 128
  faulted   : Bool := false
  complete  : Bool := false
  pas       : List Nat := []
  asked     : Bool := false
  arrived   : Bool := false
  lost      : Bool := false           -- a transaction of it has become unreachable (R219)
  deriving DecidableEq, Repr, Inhabited

/-- A copy (R157): addresses, length, chunk code, barrier, scope, the window, katp, mode and SUM it is translated
under, and the queue position of its block. -/
structure Copy where
  id     : Nat
  dst    : Word
  src    : Word
  len    : Nat
  code   : Nat
  cb     : Nat
  scope  : Scope
  window : Word
  katp   : Word
  mode   : Nat
  sum    : Bool
  qpos   : W32
  chunks : Map Chunk          -- the chunks that differ from a chunk not yet started
  snap   : Option (List Host.Cell) := none   -- memory from before a copy whose source and destination overlap (R158)
  snapBad : Map Unit := []    -- the bytes of it that hold poison
  seq    : Nat := 0           -- its place among the copies issued on the helm (R37)
  deriving DecidableEq, Repr, Inhabited

/-- What a vector context waits for, with its word still at the block pc. In `release` earlier writes must perform at sys
scope (R182), in `chain` a copy must write what a load reads (R164), in `remote` data of another node must come (R217); `zp`
says that the word loads ZP data (R132). In `cut` a stream instruction stands at the term boundary where a pre-emption stop
has found it (R141). In `fetch` the word itself must come from another node. -/
inductive VWait where
  | clusters | array | unit | copySlot | cpyw | primeDrain | release | cut | fetch
  | chain (zp : Bool)
  | remote (zp : Bool)
  deriving DecidableEq, Repr, Inhabited

/-- A vector context (R62-R70, R80, R95, R106, R108, R156, R199, R211). -/
structure VCtx where
  blk      : Option Block := none
  b        : Sparse 64 := []          -- b0-b15
  lc       : List W32 := [0, 0, 0, 0]
  loops    : List Loop := []          -- innermost first
  v        : Sparse 32 := []          -- container i of v[n] at 32·i + n; unlisted: all ones
  vtags    : Sparse 6 := []           -- unlisted: NONE
  m        : Sparse 1 := []           -- bit of position p, row r of m[n] at 64·p + 8·r + n; unlisted: 1
  grant    : Grant := {}
  kmtile   : Word := 0
  shadow   : Bool := false            -- the shadow option of the owner (R106)
  rnd      : Sparse 32 := []          -- stochastic state per lane; unlisted: all ones
  barriers : Sparse 64 := []          -- cb0-cb3 (ISSUED, DONE)
  copies   : List Copy := []          -- oldest first
  nextCopy : Nat := 0
  binds    : Map Nat := []            -- mask register → copy
  strip    : Option Strip := none
  stopped  : Bool := false
  waiting  : Option VWait := none
  issued   : Option Instr := none     -- the word that issued last: the one that waits, where one does
  recent   : List Instr := []         -- the words before it from the last gathering one on, newest first, at most 8 (R40)
  acqM     : Option (Sparse 1) := none -- the masks as an .acq word in progress has read them at its issue (R163)
  step     : Nat := 0                 -- restart step of the word at the block pc (R193)
  icnt     : Nat := 0
  mark     : W32 := 0
  vpoison  : Map Unit := []           -- containers of v that hold poison, numbered as in v (R206)
  mpoison  : Map Unit := []           -- mask bits that hold poison, numbered as in m
  bpoison  : Map Unit := []           -- block registers that hold poison
  vsup     : Bool := false            -- one-word suppression of kbrk in the V-stream (R223)
  refillBad : Bool := false           -- the next ring entry could not be read (R49)
  dying     : Option (Nat × Nat) := none -- a kill, by SRC and PA, that waits for the copies in flight (R167, R208)
  preempt   : Option Nat := none      -- a pre-emption stop meets the next stream instruction after so many terms (R141)
  answered  : Bool := false           -- what the word at the block pc reads on another node has come (R217)
  lost      : Bool := false           -- where `answered`: it is lost, its transaction having become unreachable (R217)
  laneUpset : Bool := false           -- an upset: the next comparison of a checking lane differs (R212)
  termUpset : Bool := false           -- an upset: the next comparison of a check cell differs (R124)
  deriving DecidableEq, Repr, Inhabited

/-! ### Hart -/

/-- A hart: control thread and vector context (R18); a free context is one with live = false. -/
structure Hart where
  live      : Bool := false
  scalar    : Bool := false
  x         : Sparse 64 := []
  pc        : Word := 0
  kstatus   : Word := 0
  sup       : TrapRegs := {}
  fw        : TrapRegs := {}
  katp      : Word := 0
  kflags    : Word := 0
  kfrm      : Word := 0
  ras       : List Word := []         -- return addresses on chip, newest first
  spill     : W32 := 0
  krasb     : Word := 0
  krasl     : Word := 0
  kdeadline : Word := 0
  kgang     : Word := 0xFFFFFFFF
  kgbar     : Word := 0
  next      : W32 := 0
  head      : W32 := 0
  ksqb      : Word := 12
  sqProd    : Nat := 0
  sqCons    : Nat := 0
  spilt     : W32 := 0
  quota     : W32 := 0
  replies   : List Word := []         -- arrived and not consumed, oldest first
  replyBad  : Map Unit := []          -- those of them that hold poison, by place in the queue (R206)
  rsv       : Nat := 0
  queue     : List Command := []      -- on chip, oldest first; the block in progress is its head
  kvfault   : Word := 0
  kvrstSel  : BitVec 4 := 0
  kvrst     : Map (BitVec 8 × BitVec 16) := []   -- (DELTA, STEP) per cluster index
  vfTval    : Word := 0
  vfPend    : Bool := false           -- a vector fault waits for delivery
  kpreq     : BitVec 2 := 0           -- IHI, PRE
  ihiFrom   : Nat := 0
  kpen      : Word := 12
  kpenc     : Word := 0
  kterm     : BitVec 6 := 0           -- SEL, CL
  kspb      : Word := 0
  kprimeSel : BitVec 3 := 0
  kminimg   : BitVec 4 := 1
  kcpfq     : Word := 12
  cpfProd   : Nat := 0
  kmcheck   : Word := 0
  mcPend    : Option Word := none     -- machine check not yet taken, with its ktval
  mgmtPend  : Bool := false           -- management event 0x43 not yet taken
  kbrk      : Word := 0
  supPend   : List (Nat × Nat) := []  -- C-stream hits whose handler has not returned: its mode, the traps to that mode
                                      -- taken and not returned from since, newest first (R223)
  csup      : Bool := false           -- the next C-stream word is not compared with kbrk
  monitor   : Option Nat := none      -- line address of the armed monitor
  monHit    : Bool := false
  wait      : Option Wait := none
  issued    : Option Instr := none    -- the instruction that issued last: the one that waits, where one does (R37)
  owed      : List Nat := []          -- the junction lines that a fall.core has left, and that the next block waits for (R180)
  pins      : List (Nat × Nat × Nat) := []   -- the chunks that a sinval waits for, by hart, copy and chunk (R194)
  yielding  : Bool := false
  yieldAt   : Nat := 0                -- kcycle at the hyield (R25)
  gang      : Nat := 0                -- which gang it is a member of, by the number that Part.nextGang gave it (R22)
  xpoison   : Map Unit := []          -- x registers that hold poison (R206)
  answered  : Bool := false           -- what the instruction at the pc reads on another node has come (R217)
  ctx       : VCtx := {}
  deriving DecidableEq, Repr, Inhabited

/-! ### Core -/

/-- A line of a junction buffer: its number (physical address div 64), its written bytes by offset (R148), the hart that
has stored to it last, the bytes that hold poison (R206), and those that were storage writes at their issue (R234, R237). -/
structure JLine where
  line  : Nat
  bytes : Map Byte
  hart  : Nat := 0
  bad   : Map Unit := []
  storage : Map Unit := []
  deriving DecidableEq, Repr, Inhabited

/-- A cached translation (R191): leaf level, 4 KiB page number of its base, ASID, the leaf PTE, and the heat counts of
an L2 entry (R165). -/
structure TlbEntry where
  vpn   : Nat
  level : Nat
  asid  : BitVec 16
  pte   : Word
  unitCnt : Nat := 0
  strided : Nat := 0
  indexed : Nat := 0
  deriving DecidableEq, Repr, Inhabited

/-- A context in the stalled list (R31); `need` is the saved count for a kctxr (R34). -/
structure Stalled where
  ctx  : Nat
  need : Option Nat
  deriving DecidableEq, Repr, Inhabited

/-- An accumulator tile (R103, R114, R125); cell 512·row + column, unlisted cells read `fill`. -/
structure Tile where
  tag      : BitVec 6 := 0
  fill     : W48 := 0xFFFFFFFFFFFF
  cells    : Sparse 48 := []
  nv       : Bool := false
  of_      : Bool := false
  pass     : W32 := 0
  mismatch : W32 := 0
  abstain  : W32 := 0
  deriving DecidableEq, Repr, Inhabited

/-- The three term counters of a cluster (R116). -/
structure TermCounters where
  terms   : BitVec 56 := 0
  tcycles : BitVec 56 := 0
  idle    : BitVec 56 := 0
  deriving DecidableEq, Repr, Inhabited

/-- A term-stream descriptor (R127, Table 7-1). -/
structure Descriptor where
  base   : Word := 0
  cap    : W32 := 0
  count  : W32 := 0
  gen    : BitVec 16 := 0
  valid  : BitVec 8 := 0
  kind   : BitVec 4 := 0
  order  : BitVec 2 := 0
  layout : BitVec 2 := 0
  cursor : Word := 0
  sig    : Word := 0
  rfcnt  : W32 := 0
  disc   : W32 := 0
  rf     : Bool := false
  part   : Bool := false
  deriving DecidableEq, Repr, Inhabited

/-- Ownership of the matrix array or of the stream unit: owner, last owner (hart numbers), waiting harts in order of
arrival (R104, R131). -/
structure Owned where
  owner   : Option Nat := none
  last    : Option Nat := none
  waiting : List Nat := []
  deriving DecidableEq, Repr, Inhabited

/-- A core: control core and helm. -/
structure Core where
  clusters : Map Nat := []            -- cluster → owning context
  retired  : List Nat := []           -- retired clusters
  lanesOut : List Nat := []           -- clusters whose checking lane replaces a working lane (R213)
  stalled  : List Stalled := []
  klpr     : Word := 0x0800080008000800
  kcycle   : Word := 0
  hcycle   : Word := 0
  junction : List JLine := []         -- oldest first
  itlb     : List TlbEntry := []
  dtlb     : List TlbEntry := []
  helmTlb  : List TlbEntry := []
  array    : Owned := {}
  tiles    : Map Tile := []
  zpoison  : Map Unit := []           -- cells of tiles that hold poison: cell c of z[n] at 32·c + n (R206)
  counters : Map TermCounters := []
  stream   : Owned := {}
  descs    : Map Descriptor := []
  dpoison  : Map Unit := []
  primes   : List Nat := []
  pgen     : BitVec 16 := 0
  kbecalm  : Word := 0x1000000000
  becalmed : Nat := 0                 -- helm cycle of the hold
  holdWhy  : Nat := 0                 -- 0 management, 1 breakpoint, 2 kill (R225)
  kdump    : Word := 25
  ccOut    : Bool := false            -- the control core is retired (R213)
  copySeq  : Nat := 0                 -- copies issued on the helm (R37)
  deriving DecidableEq, Repr, Inhabited

/-- A tower: L2 TLB, heat ring (R165, R166). -/
structure Tower where
  tlb      : List TlbEntry := []      -- oldest first
  kheat    : Word := 12
  heatProd : Nat := 0
  deriving DecidableEq, Repr, Inhabited

/-! ### Part -/

/-- What kctx saves from offset 4,096 of an image on (R204): the part's own contents. -/
structure Image where
  ctx      : VCtx
  kflags   : Word
  kfrm     : Word
  next     : W32
  head     : W32
  replies  : List Word
  replyBad : Map Unit := []
  rsv      : Nat
  kvfault  : Word
  kvrst    : Map (BitVec 8 × BitVec 16)
  vfTval   : Word
  vfPend   : Bool
  cmds     : List Command             -- the commands of the queue, oldest first
  held     : Nat                      -- clusters held
  tiles    : Option (Map Tile)        -- cells by tile column: 512·row + column of the saved set
  zpoison  : Map Unit := []
  counters : Map TermCounters := []   -- by column group of the saved set (R126)
  streams  : Option (Map Descriptor × List Nat × BitVec 16)
  dpoison  : Map Unit := []
  size     : Nat
  deriving DecidableEq, Repr, Inhabited

/-- Who asks for data of another node, or has made a write: a control thread, a word of a vector context, the fetch of either, a
chunk of a copy, a fabric peer (R217). -/
inductive Asker where
  | scalar | vector | fetch | vfetch | chunk (copy chunk : Nat) | outside
  deriving DecidableEq, Repr, Inhabited

/-- A transaction over Rencon that its source retains (R217), or a write to the storage window that the host has not yet
accepted as persistent (R237; `storage`). `addr` is the address that its outcome names: virtual, or physical where nothing
translates (R198, R290). -/
structure Transaction where
  id    : Nat
  hart  : Nat
  write : Bool
  pa    : Nat
  data  : List Byte
  tries : Nat := 0
  asker : Asker := .scalar
  addr  : Word := 0
  storage : Bool := false
  deriving DecidableEq, Repr, Inhabited

/-- A write to a k-register of a hart that the host or a fabric peer has sent and that waits, as the kwrite would (R17): the
register, the value, the sender that kipi names, and whether a kctxr has stalled in it. -/
structure Posted where
  hart    : Nat
  reg     : Nat
  data    : Word
  sender  : Nat
  stalled : Bool := false
  deriving DecidableEq, Repr, Inhabited

/-- A gang or ungang request not yet in effect (R14), by core numbers. -/
structure GangChange where
  form   : Bool
  leader : Nat
  dark   : Nat
  caller : Nat
  deriving DecidableEq, Repr, Inhabited

/-- The identity of the part (R231, TCG DICE): the layer-0 CDI, the private keys of DeviceID and Alias, the certificate of
the Alias key, and the measurement of the firmware that phase 3 has verified. -/
structure Identity where
  cdi       : List Byte := []
  deviceKey : List Byte := []
  aliasKey  : List Byte := []
  aliasCert : List Byte := []
  fwDigest  : List Byte := []
  deriving DecidableEq, Repr, Inhabited

/-- What the ROM derives at power-on: the layer-0 CDI from the fused secret and the ROM's own measurement, and from it the
DeviceID key (R231). -/
def Identity.ofRom : Identity :=
  let cdi := Config.deriveCdi Config.deviceSecret Config.romDigest
  { cdi := cdi, deviceKey := Config.deriveKey cdi [] }

/-- What phase 3 derives: the Alias key from the layer-0 CDI and the firmware measurement, and its certificate, of the key
and what else it holds, signed by the DeviceID key with a nonce (R231; log 103). -/
def Identity.withFirmware (i : Identity) (digest more nonce : List Byte) : Identity :=
  let key := Config.deriveKey i.cdi digest
  let body := Config.publicKey key ++ more
  { i with aliasKey := key, aliasCert := body ++ Config.sign i.deviceKey body nonce, fwDigest := digest }

/-- The lowest k bytes of a number. -/
def numBytes (n k : Nat) : List Byte := (List.range k).map fun i => BitVec.ofNat 8 (n / 256 ^ i)

/-- The measurement of a firmware image, its header included: the digest that both signatures cover (R230, R232; the
header's form: log 103). -/
def fwMeasure (f : Firmware) : List Byte :=
  Config.sha384 (numBytes f.base.toNat 8 ++ numBytes f.supEntry.toNat 8 ++ numBytes f.fwEntry.toNat 8 ++ numBytes f.secVer 8
    ++ f.bytes)

/-- The part outside its cores. DESIGN CHOICE (log 2): of kbist at reset, Table 12-2's Reset column gives DONE 0 and PHASE
0, its Meaning column with R227 and R228 gives DONE 1 and PHASE 4 at that moment; the latter is taken. -/
structure Part where
  node     : BitVec 12 := 0
  power    : Bool := true
  cut      : Bool := false            -- cut at 115 degrees, not yet cooled (R239)
  kbist    : Word := 0xA000000000000000
  hoist    : List W32
  flash    : Firmware
  minSec   : Nat := 0                 -- fused minimum security version (R230)
  portst   : Map Word := []
  hlst     : Word := 0
  srb      : Map Word := []
  srl      : Map Word := []
  pwr      : Word := 0x8000000000000960
  mev      : Word := 0
  mailbox  : List Byte := []          -- last answer of the management controller or of BAR 0
  measured : List W32 := []           -- the hoist map as measurement 4 reports it (R232)
  identity : Identity := {}
  hostLost : Bool := false            -- the host link has gone down and not trained again (R238)
  mem      : List Host.Cell := []
  poison   : Map Unit := []           -- poisoned bytes
  trans    : List Transaction := []
  nextTid  : Nat := 0
  spares   : Map Nat := []            -- spare lanes in use per group of 8 ports (R218)
  routes   : Map (List (List Nat)) := []   -- by destination node: its primary port set, then its alternates (R219)
  corrected : Nat := 0                -- single-bit errors that firmware has counted (R206)
  rowErrors : Map (List Nat) := []    -- by HBM row: the helm cycles of its corrected errors (R216)
  rowsUsed  : Map Nat := []           -- by HBM bank: spare rows in use (R216)
  nextGang : Nat := 1                 -- the number of the next gang of harts (R22)
  dead     : List (Nat × Nat × Bool) := []   -- retired half-slabs: tower, slab, upper (R10, R213)
  deadClusters : List (Nat × Nat × Bool × Nat) := []   -- retired clusters, by half-slab and place in it (R213)
  deadLanes    : List (Nat × Nat × Bool × Nat) := []   -- clusters whose checking lane has taken over (R213)
  deadHelms    : List Nat := []       -- retired helms, by hoist-map index (R213)
  deadControl  : List Nat := []       -- retired control cores, by number (R11, R213)
  images   : List Image := []         -- saved images by handle
  gangs    : List GangChange := []
  retiring : List RUnit := []
  posted   : List Posted := []        -- oldest first
  deriving DecidableEq, Repr, Inhabited

/-- Who moves next: a control thread, a vector context, an event of the part in which hart h is the current one, or
something that no row of the opcode table names: an upset of a term cell (`term`) or a lane of hart h's clusters,
which the checks of R123 and R211 then find; a pre-emption stop that will find the next stream instruction of hart h after
n terms (R141); the host accepts the oldest storage write as persistent, or loses power (R237); FEC corrects a flit of a
port (Table 12-5); a k-register write from outside that waits goes on (R17). -/
inductive Move where
  | ctl (h : Nat)
  | vec (h : Nat)
  | event (h : Nat) (i : Instr)
  | upset (h : Nat) (term : Bool)
  | preempt (h n : Nat)
  | persist
  | hostPowerFail
  | flitCorrected (port : Nat)
  | posted
  deriving DecidableEq, Repr, Inhabited

/-- The machine. `agenda`, `rr`, `cur` and `tick` are the model's own: the coming moves, the round-robin pointer, the
hart whose act is performed, and the counter that free values are drawn from. -/
structure State where
  part   : Part
  harts  : Map Hart
  cores  : Map Core
  towers : Map Tower
  agenda : List Move
  rr     : Nat
  cur    : Nat
  tick   : Nat
  deriving DecidableEq, Repr, Inhabited

/-! ### Stops -/

/-- Why a step stops. -/
inductive Fault where
  /-- Raised by `step` alone, for a part without power and with no event of the power supply due (R227, R229): nothing
  executes. Safe: the hardware does nothing either. -/
  | noPower
  deriving DecidableEq, Repr, Inhabited

/-- Why a step has no meaning. -/
inductive Refusal where
  /-- An instruction of the table that has no meaning yet, by its mnemonic. Safe: the model stops where the hardware
  goes on. -/
  | notModelled (mnemonic : String)
  deriving DecidableEq, Repr, Inhabited

/-! ### Reset -/

/-- The hoist-map entry of helm `h` of tower `t` at reset: helms 0-15 enabled with their own slab, helm 16 the disabled
spare. DESIGN CHOICE (log 2): EN, CORE, L0 and U0 are written in phase 2. L1 = U1 = 0b11 (R12). -/
def resetHoist (t h : Nat) : W32 :=
  if h < 16 then BitVec.ofNat 32 (0x80000000 + (16 * t + h) * 0x40000 + 0xF00)
  else BitVec.ofNat 32 0xFF00

/-- Hart 0 at the end of phase 4 (R228): sup mode, katp bare. DESIGN CHOICE (log 3): entry and fw handler 0; (log 6):
x registers 0. -/
def resetHart0 : Hart := { live := true, kstatus := 0x100 }

/-- The state right after reset: the end of bring-up phase 4 (R4, R228). -/
def State.reset : State where
  part := {
    hoist := (List.range 4).flatMap fun t => (List.range 17).map fun h => resetHoist t h
    flash := {}
    identity := Identity.ofRom.withFirmware (fwMeasure {}) [] []
    measured := (List.range 4).flatMap fun t => (List.range 17).map fun h => resetHoist t h }
  harts := [(0, resetHart0)]
  cores := []
  towers := []
  agenda := []
  rr := 0
  cur := 0
  tick := 0

end Sys2Proof.Machine
end

