-- ==== Sys2Proof/Machine/Maps.lean ====
section
/-! DEFINITION. Reading and writing the maps of the state, and the bit fields of words. -/

namespace Sys2Proof.Machine

/-! ### Maps -/

/-- The value at key k, or the default. -/
def Map.get {α : Type} (d : α) : Map α → Nat → α
  | [], _ => d
  | (j, a) :: m, k => if j = k then a else Map.get d m k

/-- The value at key k, if there is one. -/
def Map.find {α : Type} : Map α → Nat → Option α
  | [], _ => none
  | (j, a) :: m, k => if j = k then some a else Map.find m k

/-- The map without key k. -/
def Map.erase {α : Type} : Map α → Nat → Map α
  | [], _ => []
  | (j, a) :: m, k => if j = k then Map.erase m k else (j, a) :: Map.erase m k

/-- Inserts an entry before the first larger key. -/
def Map.insert {α : Type} : Map α → Nat → α → Map α
  | [], k, a => [(k, a)]
  | (j, b) :: m, k, a => if k < j then (k, a) :: (j, b) :: m else (j, b) :: Map.insert m k a

/-- The map with a at key k. -/
def Map.put {α : Type} (m : Map α) (k : Nat) (a : α) : Map α := Map.insert (Map.erase m k) k a

/-- The map with the value at key k changed. -/
def Map.modify {α : Type} (d : α) (m : Map α) (k : Nat) (f : α → α) : Map α := Map.put m k (f (Map.get d m k))

/-- The word at key k of a sparse map whose unlisted keys read d. -/
def Sparse.read {w : Nat} (d : BitVec w) (m : Sparse w) (k : Nat) : BitVec w := Map.get d m k

/-- The sparse map with v at key k: writing what an unlisted key reads as removes the entry. -/
def Sparse.write {w : Nat} (d : BitVec w) (m : Sparse w) (k : Nat) (v : BitVec w) : Sparse w :=
  if v = d then Map.erase m k else Map.put m k v

/-- The canonical form: strictly rising keys, no entry equal to the default. -/
def Sparse.wf {w : Nat} (d : BitVec w) : Sparse w → Bool
  | [] => true
  | (k, v) :: m => v != d && (m.all fun e => decide (k < e.1)) && Sparse.wf d m

/-! ### Bit fields -/

/-- The field of len bits from bit lo, as a number. -/
def fld {w : Nat} (v : BitVec w) (lo len : Nat) : Nat := (v.toNat >>> lo) % 2 ^ len

/-- One bit of a word. -/
def tst {w : Nat} (v : BitVec w) (i : Nat) : Bool := v.getLsbD i

/-- The word with the field of len bits from bit lo set to n modulo 2^len. -/
def putFld {w : Nat} (v : BitVec w) (lo len n : Nat) : BitVec w :=
  let m := BitVec.ofNat w (2 ^ len - 1) <<< lo
  (v &&& ~~~m) ||| (BitVec.ofNat w (n % 2 ^ len) <<< lo)

/-- The word with bit i set to c. -/
def putBit {w : Nat} (v : BitVec w) (i : Nat) (c : Bool) : BitVec w := putFld v i 1 (if c then 1 else 0)

/-- A truth value as a number. -/
def natOf (c : Bool) : Nat := if c then 1 else 0

/-! ### Bytes (R1: little-endian) -/

/-- The n low bytes of a word, the lowest first. -/
def bytesOf {w : Nat} (v : BitVec w) (n : Nat) : List Byte :=
  (List.range n).map fun i => BitVec.ofNat 8 (v.toNat >>> (8 * i))

/-- The number that bytes spell, the lowest first. -/
def natOfBytes : List Byte → Nat
  | [] => 0
  | b :: bs => b.toNat + 256 * natOfBytes bs

/-- The word that bytes spell, the lowest first. -/
def ofBytes (w : Nat) (bs : List Byte) : BitVec w := BitVec.ofNat w (natOfBytes bs)

/-- A number of w bits read as signed. -/
def signedOf (w n : Nat) : Int := if n % 2 ^ w < 2 ^ (w - 1) then (n % 2 ^ w : Nat) else ((n % 2 ^ w : Nat) : Int) - (2 ^ w : Nat)

/-- Whether a list of numbers holds n. -/
def hasNat (l : List Nat) (n : Nat) : Bool := l.any fun m => m == n

end Sys2Proof.Machine
end

