-- ==== Sys2Proof/Machine/Ops.lean ====
section
/-! DEFINITION. The named operations over the state: harts, cores, the hoist map, physical memory with the junction
buffers and Rencon, taking an exception and returning from one. -/

namespace Sys2Proof.Machine

/-! ### Harts, cores, towers -/

/-- Hart h. -/
def State.hartAt (s : State) (h : Nat) : Hart := Map.get {} s.harts h

/-- The state with hart h replaced. -/
def State.setHart (s : State) (h : Nat) (v : Hart) : State := { s with harts := Map.put s.harts h v }

/-- The state with hart h changed. -/
def State.modHart (s : State) (h : Nat) (f : Hart → Hart) : State := s.setHart h (f (s.hartAt h))

/-- The state with the vector context of hart h changed. -/
def State.modCtx (s : State) (h : Nat) (f : VCtx → VCtx) : State :=
  s.modHart h fun v => { v with ctx := f v.ctx }

/-- The state with the open strip of hart h changed. -/
def State.modStrip (s : State) (h : Nat) (f : Strip → Strip) : State :=
  s.modCtx h fun c => { c with strip := c.strip.map f }

/-- Core c. -/
def State.coreAt (s : State) (c : Nat) : Core := Map.get {} s.cores c

/-- The state with core c changed. -/
def State.modCore (s : State) (c : Nat) (f : Core → Core) : State :=
  { s with cores := Map.put s.cores c (f (s.coreAt c)) }

/-- Tower t. -/
def State.towerAt (s : State) (t : Nat) : Tower := Map.get {} s.towers t

/-- The state with tower t changed. -/
def State.modTower (s : State) (t : Nat) (f : Tower → Tower) : State :=
  { s with towers := Map.put s.towers t (f (s.towerAt t)) }

/-- The state with the part outside its cores changed. -/
def State.modPart (s : State) (f : Part → Part) : State := { s with part := f s.part }

/-- The hart whose act is performed. -/
def State.hart (s : State) : Hart := s.hartAt s.cur

/-- Its vector context. -/
def State.ctx (s : State) : VCtx := s.hart.ctx

/-- The state with the current hart changed. -/
def State.mod (s : State) (f : Hart → Hart) : State := s.modHart s.cur f

/-- The core of hart h (R18). -/
def coreOf (h : Nat) : Nat := h / 4

/-- The context number of hart h (R18). -/
def ctxOf (h : Nat) : Nat := h % 4

/-- x[r] of a hart: x0 reads 0 (R274). -/
def Hart.xr (v : Hart) (r : XReg) : Word := if r = 0 then 0 else Sparse.read 0 v.x r.toNat

/-- x[r] ← w: writes to x0 are ignored (R274). New data takes a poison mark away (R206). -/
def Hart.xw (v : Hart) (r : XReg) (w : Word) : Hart :=
  if r = 0 then v else { v with x := Sparse.write 0 v.x r.toNat w, xpoison := Map.erase v.xpoison r.toNat }

/-- x[r] of the current hart. -/
def State.xr (s : State) (r : XReg) : Word := s.hart.xr r

/-- x[r] ← w in the current hart. -/
def State.xw (s : State) (r : XReg) (w : Word) : State := s.mod fun v => v.xw r w

/-- The pc of the current hart. -/
def State.pc (s : State) : Word := s.hart.pc

/-- pc ← w in the current hart. -/
def State.setPc (s : State) (w : Word) : State := s.mod fun v => { v with pc := w }

/-- The instruction of the current hart has executed: the next word, and no sleep or stall. -/
def State.advance (s : State) : State := s.mod fun v => { v with pc := v.pc + 4, wait := none, answered := false }

/-- x[d] ← w, then the next word. -/
def State.done (s : State) (d : XReg) (w : Word) : State := (s.xw d w).advance

/-- The instruction of the current hart sleeps or stalls: its pc stays. -/
def State.stall (s : State) (w : Wait) : State := s.mod fun v => { v with wait := some w }

/-- The instruction of the current hart has had no effect and executes again: its pc stays and it sleeps in nothing. -/
def State.again (s : State) : State := s.mod fun v => { v with wait := none, answered := false }

/-- The mode of a hart: 0 app, 1 sup, 2 fw (R186). -/
def Hart.pm (v : Hart) : Nat := fld v.kstatus 8 2

/-- kstatus.SUM (R186). -/
def Hart.sumBit (v : Hart) : Bool := tst v.kstatus 2

/-- kstatus.IE (R186). -/
def Hart.ie (v : Hart) : Bool := tst v.kstatus 0

/-- The trap registers of a mode (R187). -/
def Hart.trapRegs (v : Hart) (mode : Nat) : TrapRegs := if mode = 2 then v.fw else v.sup

/-- The hart with the trap registers of a mode changed (R187). -/
def Hart.setTrapRegs (v : Hart) (mode : Nat) (t : TrapRegs) : Hart :=
  if mode = 2 then { v with fw := t } else { v with sup := t }

/-- kgang.ING (R21). -/
def Hart.inGang (v : Hart) : Bool := tst v.kgang 62

/-- kgang.NMEM + 1 (R27). -/
def Hart.members (v : Hart) : Nat := fld v.kgang 56 6 + 1

/-- kgang.GID (R21). -/
def Hart.gid (v : Hart) : Nat := fld v.kgang 48 8

/-- kgang.GCL (R21). -/
def Hart.gcl (v : Hart) : Nat := fld v.kgang 43 5

/-- kgang.PEND (R21). -/
def Hart.pendBit (v : Hart) : Bool := tst v.kgang 42

/-! ### The hoist map (R10-R13) -/

/-- The index in the hoist map of the helm with core number c, enabled or retired in the field. -/
def State.slot (s : State) (c : Nat) : Option Nat :=
  s.part.hoist.findIdx? fun e => tst e 31 && fld e 18 6 == c

/-- The hoist-map entry at an index. -/
def State.hoistAt (s : State) (i : Nat) : W32 := s.part.hoist.getD i 0

/-- Core c has an enabled helm. -/
def State.enabled (s : State) (c : Nat) : Bool := (s.slot c).isSome

/-- A field of the entry of core c. -/
def State.hoistBit (s : State) (c i : Nat) : Bool :=
  match s.slot c with
  | some k => tst (s.hoistAt k) i
  | none => false

/-- Core c leads a gang of slabs (R12). -/
def State.ganged (s : State) (c : Nat) : Bool := s.hoistBit c 30

/-- Core c is dark (R12). -/
def State.dark (s : State) (c : Nat) : Bool := s.hoistBit c 29

/-- The tower of core c (R11). -/
def State.towerOf (s : State) (c : Nat) : Nat := ((s.slot c).getD 0) / 17

/-- The core whose helm is the next enabled one above that of core c in its tower (R13). -/
def State.nextHelm (s : State) (c : Nat) : Option Nat :=
  match s.slot c with
  | none => none
  | some i =>
    let above := (List.range 17).filterMap fun d =>
      let j := i + 1 + d
      if j / 17 == i / 17 && tst (s.hoistAt j) 31 then some (fld (s.hoistAt j) 18 6) else none
    above.head?

/-- The cluster count C of core c (R28, R31, R213). -/
def State.clusterCount (s : State) (c : Nat) : Nat :=
  let base := if s.dark c then 0 else if s.ganged c then 16 else if s.enabled c then 8 else 0
  base - (s.coreAt c).retired.length

/-- Whether a hart may exist on core c (R11, R213). -/
def State.canHold (s : State) (c : Nat) : Bool := s.enabled c && !(s.coreAt c).ccOut

/-- The clusters that context t of core c holds, ascending (R30). -/
def State.held (s : State) (c t : Nat) : List Nat :=
  (List.range 16).filter fun k => Map.find (s.coreAt c).clusters k == some t

/-- The cluster set S of hart h, ascending (R62). -/
def State.clusterSet (s : State) (h : Nat) : List Nat := s.held (coreOf h) (ctxOf h)

/-! ### Physical addresses (R15-R17, R234, R236) -/

/-- What a physical address reaches: `hostLost` is the host window after its link has gone down (R238), `remote` memory of
another node, `remoteReg` a register of another node's windows. -/
inductive PaKind where
  | hbm
  | spad (core off : Nat)
  | kwin (hart off : Nat)
  | engine (off : Nat)
  | host
  | hostLost
  | remote (node : Nat)
  | remoteReg (node : Nat)
  | bad
  deriving DecidableEq, Repr, Inhabited

/-- PORTST of a port: it is in the routing tables (Table 12-5). -/
def State.portUp (s : State) (p : Nat) : Bool := tst (Map.get 0 s.part.portst p) 63

/-- The port sets that lead to node n: those that firmware has given it, and the ports that have it at their far end
(R219; DESIGN CHOICE, log 104). -/
def State.portSets (s : State) (n : Nat) : List (List Nat) :=
  Map.get [] s.part.routes n ++ [(s.part.portst.filter fun e => fld e.2 48 12 == n).map fun e => e.1]

/-- The part reaches node n: a port of its primary set, or of the next alternate, is in the routing tables (R15, R218,
R219). -/
def State.reaches (s : State) (n : Nat) : Bool := (s.portSets n).any fun l => l.any s.portUp

/-- The node number of a physical address names this part (R15). -/
def State.isLocal (s : State) (pa : Nat) : Bool :=
  pa / 2 ^ 44 == 0xFFF || pa / 2 ^ 44 == s.part.node.toNat

/-- The host window answers (R236, R238). -/
def State.hostUp (s : State) : Bool := tst s.part.hlst 63 && tst s.part.hlst 62

/-- The offset of an engine window names a register (Table 12-4). -/
def engineOk (off : Nat) : Bool :=
  (off % 8 == 0) && (off < 0x400 || off == 0x1000 || (0x1100 ≤ off && off < 0x1180) || off == 0x1200 || off == 0x1300)

/-- Table 1-5 as it decodes an address at another node n: which cores and harts that node has, and whether its host link
is trained, is not known here (log 105). -/
def remoteKind (n a : Nat) : PaKind :=
  if a < 0xC000000000 then .remote n
  else if a < 0x80000000000 then .bad
  else if a < 0x80010000000 then (if a % 0x400000 < 0x300000 then .remote n else .bad)
  else if a < 0xA0000000000 then .bad
  else if a < 0xA0000800000 then .remoteReg n
  else if a < 0xC0000000000 then
    if engineOk ((a - 0xA0000800000) / 8 * 8) then .remoteReg n else .bad
  else .remote n

/-- An address lies within the 3 MiB of a scratchpad window, whosever it is (Table 1-5). -/
def inSpadWindow (pa : Nat) : Bool :=
  let a := pa % 2 ^ 44
  decide (0x80000000000 ≤ a) && decide (a < 0x80010000000) && decide (a % 0x400000 < 0x300000)

/-- Decodes a physical address (R15, Table 1-5). -/
def State.paKind (s : State) (pa : Nat) : PaKind :=
  if s.isLocal pa then
    let a := pa % 2 ^ 44
    if a < 0xC000000000 then .hbm
    else if a < 0x80000000000 then .bad
    else if a < 0x80010000000 then
      let c := (a - 0x80000000000) / 0x400000
      let o := a % 0x400000
      if s.enabled c && decide (o < 0x300000) then .spad c o else .bad
    else if a < 0xA0000000000 then .bad
    else if a < 0xA0000800000 then
      let h := (a - 0xA0000000000) / 0x8000
      if (s.hartAt h).live then .kwin h (a % 0x8000) else .bad
    else if a < 0xC0000000000 then
      if engineOk ((a - 0xA0000800000) / 8 * 8) then .engine (a - 0xA0000800000) else .bad
    else if s.hostUp then .host else if s.part.hostLost then .hostLost else .bad
  else if s.reaches (pa / 2 ^ 44) then remoteKind (pa / 2 ^ 44) (pa % 2 ^ 44) else .bad

/-- The address reaches memory: HBM, a scratchpad, host memory or another node's memory. -/
def PaKind.isMem : PaKind → Bool
  | .hbm | .spad _ _ | .host | .remote _ => true
  | .kwin _ _ | .engine _ | .hostLost | .remoteReg _ | .bad => false

/-- The address lies on another node (R15). -/
def PaKind.isRemote : PaKind → Bool
  | .remote _ | .remoteReg _ => true
  | .hbm | .spad _ _ | .kwin _ _ | .engine _ | .host | .hostLost | .bad => false

/-- The cell of a byte of memory: the node-local address, or the whole address on another node. -/
def State.cell (s : State) (pa : Nat) : Nat := if s.isLocal pa then pa % 2 ^ 44 else 2 ^ 56 + pa

/-- All n bytes from pa lie in the HBM of the local node. -/
def State.inHbm (s : State) (pa n : Nat) : Bool :=
  s.isLocal pa && decide (pa % 2 ^ 44 + n ≤ 0xC000000000)

/-! ### Memory

Reads and writes by cell. A byte that nothing has written reads 0 (log 4). -/

/-- A byte of memory. -/
def State.byteAt (s : State) (k : Nat) : Byte := Sparse.read 0 s.part.mem k

/-- Whether a byte of memory is poisoned (R206). -/
def State.poisonAt (s : State) (k : Nat) : Bool := (Map.find s.part.poison k).isSome

/-- Memory with one byte written; the write takes the poison away. -/
def Part.putByte (p : Part) (k : Nat) (b : Byte) : Part :=
  { p with mem := Sparse.write 0 p.mem k b, poison := Map.erase p.poison k }

/-- Memory with bytes written from a cell on. -/
def Part.putBytes (p : Part) : Nat → List Byte → Part
  | _, [] => p
  | k, b :: bs => Part.putBytes (p.putByte k b) (k + 1) bs

/-- New data takes the poison of n bytes away (R206). -/
def Part.cleanse (p : Part) (k n : Nat) : Part :=
  { p with poison := (List.range n).foldl (fun m i => Map.erase m (k + i)) p.poison }

/-- Poison travels with data (R206): marks a byte. -/
def Part.markPoison (p : Part) (k : Nat) : Part := { p with poison := Map.put p.poison k () }

/-- A transaction writes a cell. -/
def State.covers (s : State) (t : Transaction) (k : Nat) : Bool :=
  t.write && decide (s.cell t.pa ≤ k) && decide (k < s.cell t.pa + t.data.length)

/-- The byte as memory holds it, or, in the host window or on another node, as a storage write that is not yet accepted
(R237), or a write over Rencon that is not yet acknowledged (R217), leaves it. -/
def State.devByte (s : State) (k : Nat) : Byte :=
  if k < 0xC0000000000 then s.byteAt k
  else
    let pend := s.part.trans.filterMap fun t => if s.covers t k then t.data[k - s.cell t.pa]? else none
    pend.getLast?.getD (s.byteAt k)

/-- n bytes at dev scope, from a cell on. -/
def State.devBytes (s : State) (k n : Nat) : List Byte := (List.range n).map fun i => s.devByte (k + i)

/-- Any of n bytes is poisoned. -/
def State.anyPoison (s : State) (k n : Nat) : Bool := (List.range n).any fun i => s.poisonAt (k + i)

/-- A write of a line wakes the monitors on it, of the harts that `p` picks (R184, R335). -/
def State.wake (s : State) (line : Nat) (p : Nat → Bool) : State :=
  { s with harts := s.harts.map fun e =>
      (e.1, { e.2 with monHit := e.2.monHit || (p e.1 && e.2.monitor == some line) }) }

/-- The entry of the storage ranges numbered i covers a page (R234, Table 12-5). -/
def State.rangeCovers (s : State) (i page : Nat) : Bool :=
  let b := Map.get 0 s.part.srb i
  tst b 63 && decide (fld b 12 32 ≤ page) && decide (page ≤ fld (Map.get 0 s.part.srl i) 12 32)

/-- A physical address lies in the storage window (R237). -/
def State.inStorage (s : State) (pa : Nat) : Bool :=
  s.paKind pa == .host && (List.range 8).any fun i => s.rangeCovers i (pa % 2 ^ 44 / 0x1000)

/-- A machine check of hart h becomes pending with its record and its ktval (R208, R209). -/
def State.postMcheck (s : State) (h : Nat) (rec tval : Word) : State :=
  s.modHart h fun v => { v with kmcheck := rec, mcPend := some tval }

/-- The record of a machine check (R209): V, SRC, REW, KILL, PA. -/
def mcheckRecord (src rew : Nat) (kill : Bool) (pa : Nat) : Word :=
  putFld (putBit (putFld (putFld (putBit 0 63 true) 59 4 src) 57 2 rew) 56 kill) 0 56 pa

/-- A write of hart h to a physical address becomes unreachable (R219, R238, Table 11-4). -/
def State.writeLost (s : State) (h pa : Nat) : State :=
  if (s.hartAt h).live then s.postMcheck h (mcheckRecord 7 0 false pa) 0 else s

/-- A write that its source keeps until the destination has it (R217, R237). -/
def Part.retain (p : Part) (t : Transaction) : Part :=
  { p with trans := p.trans ++ [{ t with id := p.nextTid }], nextTid := p.nextTid + 1 }

/-- A storage write to one of n bytes from cell k on has not been accepted yet (R237): a later write to them stays behind
it (R173). -/
def State.awaited (s : State) (k n : Nat) : Bool :=
  decide (0xC0000000000 < k + n) && s.part.trans.any fun t =>
    t.storage && decide (s.cell t.pa < k + n) && decide (k < s.cell t.pa + t.data.length)

/-- Bytes performed at memory from a cell on, visible to every agent of the node, on behalf of an agent of hart h; bytes
on another node, and a storage write, are kept until the destination has them (R217, R237). A write over a host link that
is down is lost (R238). -/
def State.performAs (s : State) (h : Nat) (asker : Asker) (addr : Word) (storage : Bool) (pa : Nat) (bs : List Byte)
    (woken : Nat → Bool) : State :=
  let k := s.cell pa
  if s.paKind pa = .hostLost then s.writeLost h pa
  else
    let keep := storage || s.awaited k bs.length
    let s1 :=
      if s.isLocal pa && !keep then s.modPart fun p => p.putBytes k bs
      else s.modPart fun p => (p.cleanse k bs.length).retain
        { id := 0, hart := h, write := true, pa := pa, data := bs, asker := asker, addr := addr, storage := keep }
    ((List.range (bs.length / 64 + 2)).foldl (fun t i =>
      if k / 64 + i ≤ (k + bs.length - 1) / 64 then t.wake (k / 64 + i) woken else t)) s1

/-- Bytes performed that are classified as they perform. -/
def State.perform (s : State) (h : Nat) (pa : Nat) (bs : List Byte) (woken : Nat → Bool) : State :=
  s.performAs h .scalar 0 (s.inStorage pa) pa bs woken

/-! ### Junction buffers (R148, R170) -/

/-- The junction buffer of a core. -/
def State.junction (s : State) (c : Nat) : List JLine := (s.coreAt c).junction

/-- The byte that a junction buffer holds for a cell. -/
def jByte (j : List JLine) (k : Nat) : Option Byte :=
  match j.find? fun l => l.line == k / 64 with
  | some l => Map.find l.bytes (k % 64)
  | none => none

/-- A byte as the scalar agents of core c see it (R148). -/
def State.scalarByte (s : State) (c k : Nat) : Byte := (jByte (s.junction c) k).getD (s.devByte k)

/-- n bytes as the scalar agents of core c see them. -/
def State.scalarBytes (s : State) (c k n : Nat) : List Byte := (List.range n).map fun i => s.scalarByte c (k + i)

/-- A junction buffer holds a cell with poison. -/
def jBad (j : List JLine) (k : Nat) : Bool :=
  j.any fun l => l.line == k / 64 && (Map.find l.bad (k % 64)).isSome

/-- Whether a scalar read of n bytes meets poison, in the junction buffer or in memory behind it (R206). -/
def State.scalarPoison (s : State) (c k n : Nat) : Bool :=
  (List.range n).any fun i =>
    jBad (s.junction c) (k + i) || ((jByte (s.junction c) (k + i)).isNone && s.poisonAt (k + i))

/-- A junction buffer cannot take a store: 64 lines, the store's own not among them (R148). -/
def junctionFull (j : List JLine) (line : Nat) : Bool :=
  decide (64 ≤ j.length) && (j.find? fun l => l.line == line).isNone

/-- A mark set, or taken away. -/
def putMark (m : Map Unit) (k : Nat) (b : Bool) : Map Unit := if b then Map.put m k () else Map.erase m k

/-- The line with bytes of one class written from an offset on (R234, R237). -/
def JLine.put (l : JLine) (storage : Bool) : Nat → List Byte → JLine
  | _, [] => l
  | o, b :: bs =>
    JLine.put { l with bytes := Map.put l.bytes o b, bad := Map.erase l.bad o, storage := putMark l.storage o storage }
      storage (o + 1) bs

/-- A junction buffer with a store of hart h accepted: into its line, or as the youngest line. -/
def junctionPut (j : List JLine) (h k : Nat) (bs : List Byte) (storage : Bool) : List JLine :=
  if j.any fun l => l.line == k / 64 then
    j.map fun l => if l.line == k / 64 then ({ l with hart := h } : JLine).put storage (k % 64) bs else l
  else j ++ [({ line := k / 64, bytes := [], hart := h } : JLine).put storage (k % 64) bs]

/-- The physical address of a cell. -/
def State.paOfCell (_ : State) (k : Nat) : Nat := if k < 2 ^ 56 then 0xFFF * 2 ^ 44 + k else k - 2 ^ 56

/-- The written bytes of a line as runs of neighbours: offset of each run and its bytes. -/
def runsOf : Map Byte → List (Nat × List Byte)
  | [] => []
  | (o, b) :: m =>
    match runsOf m with
    | (o', bs) :: rs => if o' = o + 1 then (o, b :: bs) :: rs else (o, [b]) :: (o', bs) :: rs
    | [] => [(o, [b])]

/-- The bytes of a line of one class: storage writes at their issue, or not (R234, R237). -/
def JLine.ofClass (l : JLine) (storage : Bool) : Map Byte :=
  l.bytes.filter fun e => (Map.find l.storage e.1).isSome == storage

/-- The bytes of a line of core c performed at the home slice, each in its class, poison with them (R206); the core's own
threads have seen them. -/
def State.drainBytes (s : State) (c : Nat) (l : JLine) : State :=
  let put (storage : Bool) (t : State) : State := (runsOf (l.ofClass storage)).foldl (fun t r =>
    t.performAs l.hart .scalar 0 storage (t.paOfCell (64 * l.line + r.1)) r.2 fun x => coreOf x != c) t
  (put true (put false s)).modPart fun p => l.bad.foldl (fun q e => q.markPoison (64 * l.line + e.1)) p

/-- One line of the junction buffer of core c drains to its home slice (R148, R170). -/
def State.drainLine (s : State) (c line : Nat) : State :=
  match (s.junction c).find? fun l => l.line == line with
  | none => s
  | some l =>
    let s1 := s.drainBytes c l
    s1.modCore c fun k => { k with junction := k.junction.filter fun m => m.line != line }

/-- A line of the junction buffer of core c drains ahead of its turn; of a full buffer the oldest line goes first (R148). -/
def State.drainOwn (s : State) (c line : Nat) : State :=
  let s1 := match s.junction c with
    | l :: _ => if 64 ≤ (s.junction c).length then s.drainLine c l.line else s
    | [] => s
  s1.drainLine c line

/-- The junction buffer of core c drains whole, oldest line first (R148). -/
def State.drainAll (s : State) (c : Nat) : State :=
  (s.junction c).foldl (fun t l => t.drainLine c l.line) s

/-! ### Exceptions (R197-R199, R202) -/

/-- A synchronous exception: cause and ktval (Table 10-4). -/
structure Exc where
  cause : Nat
  tval  : Word
  deriving DecidableEq, Repr, Inhabited

/-- The mode that a trap enters (R197). -/
def trapTarget (mode cause : Nat) (tval : Word) : Nat :=
  if cause = 0x43 then 2
  else if cause = 0x0A ∧ 0x8000 ≤ tval.toNat ∧ mode = 1 then 2
  else if mode = 2 then 2 else 1

/-- kstatus at a trap from a mode to a target (R197). -/
def trapStatus (st : Word) (mode target : Nat) : Word :=
  let st1 :=
    if target = 2 then putBit (putFld st 12 2 mode) 4 (tst st 0)
    else putBit (putFld st 10 2 mode) 1 (tst st 0)
  putFld (putBit st1 0 false) 8 2 target

/-- A trap to mode m, among hits of kbrk whose handlers have not returned (R223). -/
def noteTrap (m : Nat) : List (Nat × Nat) → List (Nat × Nat)
  | [] => []
  | (a, k) :: l => if a = m then (a, k + 1) :: l else (a, k) :: noteTrap m l

/-- A return from mode m: whether it is that of the handler of a hit, and the hits whose handlers have still to return
(R223). -/
def noteReturn (m : Nat) : List (Nat × Nat) → Bool × List (Nat × Nat)
  | [] => (false, [])
  | (a, k) :: l =>
    if a = m then (if k = 0 then (true, l) else (false, (a, k - 1) :: l))
    else ((noteReturn m l).1, (a, k) :: (noteReturn m l).2)

/-- The hart after trap entry (R197), one act: the target's kepc, kcause and ktval, the saved mode and IE, the new mode,
the monitor disarmed, pc at the target's ktvec. A suppression of kbrk that no word has used waits for the return (R223). -/
def Hart.trap (v : Hart) (cause : Nat) (epc tval : Word) : Hart :=
  let target := trapTarget v.pm cause tval
  let t := v.trapRegs target
  let v1 := v.setTrapRegs target
    { t with cause := BitVec.ofNat 64 cause, epc := epc &&& ~~~3, tval := tval }
  let hits := noteTrap target v.supPend
  { v1 with kstatus := trapStatus v.kstatus v.pm target, pc := t.tvec, monitor := none, monHit := false, wait := none,
            yielding := false, answered := false, csup := false
            supPend := if v.csup then (target, 0) :: hits else hits }

/-- Hart h takes a trap. -/
def State.takeTrap (s : State) (h cause : Nat) (epc tval : Word) : State := s.modHart h fun v => v.trap cause epc tval

/-- A synchronous exception of the current instruction: kepc is the instruction (R198). -/
def State.raise (s : State) (e : Exc) : State := s.takeTrap s.cur e.cause s.pc e.tval

/-- kstatus after a return from a mode (R358). -/
def returnStatus (st : Word) (mode : Nat) : Word :=
  if mode = 2 then
    putFld (putBit (putFld (putBit st 0 (tst st 4)) 12 2 0) 4 true) 8 2 (fld st 12 2)
  else
    putFld (putBit (putFld (putBit st 0 (tst st 1)) 10 2 0) 1 true) 8 2 (fld st 10 2)

/-- The mode that a return from a mode enters (R358). -/
def returnMode (st : Word) (mode : Nat) : Nat := if mode = 2 then fld st 12 2 else fld st 10 2

/-- The hart after tret (R358). A C-stream hit of kbrk whose handler returns suppresses the word at the target
(R223). -/
def Hart.tret (v : Hart) : Hart :=
  { v with kstatus := returnStatus v.kstatus v.pm, pc := (v.trapRegs v.pm).epc, wait := none, answered := false,
           csup := v.csup || (noteReturn v.pm v.supPend).1
           supPend := (noteReturn v.pm v.supPend).2 }

/-- The outcome of a C-stream instruction: its state, or the exception it raises. -/
def finish (s : State) : Except Exc State → Host.Outcome State Fault Refusal
  | .ok s' => .next s'
  | .error e => .next (s.raise e)

/-- A management event on hart 0 (R233): MEV holds the reason, 0x43 is pending. -/
def State.postMev (s : State) (reason page : Nat) : State :=
  (s.modPart fun p => { p with mev := putFld (putFld (putBit 0 63 true) 12 44 page) 0 8 reason }).modHart 0
    fun v => { v with mgmtPend := true }

/-- SRC of a machine check for data at a physical address (R209): 0 for the C-stream, else scratchpad or L2/HBM. -/
def State.srcOf (s : State) (pa : Nat) : Nat :=
  match s.paKind pa with
  | .spad _ _ => 2
  | _ => 8

end Sys2Proof.Machine
end

