-- ==== Sys2Proof/Machine/Clusters.lean ====
section
/-! DEFINITION. Clusters changing hands: the cluster step of vsetl, the stalled list, idle donation (R28-R34, R74, R95,
R159, R214). -/

namespace Sys2Proof.Machine

/-- MIN of context t in klpr (R28). -/
def lprMin (k : Word) (t : Nat) : Nat := fld k (16 * t) 5

/-- MAX of context t in klpr (R28). -/
def lprMax (k : Word) (t : Nat) : Nat := fld k (16 * t + 8) 5

/-- STR of context t in klpr (R28, R214). -/
def lprStr (k : Word) (t : Nat) : Bool := tst k (16 * t + 13)

/-- klpr with MIN and MAX of context t set. -/
def lprSet (k : Word) (t mn mx : Nat) : Word := putFld (putFld k (16 * t) 5 mn) (16 * t + 8) 5 mx

/-- MIN of context t of core c. -/
def State.minOf (s : State) (c t : Nat) : Nat := lprMin (s.coreAt c).klpr t

/-- MAX of context t of core c. -/
def State.maxOf (s : State) (c t : Nat) : Nat := lprMax (s.coreAt c).klpr t

/-- Context t of core c is stranded (R214). -/
def State.stranded (s : State) (c t : Nat) : Bool := lprStr (s.coreAt c).klpr t

/-- A change of the cluster set of a context (R74, R95, R159): registers and masks read all ones, tags kept, the
bindings end, the stochastic states read all ones. -/
def VCtx.setChanged (x : VCtx) : VCtx :=
  { x with v := [], m := [], binds := [], rnd := [], vpoison := [], mpoison := [] }

/-- The clusters of core c that no context holds and that are not retired, ascending. -/
def State.freeClusters (s : State) (c : Nat) : List Nat :=
  let base := if s.dark c then 0 else if s.ganged c then 16 else if s.enabled c then 8 else 0
  (List.range base).filter fun k =>
    (Map.find (s.coreAt c).clusters k).isNone && !hasNat (s.coreAt c).retired k

/-- The highest n clusters of a context (R31). -/
def State.highest (s : State) (c t n : Nat) : List Nat :=
  let l := s.held c t
  l.drop (l.length - n)

/-- One cluster changes owner. -/
def setOwner (o : Option Nat) (m : Map Nat) (x : Nat) : Map Nat :=
  match o with
  | some t => Map.put m x t
  | none => Map.erase m x

/-- The clusters of a list change owner, on core c. -/
def State.assign (s : State) (c : Nat) (l : List Nat) (o : Option Nat) : State :=
  s.modCore c fun k => { k with clusters := l.foldl (setOwner o) k.clusters }

/-- The cluster set of context t of core c has changed, if n clusters moved. -/
def State.setChange (s : State) (c t n : Nat) : State :=
  if n = 0 then s else s.modCtx (4 * c + t) VCtx.setChanged

/-- ReleaseHighest (R31). -/
def State.releaseHighest (s : State) (c t n : Nat) : State :=
  let l := s.highest c t n
  (s.assign c l none).setChange c t l.length

/-- TransferHighest (R31): the highest n clusters of t go to r. -/
def State.transferHighest (s : State) (c t r n : Nat) : State :=
  let l := s.highest c t n
  ((s.assign c l (some r)).setChange c t l.length).setChange c r l.length

/-- TakeLowestFree (R31). -/
def State.takeLowestFree (s : State) (c t n : Nat) : State :=
  let l := (s.freeClusters c).take n
  (s.assign c l (some t)).setChange c t l.length

/-- What a stalled context still waits for: its MIN, or the saved count of a kctxr (R31, R34). -/
def State.needOf (s : State) (c : Nat) (r : Stalled) : Nat := r.need.getD (s.minOf c r.ctx)

/-- How many clusters a stalled context still wants; a stranded one is passed over (R214). -/
def State.wantOf (s : State) (c : Nat) (r : Stalled) : Nat :=
  if s.stranded c r.ctx && r.need.isNone then 0 else s.needOf c r - (s.held c r.ctx).length

/-- An idle context: no block in progress, empty queue and squall ring (R32). DESIGN CHOICE (log 106): a context stopped by
a vector fault whose block and commands a kvq write has discarded is idle, and gives its surplus. -/
def Hart.idle (v : Hart) : Bool := v.ctx.blk.isNone && v.queue.isEmpty && v.spilt == 0

/-- Free clusters go to the stalled contexts, in arrival order (R31). -/
def State.feedFree (s : State) (c : Nat) : State :=
  (s.coreAt c).stalled.foldl (fun u r => u.takeLowestFree c r.ctx (u.wantOf c r)) s

/-- An idle context gives its surplus to the stalled contexts, in arrival order (R32). -/
def State.donateFrom (s : State) (c t : Nat) : State :=
  (s.coreAt c).stalled.foldl (fun u r =>
    if r.ctx == t then u
    else u.transferHighest c t r.ctx (min ((u.held c t).length - u.minOf c t) (u.wantOf c r))) s

/-- Context t of core c owns the matrix array (R104). -/
def State.arrayAt (s : State) (c t : Nat) : Bool := (s.coreAt c).array.owner == some (4 * c + t)

/-- Context t of core c gives its surplus: it is idle (R32). DESIGN CHOICE (log 107): a context that is itself in the stalled
list, for the saved count of a kctxr, gives nothing; DESIGN CHOICE (log 117): nor does the owner of the array; DESIGN CHOICE
(log 130): a gang's founder that holds more than GCL gives like any other (R42). -/
def State.gives (s : State) (c t : Nat) : Bool :=
  let v := s.hartAt (4 * c + t)
  v.live && v.idle && !((s.coreAt c).stalled.any fun r => r.ctx == t) && !s.arrayAt c t

/-- Idle contexts give in ascending context number (R32). -/
def State.donate (s : State) (c : Nat) : State :=
  (List.range 4).foldl (fun u t => if u.gives c t then u.donateFrom c t else u) s

/-- Contexts that hold what they wait for leave the stalled list (R31). -/
def State.leaveStalled (s : State) (c : Nat) : State :=
  s.modCore c fun k => { k with stalled := k.stalled.filter fun r =>
    !(decide (s.needOf c r ≤ (s.held c r.ctx).length) && !(s.stranded c r.ctx && r.need.isNone)) }

/-- Clusters settle on core c: free ones go to the stalled, idle contexts donate, the satisfied leave the list. While
the core is becalmed no cluster changes hands (R224). -/
def State.settle (s : State) (c : Nat) : State :=
  if tst (s.coreAt c).kbecalm 63 then s else ((s.feedFree c).donate c).leaveStalled c

/-- Context t of core c is in the stalled list. -/
def State.isStalled (s : State) (c t : Nat) : Bool := (s.coreAt c).stalled.any fun r => r.ctx == t

/-- The context joins the stalled list, if it is not in it (R31, R34). -/
def State.joinStalled (s : State) (c t : Nat) (need : Option Nat) : State :=
  if s.isStalled c t then s
  else s.modCore c fun k => { k with stalled := k.stalled ++ [{ ctx := t, need := need }] }

/-- The context leaves the stalled list. -/
def State.dropStalled (s : State) (c t : Nat) : State :=
  s.modCore c fun k => { k with stalled := k.stalled.filter fun r => r.ctx != t }

/-- The cluster step gives to each stalled context in turn (R31). -/
def State.giveStalled (s : State) (c t : Nat) : State :=
  (s.coreAt c).stalled.foldl (fun u r =>
    u.transferHighest c t r.ctx (min ((u.held c t).length - u.minOf c t) (u.wantOf c r))) s

/-- A context of core c is stalled; a stranded one is passed over (R214). -/
def State.anyStalled (s : State) (c : Nat) : Bool :=
  (s.coreAt c).stalled.any fun r => !(s.stranded c r.ctx && r.need.isNone)

/-- The cluster step of a vsetl with a non-zero request (R31), up to the test that stalls it. The clusters above MAX go to
the stalled contexts at once, then what t gives. -/
def State.clusterStep (s : State) (c t : Nat) : State :=
  let s1 := (s.releaseHighest c t ((s.held c t).length - s.maxOf c t)).settle c
  let s2 := (s1.giveStalled c t).settle c
  if !s2.anyStalled c && !s2.stranded c t then
    s2.takeLowestFree c t (s2.maxOf c t - (s2.held c t).length)
  else s2

/-- All clusters of a context are released and settle (R24, R34). -/
def State.releaseAll (s : State) (c t : Nat) : State :=
  (s.releaseHighest c t (s.held c t).length).settle c

end Sys2Proof.Machine
end

