-- ==== Sys2Proof/Machine/Translate.lean ====
section
/-! DEFINITION. Translation (R188-R191): the scratchpad window, the TLBs, the Sv57 walk with its A and D updates, the
heat records of evicted entries (R165, R166), and the removal of entries by sinval (R194, R348). -/

namespace Sys2Proof.Machine

/-- The kind of an access (R189). -/
inductive Acc where
  | fetch | load | store | amo
  deriving DecidableEq, Repr, Inhabited

/-- Under what an access is translated: katp, mode, SUM, the window register, the core whose TLB and scratchpad serve
it, and whether it is an access of the vector agent or the copy engine (R45, R154, R157, R189). -/
structure View where
  katp : Word
  mode : Nat
  sum  : Bool
  kspb : Word
  core : Nat
  vec  : Bool
  deriving DecidableEq, Repr, Inhabited

/-- Why an access does not perform: the page fault of its kind, an access fault with its ktval, a PTE outside HBM and the
host window, which is an access fault as well, or poisoned data at a physical address that the walk consumed (R189,
R207). -/
inductive AccErr where
  | page
  | access (tval : Word)
  | table (tval : Word)
  | poison (pa : Nat)
  deriving DecidableEq, Repr, Inhabited

/-- A translated address: physical address, PBMT, and the page it lies on (4 KiB number of its base, level), none for
the scratchpad window and for katp.MODE = 0. -/
structure Xlat where
  pa   : Nat
  pbmt : Nat
  page : Option (Nat × Nat)
  deriving DecidableEq, Repr, Inhabited

/-- The base of the scratchpad window, sign-extended from bit 56 (R154). -/
def windowBase (kspb : Word) : Word :=
  BitVec.signExtend 64 (BitVec.ofNat 57 (fld kspb 22 35 * 0x400000))

/-- The offset of an address in the scratchpad window, if the window is in force and holds it (R154). -/
def windowOff (kspb va : Word) : Option Nat :=
  if tst kspb 63 && decide ((va - windowBase kspb).toNat < 0x400000) then some (va - windowBase kspb).toNat else none

/-- The physical address of offset o in the scratchpad of core c (Table 1-5). -/
def spadPa (c o : Nat) : Nat := 0xFFF * 2 ^ 44 + 0x80000000000 + c * 0x400000 + o

/-- The pages that a leaf of a level maps, in 4 KiB units (R189). -/
def pageUnits (level : Nat) : Nat := 512 ^ level

/-- Physical address of page number [53:10] of a PTE. -/
def ptePpn (pte : Word) : Nat := fld pte 10 44

/-- A PTE that ends the walk in a page fault whatever the access (R189). -/
def pteBad (pte : Word) (level : Nat) : Bool :=
  !tst pte 0 || (tst pte 2 && !tst pte 1) || fld pte 54 7 != 0 || tst pte 63 || fld pte 61 2 == 3
    || (level == 0 && fld pte 1 3 == 0)
    || (fld pte 1 3 != 0 && ptePpn pte % pageUnits level != 0)

/-- The permission of a leaf for an access (R189). -/
def permits (v : View) (a : Acc) (pte : Word) : Bool :=
  let r := tst pte 1
  let w := tst pte 2
  let x := tst pte 3
  let u := tst pte 4
  let kind := match a with
    | .fetch => x
    | .load => r
    | .store => w
    | .amo => r && w
  let user :=
    if v.mode = 0 then u
    else !u || (v.sum && a != .fetch)
  kind && user

/-- The walk (R189): the leaf PTE, its level and the address of the PTE. `n` is the level still to read, plus one. -/
def State.walk (s : State) (va : Word) : Nat → Nat → Except AccErr (Word × Nat × Nat)
  | 0, _ => .error .page
  | n + 1, table =>
    let addr := table * 0x1000 + 8 * fld va (12 + 9 * n) 9
    let readable := match s.paKind addr with
      | .hbm => true
      | .host => true
      | _ => false
    if !readable then .error (.table va)
    else if s.anyPoison (s.cell addr) 8 then .error (.poison addr)
    else
      let pte : Word := ofBytes 64 (s.devBytes (s.cell addr) 8)
      if pteBad pte n then .error .page
      else if fld pte 1 3 != 0 then .ok (pte, n, addr)
      else State.walk s va n (ptePpn pte)

/-- The physical address that a leaf gives a virtual address. -/
def leafPa (pte : Word) (level : Nat) (va : Word) : Nat :=
  ptePpn pte * 0x1000 + va.toNat % (pageUnits level * 0x1000)

/-- A TLB entry serves an address under an ASID (R191). -/
def TlbEntry.hits (e : TlbEntry) (va : Word) (asid : BitVec 16) : Bool :=
  fld va 12 45 / pageUnits e.level * pageUnits e.level == e.vpn && (e.asid == asid || tst e.pte 5)

/-! ### The heat ring (R165, R166) -/

/-- Record k of a ring of 2^log2 bytes at a base, records of `size` bytes; base bits below log2 are taken as 0. -/
def ringSlot (base log2 size k : Nat) : Nat := base / 2 ^ log2 * 2 ^ log2 + size * (k % (2 ^ log2 / size))

/-- A ring slot can be written: it lies in HBM or the host window (R161). -/
def State.ringOk (s : State) (pa : Nat) : Bool :=
  match s.paKind pa with
  | .hbm => true
  | .host => true
  | _ => false

/-- The DROP field raised by 1, saturating at 127 (R161). -/
def bumpDrop (k : Word) : Word := putFld k 56 7 (min 127 (fld k 56 7 + 1))

/-- Tower t appends the heat record of an entry (Table 8-9), or counts a drop. -/
def State.appendHeat (s : State) (t : Nat) (e : TlbEntry) (threshold : Bool) : State :=
  let tw := s.towerAt t
  let pa := ringSlot (fld tw.kheat 12 44 * 0x1000) (fld tw.kheat 0 6) 32 tw.heatProd
  let free := tst tw.kheat 63 && s.ringOk pa && !tst (ofBytes 64 (s.devBytes (s.cell (pa + 24)) 8) : Word) 63
  if free then
    let w0 : Word := BitVec.signExtend 64 (BitVec.ofNat 57 (e.vpn * 0x1000))
    let w1 : Word := BitVec.ofNat 64 (e.strided % 2 ^ 32 * 2 ^ 32 + e.unitCnt % 2 ^ 32)
    let w2 : Word := BitVec.ofNat 64 (e.indexed % 2 ^ 32)
    let w3 : Word := putFld (putFld (putBit (BitVec.ofNat 64 (2 ^ 63)) 62 threshold) 59 3 e.level) 0 16 e.asid.toNat
    let s1 := s.perform s.cur pa (bytesOf w0 8 ++ bytesOf w1 8 ++ bytesOf w2 8 ++ bytesOf w3 8) fun _ => true
    s1.modTower t fun x => { x with heatProd := x.heatProd + 1 }
  else s.modTower t fun x => { x with kheat := bumpDrop x.kheat }

/-! ### The TLBs (R191) -/

/-- The TLB with an entry added and, when it is full, its oldest dropped. -/
def tlbAdd (cap : Nat) (l : List TlbEntry) (e : TlbEntry) : List TlbEntry :=
  let l1 := l.filter fun f => !(f.vpn == e.vpn && f.level == e.level && f.asid == e.asid)
  (if cap ≤ l1.length then l1.drop 1 else l1) ++ [e]

/-- The first-level TLB of an access (R191). -/
def State.l1Tlb (s : State) (v : View) (a : Acc) : List TlbEntry :=
  let c := s.coreAt v.core
  if v.vec then c.helmTlb else if a = .fetch then c.itlb else c.dtlb

/-- An entry filled into the first-level TLB of an access. -/
def State.fillL1 (s : State) (v : View) (a : Acc) (e : TlbEntry) : State :=
  s.modCore v.core fun c =>
    if v.vec then { c with helmTlb := tlbAdd 256 c.helmTlb e }
    else if a = .fetch then { c with itlb := tlbAdd 64 c.itlb e }
    else { c with dtlb := tlbAdd 64 c.dtlb e }

/-- Two entries hold the translation of one page. -/
def TlbEntry.samePage (e f : TlbEntry) : Bool := f.vpn == e.vpn && f.level == e.level && f.asid == e.asid

/-- An entry filled into the L2 TLB of a tower: it takes the place and the counts of the entry of its page; else an entry
evicted for room appends its heat record (R165). -/
def State.fillL2 (s : State) (t : Nat) (e : TlbEntry) : State :=
  let l := (s.towerAt t).tlb
  match l.find? e.samePage with
  | some f =>
    s.modTower t fun x =>
      { x with tlb := tlbAdd 16384 x.tlb { e with unitCnt := f.unitCnt, strided := f.strided, indexed := f.indexed } }
  | none =>
    let s1 := if 16384 ≤ l.length then (match l.head? with | some f => s.appendHeat t f false | none => s) else s
    s1.modTower t fun x => { x with tlb := tlbAdd 16384 x.tlb e }

/-- An entry may serve the access without a walk: a store needs D = 1 in it (R190). -/
def usable (a : Acc) (e : TlbEntry) : Bool :=
  match a with
  | .fetch => true
  | .load => true
  | .store => tst e.pte 7
  | .amo => tst e.pte 7

/-- The leaf with A set, and D for a store or vamo (R190). -/
def markAD (a : Acc) (pte : Word) : Word :=
  let p := pte ||| 0x40
  match a with
  | .fetch => p
  | .load => p
  | .store => p ||| 0x80
  | .amo => p ||| 0x80

/-- An access may reach what its physical address decodes to (`ok`, R16, R17). Over a host link that has gone down, stores
and vamo are accepted and then lost (R238). -/
def reach (v : View) (a : Acc) (ok : PaKind → Bool) (k : PaKind) : Bool :=
  ok k || (k == .hostLost && ok .host && (a == .store || (a == .amo && v.vec)))

/-- The address that an entry gives, with the checks of R189: permission, then the decode of the physical address. -/
def useEntry (s : State) (v : View) (a : Acc) (va : Word) (ok : PaKind → Bool) (e : TlbEntry) : Except AccErr Xlat :=
  if !permits v a e.pte then .error .page
  else
    let pa := leafPa e.pte e.level va
    if reach v a ok (s.paKind pa) then .ok { pa := pa, pbmt := fld e.pte 61 2, page := some (e.vpn, e.level) }
    else .error (.access va)

/-- Translates an address (R154, R188-R191). `ok` says what the access may reach. An access of the window that faults names
the virtual address in the C-stream, and the physical one where nothing translates (Table 10-4, R290). -/
def State.translate (s : State) (v : View) (a : Acc) (va : Word) (ok : PaKind → Bool) :
    Except AccErr (Xlat × State) :=
  match windowOff v.kspb va with
  | some o =>
    if s.enabled v.core && decide (o < 0x300000) then .ok ({ pa := spadPa v.core o, pbmt := 0, page := none }, s)
    else .error (.access (if v.vec || fld v.katp 60 4 = 0 then BitVec.ofNat 64 (spadPa v.core o) else va))
  | none =>
    if fld v.katp 60 4 = 0 then
      if v.mode = 0 then .error .page
      else
        let pa := fld va 0 56
        if reach v a ok (s.paKind pa) then .ok ({ pa := pa, pbmt := 0, page := none }, s)
        else .error (.access (BitVec.ofNat 64 pa))
    else if BitVec.signExtend 64 (va.setWidth 57) ≠ va then .error .page
    else
      let asid : BitVec 16 := BitVec.ofNat 16 (fld v.katp 44 16)
      let t := s.towerOf v.core
      match (s.l1Tlb v a).find? fun e => e.hits va asid && usable a e with
      | some e => do let x ← useEntry s v a va ok e; .ok (x, s)
      | none =>
        match (s.towerAt t).tlb.find? fun e => e.hits va asid && usable a e with
        | some e => do
          let x ← useEntry s v a va ok e
          .ok (x, s.fillL1 v a { e with unitCnt := 0, strided := 0, indexed := 0 })
        | none => do
          let (pte, level, addr) ← s.walk va 5 (fld v.katp 0 44)
          let vpn := fld va 12 45 / pageUnits level * pageUnits level
          let e : TlbEntry := { vpn := vpn, level := level, asid := asid, pte := markAD a pte }
          let x ← useEntry s v a va ok e
          let s1 := if markAD a pte = pte then s
                    else s.perform s.cur addr (bytesOf (markAD a pte) 8) fun _ => true
          .ok (x, (s1.fillL2 t e).fillL1 v a e)

/-! ### sinval (R194, R348) -/

/-- An entry that sinval removes (Table 22-6); none stands for a register operand x0. -/
def TlbEntry.matches (e : TlbEntry) (va : Option Word) (asid : Option (BitVec 16)) : Bool :=
  let addr := match va with
    | none => true
    | some a => fld a 12 45 / pageUnits e.level * pageUnits e.level == e.vpn
  match va, asid with
  | none, none => true
  | _, some n => addr && e.asid == n && !tst e.pte 5
  | some _, none => addr && !tst e.pte 5

/-- The L2 TLB of tower t without the matching entries, each of which appends its heat record (R165). -/
def State.invalL2 (s : State) (t : Nat) (va : Option Word) (asid : Option (BitVec 16)) : State :=
  let gone := (s.towerAt t).tlb.filter fun e => e.matches va asid
  (gone.foldl (fun u e => u.appendHeat t e false) s).modTower t fun x =>
    { x with tlb := x.tlb.filter fun e => !e.matches va asid }

/-- Every TLB of the node without the matching entries (R194). -/
def State.inval (s : State) (va : Option Word) (asid : Option (BitVec 16)) : State :=
  let keep (l : List TlbEntry) := l.filter fun e => !e.matches va asid
  let s1 := { s with cores := s.cores.map fun c =>
    (c.1, { c.2 with itlb := keep c.2.itlb, dtlb := keep c.2.dtlb, helmTlb := keep c.2.helmTlb }) }
  (List.range 4).foldl (fun u t => u.invalL2 t va asid) s1

end Sys2Proof.Machine
end

