-- ==== Sys2Proof/Machine/Strip.lean ====
section
/-! DEFINITION. Strips and what ends them: sealing, closing with a pennant, rewind, kill, vector faults, becalmed cores,
and the owners of the matrix array and the stream unit (R60, R79-R83, R104, R131, R199, R206-R210, R220-R224). -/

namespace Sys2Proof.Machine

/-! ### Ownership of the array and the unit (R104, R131) -/

/-- Hart h takes the matrix array of its core: when another hart was the last owner, every tile is set to all ones and
tagged NONE and the check counters are cleared (R104). DESIGN CHOICE (log 108): a hart is another hart when its number
differs; a hart spawned anew under the last owner's number finds its tiles. -/
def Core.takeArray (k : Core) (h : Nat) : Core :=
  { k with array := { owner := some h, last := some h, waiting := k.array.waiting.filter fun x => x != h },
           tiles := if k.array.last = some h then k.tiles else [],
           zpoison := if k.array.last = some h then k.zpoison else [] }

/-- Hart h takes the stream unit: when another hart was the last owner, s0-s15 take their reset values (R131). DESIGN CHOICE
(log 108): harts are told apart by their numbers. -/
def Core.takeStream (k : Core) (h : Nat) : Core :=
  { k with stream := { owner := some h, last := some h, waiting := k.stream.waiting.filter fun x => x != h },
           descs := if k.stream.last = some h then k.descs else [],
           dpoison := if k.stream.last = some h then k.dpoison else [] }

/-- The first waiting context takes a free array (R104). -/
def Core.grantArray (k : Core) : Core :=
  match k.array.owner, k.array.waiting with
  | none, h :: _ => k.takeArray h
  | _, _ => k

/-- The first waiting context takes a free unit (R131). -/
def Core.grantStream (k : Core) : Core :=
  match k.stream.owner, k.stream.waiting with
  | none, h :: _ => k.takeStream h
  | _, _ => k

/-- Hart h releases the array, if it owns it, and waits for it no more. -/
def Core.leaveArray (k : Core) (h : Nat) : Core :=
  Core.grantArray { k with array := { k.array with
    owner := if k.array.owner = some h then none else k.array.owner
    waiting := k.array.waiting.filter fun x => x != h } }

/-- Hart h releases the unit, if it owns it, and waits for it no more. -/
def Core.leaveStream (k : Core) (h : Nat) : Core :=
  Core.grantStream { k with stream := { k.stream with
    owner := if k.stream.owner = some h then none else k.stream.owner
    waiting := k.stream.waiting.filter fun x => x != h } }

/-- Hart h owns the matrix array of its core. -/
def State.ownsArray (s : State) (h : Nat) : Bool := (s.coreAt (coreOf h)).array.owner == some h

/-- Hart h owns the stream unit of its core. -/
def State.ownsStream (s : State) (h : Nat) : Bool := (s.coreAt (coreOf h)).stream.owner == some h

/-! ### Sealing and closing (R81, R83, R220) -/

/-- A buffered byte as it goes to memory: its written bits over what the byte holds then (R398). -/
def State.mergedByte (s : State) (st : Strip) (k : Nat) (b : Byte) : Byte :=
  match Map.find st.bits k with
  | some m => (b &&& m) ||| (s.devByte k &&& ~~~m)
  | none => b

/-- Buffered stores perform, as runs of neighbouring cells of one class (R237); bytes stored poisoned are poisoned in
memory, and a poisoned byte that is written in part stays so (R206). -/
def State.releaseBuf (s : State) (h : Nat) (st : Strip) : State :=
  let of_ (storage : Bool) : Map Byte :=
    (st.buf.filter fun e => (Map.find st.storage e.1).isSome == storage).map fun e => (e.1, s.mergedByte st e.1 e.2)
  let put (storage : Bool) (t : State) : State := (runsOf (of_ storage)).foldl (fun t r =>
    t.performAs h .vector 0 storage (t.paOfCell r.1) r.2 fun _ => true) t
  let bad := st.bufBad ++ (st.bits.filter fun e => s.poisonAt e.1).map fun e => (e.1, ())
  (put true (put false s)).modPart fun p => bad.foldl (fun q e => q.markPoison e.1) p

/-- A strip with nothing buffered. -/
def Strip.drained (st : Strip) : Strip := { st with buf := [], bits := [], bufBad := [], storage := [] }

/-- The strip of hart h becomes sealed: its buffered stores perform at once (R81). -/
def State.seal (s : State) (h : Nat) : State :=
  match (s.hartAt h).ctx.strip with
  | none => s
  | some st =>
    if st.isSealed then s
    else (s.releaseBuf h st).modStrip h fun x => { x.drained with isSealed := true }

/-- The word offset of an address from a block address: signed, in 24 bits, 0x80_0000 when out of range (Table 10-7). -/
def wordOffset (addr pc : Word) : Nat :=
  let d := (pc - addr).toInt / 8
  if -0x7FFFFF ≤ d ∧ d ≤ 0x7FFFFF then (d % 0x1000000).toNat else 0x800000

/-- The flags of a pennant (Table 11-5). -/
def pennantFlags (st : Strip) (g : Grant) (cut killed discarded : Bool) : Nat :=
  natOf st.isSealed + 2 * natOf st.cnt.rewound + 4 * natOf (tst g.vtype 14) + 8 * natOf cut + 16 * natOf killed
    + 32 * natOf g.trim + 64 * natOf discarded

/-- A count saturated at 2^32 − 1 (R220). -/
def sat32 (n : Nat) : Nat := min n 0xFFFFFFFF

/-- The 64 bytes of a pennant (Table 11-5). The busy cycles are free values (log 10). -/
def State.pennantBytes (s : State) (h : Nat) (st : Strip) (cut killed discarded : Bool) : List Byte :=
  let v := s.hartAt h
  let c := s.coreAt (coreOf h)
  let cmd := (v.ctx.blk.map fun b => b.cmd).getD default
  let w0 := h + 0x10000 * (s.clusterSet h).length
    + 0x1000000 * pennantFlags st v.ctx.grant cut killed discarded + 2 ^ 32 * cmd.pos.toNat
  let w2 := st.cnt.woff.toNat + 2 ^ 32 * v.ctx.grant.g.toNat
  let w4 := sat32 (Config.freeBusy s.tick 0) + 2 ^ 32 * sat32 (Config.freeBusy s.tick 1)
  let w5 := sat32 st.cnt.tcycles + 2 ^ 32 * sat32 st.cnt.terms
  let w7 := sat32 st.cnt.records + 2 ^ 32 * sat32 st.cnt.skipped
  let words : List Word := [BitVec.ofNat 64 w0, cmd.addr, BitVec.ofNat 64 w2, c.hcycle - st.cnt.start,
    BitVec.ofNat 64 w4, BitVec.ofNat 64 w5, BitVec.ofNat 64 st.cnt.idle, BitVec.ofNat 64 w7]
  words.flatMap fun w => bytesOf w 8

/-- A pennant of hart h goes to its ring, or DROP rises by 1 (R220-R222). A ring outside memory drops (log 12). -/
def State.pennant (s : State) (h : Nat) (st : Strip) (cut killed discarded : Bool) : State :=
  let v := s.hartAt h
  if !tst v.kpenc 63 then s
  else
    let prod := fld v.kpenc 0 24
    let cons := fld v.kpenc 24 24
    let log2 := fld v.kpen 0 6
    let pa := ringSlot (fld v.kpen 12 44 * 0x1000) log2 64 prod
    if decide ((prod + 2 ^ 24 - cons) % 2 ^ 24 < 2 ^ (log2 - 6)) && (s.paKind pa).isMem then
      (s.perform h pa (s.pennantBytes h st cut killed discarded) fun _ => true).modHart h
        fun x => { x with kpenc := putFld x.kpenc 0 24 (prod + 1) }
    else s.modHart h fun x => { x with kpenc := bumpDrop x.kpenc }

/-- The strip of hart h closes (R83): buffered stores perform, the pennant is written, no strip is open. -/
def State.closeStrip (s : State) (h : Nat) (killed discarded : Bool) : State :=
  match (s.hartAt h).ctx.strip with
  | none => s
  | some st =>
    ((s.releaseBuf h st).pennant h st false killed discarded).modCtx h fun c => { c with strip := none }

/-! ### Vector faults (R60, R199, R290) -/

/-- A gathering instruction: no cluster issues it before every cluster of the context has reached it (R40). -/
def gathering (i : Instr) : Bool :=
  match i with
  | .vrsum _ _ _ _ _ | .vrmax _ _ _ _ _ | .vrmin _ _ _ _ _ | .vrbit _ _ _ _ | .vslide _ _ _ _ | .vgath _ _ _ _
  | .vcomp _ _ _ | .vexpd _ _ _ | .vbsl _ _ _ _ | .vbsr _ _ _ _ | .vfunl _ _ _ _ _ | .vfunr _ _ _ _ _ | .vbext _ _ _ _
  | .vbins _ _ _ _ | .vsetl _ _ _ _ | .mpop _ _ | .mfirst _ _ | .mtest _ _ _ | .vreply _ | .vreplyAny _ | .vreplyNone _
  | .vreplyPop _ | .vend | .mdrain _ _ _ _ _ => true
  | _ => false

/-- A block instruction: its counters, branches, replies and registers (R297-R301). -/
def blockWord (i : Instr) : Bool :=
  match i with
  | .bli _ _ | .badd _ _ _ | .bsub _ _ _ | .bmul _ _ _ | .band _ _ _ | .bor _ _ _ | .bxor _ _ _ | .bshl _ _ _ | .bshr _ _ _
  | .bset _ _ _ _ | .bloop _ _ _ | .bbr _ _ _ _ | .bjmp _ | .vreply _ | .bkrd _ _ => true
  | _ => false

/-- A matrix or term-stream word, whose steps are not those of the sweep. -/
def unitWord (i : Instr) : Bool :=
  match i with
  | .mzero _ _ | .mldz _ _ _ _ | .mstz _ _ _ | .mop _ _ _ _ | .mdrain _ _ _ _ _ | .mfill _ _ _ | .mtag _ _ | .mchk _ _ _ _
  | .sord _ _ _ | .sprm _ _ | .snew _ _ _ _ | .sld _ _ | .sst _ _ | .sterm _ _ _ _ | .sadd _ _ _ | .ssub _ _ _ | .smul _ _ _
  | .smulm _ _ _ _ | .sdiv _ _ _ _ _ | .slt _ _ _ | .sdrop _ _ | .srat _ _ | .sexp _ _ _ | .scmp _ _ _ | .sstat _ _ _
  | .sgrow _ _ _ => true
  | _ => false

/-- Rows of the sweep: 2 to the power LROWS of the vtype (R68). -/
def Grant.vrows (g : Grant) : Nat := 2 ^ fld g.vtype 6 2

/-- Steps of a word of the sweep: a row and a slot each (R193). -/
def Grant.steps (g : Grant) (clusters : Nat) : Nat := max 1 (g.vrows * ((g.vl.toNat + 8 * clusters - 1) / (8 * clusters)))

/-- Steps of a word, as the restart step of a cluster in it counts them; those of a matrix or a term-stream word are not
stated (log 13). -/
def Grant.stepsOf (g : Grant) (clusters : Nat) (i : Instr) : Nat :=
  if blockWord i then 1 else if unitWord i then 0x10000 else g.steps clusters

/-- A word issues, or none: the one before it has completed (R40). The chunk bits of an .acq word are read anew, unless it
goes on at a later segment (R163). -/
def VCtx.issue (c : VCtx) (i : Option Instr) : VCtx :=
  { c with
    recent := match c.issued with
      | some j => if gathering j then [j] else (j :: c.recent).take 8
      | none => c.recent
    issued := i
    acqM := if c.step = 0 then none else c.acqM }

/-- The word in progress keeps the masks that it has read at its issue (R163). -/
def VCtx.keepMasks (c : VCtx) : VCtx := { c with acqM := some (c.acqM.getD c.m) }

/-- A context that waits for its word has issued nothing yet. -/
def VWait.isFetch : VWait → Bool
  | .fetch => true
  | .clusters | .array | .unit | .copySlot | .cpyw | .primeDrain | .release | .cut | .chain _ | .remote _ => false

/-- No word is issued: one that waits has not completed, any other has. -/
def VCtx.unissue (c : VCtx) : VCtx :=
  if c.waiting.all VWait.isFetch then c.issue none else { c with issued := none }

/-- How many words cluster index i of n is behind the faulting word, where clusters may have slipped: a free value. One of them
is at that word; no other is beyond it, none is more than 8 words behind, and none is behind a gathering word that has issued
(R40, R223; log 13). -/
def State.slip (s : State) (h n i : Nat) : Nat :=
  let at_ (k m : Nat) : Nat := (Config.freeWord s.tick k).toNat % m
  if i = at_ 98 (max 1 n) then 0 else at_ (100 + 2 * i) ((s.hartAt h).ctx.recent.length + 1)

/-- The restart entry of cluster index i of n at a stop of hart h (R40, R193, Table 10-8). When the clusters have reached the
word `together`, each has its restart step; else one that has slipped is at a free step of its word (log 13). -/
def State.restartEntry (s : State) (h : Nat) (together : Bool) (n i : Nat) : BitVec 8 × BitVec 16 :=
  let c := (s.hartAt h).ctx
  let d := if together then 0 else s.slip h n i
  let k := (c.recent[d - 1]?).elim 1 (c.grant.stepsOf n)
  if d = 0 then (0, BitVec.ofNat 16 c.step)
  else (-BitVec.ofNat 8 d, BitVec.ofNat 16 ((Config.freeWord s.tick (101 + 2 * i)).toNat % k))

/-- The context of hart h stops with a vector fault at the word at its block pc: kvfault and kvrst are written, delivery
waits (R60, R199). -/
def State.vfault (s : State) (h sub : Nat) (tval : Word) (together : Bool) : State :=
  s.modHart h fun v =>
    let pc := (v.ctx.blk.map fun b => b.pc).getD 0
    let cmd := (v.ctx.blk.map fun b => b.cmd).getD default
    { v with
      ctx := { v.ctx with stopped := true, waiting := none, answered := false }
      kvfault := BitVec.ofNat 64 (cmd.pos.toNat * 2 ^ 32 + wordOffset cmd.addr pc * 256 + sub)
      kvrst := (List.range 16).map fun i => (i, s.restartEntry h together (s.clusterSet h).length i)
      vfTval := tval
      vfPend := true }

/-- The word that the context of hart h has issued is gathering (R40). -/
def VCtx.gathers (c : VCtx) : Bool := c.issued.any gathering

/-! ### Becalmed cores (R224) -/

/-- Core c becomes becalmed (R224): 0 management, 1 breakpoint, 2 kill (R225). -/
def State.becalm (s : State) (c why : Nat) : State :=
  s.modCore c fun k => { k with kbecalm := putBit k.kbecalm 63 true, becalmed := k.hcycle.toNat, holdWhy := why }

/-- Core c is becalmed. -/
def State.isBecalmed (s : State) (c : Nat) : Bool := tst (s.coreAt c).kbecalm 63

/-! ### Rewind and kill (R82, R207, R208, R210) -/

/-- One row of cells copied between tiles. -/
def copyRow (a b : Tile) (cells : Sparse 48) (row : Nat) : Sparse 48 :=
  (List.range 512).foldl (fun q j =>
    Sparse.write b.fill q (512 * row + j) (Sparse.read a.fill a.cells (512 * row + j))) cells

/-- The cells of one tile copied to another on a set of rows. -/
def copyCells (a b : Tile) (rows : BitVec 256) : Tile :=
  if rows = BitVec.allOnes 256 then { b with fill := a.fill, cells := a.cells }
  else { b with cells := ((List.range 256).filter fun r => tst rows r).foldl (copyRow a b) b.cells }

/-- A set of rows of one tile copied to another (R122). -/
def copyTileRows (m : Map Tile) (src dst : Nat) (rows : BitVec 256) : Map Tile :=
  Map.put m dst (copyCells (Map.get {} m src) (Map.get {} m dst) rows)

/-- The poison marks of a set of rows of one tile copied to another: poison travels with data (R206). -/
def copyTileMarks (m : Map Unit) (src dst : Nat) (rows : BitVec 256) : Map Unit :=
  let among (z k : Nat) : Bool := k % 32 == z && tst rows (k / 32 / 512)
  m.foldl (fun q e => if among src e.1 then Map.put q (e.1 - src + dst) () else q) (m.filter fun e => !among dst e.1)

/-- The marks of poisoned tile cells after a rewind: those of every copied row as its shadow has them (R122, R206). -/
def restoreMarks (m : Map Unit) (st : Strip) : Map Unit :=
  st.shadowed.foldl (fun q e => copyTileMarks q (e.1 + 16) e.1 e.2) m

/-- The tiles after a rewind: every copied row restored from its shadow, with tags and event bits (R122). -/
def restoreTiles (m : Map Tile) (st : Strip) : Map Tile :=
  let m1 := st.shadowed.foldl (fun q e => copyTileRows q (e.1 + 16) e.1 e.2) m
  st.ck.marks.foldl (fun q k => Map.modify {} q k.z fun t => { t with tag := k.tag, nv := k.nv, of_ := k.of_ }) m1

/-- The strip of hart h rewinds (R82): buffered stores discarded, the checkpoint restored, each datum with the poison that it
had there (R206), the word after the vsetl next. DESIGN CHOICE (log 137): once mmode.leave has run in the strip, the array is no
longer owned and no row of it is restored. -/
def State.rewind (s : State) (h : Nat) (st : Strip) : State :=
  let s1 := if (s.hartAt h).ctx.shadow && s.ownsArray h
    then s.modCore (coreOf h) fun k =>
      { k with tiles := restoreTiles k.tiles st, zpoison := restoreMarks k.zpoison st } else s
  s1.modCtx h fun c =>
    { c with
      b := st.ck.b, bpoison := st.ck.bad, lc := st.ck.lc, loops := st.ck.loops, grant := st.ck.grant, rnd := st.ck.rnd
      blk := c.blk.map fun b => { b with pc := st.ck.pc }
      stopped := false, waiting := none, step := 0, answered := false, issued := none, recent := [], acqM := none
      strip := some { ck := st.ck, rewinds := st.rewinds + 1, cnt := { st.cnt with rewound := true } } }

/-- Bytes of a chunk of a copy (R155). -/
def Copy.chunkBytes (c : Copy) : Nat := 256 * 2 ^ c.code

/-- Chunks of a copy (R157). -/
def Copy.count (c : Copy) : Nat := (c.len + c.chunkBytes - 1) / c.chunkBytes

/-- A copy is outstanding while any of its chunks is neither complete nor faulted (R160). A chunk that is not listed has
not started. -/
def Copy.outstanding (c : Copy) : Bool :=
  decide (c.chunks.length < c.count) || c.chunks.any fun e => !e.2.complete && !e.2.faulted

/-- A copy is held when its only unfinished chunks are faulted (R160). -/
def Copy.isHeld (c : Copy) : Bool := !c.outstanding && c.chunks.any fun e => e.2.faulted

/-- A context as after hspawn (R22, R70): held copies are abandoned (R167). Outstanding ones have been waited for. -/
def VCtx.emptied (c : VCtx) : VCtx := { nextCopy := c.nextCopy }

/-- A copy of the context is outstanding (R160). -/
def VCtx.copying (c : VCtx) : Bool := c.copies.any Copy.outstanding

/-- The vector side of hart h is emptied as hexit empties it (R24, R208): clusters, array and unit released, queue and
replies discarded, HEAD = NEXT. -/
def State.emptyCtx (s : State) (h : Nat) : State :=
  let s1 := s.modCore (coreOf h) fun k => (k.leaveArray h).leaveStream h
  let s2 := (s1.dropStalled (coreOf h) (ctxOf h)).releaseAll (coreOf h) (ctxOf h)
  s2.modHart h fun v =>
    { v with ctx := v.ctx.emptied, queue := [], spilt := 0, sqCons := v.sqProd, replies := [], replyBad := [], rsv := 0,
             head := v.next, kvfault := 0, kvrst := [], vfTval := 0, vfPend := false }

/-- A machine check kills hart h (R126, R208): its vector side is emptied, the check becomes pending with the queue position
of its block, and with kbecalm.HK the core becomes becalmed. DESIGN CHOICE (log 26): a kill of the array's owner by any error
clears tiles and term counters, as Table 6-8 says of a check mismatch. -/
def State.killNow (s : State) (h src pa : Nat) : State :=
  let v := s.hartAt h
  let rew := (v.ctx.strip.map fun st => st.rewinds).getD 0
  let pos := (v.ctx.blk.map fun b => b.cmd.pos).getD v.next
  let s1 := (s.modStrip h Strip.drained).closeStrip h true false
  let s2 := if s1.ownsArray h
    then s1.modCore (coreOf h) fun k => { k with tiles := [], zpoison := [], counters := [] } else s1
  let s3 := (s2.emptyCtx h).postMcheck h (mcheckRecord src rew true pa) (pos.setWidth 64)
  if tst (s3.coreAt (coreOf h)).kbecalm 62 then s3.becalm (coreOf h) 2 else s3

/-- A kill waits for the copies in flight (R167): until then the context stands. -/
def State.kill (s : State) (h src pa : Nat) : State :=
  if (s.hartAt h).ctx.copying then s.modCtx h fun c => { c with dying := some (src, pa), waiting := none }
  else s.killNow h src pa

/-- Hart h consumes an uncorrectable error in the vector agent (Table 11-1): an unsealed strip rewinds, up to three
times; a sealed strip, or code outside a strip, is killed. -/
def State.consume (s : State) (h src pa : Nat) : State :=
  match (s.hartAt h).ctx.strip with
  | some st => if st.isSealed || decide (3 ≤ st.rewinds) then s.kill h src pa else s.rewind h st
  | none => s.kill h src pa

end Sys2Proof.Machine
end

