-- ==== Sys2Proof/Machine/Queue.lean ====
section
/-! DEFINITION. The command queue, the squall ring, the start of a block, replies (R43-R52, R57). -/

namespace Sys2Proof.Machine

/-- The 128 bytes of a command (Table 3-1). -/
def Command.bytes (c : Command) : List Byte :=
  bytesOf c.pos 4 ++ [BitVec.ofNat 8 (c.nrep % 64)]
    ++ [BitVec.ofNat 8 (c.mode + 4 * natOf c.spilt + 8 * natOf c.sum)]
    ++ bytesOf (BitVec.ofNat 16 c.hart) 2 ++ bytesOf c.addr 8
    ++ ((List.range 8).flatMap fun i => bytesOf (c.args.getD i 0) 8)
    ++ bytesOf c.katp 8 ++ List.replicate 40 0

/-- The word of n bytes at an offset of a list of bytes. -/
def wordAt (w : Nat) (bs : List Byte) (off n : Nat) : BitVec w := ofBytes w ((bs.drop off).take n)

/-- The command that 128 bytes hold (Table 3-1). -/
def Command.ofBytes (bs : List Byte) (bad : Bool) : Command :=
  let flags : Byte := wordAt 8 bs 5 1
  { pos := wordAt 32 bs 0 4
    nrep := (wordAt 8 bs 4 1 : Byte).toNat % 64
    mode := fld flags 0 2
    spilt := tst flags 2
    sum := tst flags 3
    hart := (wordAt 16 bs 6 2 : BitVec 16).toNat
    addr := wordAt 64 bs 8 8
    args := (List.range 8).map fun i => wordAt 64 bs (16 + 8 * i) 8
    katp := wordAt 64 bs 80 8
    bad := bad }

/-- Entries of the squall ring (R48). -/
def ringEntries (ksqb : Word) : Nat := 2 ^ (fld ksqb 0 6 - 7)

/-- Physical address of entry k of the squall ring (R48). -/
def squallSlot (ksqb : Word) (k : Nat) : Nat := ringSlot (fld ksqb 12 44 * 0x1000) (fld ksqb 0 6) 128 k

/-- The queue takes another command: the on-chip queue, or the ring when it is enabled and not full (R46, R48). DEDUCED
(log 134): commands stay behind those in the ring, so a ring full because refill waits at an unreadable entry (R49) stalls the
vdisp even while the on-chip queue has room. -/
def Hart.canEnqueue (v : Hart) : Bool :=
  (decide (v.queue.length < 256) && v.spilt == 0)
    || (tst v.ksqb 63 && decide (v.spilt.toNat < ringEntries v.ksqb))

/-- A command is written to entry k of the squall ring of hart h with SPILT set (R48); an uncorrectable error in it travels
with it (R206). -/
def State.ringWrite (s : State) (h k : Nat) (c : Command) : State :=
  let pa := squallSlot (s.hartAt h).ksqb k
  let s1 := s.perform h pa ({ c with spilt := true } : Command).bytes fun _ => true
  if c.bad then s1.modPart fun p => p.markPoison (s.cell pa) else s1

/-- Entry k of the squall ring of hart h (R48). -/
def State.ringRead (s : State) (h k : Nat) : Command :=
  let pa := squallSlot (s.hartAt h).ksqb k
  Command.ofBytes (s.devBytes (s.cell pa) 128) (s.anyPoison (s.cell pa) 128)

/-- A command goes to the queue of hart h: on chip, or spilled to the next entry of the squall ring (R48). -/
def State.pushCommand (s : State) (h : Nat) (c : Command) : State :=
  let v := s.hartAt h
  if v.queue.length < 256 ∧ v.spilt = 0 then s.modHart h fun x => { x with queue := x.queue ++ [c] }
  else
    (s.ringWrite h v.sqProd c).modHart h fun x => { x with sqProd := x.sqProd + 1, spilt := x.spilt + 1 }

/-- NEXT − HEAD modulo 2^32 (R44). -/
def Hart.outstanding (v : Hart) : Nat := (v.next - v.head).toNat

/-- Free reply slots (Table 3-8). -/
def Hart.freeSlots (v : Hart) : Nat := 64 - v.replies.length - v.rsv

/-- The command that a vdisp of the current hart builds (R43, R45). -/
def Hart.command (v : Hart) (h : Nat) (addr : Word) (nrep : Nat) : Command :=
  { pos := v.next, nrep := nrep, mode := v.pm, spilt := false, sum := v.sumBit, hart := h, addr := addr,
    args := (List.range 8).map fun i => Sparse.read 0 v.x (10 + i), katp := v.katp }

/-- One command is refilled from the squall ring, oldest first (R48, R49): an uncorrectable error raises a machine check
that kills nothing, and the context waits at that command. DESIGN CHOICE (log 109): until a refill, a discard or a new ring
has ended that wait, a further read of the entry that meets the error again raises no second machine check. -/
def State.refill (s : State) (h : Nat) : State :=
  let v := s.hartAt h
  if v.spilt = 0 ∨ 256 ≤ v.queue.length then s
  else
    let pa := squallSlot v.ksqb v.sqCons
    if (s.ringRead h v.sqCons).bad then
      if v.ctx.refillBad then s
      else
        (s.modCtx h fun c => { c with refillBad := true }).postMcheck h (mcheckRecord 6 0 false pa)
          ((v.head + BitVec.ofNat 32 v.queue.length).setWidth 64)
    else
      s.modHart h fun x =>
        { x with queue := x.queue ++ [s.ringRead h v.sqCons],
                 sqCons := x.sqCons + 1, spilt := x.spilt - 1, ctx := { x.ctx with refillBad := false } }

/-- A gang of slabs or an ungang waits for core c: it starts no new block (R14). -/
def State.gangPending (s : State) (c : Nat) : Bool := s.part.gangs.any fun g => g.leader == c || g.dark == c

/-- The core that leads a dark core (R13). -/
def State.leaderOf (s : State) (d : Nat) : Option Nat :=
  (List.range 64).find? fun c => s.ganged c && s.nextHelm c == some d

/-- A retirement concerns core c (R213): its own, one that it shares a gang of slabs with, or any of the tower. -/
def State.concerned (s : State) (c : Nat) (u : RUnit) : Bool :=
  let near (k : Nat) : Bool := k == c || s.leaderOf k == some c || s.leaderOf c == some k
  match u with
  | .workingLane k _ => near k
  | .cluster k _ => near k
  | .halfSlab t _ _ => s.enabled c && t == s.towerOf c
  | .helm k => near k
  | .controlCore k => near k

/-- A retirement waits for core c to be idle (R213). -/
def State.retirePending (s : State) (c : Nat) : Bool := s.part.retiring.any (s.concerned c)

/-- A line that an earlier fall.core of hart h has left in the junction buffer is still there (R180). -/
def State.owes (s : State) (h : Nat) : Bool :=
  (s.junction (coreOf h)).any fun l => hasNat (s.hartAt h).owed l.line

/-- The context of hart h can start its next block (R14, R52, R60, R180, R213). -/
def State.canStart (s : State) (h : Nat) : Bool :=
  let v := s.hartAt h
  v.ctx.blk.isNone && !v.ctx.stopped && !v.queue.isEmpty && !s.gangPending (coreOf h) && !s.retirePending (coreOf h)
    && !(s.coreAt (coreOf h)).ccOut && !v.scalar && !s.owes h

/-- The context as a block of command c starts (R52): bpc, b0-b7 from the snapshot, lc0-lc3 read 0, no loop. -/
def VCtx.start (x : VCtx) (c : Command) : VCtx :=
  { x with
    blk := some { cmd := c, pc := c.addr, sent := 0 }
    b := (List.range 8).foldl (fun m i => Sparse.write 0 m i (c.args.getD i 0)) x.b
    bpoison := x.bpoison.filter fun e => decide (8 ≤ e.1)
    lc := [0, 0, 0, 0], loops := [], step := 0, issued := none, recent := [], acqM := none }

/-- The block of the oldest command starts (R52); the lines that an earlier fall.core has left have drained (R180). -/
def State.startBlock (s : State) (h : Nat) : State :=
  match (s.hartAt h).queue with
  | [] => s
  | c :: _ => s.modHart h fun v => { v with owed := [], ctx := v.ctx.start c }

/-- The block of the oldest command starts. DESIGN CHOICE (log 110): a command whose on-chip entry holds an uncorrectable error
is consumed then, by the vector agent. -/
def State.beginBlock (s : State) (h : Nat) : State :=
  if (s.hartAt h).queue.head?.any fun c => c.bad then (s.startBlock h).consume h 1 0 else s.startBlock h

/-- The unused reply slots of the block in progress become free, its command leaves the queue, and HEAD advances
(R53). -/
def State.retireBlock (s : State) (h : Nat) : State :=
  s.modHart h fun v =>
    let left := (v.ctx.blk.map fun b => b.cmd.nrep - b.sent).getD 0
    { v with queue := v.queue.drop 1, head := v.head + 1, rsv := v.rsv - left,
             ctx := { v.ctx with blk := none, loops := [], step := 0 } }

end Sys2Proof.Machine
end

