-- ==== Sys2Proof/Machine/Saving.lean ====
section
/-! DEFINITION. The context image: kctx saves a vector context, kctxr restores one (R126, R146, R167, R203-R205). The
contents of an image from offset 4,096 on are the part's own: the model writes there a handle of State.part.images. -/

namespace Sys2Proof.Machine

/-- A part-way answer of an act that may stall the C-stream. -/
inductive Slow where
  | done (s : State)
  | wait (s : State)
  deriving DecidableEq, Repr

/-- The array of hart h goes into its image: hart h owns it, and no mmode of its own still waits for it (R126, R330). -/
def State.savesArray (s : State) (h : Nat) : Bool := s.ownsArray h && (s.hartAt h).ctx.waiting != some .array

/-- The stream unit of hart h goes into its image: hart h owns it, and no word of its own still waits for it (R146). -/
def State.savesStream (s : State) (h : Nat) : Bool := s.ownsStream h && (s.hartAt h).ctx.waiting != some .unit

/-- The size of the image that a save would write now (R203; DESIGN CHOICE, log 14): header, block state, registers of
the clusters held, queued commands, tiles and descriptors when owned. -/
def State.imageSize (s : State) (h : Nat) : Nat :=
  let v := s.hartAt h
  if v.scalar then 0x1000
  else
    let n := (s.clusterSet h).length
    0x3000 + 0x19800 * n + 128 * v.queue.length
      + (if s.savesArray h then 0x180000 * n else 0) + (if s.savesStream h then 0x800 else 0)

/-- The context of hart h was stopped mid-block without a fault (R204). -/
def Hart.midBlock (v : Hart) : Bool := v.ctx.blk.isSome && !v.ctx.stopped

/-- kvfault as an image holds it: SUB 0x15 for a pre-emption stop (R204). -/
def Hart.savedFault (v : Hart) : Word :=
  match v.ctx.blk with
  | some b =>
    if v.ctx.stopped then v.kvfault
    else BitVec.ofNat 64 (b.cmd.pos.toNat * 2 ^ 32 + wordOffset b.cmd.addr b.pc * 256 + 0x15)
  | none => if v.ctx.stopped then v.kvfault else 0

/-- The header of an image (Table 10-10). -/
def State.imageHeader (s : State) (h : Nat) : List Byte :=
  let v := s.hartAt h
  let kvf := v.savedFault
  let faulted := v.ctx.stopped
  let flags := natOf (s.savesArray h) + 2 * natOf (s.savesStream h) + 4 * natOf v.inGang
    + 8 * natOf (s.ganged (coreOf h)) + 16 * natOf v.ctx.shadow + 32 * natOf faulted
  let words : List Word :=
    [BitVec.ofNat 64 (1 + 0x10000 * h + 2 ^ 32 * flags), BitVec.ofNat 64 (s.imageSize h),
     BitVec.ofNat 64 (s.clusterSet h).length, kvf, if v.vfPend then v.vfTval else 0]
  (words.flatMap fun w => bytesOf w 8) ++ List.replicate (0x1000 - 40) 0

/-- Every command of hart h, on chip and in the ring, oldest first. -/
def State.allCommands (s : State) (h : Nat) : List Command :=
  let v := s.hartAt h
  v.queue ++ (List.range v.spilt.toNat).map fun i => s.ringRead h (v.sqCons + i)

/-- The column of a cell under another numbering of column groups: group i of one list is group i of the other (R103,
R126); none for a column of no group of the first list. -/
def regroup (a b : List Nat) (j : Nat) : Option Nat :=
  (a.findIdx? fun g => g == j / 32).map fun i => 32 * b.getD i 0 + j % 32

/-- A tile with its cells moved from one list of column groups to another. -/
def Tile.regroup (a b : List Nat) (t : Tile) : Tile :=
  { t with cells := t.cells.foldl (fun q e =>
      match Machine.regroup a b (e.1 % 512) with
      | some j => Sparse.write t.fill q (e.1 / 512 * 512 + j) e.2
      | none => q) [] }

/-- Tiles with their cells moved. -/
def regroupTiles (a b : List Nat) (m : Map Tile) : Map Tile := m.map fun e => (e.1, e.2.regroup a b)

/-- The marks of poisoned tile cells under another numbering of column groups. -/
def regroupPoison (a b : List Nat) (m : Map Unit) : Map Unit :=
  m.foldl (fun q e =>
    match Machine.regroup a b (e.1 / 32 % 512) with
    | some j => Map.put q (32 * (e.1 / 32 / 512 * 512 + j) + e.1 % 32) ()
    | none => q) []

/-- Term counters by column group of a list, for those of another (R116, R126). -/
def regroupCounters (a b : List Nat) (m : Map TermCounters) : Map TermCounters :=
  m.filterMap fun e => (a.findIdx? fun g => g == e.1).map fun i => (b.getD i 0, e.2)

/-- What an image holds of hart h (R204). -/
def State.imageOf (s : State) (h : Nat) : Image :=
  let v := s.hartAt h
  let k := s.coreAt (coreOf h)
  { ctx := { v.ctx.unissue with
      waiting := none, answered := false, preempt := none
      strip := v.ctx.strip.map fun st => { st with cnt := { woff := st.cnt.woff } } }
    kflags := v.kflags, kfrm := v.kfrm, next := v.next, head := v.head, replies := v.replies
    replyBad := v.replyBad, rsv := v.rsv
    kvfault := v.savedFault, kvrst := v.kvrst, vfTval := v.vfTval, vfPend := v.vfPend
    cmds := s.allCommands h
    held := (s.clusterSet h).length
    tiles := if s.savesArray h then some (regroupTiles (s.clusterSet h) (List.range 16) k.tiles) else none
    zpoison := if s.savesArray h then regroupPoison (s.clusterSet h) (List.range 16) k.zpoison else []
    counters := if s.savesArray h then regroupCounters (s.clusterSet h) (List.range 16) k.counters else []
    dpoison := if s.savesStream h then k.dpoison else []
    streams := if s.savesStream h then some (k.descs, k.primes, k.pgen) else none
    size := s.imageSize h }

/-- The on-chip queue spills to the ring while there is room (R204 step 4). -/
def State.spillQueue (s : State) (h : Nat) : Nat → List Command → State
  | _, [] => s
  | room, c :: cs =>
    match room with
    | 0 => s
    | n + 1 =>
      State.spillQueue ((s.ringWrite h (s.hartAt h).sqProd c).modHart h fun x => { x with sqProd := x.sqProd + 1 }) h n cs

/-- Room in the squall ring of a hart. -/
def Hart.ringRoom (v : Hart) : Nat := if tst v.ksqb 63 then ringEntries v.ksqb - v.spilt.toNat else 0

/-- What is written at an image's address: its header, and the handle of the part's own contents; of a scalar hart the header
alone (R13). -/
def State.imageBytes (s : State) (h : Nat) : List Byte :=
  s.imageHeader h ++ (if (s.hartAt h).scalar then [] else bytesOf (BitVec.ofNat 64 s.part.images.length) 8)

/-- The contents of an image from offset 4,096 on are kept (R204). -/
def State.keepImage (s : State) (h : Nat) (img : Image) : State :=
  if (s.hartAt h).scalar then s else s.modPart fun p => { p with images := p.images ++ [img] }

/-- The save of R204. It waits for the copies of the context, and for a kill that they hold up; the core's junction buffer
drains (R185), the open strip seals and its pennant closes, the queue spills, the image is written, and what the context
held is released. The image of a scalar hart is its header (R13). -/
def State.saveCtx (s : State) (h pa : Nat) : Slow :=
  let v := s.hartAt h
  if v.ctx.copying || v.ctx.dying.isSome then .wait s
  else
    let s1 := (s.drainAll (coreOf h)).seal h
    let s2 := match (s1.hartAt h).ctx.strip with
      | some st => s1.pennant h st true false false
      | none => s1
    let s3 := s2.spillQueue h v.ringRoom v.queue
    let s4 := s3.perform h pa (s2.imageBytes h) fun _ => true
    .done ((s4.keepImage h (s2.imageOf h)).emptyCtx h)

/-- The context of hart h holds nothing (R205). -/
def State.ctxEmpty (s : State) (h : Nat) : Bool :=
  let v := s.hartAt h
  v.ctx.blk.isNone && !v.ctx.stopped && v.queue.isEmpty && v.spilt == 0 && v.replies.isEmpty
    && (s.clusterSet h).isEmpty && v.ctx.copies.isEmpty && !s.ownsArray h && !s.ownsStream h

/-- A field of the header at an image address. -/
def State.headerWord (s : State) (pa off : Nat) : Word := ofBytes 64 (s.devBytes (s.cell (pa + off)) 8)

/-- The checks of R205 that refuse an image. -/
def State.imageRefused (s : State) (h pa : Nat) : Bool :=
  let w0 := s.headerWord pa 0
  let held := fld (s.headerWord pa 16) 0 8
  let c := coreOf h
  fld w0 0 16 != 1 || (tst w0 35 && !s.ganged c) || decide (s.clusterCount c < held)
    || decide (s.maxOf c (ctxOf h) < held) || ((s.hartAt h).scalar && held != 0) || !s.ctxEmpty h

/-- Hart h waits in first-in first-out order for the array. -/
def Core.queueArray (k : Core) (h : Nat) : Core :=
  if hasNat k.array.waiting h then k else Core.grantArray { k with array := { k.array with waiting := k.array.waiting ++ [h] } }

/-- Hart h waits in first-in first-out order for the stream unit. -/
def Core.queueStream (k : Core) (h : Nat) : Core :=
  if hasNat k.stream.waiting h then k
  else Core.grantStream { k with stream := { k.stream with waiting := k.stream.waiting ++ [h] } }

/-- The restored contents (R205): the context, its queue and replies, the array's tiles, the unit's descriptors and
table; SUB 0x15 resumes at once, a recorded fault is delivered again, with the ktval of its record when the save found it
undelivered. DESIGN CHOICE (log 24): commands beyond the first 256 go to the squall ring even over unread entries, and stay on
chip where the ring is off. -/
def State.loadImage (s : State) (h : Nat) (kvf tval : Word) (img : Image) : State :=
  let sub := fld kvf 0 8
  let pre := sub = 0x15 ∨ sub = 0
  let c := coreOf h
  let s1 := s.modCore c fun k =>
    let k1 := match img.tiles with
      | some t =>
        { k with
          tiles := regroupTiles (List.range 16) (s.clusterSet h) t
          zpoison := regroupPoison (List.range 16) (s.clusterSet h) img.zpoison
          counters := (regroupCounters (List.range 16) (s.clusterSet h) img.counters).foldl (fun m e => Map.put m e.1 e.2)
            ((s.clusterSet h).foldl (fun m e => Map.erase m e) k.counters) }
      | none => k
    match img.streams with
    | some (d, p, g) => { k1 with descs := d, primes := p, pgen := g, dpoison := img.dpoison }
    | none => k1
  let s2 := s1.modHart h fun v =>
    { v with
      ctx := { img.ctx with
        stopped := !decide pre, refillBad := false
        nextCopy := max img.ctx.nextCopy v.ctx.nextCopy
        strip := img.ctx.strip.map fun st =>
          { st with cnt := { woff := st.cnt.woff, start := (s.coreAt c).hcycle } } }
      kflags := img.kflags, kfrm := img.kfrm, next := img.next, head := img.head, replies := img.replies, replyBad := img.replyBad
      rsv := img.rsv, kvfault := if pre then 0 else kvf, kvrst := img.kvrst, vfTval := if pre then 0 else if img.vfPend then tval else img.vfTval
      vfPend := !decide pre, queue := img.cmds.take 256 }
  (img.cmds.drop 256).foldl (fun t m =>
    if tst (t.hartAt h).ksqb 63 then
      (t.ringWrite h (t.hartAt h).sqProd m).modHart h fun x => { x with sqProd := x.sqProd + 1, spilt := x.spilt + 1 }
    else t.modHart h fun x => { x with queue := x.queue ++ [m] }) s2

/-- A vector store of ZP data (R132). -/
def storesZp (i : Instr) : Bool :=
  match i with
  | .vst _ _ _ t _ _ | .vsts _ _ _ _ t _ _ | .vstx _ _ _ _ t _ _ => t == 0x06
  | _ => false

/-- A ZP vector instruction of a context waits: a load for a copy or for another node, a store for its release (R132). -/
def VCtx.waitsZp (x : VCtx) : Bool :=
  x.waiting == some (.chain true) || x.waiting == some (.remote true)
    || (x.waiting == some .release && x.issued.any storesZp)

/-- A context of the core other than that of hart h has a ZP vector instruction in flight (R132). No other one, and no stream
instruction, is in flight between two steps. -/
def State.zpInFlight (s : State) (h : Nat) : Bool :=
  (List.range 4).any fun c => 4 * coreOf h + c != h && (s.hartAt (4 * coreOf h + c)).ctx.waitsZp

/-- Any byte of an image of n bytes is poisoned. -/
def State.imagePoison (s : State) (pa n : Nat) : Bool :=
  s.part.poison.any fun e => decide (s.cell pa ≤ e.1) && decide (e.1 < s.cell pa + n)

/-- The restore of R205, its checks made: it stalls until the context holds the saved count, then re-takes the array and the
stream unit in first-in first-out order, and waits for the prime-table drain (R132). A context that it leaves idle gives its
surplus (R32). An image that is only a header restores nothing more, and on a scalar hart, which has no vector context, nor
does any other (R13; log 118). -/
def State.restoreCtx (s : State) (h pa : Nat) : Slow :=
  let c := coreOf h
  let t := ctxOf h
  let held := fld (s.headerWord pa 16) 0 8
  let img := if (s.headerWord pa 8).toNat ≤ 0x1000 then default
    else (s.part.images[(s.headerWord pa 0x1000).toNat]?).getD default
  let s1 :=
    if (s.held c t).length < held then
      if s.isStalled c t then s.settle c else (s.joinStalled c t (some held)).settle c
    else s
  if (s.hartAt h).scalar then .done s
  else if s1.isStalled c t then .wait s1
  else
    let s2 := if img.tiles.isSome && !s1.ownsArray h then s1.modCore c fun k => k.queueArray h else s1
    if img.tiles.isSome && !s2.ownsArray h then .wait s2
    else
      let s3 := if img.streams.isSome && !s2.ownsStream h then s2.modCore c fun k => k.queueStream h else s2
      if img.streams.isSome && (!s3.ownsStream h || s3.zpInFlight h) then .wait s3
      else if (s.headerWord pa 8).toNat ≤ 0x1000 then .done s3
      else .done ((s3.loadImage h (s.headerWord pa 24) (s.headerWord pa 32) img).settle c)

/-- A restore that a machine check ends gives back what it took (R202, R205). -/
def State.abandonRestore (s : State) (h : Nat) : State :=
  let s1 := s.modCore (coreOf h) fun k => (k.leaveArray h).leaveStream h
  (s1.dropStalled (coreOf h) (ctxOf h)).releaseAll (coreOf h) (ctxOf h)

end Sys2Proof.Machine
end

