-- ==== Sys2Proof/Machine/Access.lean ====
section
/-! DEFINITION. The scalar agent's accesses to memory (R148, R152, R154, R189, R317, R354) and the return-address store
(R195, R196). -/

namespace Sys2Proof.Machine

/-- Under what the scalar agent of hart h is translated (R189). -/
def State.scalarView (s : State) (h : Nat) : View :=
  let v := s.hartAt h
  { katp := v.katp, mode := v.pm, sum := v.sumBit, kspb := v.kspb, core := coreOf h, vec := false }

/-- The exception of a failed scalar access (Table 10-4): the page fault of its kind, or access fault. -/
def excOf (a : Acc) (va : Word) : AccErr → Exc
  | .page => { cause := match a with
      | .fetch => 0x06
      | .load => 0x04
      | .store => 0x05
      | .amo => 0x05, tval := va }
  | .access t => { cause := 0x07, tval := t }
  | .table t => { cause := 0x07, tval := t }
  | .poison _ => { cause := 0x20, tval := 0 }

/-- A C-stream load or fetch of hart h consumes poison at pa: the machine check becomes pending, with ktval NEXT
(Table 11-1, R208). -/
def State.scalarPoisoned (s : State) (h pa : Nat) : State :=
  s.postMcheck h (mcheckRecord 0 0 false (pa % 2 ^ 56)) ((s.hartAt h).next.setWidth 64)

/-- n bytes of memory as the scalar agent of hart h reads them at a physical address, or the poison it meets. -/
def State.readMem (s : State) (h pa n : Nat) : Except AccErr (List Byte) :=
  if s.scalarPoison (coreOf h) (s.cell pa) n then .error (.poison pa)
  else .ok (s.scalarBytes (coreOf h) (s.cell pa) n)

/-- A read of another node by an agent of hart h is under way (R217). -/
def Transaction.reads (t : Transaction) (h : Nat) (a : Asker) : Bool := !t.write && t.hart == h && t.asker == a

/-- Data at a physical address of another node have been asked for, and not come (R217). -/
def State.asking (s : State) (h : Nat) (a : Asker) (pa : Nat) : Bool :=
  s.part.trans.any fun t => t.reads h a && t.pa == pa

/-- A read of another node by an agent of hart h begins, if it is not under way (R217). What the agent has asked for before
and wants no more, after an event or a vector fault, is no transaction of its any more. -/
def State.ask (s : State) (h : Nat) (a : Asker) (addr : Word) (pa : Nat) : State :=
  if s.asking h a pa then s
  else s.modPart fun p => ({ p with trans := p.trans.filter fun t => !t.reads h a } : Part).retain
    { id := 0, hart := h, write := false, pa := pa, data := [], asker := a, addr := addr }

/-- The address that the outcome of an access to another node names: virtual, or physical under MODE 0 (Table 10-4). -/
def View.faultAddr (v : View) (va : Word) (pa : Nat) : Word := if fld v.katp 60 4 = 0 then BitVec.ofNat 64 pa else va

/-- A read of another node by the current hart, whose data has not come: the instruction waits for it (R217). `addr` is the
address that an access fault of it names. -/
def State.awaitNaming (s : State) (addr : Word) (pa : Nat) : Option State :=
  if (s.paKind pa).isRemote && !s.hart.answered then some ((s.ask s.cur .scalar addr pa).stall .remote) else none

/-- The same for an access at a virtual address. -/
def State.awaitRemote (s : State) (va : Word) (pa : Nat) : Option State :=
  s.awaitNaming ((s.scalarView s.cur).faultAddr va pa) pa

/-- A store of bytes at a physical address goes to the junction buffer; none when the buffer is full (R148). On an IO page,
whose accesses perform in program order, the line drains at once (R152). One over a host link that is down is lost (R238). -/
def State.writeMem (s : State) (h pa pbmt : Nat) (bs : List Byte) : Option State :=
  let c := coreOf h
  let k := s.cell pa
  if s.paKind pa = .hostLost then some (s.writeLost h pa)
  else if junctionFull (s.junction c) (k / 64) then none
  else
    let s1 := (s.modCore c fun x => { x with junction := junctionPut x.junction h k bs (s.inStorage pa) }).wake (k / 64)
      fun y => coreOf y == c
    some (if pbmt = 2 then s1.drainOwn c (k / 64) else s1)

/-- Stores bytes to memory (R354); none when the store stalls on a full junction buffer. -/
def State.storeMem (s : State) (h : Nat) (va : Word) (bs : List Byte) (ok : PaKind → Bool) :
    Except AccErr (Option State) := do
  let (x, s1) ← s.translate (s.scalarView h) .store va ok
  .ok (s1.writeMem h x.pa x.pbmt bs)

/-! ### The return-address store (R195, R196) -/

/-- What a spill or push did. -/
inductive PushOut where
  | ok (s : State)
  | exc (s : State) (e : Exc)
  | stall (s : State)
  | poison (s : State)
  deriving DecidableEq, Repr

/-- An address of hart h decodes to a window or to a hole of the address map (R16, R195), of this node or of another that is
reached: neither an unreachable node (R15), nor an offset beyond the scratchpad in its window (R154), nor the scratchpad of a
core that is not enabled (R17). -/
def State.inHole (s : State) (h : Nat) (acc : Acc) (a : Word) : Bool :=
  match s.translate (s.scalarView h) acc a fun _ => true with
  | .ok (x, _) => (s.isLocal x.pa || s.reaches (x.pa / 2 ^ 44)) && !inSpadWindow x.pa
  | .error _ => false

/-- The oldest on-chip entry of hart h spills to memory (R195). On any fault nothing changes; krasb is the ktval
when the address itself decodes to a window or a hole. DEDUCED (log 133): so it is for a kras FLUSH or a kctxr written through
another hart's window: h's own mode and katp translate, and h takes the machine check of poison met there, not the agent. -/
def State.spillOldest (s : State) (h : Nat) : PushOut :=
  let v := s.hartAt h
  match v.ras.getLast? with
  | none => .ok s
  | some a =>
    let at_ := v.krasb - 8
    if v.krasb.toNat < 8 + v.krasl.toNat then .exc s { cause := 0x09, tval := v.krasb }
    else
      match s.storeMem h at_ (bytesOf a 8) PaKind.isMem with
      | .error (.access t) => .exc s { cause := 0x07, tval := if s.inHole h .store at_ then v.krasb else t }
      | .error (.poison pa) => .poison (s.scalarPoisoned h pa)
      | .error e => .exc s (excOf .store at_ e)
      | .ok none => .stall s
      | .ok (some s1) =>
        .ok (s1.modHart h fun x => { x with krasb := at_, spill := x.spill + 1, ras := x.ras.dropLast })

/-- Pushes a return address (R195). -/
def State.push (s : State) (h : Nat) (a : Word) : PushOut :=
  let v := s.hartAt h
  if v.ras.length < 32 then .ok (s.modHart h fun x => { x with ras := a :: x.ras })
  else
    match s.spillOldest h with
    | .ok s1 => .ok (s1.modHart h fun x => { x with ras := a :: x.ras })
    | .exc s1 e => .exc s1 e
    | .stall s1 => .stall s1
    | .poison s1 => .poison s1

/-- FLUSH spills every on-chip entry, oldest first, and stops at the first overflow or fault (R196). -/
def State.flushRas (s : State) (h : Nat) : Nat → PushOut
  | 0 => .ok s
  | n + 1 =>
    match s.spillOldest h with
    | .ok s1 => State.flushRas s1 h n
    | .exc s1 e => .exc s1 e
    | .stall s1 => .stall s1
    | .poison s1 => .poison s1

end Sys2Proof.Machine
end

