-- ==== Sys2Proof/Machine/Kregs.lean ====
section
/-! DEFINITION. The k-registers: what a read returns and what a write does (R3, R17, R286-R288, R315 and the entry of each
register). -/

namespace Sys2Proof.Machine

/-- The numbers of Table 19-12. -/
def kregNumbers : List Nat :=
  [0x000, 0x001, 0x002, 0x003, 0x004, 0x005, 0x006, 0x007, 0x008, 0x009, 0x00A, 0x00B, 0x00C, 0x00D,
   0x010, 0x011, 0x012, 0x020, 0x021, 0x022, 0x023, 0x024, 0x025, 0x030, 0x031, 0x032, 0x033, 0x034, 0x035,
   0x040, 0x041, 0x042, 0x050, 0x051, 0x052, 0x053, 0x054, 0x055, 0x056, 0x060, 0x061, 0x070, 0x071,
   0x080, 0x081, 0x082, 0x083, 0x0F0, 0x0F1]

/-- The registers that app mode may read (Table 19-12). -/
def appReads : List Nat :=
  [0x007, 0x008, 0x00D, 0x010, 0x011, 0x012, 0x021, 0x022, 0x023, 0x024, 0x025, 0x032, 0x040, 0x041, 0x042,
   0x050, 0x051, 0x052, 0x053, 0x054, 0x055, 0x056, 0x060, 0x061, 0x070, 0x080, 0x081, 0x082, 0x083, 0x0F0, 0x0F1]

/-- The registers that app mode may write, in part without effect (Table 19-12). -/
def appWrites : List Nat :=
  [0x007, 0x008, 0x010, 0x021, 0x025, 0x032, 0x042, 0x051, 0x052, 0x053, 0x054, 0x055, 0x056, 0x060, 0x061,
   0x0F0, 0x0F1]

/-- The registers that bkrd may read (Table 19-12). -/
def bkrdReads : List Nat := [0x00D, 0x032, 0x042, 0x051, 0x052, 0x053, 0x054, 0x055, 0x056, 0x060]

/-! ### Reads -/

/-- kvl, kvrows, kvg, kffs (Tables 4-3 to 4-6). -/
def Grant.kvl (g : Grant) : Word := g.vl.setWidth 64
def Grant.kvrows (g : Grant) : Word := BitVec.ofNat 64 (g.vtype.toNat * 0x10000 + g.vrows)
def Grant.kvg (g : Grant) : Word := BitVec.ofNat 64 (g.depth * 2 ^ 32 + g.g.toNat)
def Grant.kffs (g : Grant) : Word := putBit (g.f.setWidth 64) 63 g.trim

/-- klat of core c (R30). -/
def State.klat (s : State) (c : Nat) : Word :=
  (s.coreAt c).clusters.foldl (fun w e => putFld w (4 * e.1) 4 (8 + e.2 % 4)) 0

/-- kterm of hart h (Table 6-6): clusters 8-15 read 0 without a gang of slabs. -/
def State.kterm (s : State) (h : Nat) : Word :=
  let v := s.hartAt h
  let sel := fld v.kterm 4 2
  let cl := fld v.kterm 0 4
  let k := Map.get {} (s.coreAt (coreOf h)).counters cl
  let count : BitVec 56 :=
    if 8 ≤ cl ∧ !s.ganged (coreOf h) then 0
    else if sel = 0 then k.terms else if sel = 1 then k.tcycles else k.idle
  BitVec.ofNat 64 (sel * 2 ^ 62 + cl * 2 ^ 58 + count.toNat)

/-- kprime of hart h (Table 7-2). -/
def State.kprime (s : State) (h : Nat) : Word :=
  let k := s.coreAt (coreOf h)
  let sel := (s.hartAt h).kprimeSel.toNat
  BitVec.ofNat 64 (sel * 2 ^ 61 + k.primes.length * 2 ^ 48 + k.pgen.toNat * 2 ^ 32 + (k.primes.getD sel 0) % 2 ^ 32)

/-- kmvl of hart h (Table 6-2). -/
def State.kmvl (s : State) (h : Nat) : Word :=
  if s.ownsArray h then
    BitVec.ofNat 64 (2 ^ 63 + 2 ^ 62 * natOf (s.hartAt h).ctx.shadow + 32 * (s.clusterSet h).length)
  else 0

/-- Enabled cores (R226). -/
def State.coresEnabled (s : State) : Nat := (s.part.hoist.filter fun e => tst e 31).length

/-- kid (Table 12-1). -/
def State.kid (s : State) : Word :=
  BitVec.ofNat 64 (s.part.node.toNat * 2 ^ 52 + (s.coresEnabled % 128) * 2 ^ 45 + 0x10 * 2 ^ 32 + 0x64080768)

/-- The value of k-register n of hart h, reached in the copy of a mode (R187, R286-R288). -/
def State.kread (s : State) (h mode n : Nat) : Word :=
  let v := s.hartAt h
  let c := coreOf h
  let k := s.coreAt c
  let t := v.trapRegs mode
  match n with
  | 0x000 => v.kstatus
  | 0x001 => t.cause
  | 0x002 => t.tval
  | 0x003 => t.epc
  | 0x004 => t.tvec
  | 0x005 => t.scratch
  | 0x006 => v.katp
  | 0x007 => v.kflags
  | 0x008 => v.kfrm
  | 0x009 => BitVec.ofNat 64 (v.spill.toNat * 2 ^ 32 + v.ras.length)
  | 0x00A => v.krasb
  | 0x00B => v.krasl
  | 0x00C => v.kdeadline
  | 0x00D => k.kcycle
  | 0x010 => BitVec.ofNat 64 (c * 256 + h)
  | 0x011 => v.kgang
  | 0x012 => v.kgbar
  | 0x020 => k.klpr
  | 0x021 => s.klat c
  | 0x022 => BitVec.ofNat 64 (v.next.toNat * 2 ^ 32 + v.head.toNat)
  | 0x023 => v.ksqb
  | 0x024 => BitVec.ofNat 64 (v.spilt.toNat * 2 ^ 32 + v.quota.toNat)
  | 0x025 => BitVec.ofNat 64 (v.replies.length * 256 + v.rsv)
  | 0x030 => v.kvfault
  | 0x031 =>
    -- DESIGN CHOICE (log 129): a SEL at or beyond the clusters held reads DELTA and STEP 0.
    let e := if v.kvrstSel.toNat < (s.clusterSet h).length then Map.get (0, 0) v.kvrst v.kvrstSel.toNat else (0, 0)
    BitVec.ofNat 64 (v.kvrstSel.toNat * 2 ^ 60 + e.1.toNat * 2 ^ 16 + e.2.toNat)
  | 0x032 => v.ctx.grant.kffs
  | 0x033 => BitVec.ofNat 64 (s.imageSize h)
  | 0x034 => 0
  | 0x035 => v.kpreq.setWidth 64
  | 0x040 => v.kpen
  | 0x041 => v.kpenc
  | 0x042 => s.kterm h
  | 0x050 => v.kspb
  | 0x051 => v.ctx.grant.kvl
  | 0x052 => v.ctx.grant.kvrows
  | 0x053 => v.ctx.grant.kvg
  | 0x054 => BitVec.ofNat 64 (s.clusterSet h).length
  | 0x055 => s.kmvl h
  | 0x056 => v.ctx.kmtile
  | 0x060 => s.kprime h
  | 0x061 => v.kminimg.setWidth 64
  | 0x070 => v.kcpfq
  | 0x071 => (s.towerAt (s.towerOf c)).kheat
  | 0x080 => v.kmcheck
  | 0x081 => k.kbecalm
  | 0x082 => k.kdump
  | 0x083 => v.kbrk
  | 0x0F0 => s.kid
  | 0x0F1 => s.part.kbist
  | _ => 0

/-! ### Field access (R3) -/

/-- The RW bits of register n. -/
def kRw (n : Nat) : Word :=
  match n with
  | 0x000 => 0x3C17
  | 0x001 => 0xFF
  | 0x002 => 0xFFFFFFFFFFFFFFFF
  | 0x003 => 0xFFFFFFFFFFFFFFFC
  | 0x004 => 0xFFFFFFFFFFFFFFFC
  | 0x005 => 0xFFFFFFFFFFFFFFFF
  | 0x006 => 0xFFFFFFFFFFFFFFFF
  | 0x007 => 0x1F
  | 0x008 => 0x7
  | 0x009 => 0xFFFFFFFF00000000
  | 0x00A => 0xFFFFFFFFFFFFFFF8
  | 0x00B => 0xFFFFFFFFFFFFFFF8
  | 0x00C => 0xFFFFFFFFFFFFFFFF
  | 0x011 => 0x8000F800FFFFFFFF
  | 0x012 => 0xFFFFFFFFFFFFFFF8
  | 0x020 => 0xDF1FDF1FDF1FDF1F
  | 0x022 => 0xFFFFFFFF
  | 0x023 => 0x80FFFFFFFFFFF03F
  | 0x024 => 0xFFFFFFFF
  | 0x030 => 0xFFFFFFFFFFFFFFFF
  | 0x031 => 0xF000000000000000
  | 0x033 => 0xFFFFFFFFFFFFFFFF
  | 0x034 => 0xFFFFFFFFFFFFFFFF
  | 0x040 => 0x00FFFFFFFFFFF03F
  | 0x041 => 0xFF00FFFFFF000000
  | 0x042 => 0xFC00000000000000
  | 0x050 => 0x81FFFFFFFFC00000
  | 0x060 => 0xE000000000000000
  | 0x061 => 0xF
  | 0x070 => 0xFFFFFFFFFFFFF03F
  | 0x071 => 0xFFFFFFFFFFFFF03F
  | 0x081 => 0x4000FFFFFFFFFFFF
  | 0x082 => 0x80FFFFFFFFFFF03F
  | 0x083 => 0xE1FFFFFFFFFFFFFC
  | _ => 0

/-- The RS bits of register n. -/
def kRs (n : Nat) : Word := if n = 0x009 then 0x80000000 else if n = 0x035 then 0x3 else 0

/-- The W1C bits of register n. -/
def kW1c (n : Nat) : Word := if n = 0x080 then 0x8000000000000000 else 0

/-- What kset writes (R288): old OR a to RW fields, a to RS fields, 0 to W1C fields. -/
def ksetValue (n : Nat) (old a : Word) : Word := ((old ||| a) &&& kRw n) ||| (a &&& kRs n)

/-- What kclr writes (R288): old AND NOT a to RW fields, 0 to RS fields, a to W1C fields. -/
def kclrValue (n : Nat) (old a : Word) : Word := ((old &&& ~~~a) &&& kRw n) ||| (a &&& kW1c n)

/-- The RW bits of a register replaced (R315). -/
def mergeRw (n : Nat) (old v : Word) : Word := (old &&& ~~~(kRw n)) ||| (v &&& kRw n)

/-! ### Writes -/

/-- What a k-register write came to: done, illegal instruction with nothing changed, another exception (after the state
that stands), a wait, or poison met on the way, whose machine check is pending. -/
inductive KOut where
  | ok (s : State)
  | illegal
  | exc (s : State) (e : Exc)
  | wait (w : Wait) (s : State)
  | poison (s : State)
  deriving DecidableEq, Repr

/-- Refuses a write, or makes it. -/
def kGuard (bad : Bool) (s : State) : KOut := if bad then .illegal else .ok s

/-- EN = 1 with LOG2SZ outside lo-hi. -/
def badSize (v : Word) (lo hi : Nat) : Bool :=
  tst v 63 && !(decide (lo ≤ fld v 0 6) && decide (fld v 0 6 ≤ hi))

/-- kgang (R21): GCL 17-31, or GCL changed while ING = 1, is refused. -/
def kwriteGang (s : State) (h : Nat) (v : Word) : KOut :=
  let old := (s.hartAt h).kgang
  let new := mergeRw 0x011 old v
  kGuard (decide (17 ≤ fld new 43 5) || (tst old 62 && fld new 43 5 != fld old 43 5))
    (s.modHart h fun x => { x with kgang := new })

/-- The cluster count that klpr entries are tested against (R29); a dark helm's own klpr governs nothing (R28). -/
def State.lprCount (s : State) (c : Nat) : Nat :=
  if s.dark c then 8 - (s.coreAt c).retired.length else s.clusterCount c

/-- Entry t of klpr changes MIN or MAX. -/
def lprMoves (old new : Word) (t : Nat) : Bool :=
  lprMin old t != lprMin new t || lprMax old t != lprMax new t

/-- A klpr value that R23, R29 or R105 refuse. -/
def State.lprRefused (s : State) (c : Nat) (old new : Word) : Bool :=
  let live := (List.range 4).filter fun t => !lprStr new t
  let count := s.lprCount c
  (live.any fun t => decide (lprMax new t < lprMin new t) || decide (count < lprMax new t))
    || decide (count < (live.map fun t => lprMin new t).foldl (· + ·) 0)
    || ((List.range 4).any fun t =>
      let v := s.hartAt (4 * c + t)
      (v.live && v.inGang && lprMoves old new t)
        || ((s.coreAt c).array.owner == some (4 * c + t) && fld old (16 * t) 16 != fld new (16 * t) 16))

/-- klpr (R23, R28, R29, R105): the new value is in force at once, and clusters settle. -/
def kwriteLpr (s : State) (h : Nat) (v : Word) : KOut :=
  let c := coreOf h
  let old := (s.coreAt c).klpr
  let new := mergeRw 0x020 old v
  kGuard (s.lprRefused c old new) ((s.modCore c fun k => { k with klpr := new }).settle c)

/-- Reply slots that discarded commands had reserved and not used (R51). -/
def unusedSlots (b : Option Block) : List Command → Nat
  | [] => 0
  | c :: cs =>
    (match b with
      | some k => if k.cmd.pos = c.pos then c.nrep - k.sent else c.nrep
      | none => c.nrep) + unusedSlots b cs

/-- The commands from the old HEAD up to v − 1 are discarded, the stopped block first (R51): its word that waits for the
stream unit, and the unit, are given up (R131, R270), a ring entry past the discarded ones has not been read (R49), and
a context that is idle then gives its surplus (R32). -/
def State.discard (s : State) (h n : Nat) : State :=
  let s1 := s.closeStrip h false true
  let all := s1.allCommands h
  let s2 := s1.modHart h fun x =>
    let onChip := min n x.queue.length
    { x with
      head := x.head + BitVec.ofNat 32 n
      rsv := x.rsv - unusedSlots x.ctx.blk (all.take n)
      queue := x.queue.drop n
      sqCons := x.sqCons + (n - onChip)
      spilt := x.spilt - BitVec.ofNat 32 (n - onChip)
      ctx := { x.ctx with blk := none, loops := [], step := 0, vsup := false, answered := false
                          refillBad := x.ctx.refillBad && decide (n ≤ onChip) } }
  (s2.modCore (coreOf h) fun k => k.leaveStream h).settle (coreOf h)

/-- kvq (R51). -/
def kwriteVq (s : State) (h mode : Nat) (v : Word) : KOut :=
  let x := s.hartAt h
  let n := ((v.setWidth 32 : W32) - x.head).toNat
  if mode = 0 ∨ !x.ctx.stopped ∨ x.outstanding < n then .illegal
  else if n = 0 then .ok s
  else .ok (s.discard h n)

/-- ksqb (R50). Both ring indices become 0 (R48). -/
def kwriteSqb (s : State) (h : Nat) (v : Word) : KOut :=
  let x := s.hartAt h
  let new := mergeRw 0x023 x.ksqb v
  let base := ringSlot (fld new 12 44 * 0x1000) (fld new 0 6) 128 0
  kGuard (x.spilt != 0 || badSize new 12 28 || (tst new 63 && !s.inHbm base (2 ^ fld new 0 6)))
    (s.modHart h fun y => { y with ksqb := new, sqProd := 0, sqCons := 0 })

/-- kvfault (R60, R199): only 0, and only while the context is stopped. DESIGN CHOICE (log 127): a fault not yet delivered is
delivered no more. -/
def kwriteVfault (s : State) (h mode : Nat) (v : Word) : KOut :=
  let x := s.hartAt h
  if v ≠ 0 ∨ !x.ctx.stopped ∨ mode = 0 then .illegal
  else .ok (s.modHart h fun y =>
    { y with kvfault := 0, kvrst := [], vfTval := 0, vfPend := false, ctx := { y.ctx with stopped := false } })

/-- kctx (R203, R204). -/
def kwriteCtx (s : State) (h : Nat) (v : Word) : KOut :=
  if fld v 0 12 ≠ 0 then .exc s { cause := 0x03, tval := v }
  else if !s.inHbm v.toNat (s.imageSize h) then .exc s { cause := 0x07, tval := v }
  else
    match s.saveCtx h v.toNat with
    | .done s1 => .ok s1
    | .wait s1 => .wait .kctx s1

/-- kctxr (R203, R205). `again` says that this write has stalled and made its checks; those stand while the hart keeps its
vector context, and on a hart that has become scalar since the image is judged anew (R13). An image that holds an uncorrectable
error is consumed as by a C-stream load, and nothing is restored (DESIGN CHOICE, log 111). -/
def kwriteCtxr (s : State) (h : Nat) (again : Bool) (v : Word) : KOut :=
  let size := (s.headerWord v.toNat 8).toNat
  let made := again && !(s.hartAt h).scalar
  if !made && !s.ctxEmpty h then .illegal
  else if fld v 0 12 ≠ 0 then .exc s { cause := 0x03, tval := v }
  else if !s.inHbm v.toNat 0x1000 then .exc s { cause := 0x07, tval := v }
  else if !made && s.imageRefused h v.toNat then .illegal
  else if !s.inHbm v.toNat size then .exc s { cause := 0x07, tval := v }
  else if s.imagePoison v.toNat (max 0x1000 size) then .poison (s.scalarPoisoned h v.toNat)
  else
    match s.restoreCtx h v.toNat with
    | .done s1 => .ok s1
    | .wait s1 => .wait .kctxr s1

/-- kras (R195, R196): SPILL, and FLUSH, which spills every on-chip entry. A FLUSH that meets a full junction buffer stalls
as a whole, and begins when the buffer takes all of it. -/
def kwriteRas (s : State) (h : Nat) (v : Word) : KOut :=
  let x := s.hartAt h
  let spill : W32 := BitVec.ofNat 32 (fld v 32 32)
  if x.ras.length ≠ 0 ∧ spill ≠ x.spill then .illegal
  else
    let s1 := s.modHart h fun y => { y with spill := spill }
    if tst v 31 then
      match s1.flushRas h x.ras.length with
      | .ok s2 => .ok s2
      | .exc s2 e => .exc s2 e
      | .stall _ => .wait .store s
      | .poison s2 => .poison s2
    else .ok s1

/-- krasb (R196). -/
def kwriteRasb (s : State) (h : Nat) (v : Word) : KOut :=
  let x := s.hartAt h
  let new := v &&& 0xFFFFFFFFFFFFFFF8
  kGuard (x.ras.length != 0 && new != x.krasb) (s.modHart h fun y => { y with krasb := new })

/-- katp (R188). -/
def kwriteAtp (s : State) (h : Nat) (v : Word) : KOut :=
  kGuard (fld v 60 4 != 0 && fld v 60 4 != 10) (s.modHart h fun y => { y with katp := v })

/-- kfrm (R94): waits until HEAD = NEXT. -/
def kwriteFrm (s : State) (h : Nat) (v : Word) : KOut :=
  if 6 ≤ fld v 0 3 then .illegal
  else if (s.hartAt h).head ≠ (s.hartAt h).next then .wait .kreg s
  else .ok (s.modHart h fun y => { y with kfrm := v &&& 7 })

/-- kflags (R101): waits until HEAD = NEXT. -/
def kwriteFlags (s : State) (h : Nat) (v : Word) : KOut :=
  if (s.hartAt h).head ≠ (s.hartAt h).next then .wait .kreg s
  else .ok (s.modHart h fun y => { y with kflags := v &&& 0x1F })

/-- kpen (R221): PROD and CONS become 0. -/
def kwritePen (s : State) (h : Nat) (v : Word) : KOut :=
  let new := v &&& kRw 0x040
  kGuard (!(decide (12 ≤ fld new 0 6) && decide (fld new 0 6 ≤ 22)))
    (s.modHart h fun y => { y with kpen := new, kpenc := putFld y.kpenc 0 48 0 })

/-- kterm (R117). -/
def kwriteTerm (s : State) (h : Nat) (v : Word) : KOut :=
  kGuard (fld v 62 2 == 3) (s.modHart h fun y => { y with kterm := BitVec.ofNat 6 (fld v 58 6) })

/-- kminimg (R134). -/
def kwriteMinimg (s : State) (h : Nat) (v : Word) : KOut :=
  kGuard (fld v 0 4 == 0 || decide (8 < fld v 0 4)) (s.modHart h fun y => { y with kminimg := BitVec.ofNat 4 (fld v 0 4) })

/-- kcpfq (R161): the producer index becomes 0. -/
def kwriteCpfq (s : State) (h : Nat) (v : Word) : KOut :=
  let new := v &&& kRw 0x070
  kGuard (badSize new 12 28) (s.modHart h fun y => { y with kcpfq := new, cpfProd := 0 })

/-- kheat of the tower of hart h (R166): the producer index becomes 0. -/
def kwriteHeat (s : State) (h : Nat) (v : Word) : KOut :=
  let new := v &&& kRw 0x071
  kGuard (badSize new 12 28) (s.modTower (s.towerOf (coreOf h)) fun y => { y with kheat := new, heatProd := 0 })

/-- kdump (R225): LOG2SZ outside 16-30 is refused whatever EN is. -/
def kwriteDump (s : State) (h : Nat) (v : Word) : KOut :=
  let new := v &&& kRw 0x082
  kGuard (!(decide (16 ≤ fld new 0 6) && decide (fld new 0 6 ≤ 30))) (s.modCore (coreOf h) fun k => { k with kdump := new })

/-- kdeadline (R201): pending is computed afresh from the new value. -/
def kwriteDeadline (s : State) (h : Nat) (v : Word) : KOut := .ok (s.modHart h fun y => { y with kdeadline := v })

/-- kpreq of hart h written by hart `by_` (R200): the sender is recorded for IHI. -/
def kwritePreq (s : State) (h by_ : Nat) (v : Word) : KOut :=
  .ok (s.modHart h fun y =>
    { y with kpreq := y.kpreq ||| BitVec.ofNat 2 (fld v 0 2), ihiFrom := if tst v 1 then by_ else y.ihiFrom })

/-- A trap register of the copy of a mode (R187). -/
def kwriteTrapReg (s : State) (h mode n : Nat) (v : Word) : KOut :=
  .ok (s.modHart h fun y =>
    let t := y.trapRegs mode
    y.setTrapRegs mode (match n with
      | 1 => { t with cause := v &&& 0xFF }
      | 2 => { t with tval := v }
      | 3 => { t with epc := v &&& 0xFFFFFFFFFFFFFFFC }
      | 4 => { t with tvec := v &&& 0xFFFFFFFFFFFFFFFC }
      | _ => { t with scratch := v }))

/-- The write of value v to k-register n of hart h, by hart `by_` in a mode, after the privilege check (R286, R315).
`again` says that the writing instruction has stalled in this write. -/
def State.kwrite (s : State) (h mode by_ : Nat) (again : Bool) (n : Nat) (v : Word) : KOut :=
  match n with
  | 0x000 => .ok (s.modHart h fun y => { y with kstatus := mergeRw 0x000 y.kstatus v })
  | 0x001 => kwriteTrapReg s h mode 1 v
  | 0x002 => kwriteTrapReg s h mode 2 v
  | 0x003 => kwriteTrapReg s h mode 3 v
  | 0x004 => kwriteTrapReg s h mode 4 v
  | 0x005 => kwriteTrapReg s h mode 5 v
  | 0x006 => kwriteAtp s h v
  | 0x007 => kwriteFlags s h v
  | 0x008 => kwriteFrm s h v
  | 0x009 => kwriteRas s h v
  | 0x00A => kwriteRasb s h v
  | 0x00B => .ok (s.modHart h fun y => { y with krasl := v &&& 0xFFFFFFFFFFFFFFF8 })
  | 0x00C => kwriteDeadline s h v
  | 0x011 => kwriteGang s h v
  | 0x012 => .ok (s.modHart h fun y => { y with kgbar := v &&& 0xFFFFFFFFFFFFFFF8 })
  | 0x020 => kwriteLpr s h v
  | 0x022 => kwriteVq s h mode v
  | 0x023 => kwriteSqb s h v
  | 0x024 => .ok (s.modHart h fun y => { y with quota := BitVec.ofNat 32 (fld v 0 32) })
  | 0x030 => kwriteVfault s h mode v
  | 0x031 => .ok (s.modHart h fun y => { y with kvrstSel := BitVec.ofNat 4 (fld v 60 4) })
  | 0x033 => kwriteCtx s h v
  | 0x034 => kwriteCtxr s h again v
  | 0x035 => kwritePreq s h by_ v
  | 0x040 => kwritePen s h v
  | 0x041 => .ok (s.modHart h fun y => { y with kpenc := mergeRw 0x041 y.kpenc v })
  | 0x042 => kwriteTerm s h v
  | 0x050 => .ok (s.modHart h fun y => { y with kspb := v &&& kRw 0x050 })
  | 0x060 => .ok (s.modHart h fun y => { y with kprimeSel := BitVec.ofNat 3 (fld v 61 3) })
  | 0x061 => kwriteMinimg s h v
  | 0x070 => kwriteCpfq s h v
  | 0x071 => kwriteHeat s h v
  | 0x080 => .ok (s.modHart h fun y => { y with kmcheck := y.kmcheck &&& ~~~(v &&& kW1c 0x080) })
  | 0x081 => .ok (s.modCore (coreOf h) fun k => { k with kbecalm := mergeRw 0x081 k.kbecalm v })
  | 0x082 => kwriteDump s h v
  | 0x083 => .ok (s.modHart h fun y => { y with kbrk := v &&& kRw 0x083 })
  | _ => .ok s

end Sys2Proof.Machine
end

