-- ==== Sys2Proof/Machine/Operands.lean ====
section
/-! DEFINITION. Operand forms of the C-stream and of the block instructions: immediates, offsets, conditions (R274, R275,
R297-R299, Table 20-1). -/

namespace Sys2Proof.Machine

/-! ### Immediates and offsets (R275) -/

/-- A field sign-extended to 64 bits. -/
def sext {w : Nat} (v : BitVec w) : Word := v.signExtend 64

/-- A field zero-extended to 64 bits. -/
def zext {w : Nat} (v : BitVec w) : Word := v.setWidth 64

/-- A C-stream target: the pc plus 4 times a signed offset (R275). -/
def branchTarget {w : Nat} (pc : Word) (o : BitVec w) : Word := pc + 4 * sext o

/-- A block target: the bpc plus 8 times a signed offset (R298). -/
def blockTarget (bpc : Word) (o : W32) : Word := bpc + 8 * sext o

/-- The address of ld and st (R317, R354). -/
def memAddr (base : Word) (o : BitVec 13) : Word := base + sext o

/-- Bits [16c+15:16c] of a register replaced by a chunk (R312). -/
def putChunk (v : Word) (c : BitVec 2) (i : BitVec 16) : Word := putFld v (16 * c.toNat) 16 i.toNat

/-! ### Conditions (Table 20-1) -/

/-- Cond(cc, a, b). -/
def condHolds (c : Cond) (a b : Word) : Bool :=
  match c with
  | .eq => a == b
  | .ne => a != b
  | .lt => a.slt b
  | .ge => !a.slt b
  | .ltu => a.ult b
  | .geu => !a.ult b

/-- A truth value in a register: 1 or 0. -/
def boolWord (c : Bool) : Word := if c then 1 else 0

/-! ### Widths -/

/-- Bytes of a scalar load (R317). -/
def ldBytes : LdWidth → Nat
  | .b | .bu => 1
  | .h | .hu => 2
  | .w | .wu => 4
  | .d => 8

/-- The loaded bytes in a register: sign-extended for b, h, w, zero-extended for bu, hu, wu (R317). -/
def ldExtend : LdWidth → Word → Word
  | .b, v => sext (v.setWidth 8)
  | .h, v => sext (v.setWidth 16)
  | .w, v => sext (v.setWidth 32)
  | .d, v => v
  | .bu, v => zext (v.setWidth 8)
  | .hu, v => zext (v.setWidth 16)
  | .wu, v => zext (v.setWidth 32)

/-- Bytes of a scalar store (R354). -/
def stBytes : StWidth → Nat
  | .b => 1
  | .h => 2
  | .w => 4
  | .d => 8

/-- Bytes of an atomic (R293). -/
def atomBytes (dbl : Bool) : Nat := if dbl then 8 else 4

/-- Sext(v, 8n) of an atomic (R294). -/
def atomExtend (dbl : Bool) (v : Word) : Word := if dbl then v else sext (v.setWidth 32)

/-- An address that is a multiple of n (R317). -/
def aligned (a : Word) (n : Nat) : Bool := a.toNat % n == 0

/-! ### Block operands (R297) -/

/-- b[r] of a context. -/
def VCtx.br (c : VCtx) (r : BReg) : Word := Sparse.read 0 c.b r.toNat

/-- b[r] ← w; new data takes a poison mark away (R206). -/
def VCtx.bw (c : VCtx) (r : BReg) (w : Word) : VCtx :=
  { c with b := Sparse.write 0 c.b r.toNat w, bpoison := Map.erase c.bpoison r.toNat }

/-- The second source of a block instruction: a register or the sign-extended immediate (R297). -/
def VCtx.bsrc (c : VCtx) : BSrc → Word
  | .reg r => c.br r
  | .imm i => sext i

end Sys2Proof.Machine
end

