-- ==== Sys2Proof/Machine/Window.lean ====
section
/-! DEFINITION. What scalar loads and stores reach besides memory: the k-register windows (R17) and the engine windows
(R234); and the scalar load and store of every target, shared by ld, st, the atomics and the monitor. -/

namespace Sys2Proof.Machine

/-- The word of a C-stream instruction, as ktval shows it (R198). -/
def cword (i : Instr) : Word :=
  match encodeC i with
  | some w => zext w
  | none => 0

/-- Illegal instruction (R198): ktval is the word. -/
def illegal (i : Instr) : Exc := { cause := 0x01, tval := cword i }

/-- Privilege (R198): ktval is the word. -/
def privilege (i : Instr) : Exc := { cause := 0x0C, tval := cword i }

/-- Misaligned (Table 10-4). -/
def misaligned (a : Word) : Exc := { cause := 0x03, tval := a }

/-! ### Engine windows (Tables 12-4 to 12-7) -/

/-- PWR as it reads: TJ and WATTS are measured, so free values, within the bounds that firmware keeps: 100 degrees and PCAP
(R239; log 15). -/
def State.pwrRead (s : State) : Word :=
  putFld (putFld s.part.pwr 40 8 ((Config.freeWord s.tick 40).toNat % 101))
    16 16 ((Config.freeWord s.tick 41).toNat % (fld s.part.pwr 0 16 + 1))

/-- An engine window register as a mode reads it (R234). -/
def State.engineRead (s : State) (off : Nat) : Word :=
  if off < 0x400 then Map.get 0 s.part.portst (off / 8)
  else if off = 0x1000 then s.part.hlst
  else if off < 0x1180 then
    if off % 16 = 0 then Map.get 0 s.part.srb ((off - 0x1100) / 16) else Map.get 0 s.part.srl ((off - 0x1100) / 16)
  else if off = 0x1200 then s.pwrRead
  else s.part.mev

/-- The power cap that a value of PCAP stands for (Table 12-7). -/
def capOf (n : Nat) : Nat := if n < 600 ∨ 2400 < n then 2400 else n

/-- A write of an engine window register from a mode (R234). -/
def State.engineWrite (s : State) (mode off : Nat) (v : Word) : State :=
  if off < 0x1100 then s
  else if off < 0x1180 then
    if mode ≠ 2 then s
    else if off % 16 = 0 then
      s.modPart fun p => { p with srb := Map.put p.srb ((off - 0x1100) / 16) (v &&& 0x80000FFFFFFFF000) }
    else s.modPart fun p => { p with srl := Map.put p.srl ((off - 0x1100) / 16) (v &&& 0x00000FFFFFFFF000) }
  else if off = 0x1200 then s.modPart fun p => { p with pwr := putFld p.pwr 0 16 (capOf (fld v 0 16)) }
  else s.modPart fun p => { p with mev := if tst v 63 then putBit p.mev 63 false else p.mev }

/-! ### The outcome of a k-register write in an instruction -/

/-- A k-register write ends its instruction: the next word, an exception, or a wait at it (R288, R315). -/
def State.endWrite (s : State) (i : Instr) (f : State → State) : KOut → State
  | .ok s1 => (f s1).advance
  | .illegal => s.raise (illegal i)
  | .exc s1 e => s1.raise e
  | .wait w s1 => s1.stall w
  | .poison s1 => s1.advance

/-! ### Scalar loads and stores -/

/-- What a scalar access of n bytes in a mode may reach (R17, R234): memory; the windows, of any node, only by aligned 8-byte
accesses of sup and fw. -/
def scalarOk (mode n : Nat) (k : PaKind) : Bool :=
  match k with
  | .kwin _ off => n == 8 && mode != 0 && off % 8 == 0
  | .engine off => n == 8 && mode != 0 && off % 8 == 0
  | .remoteReg _ => n == 8 && mode != 0
  | .hbm | .spad _ _ | .host | .remote _ => true
  | .hostLost | .bad => false

/-- What a scalar load came to: a value, an exception, the machine check of poisoned data, or a wait for another node. -/
inductive LoadOut where
  | value (v : Word) (s : State)
  | exc (e : Exc)
  | poison (s : State)
  | wait (s : State)
  deriving DecidableEq, Repr

/-- The load of n bytes at a virtual address by the current hart (R148, R152, R154, R217, R317). What a
register of another node reads is a free value (log 105). -/
def State.scalarLoad (s : State) (i : Instr) (a : Acc) (va : Word) (n : Nat) (ok : PaKind → Bool) : LoadOut :=
  let mode := s.hart.pm
  match s.translate (s.scalarView s.cur) a va ok with
  | .error (.poison pa) => .poison (s.scalarPoisoned s.cur pa)
  | .error e => .exc (excOf a va e)
  | .ok (x, s1) =>
    match s1.paKind x.pa with
    | .kwin h off =>
      if hasNat kregNumbers (off / 8) then .value (s1.kread h mode (off / 8)) s1 else .exc (illegal i)
    | .engine off => .value (s1.engineRead off) s1
    | k =>
      match s1.awaitRemote va x.pa with
      | some s2 => .wait s2
      | none =>
        match s1.readMem s.cur x.pa n with
        | .ok bs => .value (if k.isMem then ofBytes 64 bs else Config.freeWord s.tick 45) s1
        | .error _ => .poison (s1.scalarPoisoned s.cur x.pa)

/-- The store of n bytes of a register at a virtual address by the current hart, to its end: the next word, an exception,
or a stall on a full junction buffer (R17, R148, R154, R234, R354). -/
def State.scalarStore (s : State) (i : Instr) (va v : Word) (n : Nat) (ok : PaKind → Bool) : State :=
  let mode := s.hart.pm
  match s.translate (s.scalarView s.cur) .store va ok with
  | .error (.poison pa) => (s.scalarPoisoned s.cur pa).advance
  | .error e => s.raise (excOf .store va e)
  | .ok (x, s1) =>
    match s1.paKind x.pa with
    | .kwin h off =>
      if hasNat kregNumbers (off / 8) then
        s1.endWrite i id (s1.kwrite h mode s.cur (s.hart.wait == some .kctxr) (off / 8) v)
      else s1.raise (illegal i)
    | .engine off => (s1.engineWrite mode off v).advance
    | _ =>
      match s1.writeMem s.cur x.pa x.pbmt (bytesOf v n) with
      | some s2 => s2.advance
      | none => s1.stall .store

end Sys2Proof.Machine
end

