-- ==== Sys2Proof/Machine/Events.lean ====
section
/-! DEFINITION. Asynchronous events: which one is pending first, when it is taken, and what its entry does (R37, R199-R202,
R335, R400). -/

namespace Sys2Proof.Machine

/-- The deadline of hart h is pending (R201). -/
def State.deadlineDue (s : State) (h : Nat) : Bool :=
  let v := s.hartAt h
  tst v.kdeadline 63 && decide (fld v.kdeadline 0 63 ≤ (s.coreAt (coreOf h)).kcycle.toNat)

/-- The first pending asynchronous event of hart h other than a machine check, by cause (R202 step 3). -/
def State.firstEvent (s : State) (h : Nat) : Option Nat :=
  let v := s.hartAt h
  if v.vfPend then some 0x10
  else if v.mgmtPend then some 0x43
  else if tst v.kpreq 0 then some 0x40
  else if s.deadlineDue h then some 0x42
  else if tst v.kpreq 1 then some 0x41
  else none

/-- Any asynchronous event of hart h is pending (R335, R400). -/
def State.eventPending (s : State) (h : Nat) : Bool := (s.hartAt h).mcPend.isSome || (s.firstEvent h).isSome

/-- The hart that a kctxr of hart h restores: its own, or, by a store to a k-register window, that of the window (R17). -/
def State.restoring (s : State) (h : Nat) : Nat :=
  match (s.hartAt h).issued with
  | some (.st _ a _ o) =>
    match s.translate (s.scalarView h) .store (memAddr ((s.hartAt h).xr a) o) (fun _ => true) with
    | .ok (x, _) =>
      match s.paKind x.pa with
      | .kwin g _ => g
      | _ => h
    | .error _ => h
  | _ => h

/-- The machine check of hart h is taken (R202, R208): kepc is the pc, ktval its value. A stalled kctxr gives back what
it took. -/
def State.takeMcheck (s : State) (h : Nat) (tval : Word) : State :=
  let s1 := if (s.hartAt h).wait = some .kctxr then s.abandonRestore (s.restoring h) else s
  (s1.modHart h fun v => { v with mcPend := none }).takeTrap h 0x20 (s.hartAt h).pc tval

/-- The pending vector fault of hart h is delivered (R83, R199): its strip seals and the stores perform. -/
def State.deliverVfault (s : State) (h : Nat) : State :=
  ((s.seal h).modHart h fun v => { v with vfPend := false }).takeTrap h 0x10 (s.hartAt h).pc (s.hartAt h).vfTval

/-- The event of a cause is taken by hart h at its boundary (R197, R198, R200). -/
def State.takeEvent (s : State) (h cause : Nat) : State :=
  let v := s.hartAt h
  match cause with
  | 0x10 => s.deliverVfault h
  | 0x43 => (s.modHart h fun x => { x with mgmtPend := false }).takeTrap h 0x43 v.pc 0
  | 0x40 => (s.modHart h fun x => { x with kpreq := x.kpreq &&& 2 }).takeTrap h 0x40 v.pc 0
  | 0x42 => s.takeTrap h 0x42 v.pc 0
  | _ => (s.modHart h fun x => { x with kpreq := x.kpreq &&& 1 }).takeTrap h 0x41 v.pc (BitVec.ofNat 64 v.ihiFrom)

/-- While hart h stalls in it, its asynchronous events other than a machine check are held (R148, R203); the end of a wfi comes
before every event (R400), and so does the end of a sinval (R348). DESIGN CHOICE (log 112): a load from another node holds them
as a store does, and a release that waits for earlier writes holds them as little as a fence does. -/
def Wait.holdsEvents : Wait → Bool
  | .store | .kctx | .kctxr | .wfi | .remote | .sinval => true
  | .rqget | .vsync | .gwait | .gbar | .mwait | .vdisp | .fence | .kreg | .hexit | .release | .fetch => false

/-- A machine check waits for the end of a store, of a load from another node, of a sinval, or of a wfi (R148, R348, R400; log
112). DESIGN CHOICE (log 112): a FLUSH that stalls on a full junction buffer stalls as the store that it makes (R148), and not
as the kwrite that makes it (R202). -/
def Wait.holdsMcheck : Wait → Bool
  | .store | .wfi | .remote | .sinval => true
  | .rqget | .vsync | .gwait | .gbar | .mwait | .vdisp | .fence | .kreg | .hexit | .kctx | .kctxr | .release | .fetch => false

/-- A condition of what a thread waits in. -/
def Hart.waits (v : Hart) (p : Wait → Bool) : Bool :=
  match v.wait with
  | some w => p w
  | none => false

/-- The event that hart h takes at its boundary, if any (R202). -/
def State.boundary (s : State) (h : Nat) : Option State :=
  let v := s.hartAt h
  match v.mcPend with
  | some t => if v.waits Wait.holdsMcheck then none else some (s.takeMcheck h t)
  | none =>
    match s.firstEvent h with
    | some c => if v.ie && !v.waits Wait.holdsEvents then some (s.takeEvent h c) else none
    | none => none

end Sys2Proof.Machine
end

