-- ==== Sys2Proof/Machine/Fetch.lean ====
section
/-! DEFINITION. Fetching the words of the two streams (R1, R22, R45, R55, R154, R189, R207, R217), and the instructions that
wait, which are not fetched again (R37). -/

namespace Sys2Proof.Machine

/-! ### C-stream -/

/-- What a C-stream fetch came to: the word, an exception, poison, whose machine check is pending and whose word does
not execute (Table 11-1), or a wait for another node (R217). -/
inductive FetchOut where
  | word (w : W32) (s : State)
  | exc (e : Exc)
  | poison (s : State)
  | wait (s : State)
  deriving DecidableEq, Repr

/-- The fetch of the word at the pc of hart h. DESIGN CHOICE (log 139): a pc that is not 4-byte aligned (R22) is misaligned
before its page is judged (R202). -/
def State.fetchC (s : State) (h : Nat) : FetchOut :=
  let pc := (s.hartAt h).pc
  if pc.toNat % 4 ≠ 0 then .exc (misaligned pc)
  else
    match s.translate (s.scalarView h) .fetch pc PaKind.isMem with
    | .error (.poison pa) => .poison (s.scalarPoisoned h pa)
    | .error e => .exc (excOf .fetch pc e)
    | .ok (x, s1) =>
      if (s1.paKind x.pa).isRemote && !(s.hartAt h).answered then
        .wait ((s1.ask h .fetch ((s.scalarView h).faultAddr pc x.pa) x.pa).modHart h fun v => { v with wait := some .fetch })
      else
        match s1.readMem h x.pa 4 with
        | .ok bs => .word (ofBytes 32 bs) s1
        | .error _ => .poison (s1.scalarPoisoned h x.pa)

/-- The instruction in which the current hart sleeps or stalls in w: the one that it has issued. -/
def State.waitingIn (s : State) (w : Wait) : Option Instr := if s.hart.wait = some w then s.hart.issued else none

/-- A thread that waits for its word has issued nothing yet; one that waits in anything else has, and fetches nothing before
its instruction ends (R37, R59). -/
def Wait.isFetch : Wait → Bool
  | .fetch => true
  | .rqget | .vsync | .gwait | .gbar | .mwait | .wfi | .vdisp | .fence | .store | .kreg | .kctx | .kctxr | .hexit | .release
  | .remote | .sinval => false

/-- The instruction that the current hart has issued and that waits. -/
def State.heldC (s : State) : Option Instr :=
  match s.hart.wait with
  | some w => if w.isFetch then none else s.hart.issued
  | none => none

/-! ### V-stream -/

/-- Under what the vector agent of hart h is translated (R45, R154). -/
def State.vecView (s : State) (h : Nat) : View :=
  let v := s.hartAt h
  let cmd := (v.ctx.blk.map fun b => b.cmd).getD default
  { katp := cmd.katp, mode := cmd.mode, sum := cmd.sum, kspb := v.kspb, core := coreOf h, vec := true }

/-- Bytes that the strip buffer of hart h holds for a cell (R80): an access of its own context reads them. -/
def State.stripByte (s : State) (h k : Nat) : Option Byte :=
  match (s.hartAt h).ctx.strip with
  | some st => (Map.find st.buf k).map (s.mergedByte st k)
  | none => none

/-- n bytes as the vector agent of hart h sees them: its own buffered stores, else memory (R80, R149). -/
def State.vecBytes (s : State) (h k n : Nat) : List Byte :=
  (List.range n).map fun i => (s.stripByte h (k + i)).getD (s.devByte (k + i))

/-- The strip buffer of hart h holds a cell, stored poisoned (R206). -/
def State.stripBad (s : State) (h k : Nat) : Bool :=
  match (s.hartAt h).ctx.strip with
  | some st => (Map.find st.bufBad k).isSome
  | none => false

/-- The strip buffer of hart h holds a cell whole, no bit of it left to memory (R398). -/
def State.stripWhole (s : State) (h k : Nat) : Bool :=
  match (s.hartAt h).ctx.strip with
  | some st => (Map.find st.buf k).isSome && (Map.find st.bits k).isNone
  | none => false

/-- A vector read of n bytes meets poison, in memory or in the strip buffer. -/
def State.vecPoison (s : State) (h k n : Nat) : Bool :=
  (List.range n).any fun i => s.stripBad h (k + i) || (!s.stripWhole h (k + i) && s.poisonAt (k + i))

/-- What the fetch of a block word came to: the word, a vector fault, poison, or a wait for another node (R217). -/
inductive VFetchOut where
  | word (w : Word) (s : State)
  | fault (sub : Nat) (tval : Word)
  | poison (src pa : Nat)
  | wait (s : State)
  deriving DecidableEq, Repr

/-- The bpc of hart h. -/
def State.bpc (s : State) (h : Nat) : Word := ((s.hartAt h).ctx.blk.map fun b => b.pc).getD 0

/-- The fetch of the word at the bpc of hart h (R55, R290). -/
def State.fetchV (s : State) (h : Nat) : VFetchOut :=
  let pc := s.bpc h
  match s.translate (s.vecView h) .fetch pc PaKind.isMem with
  | .error (.poison pa) => .poison (s.srcOf pa) (pa % 2 ^ 56)
  | .error .page => .fault 0x02 pc
  | .error (.access t) => .fault 0x05 t
  | .error (.table t) => .fault 0x05 t
  | .ok (x, s1) =>
    if (s1.paKind x.pa).isRemote && !(s.hartAt h).ctx.answered then
      .wait ((s1.ask h .vfetch ((s.vecView h).faultAddr pc x.pa) x.pa).modCtx h fun c => { c with waiting := some .fetch })
    else if s1.vecPoison h (s1.cell x.pa) 8 then .poison (s1.srcOf x.pa) (x.pa % 2 ^ 56)
    else .word (ofBytes 64 (s1.vecBytes h (s1.cell x.pa) 8)) s1

/-- The V-stream instruction in which the current hart's context waits in w: the one that it has issued. -/
def State.vwaitingIn (s : State) (w : VWait) : Option Instr := if s.ctx.waiting = some w then s.ctx.issued else none

/-- The word that the current hart's context has issued and that waits. -/
def State.heldV (s : State) : Option Instr :=
  match s.ctx.waiting with
  | some w => if w.isFetch then none else s.ctx.issued
  | none => none

end Sys2Proof.Machine
end

