-- ==== Sys2Proof/Machine/Integer.lean ====
section
/-! DEFINITION. The integer instructions of the C-stream (R309-R313). -/

namespace Sys2Proof.Machine

/-! ### Shared operations -/

/-- Bits [127:64] of a product (R309). -/
def mulHigh (u : Bool) (a b : Word) : Word :=
  if u then BitVec.ofNat 64 (a.toNat * b.toNat / 2 ^ 64) else BitVec.ofInt 64 (a.toInt * b.toInt / 2 ^ 64)

/-- The quotient, rounded toward zero; all ones for a divisor of 0 (R309, R310). -/
def divWord (u : Bool) (a b : Word) : Word :=
  if b = 0 then BitVec.allOnes 64
  else if u then BitVec.ofNat 64 (a.toNat / b.toNat)
  else BitVec.ofInt 64 (Int.tdiv a.toInt b.toInt)

/-- The remainder, with the sign of the dividend; the dividend for a divisor of 0 (R309, R310). -/
def remWord (u : Bool) (a b : Word) : Word :=
  if b = 0 then a
  else if u then BitVec.ofNat 64 (a.toNat % b.toNat)
  else BitVec.ofInt 64 (Int.tmod a.toInt b.toInt)

/-- a is below b, signed or unsigned. -/
def below (u : Bool) (a b : Word) : Bool := if u then a.ult b else a.slt b

/-- Leading zero bits, from bit n − 1 down. -/
def leadingZeros {w : Nat} (v : BitVec w) : Nat → Nat
  | 0 => 0
  | n + 1 => if v.getLsbD n then 0 else 1 + leadingZeros v n

/-- One bits below bit n. -/
def onesBelow {w : Nat} (v : BitVec w) : Nat → Nat
  | 0 => 0
  | n + 1 => natOf (v.getLsbD n) + onesBelow v n

/-- A shift amount: bits [5:0] (R309). -/
def amount (v : Word) : Nat := fld v 0 6

/-- x[d] ← w in the current hart, then the next word: every instruction of this family ends so. -/
def writeX (s : State) (d : XReg) (w : Word) : Host.Outcome State Fault Refusal := .next (s.done d w)

/-! ### Register forms (Table 20-8) -/

/-- iadd. -/
def execIadd (d a b : XReg) (s : State) : Host.Outcome State Fault Refusal := writeX s d (s.xr a + s.xr b)

/-- isub. -/
def execIsub (d a b : XReg) (s : State) : Host.Outcome State Fault Refusal := writeX s d (s.xr a - s.xr b)

/-- iand. -/
def execIand (d a b : XReg) (s : State) : Host.Outcome State Fault Refusal := writeX s d (s.xr a &&& s.xr b)

/-- ior. -/
def execIor (d a b : XReg) (s : State) : Host.Outcome State Fault Refusal := writeX s d (s.xr a ||| s.xr b)

/-- ixor. -/
def execIxor (d a b : XReg) (s : State) : Host.Outcome State Fault Refusal := writeX s d (s.xr a ^^^ s.xr b)

/-- ishl. -/
def execIshl (d a b : XReg) (s : State) : Host.Outcome State Fault Refusal := writeX s d (s.xr a <<< amount (s.xr b))

/-- ishr. -/
def execIshr (d a b : XReg) (s : State) : Host.Outcome State Fault Refusal := writeX s d (s.xr a >>> amount (s.xr b))

/-- isar. -/
def execIsar (d a b : XReg) (s : State) : Host.Outcome State Fault Refusal :=
  writeX s d ((s.xr a).sshiftRight (amount (s.xr b)))

/-- imul. -/
def execImul (d a b : XReg) (s : State) : Host.Outcome State Fault Refusal := writeX s d (s.xr a * s.xr b)

/-- imulh. -/
def execImulh (d a b : XReg) (u : Bool) (s : State) : Host.Outcome State Fault Refusal :=
  writeX s d (mulHigh u (s.xr a) (s.xr b))

/-- idiv. -/
def execIdiv (d a b : XReg) (u : Bool) (s : State) : Host.Outcome State Fault Refusal :=
  writeX s d (divWord u (s.xr a) (s.xr b))

/-- irem. -/
def execIrem (d a b : XReg) (u : Bool) (s : State) : Host.Outcome State Fault Refusal :=
  writeX s d (remWord u (s.xr a) (s.xr b))

/-- imin. -/
def execImin (d a b : XReg) (u : Bool) (s : State) : Host.Outcome State Fault Refusal :=
  writeX s d (if below u (s.xr b) (s.xr a) then s.xr b else s.xr a)

/-- imax. -/
def execImax (d a b : XReg) (u : Bool) (s : State) : Host.Outcome State Fault Refusal :=
  writeX s d (if below u (s.xr a) (s.xr b) then s.xr b else s.xr a)

/-- iclz. -/
def execIclz (d a : XReg) (s : State) : Host.Outcome State Fault Refusal :=
  writeX s d (BitVec.ofNat 64 (leadingZeros (s.xr a) 64))

/-- ipop. -/
def execIpop (d a : XReg) (s : State) : Host.Outcome State Fault Refusal :=
  writeX s d (BitVec.ofNat 64 (onesBelow (s.xr a) 64))

/-- iset. -/
def execIset (d a b : XReg) (c : Cond) (s : State) : Host.Outcome State Fault Refusal :=
  writeX s d (boolWord (condHolds c (s.xr a) (s.xr b)))

/-! ### Immediate forms (Table 20-10, R312, R313) -/

/-- iadd with an immediate. -/
def execIaddImm (d a : XReg) (i : BitVec 16) (s : State) : Host.Outcome State Fault Refusal :=
  writeX s d (s.xr a + sext i)

/-- iand with an immediate. -/
def execIandImm (d a : XReg) (i : BitVec 16) (s : State) : Host.Outcome State Fault Refusal :=
  writeX s d (s.xr a &&& zext i)

/-- ior with an immediate. -/
def execIorImm (d a : XReg) (i : BitVec 16) (s : State) : Host.Outcome State Fault Refusal :=
  writeX s d (s.xr a ||| zext i)

/-- ixor with an immediate. -/
def execIxorImm (d a : XReg) (i : BitVec 16) (s : State) : Host.Outcome State Fault Refusal :=
  writeX s d (s.xr a ^^^ zext i)

/-- ishl with an immediate. -/
def execIshlImm (d a : XReg) (n : BitVec 6) (s : State) : Host.Outcome State Fault Refusal :=
  writeX s d (s.xr a <<< n.toNat)

/-- ishr with an immediate. -/
def execIshrImm (d a : XReg) (n : BitVec 6) (s : State) : Host.Outcome State Fault Refusal :=
  writeX s d (s.xr a >>> n.toNat)

/-- isar with an immediate. -/
def execIsarImm (d a : XReg) (n : BitVec 6) (s : State) : Host.Outcome State Fault Refusal :=
  writeX s d ((s.xr a).sshiftRight n.toNat)

/-- iset with an immediate: for ltu and geu the sign-extended immediate is compared as unsigned (R311). -/
def execIsetImm (d a : XReg) (c : Cond) (i : BitVec 13) (s : State) : Host.Outcome State Fault Refusal :=
  writeX s d (boolWord (condHolds c (s.xr a) (sext i)))

/-- imovz. -/
def execImovz (d : XReg) (p : BitVec 2) (i : BitVec 16) (s : State) : Host.Outcome State Fault Refusal :=
  writeX s d (zext i <<< (16 * p.toNat))

/-- imovk. -/
def execImovk (d : XReg) (p : BitVec 2) (i : BitVec 16) (s : State) : Host.Outcome State Fault Refusal :=
  writeX s d (putChunk (s.xr d) p i)

/-- ipcrel. -/
def execIpcrel (d : XReg) (o : BitVec 21) (s : State) : Host.Outcome State Fault Refusal :=
  writeX s d (branchTarget s.pc o)

end Sys2Proof.Machine
end

