-- ==== Sys2Proof/Machine/ScalarMem.lean ====
section
/-! DEFINITION. The scalar memory instructions: loads, stores, atomics, the monitor (R148, R152, R154, R171-R184,
R293-R296, R317, R318, R334, R335, R354, R356). -/

namespace Sys2Proof.Machine

/-! ### Shared operations -/

/-- A load writes f of the value to x[d] and goes on; poison leaves x[d] and goes on to the machine check (Table 11-1). -/
def State.endLoad (s : State) (d : XReg) (f : Word → Word) : LoadOut → State
  | .value v s1 => s1.done d (f v)
  | .exc e => s.raise e
  | .poison s1 => s1.advance
  | .wait s1 => s1

/-- Order of a release at a scope (R148, R182): the junction buffer of the current core drains at dev and sys. -/
def State.release (s : State) (sc : Scope) : State :=
  match sc with
  | .core => s
  | .dev => s.drainAll (coreOf s.cur)
  | .sys => s.drainAll (coreOf s.cur)

/-- A write is kept for another node that has not acknowledged it (R217), or for the host that has not accepted it as
persistent (R237). DEDUCED (log 28): a release at sys scope waits for all of them, whoever wrote. -/
def State.unacknowledged (s : State) : Bool := s.part.trans.any fun t => t.write

/-- A release at a scope has what it waits for: at sys, every earlier write performed (R182). -/
def State.released (s : State) (sc : Scope) : Bool := sc != .sys || !s.unacknowledged

/-- The order includes a release (R295). -/
def isRelease : MemOrd → Bool
  | .rel | .acqrel => true
  | .rlx | .acq => false

/-- Op(op, old, src) on 8n-bit values (R294). -/
def amoOp {w : Nat} (p : AmoOp) (old src : BitVec w) : BitVec w :=
  match p with
  | .add => old + src
  | .and => old &&& src
  | .or => old ||| src
  | .xor => old ^^^ src
  | .min => if src.slt old then src else old
  | .max => if old.slt src then src else old
  | .minu => if src.ult old then src else old
  | .maxu => if old.ult src then src else old
  | .swap => src

/-- Op on the size of an atomic, in the low bits of a register. -/
def amoWord (dbl : Bool) (p : AmoOp) (old src : Word) : Word :=
  if dbl then amoOp p old src
  else zext (amoOp p (old.setWidth 32 : W32) (src.setWidth 32))

/-- The scope at which an atomic performs: sys on a PMA page of the host window (R295). -/
def State.atomScope (s : State) (x : Xlat) (sc : Scope) : Scope :=
  if x.pbmt == 0 && s.paKind x.pa == .host then .sys else sc

/-- Whether an atomic performs in the junction buffer (R295): HBM on a PMA page at core scope. -/
def State.inJunction (s : State) (x : Xlat) (sc : Scope) : Bool :=
  sc == .core && x.pbmt == 0 && s.paKind x.pa == .hbm

/-- The write of an atomic at physical address pa, outside the junction buffer (R182, R295): under a release at scope sc the
whole junction buffer drains, and earlier writes must have performed; else its own line drains, after the oldest of a full
buffer (R148). -/
def State.atomicWrite (s : State) (pa : Nat) (bs : List Byte) (rel : Bool) (sc : Scope) : Except State State :=
  let s1 := if rel then s.release sc else s
  if rel && !s1.released sc then .error (s1.stall .release)
  else .ok ((s1.drainOwn (coreOf s.cur) (s.cell pa / 64)).perform s.cur pa bs fun _ => true)

/-- The atomic read-modify-write of the current hart at a virtual address (R294, R295): `f` gives the value to write, or
none for a failed compare. It performs in the junction buffer or at the memory that holds the location. -/
def State.atomic (s : State) (d : XReg) (va : Word) (dbl : Bool) (o : MemOrd) (sc : Scope)
    (f : Word → Option Word) : State :=
  let n := atomBytes dbl
  let c := coreOf s.cur
  if !aligned va n then s.raise (misaligned va)
  else
    match s.translate (s.scalarView s.cur) .amo va PaKind.isMem with
    | .error (.poison pa) => (s.scalarPoisoned s.cur pa).advance
    | .error e => s.raise (excOf .amo va e)
    | .ok (x, s1) =>
      match s1.awaitRemote va x.pa with
      | some s2 => s2
      | none =>
        let k := s1.cell x.pa
        if s1.scalarPoison c k n then (s1.scalarPoisoned s.cur x.pa).advance
        else
          let old := ofBytes 64 (s1.scalarBytes c k n)
          match f old with
          | none => s1.done d (atomExtend dbl old)
          | some v =>
            if s1.inJunction x sc then
              match s1.writeMem s.cur x.pa x.pbmt (bytesOf v n) with
              | none => s1.stall .store
              | some s2 => s2.done d (atomExtend dbl old)
            else
              match s1.atomicWrite x.pa (bytesOf v n) (isRelease o) (s1.atomScope x sc) with
              | .error s2 => s2
              | .ok s2 => s2.done d (atomExtend dbl old)

/-- The monitor of the current hart is disarmed and the next word follows (R335). -/
def State.endMwait (s : State) : State :=
  (s.mod fun v => { v with monitor := none, monHit := false }).advance

/-! ### The instructions -/

/-- ld (R317). -/
def execLd (d a : XReg) (wd : LdWidth) (o : BitVec 13) (s : State) : Host.Outcome State Fault Refusal :=
  let va := memAddr (s.xr a) o
  let n := ldBytes wd
  if aligned va n then
    .next (s.endLoad d (ldExtend wd) (s.scalarLoad (.ld d a wd o) .load va n (scalarOk s.hart.pm n)))
  else .next (s.raise (misaligned va))

/-- st (R354). -/
def execSt (d a : XReg) (wd : StWidth) (o : BitVec 13) (s : State) : Host.Outcome State Fault Refusal :=
  let va := memAddr (s.xr a) o
  let n := stBytes wd
  if aligned va n then .next (s.scalarStore (.st d a wd o) va (s.xr d) n (scalarOk s.hart.pm n))
  else .next (s.raise (misaligned va))

/-- amo (R293-R296). -/
def execAmo (d a b : XReg) (dbl : Bool) (o : MemOrd) (sc : Scope) (p : AmoOp) (s : State) :
    Host.Outcome State Fault Refusal :=
  .next (s.atomic d (s.xr a) dbl o sc fun old => some (amoWord dbl p old (s.xr b)))

/-- acas (R293-R296): the expected value is x[d]. -/
def execAcas (d a b : XReg) (dbl : Bool) (o : MemOrd) (sc : Scope) (s : State) :
    Host.Outcome State Fault Refusal :=
  .next (s.atomic d (s.xr a) dbl o sc fun old =>
    if atomExtend dbl old = atomExtend dbl (s.xr d) then some (s.xr b) else none)

/-- ldacq (R318). -/
def execLdacq (d a : XReg) (dbl : Bool) (sc : Scope) (s : State) : Host.Outcome State Fault Refusal :=
  let va := s.xr a
  let n := atomBytes dbl
  if aligned va n then
    .next (s.endLoad d (atomExtend dbl) (s.scalarLoad (.ldacq d a dbl sc) .load va n PaKind.isMem))
  else .next (s.raise (misaligned va))

/-- strel (R356): at core scope a store into the junction buffer; at dev and sys the buffer drains and the store performs
after it, at sys after every earlier write has (R182). -/
def execStrel (a b : XReg) (dbl : Bool) (sc : Scope) (s : State) : Host.Outcome State Fault Refusal :=
  let va := s.xr a
  let n := atomBytes dbl
  if aligned va n then
    if sc = .core then .next (s.scalarStore (.strel a b dbl sc) va (s.xr b) n PaKind.isMem)
    else
      match s.translate (s.scalarView s.cur) .store va PaKind.isMem with
      | .error (.poison pa) => .next (s.scalarPoisoned s.cur pa).advance
      | .error e => .next (s.raise (excOf .store va e))
      | .ok (x, s1) =>
        let s2 := s1.release sc
        if s2.released sc then .next (s2.perform s.cur x.pa (bytesOf (s.xr b) n) fun _ => true).advance
        else .next (s2.stall .release)
  else .next (s.raise (misaligned va))

/-- What mwatch may watch (R334): HBM, the host window, or memory of another node. -/
def watchable : PaKind → Bool
  | .hbm | .host | .remote _ => true
  | .spad _ _ | .kwin _ _ | .engine _ | .hostLost | .remoteReg _ | .bad => false

/-- mwatch (R184, R334): the read and the arming are one act. A scratchpad, of this node or another, is an access fault. -/
def execMwatch (d a : XReg) (s : State) : Host.Outcome State Fault Refusal :=
  let va := s.xr a
  if aligned va 8 then
    match s.translate (s.scalarView s.cur) .load va watchable with
    | .error (.poison pa) => .next (s.scalarPoisoned s.cur pa).advance
    | .error e =>
      .next (s.raise (excOf .load va e))
    | .ok (x, s1) =>
      if !watchable (s1.paKind x.pa) || inSpadWindow x.pa then
        .next (s.raise { cause := 0x07, tval := (s.scalarView s.cur).faultAddr va x.pa })
      else
        match s1.awaitRemote va x.pa with
        | some s2 => .next s2
        | none =>
          match s1.readMem s.cur x.pa 8 with
          | .error _ => .next (s1.scalarPoisoned s.cur x.pa).advance
          | .ok bs =>
            .next ((s1.mod fun v => { v with monitor := some (s1.cell x.pa / 64), monHit := false }).done d (ofBytes 64 bs))
  else .next (s.raise (misaligned va))

/-- mwait (R335): it completes with no armed monitor, after a wake-up, and, with IE = 0, when an event is pending; else it
sleeps. -/
def execMwait (s : State) : Host.Outcome State Fault Refusal :=
  let v := s.hart
  if v.monitor.isNone || v.monHit || (!v.ie && (s.firstEvent s.cur).isSome) then .next s.endMwait
  else .next (s.stall .mwait)

/-- A write to the watched line has ended the mwait of the current hart (R184): it completes. -/
def execMwaitWake (s : State) : Host.Outcome State Fault Refusal :=
  if s.hart.wait = some .mwait ∧ s.hart.monHit then .next s.endMwait else .next s

/-- Line number `line` of a core's junction buffer drains to its home slice; of a full buffer it is the oldest line that
drains (R148, R170). -/
def execJunctionLineDrain (core line : Nat) (s : State) : Host.Outcome State Fault Refusal :=
  match (s.junction core)[if 64 ≤ (s.junction core).length then 0 else line]? with
  | some l => .next (s.drainLine core l.line)
  | none => .next s

end Sys2Proof.Machine
end

