-- ==== Sys2Proof/Machine/Fences.lean ====
section
/-! DEFINITION. The fences of the C-stream (R179-R181, R306). Blocks run in order and every access performs before the
next step, so a fence only waits for the blocks to end and drains what the junction buffer still holds. -/

namespace Sys2Proof.Machine

/-- Every block that the current hart has dispatched has ended (R44). -/
def State.blocksEnded (s : State) : Bool := s.hart.head == s.hart.next

/-- A stalling fence may complete: the blocks have ended, and under sys the earlier writes have performed (R180). -/
def State.fenceReady (s : State) (sc : Option Scope) : Bool := s.blocksEnded && s.released (sc.getD .dev)

/-- fsv: the scalar accesses before it have performed at dev scope when a later block starts, because the junction buffer
drains at once. It does not stall (R180). -/
def execFsv (s : State) : Host.Outcome State Fault Refusal := .next (s.release .dev).advance

/-- fvs (R180). -/
def execFvs (s : State) : Host.Outcome State Fault Refusal :=
  if s.fenceReady none then .next s.advance else .next (s.stall .fence)

/-- fvv of the C-stream: it does not stall (R180). -/
def execFvv (s : State) : Host.Outcome State Fault Refusal := .next s.advance

/-- The scalar stores before a fall of the current hart perform before its later blocks begin (R180). Under core scope the fall
leaves them in the junction buffer (R306), and the next block waits for their lines to drain (log 123). -/
def State.fallOrders (s : State) (sc : Scope) : State :=
  match sc with
  | .core => s.mod fun v => { v with owed := (s.junction (coreOf s.cur)).map fun l => l.line }
  | .dev | .sys => s.release sc

/-- fall: it stalls as fvs does, then acts as a release and an acquire at its scope (R180, R306). -/
def execFall (sc : Scope) (s : State) : Host.Outcome State Fault Refusal :=
  let s1 := if s.blocksEnded then s.fallOrders sc else s
  if s1.fenceReady (some sc) then .next s1.advance else .next (s1.stall .fence)

/-- The stalled fence of the current hart completes, if what it waits for has come (R180, R181). -/
def execFenceStallEnd (s : State) : Host.Outcome State Fault Refusal :=
  match s.waitingIn .fence with
  | some (.fall sc) => execFall sc s
  | some .fvs => execFvs s
  | _ => .next s

end Sys2Proof.Machine
end

