-- ==== Sys2Proof/Machine/Control.lean ====
section
/-! DEFINITION. The control transfers of the C-stream and the return-address store (R195, R299, R303, R337). -/

namespace Sys2Proof.Machine

/-- The current hart goes on at a target. -/
def State.goto (s : State) (t : Word) : State := s.mod fun v => { v with pc := t, wait := none, answered := false }

/-- A call: pushes the next word's address and goes to the target (R195, R303). DEDUCED (log 131): one whose spill consumes
poison leaves the return-address store unchanged, and the next word follows. -/
def State.callTo (s : State) (t : Word) : State :=
  match s.push s.cur (s.pc + 4) with
  | .ok s1 => s1.goto t
  | .exc s1 e => s1.raise e
  | .stall s1 => s1.stall .store
  | .poison s1 => s1.advance

/-- jmp. -/
def execJmp (o : BitVec 26) (s : State) : Host.Outcome State Fault Refusal := .next (s.goto (branchTarget s.pc o))

/-- call. -/
def execCall (o : BitVec 26) (s : State) : Host.Outcome State Fault Refusal := .next (s.callTo (branchTarget s.pc o))

/-- jr. -/
def execJr (a : XReg) (s : State) : Host.Outcome State Fault Refusal :=
  if aligned (s.xr a) 4 then .next (s.goto (s.xr a)) else .next (s.raise (misaligned (s.xr a)))

/-- callr: the misaligned check comes before the push (R303). -/
def execCallr (a : XReg) (s : State) : Host.Outcome State Fault Refusal :=
  if aligned (s.xr a) 4 then .next (s.callTo (s.xr a)) else .next (s.raise (misaligned (s.xr a)))

/-- ret with an empty on-chip store and entries in memory (R195, R337): the address at krasb, which is the ktval of every page
and access fault. A fault leaves the store unchanged. DEDUCED (log 131): so does poison, and the next word follows. -/
def State.refillRet (s : State) : State :=
  let v := s.hart
  match s.translate (s.scalarView s.cur) .load v.krasb PaKind.isMem with
  | .error (.poison pa) => (s.scalarPoisoned s.cur pa).advance
  | .error .page => s.raise { cause := 0x04, tval := v.krasb }
  | .error (.access _) | .error (.table _) => s.raise { cause := 0x07, tval := v.krasb }
  | .ok (x, s1) =>
    match s1.awaitNaming v.krasb x.pa with
    | some s2 => s2
    | none =>
      match s1.readMem s.cur x.pa 8 with
      | .error _ => (s1.scalarPoisoned s.cur x.pa).advance
      | .ok bs =>
        let t : Word := ofBytes 64 bs
        if aligned t 4 then
          (s1.mod fun y => { y with krasb := y.krasb + 8, spill := y.spill - 1 }).goto t
        else s1.raise (misaligned t)

/-- ret. -/
def execRet (s : State) : Host.Outcome State Fault Refusal :=
  match s.hart.ras with
  | t :: rest => .next ((s.mod fun v => { v with ras := rest }).goto t)
  | [] => if s.hart.spill = 0 then .next (s.raise { cause := 0x08, tval := 0 }) else .next s.refillRet

/-- bcc. -/
def execBcc (a b : XReg) (c : Cond) (o : BitVec 13) (s : State) : Host.Outcome State Fault Refusal :=
  if condHolds c (s.xr a) (s.xr b) then .next (s.goto (branchTarget s.pc o)) else .next s.advance

end Sys2Proof.Machine
end

