-- ==== Sys2Proof/Machine/Couple.lean ====
section
/-! DEFINITION. How a control thread and its vector context meet: dispatch, replies, the queue position (R43-R59, R338,
R384). -/

namespace Sys2Proof.Machine

/-- A vdisp of the current hart has no context to go to (R13, R14): the core is dark, is about to be, or the hart is a
scalar hart. -/
def State.noContext (s : State) : Bool :=
  let c := coreOf s.cur
  s.hart.scalar || s.dark c || s.part.gangs.any fun g => g.form && g.dark == c

/-- The command is accepted: slots reserved, the command enqueued, NEXT advanced, one act (R46). -/
def State.dispatch (s : State) (addr : Word) (nrep : Nat) : State :=
  (s.pushCommand s.cur (s.hart.command s.cur addr nrep)).mod fun v =>
    { v with next := v.next + 1, rsv := v.rsv + nrep }

/-- vdisp: the checks of R46 in order. -/
def execVdisp (a : XReg) (n : BitVec 6) (s : State) : Host.Outcome State Fault Refusal :=
  let v := s.hart
  let addr := s.xr a
  if s.noContext then .next (s.raise (illegal (.vdisp a n)))
  else if !aligned addr 64 then .next (s.raise (misaligned addr))
  else if v.quota ≠ 0 ∧ v.quota.toNat < v.outstanding + 1 then .next (s.raise { cause := 0x0B, tval := zext v.quota })
  else if v.freeSlots < n.toNat ∨ !v.canEnqueue then .next (s.stall .vdisp)
  else .next (s.dispatch addr n.toNat).advance

/-- The stalled vdisp of the current hart enqueues, if it can (R46). -/
def execVdispStallEnd (s : State) : Host.Outcome State Fault Refusal :=
  match s.waitingIn .vdisp with
  | some (.vdisp a n) => execVdisp a n s
  | _ => .next s

/-- One command comes back from the squall ring of the current hart (R48, R49). -/
def execSquallRefill (s : State) : Host.Outcome State Fault Refusal := .next (s.refill s.cur)

/-- The marks of poisoned replies when the oldest has left the queue. -/
def dropMark (m : Map Unit) : Map Unit := m.filterMap fun e => if e.1 = 0 then none else some (e.1 - 1, ())

/-- rqget (R58, R338). A poisoned reply leaves the queue, and its consumption x[d] unwritten (R206, R207; log 31). -/
def execRqget (d : XReg) (s : State) : Host.Outcome State Fault Refusal :=
  match s.hart.replies with
  | r :: rest =>
    let s1 := s.mod fun v => { v with replies := rest, replyBad := dropMark v.replyBad }
    .next (if (Map.find s.hart.replyBad 0).isSome then (s1.scalarPoisoned s.cur 0).advance else s1.done d r)
  | [] => .next (s.stall .rqget)

/-- A reply ends the sleep of the current hart's rqget (R59). -/
def execRqgetWake (s : State) : Host.Outcome State Fault Refusal :=
  match s.waitingIn .rqget with
  | some (.rqget d) => execRqget d s
  | _ => .next s

/-- rqpoll. -/
def execRqpoll (d : XReg) (s : State) : Host.Outcome State Fault Refusal :=
  .next (s.done d (BitVec.ofNat 64 s.hart.replies.length))

/-- vsync (R58, R183, R384). -/
def execVsync (s : State) : Host.Outcome State Fault Refusal :=
  if s.blocksEnded then .next s.advance else .next (s.stall .vsync)

/-- The sleeping vsync of the current hart completes, once HEAD = NEXT (R59). -/
def execVsyncWake (s : State) : Host.Outcome State Fault Refusal :=
  if s.hart.wait = some .vsync then execVsync s else .next s

/-- vqpos. -/
def execVqpos (d : XReg) (s : State) : Host.Outcome State Fault Refusal :=
  .next (s.done d (s.kread s.cur s.hart.pm 0x022))

/-- The next queued block of the current hart's context starts, if it can (R14, R52). -/
def execBlockStart (s : State) : Host.Outcome State Fault Refusal :=
  if s.canStart s.cur then .next (s.beginBlock s.cur) else .next s

end Sys2Proof.Machine
end

