-- ==== Sys2Proof/Machine/Harts.lean ====
section
/-! DEFINITION. Harts and gangs: exit, yield, spawn, the gang barrier (R20-R27, R261, R307, R308). -/

namespace Sys2Proof.Machine

/-! ### Gangs -/

/-- The members of the gang of hart h (R21). Two gangs whose founders had the same hart number share a GID, and stay two
gangs (log 34). -/
def State.gangOf (s : State) (h : Nat) : List Nat :=
  let g := (s.hartAt h).gang
  (s.harts.filter fun e => e.2.live && e.2.inGang && e.2.gang == g).map fun e => e.1

/-- NMEM of each hart of a list set. -/
def State.setMembers (s : State) (l : List Nat) (n : Nat) : State :=
  l.foldl (fun t h => t.modHart h fun v => { v with kgang := putFld v.kgang 56 6 n }) s

/-! ### The barrier word (R27) -/

/-- The physical address of the barrier word of hart h, if kgbar decodes to HBM (R27, R307). -/
def State.barrierPa (s : State) (h : Nat) : Option Nat :=
  let a := (s.hartAt h).kgbar.toNat
  if a < 2 ^ 56 ∧ s.inHbm a 8 then some a else none

/-- GEN and CNT of a barrier word after an arrival of one of n members (R27). -/
def arrived (old : Word) (n : Nat) : Word :=
  if n ≤ fld old 0 32 + 1 then putFld (putFld 0 32 32 (fld old 32 32 + 1)) 0 32 0
  else putFld old 0 32 (fld old 0 32 + 1)

/-- The barrier word after the departure of a member, n members remaining; `own` when it had arrived itself (R24). -/
def departed (old : Word) (own : Bool) (n : Nat) : Word :=
  let cnt := fld old 0 32
  if natOf own < cnt ∧ n ≤ cnt - natOf own then putFld (putFld 0 32 32 (fld old 32 32 + 1)) 0 32 0
  else putFld old 0 32 (cnt + 2 ^ 32 - natOf own)

/-- One atomic read-modify-write of the barrier word at dev scope with release order, by hart h (R24, R27). -/
def State.barrierUpdate (s : State) (h pa : Nat) (f : Word → Word) : Word × State :=
  let s1 := s.drainAll (coreOf h)
  let old : Word := ofBytes 64 (s1.devBytes (s1.cell pa) 8)
  (old, s1.perform h pa (bytesOf (f old) 8) fun _ => true)

/-- What an arrival of the current hart came to (R27, R307). -/
inductive Arrival where
  | gen (g : Nat) (s : State)
  | exc (e : Exc)
  | poison (s : State)
  deriving DecidableEq, Repr

/-- An arrival of the current hart. -/
def State.arrive (s : State) : Arrival :=
  match s.barrierPa s.cur with
  | none => .exc { cause := 0x07, tval := s.hart.kgbar }
  | some pa =>
    if s.scalarPoison (coreOf s.cur) (s.cell pa) 8 then .poison (s.scalarPoisoned s.cur pa)
    else
      let (old, s1) := s.barrierUpdate s.cur pa fun w => arrived w s.hart.members
      .gen (fld old 32 32) s1

/-- The wait of the current hart on a generation (R27): it ends once GEN differs, sleeping in w until then. -/
def State.waitGen (s : State) (w : Wait) (g : Nat) : State :=
  match s.barrierPa s.cur with
  | none => s.raise { cause := 0x07, tval := s.hart.kgbar }
  | some pa =>
    if s.scalarPoison (coreOf s.cur) (s.cell pa) 8 then
      let s1 := s.scalarPoisoned s.cur pa
      if s.hart.wait = some w then s1.again else s1.advance
    else if fld (ofBytes 64 (s.scalarBytes (coreOf s.cur) (s.cell pa) 8) : Word) 32 32 = g then s.stall w
    else (s.mod fun v => { v with kgang := putBit v.kgang 42 false }).advance

/-- garr (R27). -/
def execGarr (d : XReg) (s : State) : Host.Outcome State Fault Refusal :=
  if !s.hart.inGang then .next (s.raise (illegal (.garr d)))
  else
    match s.arrive with
    | .gen g s1 => .next (s1.done d (BitVec.ofNat 64 g))
    | .exc e => .next (s.raise e)
    | .poison s1 => .next s1.advance

/-- gwait (R27). A gwait leaves PEND, which only a gbar sets. -/
def execGwait (a : XReg) (s : State) : Host.Outcome State Fault Refusal :=
  if !s.hart.inGang then .next (s.raise (illegal (.gwait a)))
  else
    let p := s.hart.pendBit
    .next ((s.waitGen .gwait (fld (s.xr a) 0 32)).mod fun v => { v with kgang := putBit v.kgang 42 p })

/-- gbar (R27): garr, then gwait; with PEND = 1 it makes no second arrival. -/
def execGbar (d : XReg) (s : State) : Host.Outcome State Fault Refusal :=
  if !s.hart.inGang then .next (s.raise (illegal (.gbar d)))
  else if s.hart.pendBit then .next (s.waitGen .gbar (fld (s.xr d) 0 32))
  else
    match s.arrive with
    | .exc e => .next (s.raise e)
    | .poison s1 => .next s1.advance
    | .gen g s1 =>
      let s2 := (s1.xw d (BitVec.ofNat 64 g)).mod fun v => { v with kgang := putBit v.kgang 42 true }
      .next (s2.waitGen .gbar (fld (s2.xr d) 0 32))

/-- The generation has changed: the sleeping gwait or gbar of the current hart ends (R27). -/
def execGwaitWake (s : State) : Host.Outcome State Fault Refusal :=
  match s.waitingIn .gwait with
  | some (.gwait a) => execGwait a s
  | _ =>
    match s.waitingIn .gbar with
    | some (.gbar d) => execGbar d s
    | _ => .next s

/-! ### Exit and yield (R24, R25) -/

/-- The departure of an exiting gang member (R24): the barrier word, if it can be read, and NMEM of the others. -/
def State.depart (s : State) (h : Nat) : State :=
  let v := s.hartAt h
  let rest := (s.gangOf h).filter fun x => x != h
  if !v.inGang || rest.isEmpty then s
  else
    let s1 := match s.barrierPa h with
      | some pa =>
        if s.scalarPoison (coreOf h) (s.cell pa) 8 then s
        else (s.barrierUpdate h pa fun w => departed w v.pendBit rest.length).2
      | none => s
    s1.setMembers rest (rest.length - 1)

/-- A free context (R24): the hart runs no more, a pending pre-emption is dropped, PEND cleared and the monitor disarmed (R308).
Its registers stay until the hspawn that gives the context to a new hart. -/
def freedHart (v : Hart) : Hart :=
  { v with live := false, wait := none, yielding := false, mcPend := none, kpreq := v.kpreq &&& 2, monitor := none
           monHit := false, kgang := putBit v.kgang 42 false }

/-- What a free context still shows of the one that it was: masks, barriers and bindings, as Table 17-6 has them (R268); held
sectors are abandoned (R167). Nothing reaches them, and hspawn starts afresh (log 84). -/
def VCtx.left (x : VCtx) : VCtx :=
  { x.emptied with m := x.m, mpoison := x.mpoison, barriers := x.barriers, binds := x.binds
                   copies := x.copies.filter fun c => !c.isHeld }

/-- The exit of hart h may complete (R24, R167): its blocks have ended and none of its copies is outstanding. -/
def State.exitReady (s : State) (h : Nat) : Bool :=
  let v := s.hartAt h
  v.head == v.next && !v.ctx.copying

/-- The exit of hart h completes (R24): its departure, everything it held released, its context free. -/
def State.exitHart (s : State) (h : Nat) : State :=
  let s1 := (s.depart h).emptyCtx h
  let s2 := s1.modCore (coreOf h) fun k => { k with klpr := putBit k.klpr (16 * ctxOf h + 13) false }
  (s2.modHart h freedHart).modCtx h fun _ => (s.hartAt h).ctx.left

/-- hexit: hart 0 always exists (R308). -/
def execHexit (s : State) : Host.Outcome State Fault Refusal :=
  if s.cur = 0 then .next (s.raise (illegal .hexit))
  else if s.exitReady s.cur then .next (s.exitHart s.cur)
  else .next (s.stall .hexit)

/-- The exit of the current hart completes, once its blocks have ended (R24). -/
def execHexitComplete (s : State) : Host.Outcome State Fault Refusal :=
  if s.hart.wait = some .hexit ∧ s.exitReady s.cur then .next (s.exitHart s.cur) else .next s

/-- hyield: the thread gives up its turns (R25); no other state changes. -/
def execHyield (s : State) : Host.Outcome State Fault Refusal :=
  .next ((s.mod fun v => { v with yielding := true, yieldAt := (s.coreAt (coreOf s.cur)).kcycle.toNat }).advance)

/-- Hart h has given up its turns, and 64 cycles have not passed. An instruction of another thread of the core ends the
yield (R25). -/
def State.yields (s : State) (h : Nat) : Bool :=
  let v := s.hartAt h
  v.yielding && decide ((s.coreAt (coreOf h)).kcycle.toNat < v.yieldAt + 64)

/-- A thread of core c issues: the other threads of the core yield no longer (R25). -/
def State.endYields (s : State) (h : Nat) : State :=
  (List.range 4).foldl (fun t c =>
    let g := 4 * coreOf h + c
    if g != h && (t.hartAt g).yielding then t.modHart g fun v => { v with yielding := false } else t) s

/-- The yielding thread resumes, once 64 cycles have passed (R25). -/
def execHyieldEnd (s : State) : Host.Outcome State Fault Refusal :=
  if s.yields s.cur then .next s else .next (s.mod fun v => { v with yielding := false })

/-! ### Spawn (R22, R23, R261) -/

/-- The sum of MIN over the existing contexts of core c other than t. -/
def State.otherMins (s : State) (c t : Nat) : Nat :=
  ((List.range 4).map fun u => if u != t && (s.hartAt (4 * c + u)).live then s.minOf c u else 0).foldl (· + ·) 0

/-- Core c can pin n clusters for its context t (R22, third condition without its first clause). -/
def State.canPin (s : State) (c t n : Nat) : Bool :=
  decide (n ≤ s.clusterCount c) && decide (s.otherMins c t + n ≤ s.clusterCount c)

/-- An hspawn of the current hart forms or extends a gang (R22). -/
def State.spawnsGang (s : State) : Bool := tst s.hart.kgang 63 && s.hart.gcl != 0

/-- The members of the caller's gang for the placement conditions (R22, R261). -/
def State.placedMembers (s : State) : List Nat := if s.hart.inGang then s.gangOf s.cur else [s.cur]

/-- Context h qualifies for an hspawn of the current hart (R22, R224). -/
def State.qualifies (s : State) (h : Nat) : Bool :=
  let c := coreOf h
  s.canHold c && !s.dark c && !s.isBecalmed c && tst s.hart.kgang (c / 2) && !(s.hartAt h).live
    && (!s.spawnsGang
      || (!(s.placedMembers.any fun m => coreOf m == c) && s.canPin c (ctxOf h) s.hart.gcl
        && (s.hart.inGang || s.canPin (coreOf s.cur) (ctxOf s.cur) s.hart.gcl)))

/-- The context that an hspawn picks: the lowest core number, then the lowest context (R22). -/
def State.pickContext (s : State) : Option Nat := (List.range 256).find? fun h => s.qualifies h

/-- The klpr entry of a gang member: MIN = MAX = GCL (R23). DESIGN CHOICE (log 117): the entry of a founder that owns the
array governs its set only after it leaves the array (R105). -/
def State.pin (s : State) (h n : Nat) : State :=
  (s.modCore (coreOf h) fun k => { k with klpr := lprSet k.klpr (ctxOf h) n n }).settle (coreOf h)

/-- kgang of a spawned hart outside any gang: the caller's GCL and SMASK (R22). -/
def childGang (kgang : Word) : Word := kgang &&& 0x0000F800FFFFFFFF

/-- The new hart (R22), in the context of v. -/
def childHart (v parent : Hart) (entry arg : Word) : Hart :=
  { live := true, x := Sparse.write 0 [] 10 arg, pc := entry, katp := parent.katp, kgang := childGang parent.kgang,
    kgbar := parent.kgbar, ctx := v.ctx.emptied }

/-- A member of a gang with n members beside it and a founder (R21, R261). -/
def joined (kgang : Word) (n gid : Nat) : Word := putFld (putFld (putBit kgang 62 true) 56 6 n) 48 8 gid

/-- The new hart h joins or founds the gang of the current hart (R23, R261). -/
def State.joinGang (s : State) (h : Nat) : State :=
  let n := s.hart.gcl
  if s.hart.inGang then
    let l := s.gangOf s.cur
    let gid := s.hart.gid
    let g := s.hart.gang
    ((s.setMembers l l.length).modHart h fun v => { v with kgang := joined v.kgang l.length gid, gang := g }).pin h n
  else
    let f (v : Hart) : Hart := { v with kgang := joined v.kgang 1 s.cur, gang := s.part.nextGang }
    let s1 := s.modPart fun p => { p with nextGang := p.nextGang + 1 }
    (((s1.modHart s.cur f).modHart h f).pin s.cur n).pin h n

/-- hspawn (R22, R308). -/
def execHspawn (d a b : XReg) (s : State) : Host.Outcome State Fault Refusal :=
  match s.pickContext with
  | none => .next (s.done d (BitVec.allOnes 64))
  | some h =>
    let s1 := s.modHart h fun v => childHart v s.hart (s.xr a) (s.xr b)
    let s2 := if s.spawnsGang then s1.joinGang h else s1
    .next (s2.done d (BitVec.ofNat 64 h))

end Sys2Proof.Machine
end

