-- ==== Sys2Proof/Machine/System.lean ====
section
/-! DEFINITION. The system instructions, the k-register access instructions and the rows that name one such access, the
traps and the events of a control thread (R186-R202, R223, R286-R289, R302, R314-R316, R348, R357, R358, R400). -/

namespace Sys2Proof.Machine

/-! ### Traps and waiting -/

/-- trap #code (R357): kepc is the next word. -/
def execTrap (c : BitVec 16) (s : State) : Host.Outcome State Fault Refusal :=
  if s.hart.pm = 0 ∧ 0x8000 ≤ c.toNat then .next (s.raise (privilege (.trap c)))
  else .next (s.takeTrap s.cur 0x0A (s.pc + 4) (zext c))

/-- tret (R358). -/
def execTret (s : State) : Host.Outcome State Fault Refusal :=
  let v := s.hart
  let target := returnMode v.kstatus v.pm
  if v.pm = 0 ∨ target = 3 ∨ (v.pm = 1 ∧ target = 2) then .next (s.raise (privilege .tret))
  else .next (s.mod Hart.tret)

/-- wfi (R400): it completes when any asynchronous event is pending, whether or not IE enables it. -/
def execWfi (s : State) : Host.Outcome State Fault Refusal :=
  if s.eventPending s.cur then .next s.advance else .next (s.stall .wfi)

/-- brk (R302): breakpoint, or with kbrk.HOLD the core becalmed; the thread goes on at the next word when the core is
released (log 16). -/
def execBrk (s : State) : Host.Outcome State Fault Refusal :=
  if tst s.hart.kbrk 61 then .next (s.advance.becalm (coreOf s.cur) 1)
  else .next (s.raise { cause := 0x02, tval := 0 })

/-- A chunk of a copy is under way: it has written sectors that its destination has not yet all accepted (R158, R217, R237).
Between two steps nothing else holds a translation: an instruction, a segment or a record that waits translates anew when it
goes on. -/
def Chunk.underWay (k : Chunk) : Bool := !k.complete && !k.faulted && !k.pas.isEmpty

/-- Chunk number k of a copy uses a translation of one of the entries. -/
def Copy.usesEntry (c : Copy) (gone : List TlbEntry) (k : Nat) : Bool :=
  let asid : BitVec 16 := BitVec.ofNat 16 (fld c.katp 44 16)
  fld c.katp 60 4 != 0 && (List.range (c.chunkBytes / 256)).any fun i =>
    let off := BitVec.ofNat 64 (k * c.chunkBytes + 256 * i)
    gone.any fun e => e.hits (c.src + off) asid || e.hits (c.dst + off) asid

/-- The entries of every TLB of the node that a sinval removes (R194). -/
def State.removedEntries (s : State) (va : Option Word) (asid : Option (BitVec 16)) : List TlbEntry :=
  ((s.cores.flatMap fun c => c.2.itlb ++ c.2.dtlb ++ c.2.helmTlb) ++ s.towers.flatMap fun t => t.2.tlb).filter
    fun e => e.matches va asid

/-- The chunks under way that use a translation of one of the entries, by hart, copy and chunk (R194 step 3). -/
def State.chunksUsing (s : State) (gone : List TlbEntry) : List (Nat × Nat × Nat) :=
  s.harts.flatMap fun e => e.2.ctx.copies.flatMap fun c =>
    (c.chunks.filter fun k => k.2.underWay && c.usesEntry gone k.1).map fun k => (e.1, c.id, k.1)

/-- A chunk that a sinval waits for has neither completed nor faulted. -/
def State.chunkOpen (s : State) (p : Nat × Nat × Nat) : Bool :=
  (s.hartAt p.1).ctx.copies.any fun c =>
    c.id == p.2.1 && c.chunks.any fun k => k.1 == p.2.2 && !k.2.complete && !k.2.faulted

/-- sinval (R194, R348): a release at dev scope, then the matching entries go, then it waits for the chunks that use one. -/
def execSinval (a b : XReg) (s : State) : Host.Outcome State Fault Refusal :=
  if s.hart.pm = 0 then .next (s.raise (privilege (.sinval a b)))
  else if s.hart.wait = some .sinval then
    .next (if s.hart.pins.any s.chunkOpen then s else s.advance)
  else
    let va := if a = 0 then none else some (s.xr a)
    let asid := if b = 0 then none else some ((s.xr b).setWidth 16)
    let s1 := s.release .dev
    let pins := s1.chunksUsing (s1.removedEntries va asid)
    let s2 := s1.inval va asid
    .next (if pins.isEmpty then s2.advance else (s2.mod fun v => { v with pins := pins }).stall .sinval)

/-! ### k-register access (R288, R315) -/

/-- What stops a read of k-register n (R278, R286). -/
def State.kreadStop (s : State) (i : Instr) (n : Nat) : Option Exc :=
  if !hasNat kregNumbers n then some (illegal i)
  else if s.hart.pm == 0 && !hasNat appReads n then some (privilege i)
  else none

/-- What stops a write of k-register n before its own checks (R278, R286). -/
def State.kwriteStop (s : State) (i : Instr) (n : Nat) : Option Exc :=
  if !hasNat kregNumbers n then some (illegal i)
  else if s.hart.pm == 0 && n == 0x022 then some (illegal i)
  else if s.hart.pm == 0 && !hasNat appWrites n then some (privilege i)
  else none

/-- The write of a value to k-register n by an instruction of the current hart; `f` is what else it does (R315). -/
def State.writeK (s : State) (i : Instr) (n : Nat) (w : Word) (f : State → State) : State :=
  match s.kwriteStop i n with
  | some e => s.raise e
  | none => s.endWrite i f (s.kwrite s.cur s.hart.pm s.cur (s.hart.wait == some .kctxr) n w)

/-- kread. -/
def execKread (d : XReg) (k : KNum) (s : State) : Host.Outcome State Fault Refusal :=
  match s.kreadStop (.kread d k) k.toNat with
  | some e => .next (s.raise e)
  | none => .next (s.done d (s.kread s.cur s.hart.pm k.toNat))

/-- kwrite. -/
def execKwrite (a : XReg) (k : KNum) (s : State) : Host.Outcome State Fault Refusal :=
  .next (s.writeK (.kwrite a k) k.toNat (s.xr a) id)

/-- kset and kclr (R288): the old value goes to x[d], the new one to the register. They read and write, so both fates of
app mode apply. -/
def State.fieldAccess (s : State) (i : Instr) (d : XReg) (n : Nat) (f : Word → Word) : State :=
  match s.kreadStop i n with
  | some e => s.raise e
  | none =>
    let old := s.kread s.cur s.hart.pm n
    s.writeK i n (f old) fun t => t.xw d old

/-- kset. -/
def execKset (d a : XReg) (k : KNum) (s : State) : Host.Outcome State Fault Refusal :=
  .next (s.fieldAccess (.kset d a k) d k.toNat fun old => ksetValue k.toNat old (s.xr a))

/-- kclr. -/
def execKclr (d a : XReg) (k : KNum) (s : State) : Host.Outcome State Fault Refusal :=
  .next (s.fieldAccess (.kclr d a k) d k.toNat fun old => kclrValue k.toNat old (s.xr a))

/-! ### Rows that name one k-register write -/

/-- kwrite of register n, x[a]. -/
def State.writeNamed (s : State) (n : Nat) (a : XReg) : State :=
  s.writeK (.kwrite a (BitVec.ofNat 12 n)) n (s.xr a) id

/-- kwrite kctx, x[a] (R203, R204). -/
def execKctxSave (a : XReg) (s : State) : Host.Outcome State Fault Refusal := .next (s.writeNamed 0x033 a)
/-- kwrite kctxr, x[a] (R203, R205). -/
def execKctxrRestore (a : XReg) (s : State) : Host.Outcome State Fault Refusal := .next (s.writeNamed 0x034 a)
/-- kwrite kvfault, x0 (R60, R199). -/
def execKvfaultResume (s : State) : Host.Outcome State Fault Refusal := .next (s.writeNamed 0x030 0)
/-- kwrite kvq, x[a] (R51). -/
def execKvqDiscard (a : XReg) (s : State) : Host.Outcome State Fault Refusal := .next (s.writeNamed 0x022 a)
/-- kwrite kfrm, x[a] (R94). -/
def execKfrmWrite (a : XReg) (s : State) : Host.Outcome State Fault Refusal := .next (s.writeNamed 0x008 a)
/-- kwrite kflags, x[a] (R101). -/
def execKflagsWrite (a : XReg) (s : State) : Host.Outcome State Fault Refusal := .next (s.writeNamed 0x007 a)
/-- kwrite klpr, x[a] (R29). -/
def execKlprWrite (a : XReg) (s : State) : Host.Outcome State Fault Refusal := .next (s.writeNamed 0x020 a)
/-- kwrite kgang, x[a] (R21). -/
def execKgangWrite (a : XReg) (s : State) : Host.Outcome State Fault Refusal := .next (s.writeNamed 0x011 a)
/-- kwrite ksqb, x[a] (R50). -/
def execKsqbWrite (a : XReg) (s : State) : Host.Outcome State Fault Refusal := .next (s.writeNamed 0x023 a)
/-- kwrite kcpfq, x[a] (R161). -/
def execKcpfqWrite (a : XReg) (s : State) : Host.Outcome State Fault Refusal := .next (s.writeNamed 0x070 a)
/-- kwrite kheat, x[a] (R166). -/
def execKheatWrite (a : XReg) (s : State) : Host.Outcome State Fault Refusal := .next (s.writeNamed 0x071 a)
/-- kwrite kpen, x[a] (R221). -/
def execKpenWrite (a : XReg) (s : State) : Host.Outcome State Fault Refusal := .next (s.writeNamed 0x040 a)
/-- kwrite kdeadline, x[a] (R201). -/
def execKdeadlineWrite (a : XReg) (s : State) : Host.Outcome State Fault Refusal := .next (s.writeNamed 0x00C a)
/-- kwrite katp, x[a] (R188). -/
def execKatpWrite (a : XReg) (s : State) : Host.Outcome State Fault Refusal := .next (s.writeNamed 0x006 a)
/-- kwrite kterm, x[a] (R117). -/
def execKtermWrite (a : XReg) (s : State) : Host.Outcome State Fault Refusal := .next (s.writeNamed 0x042 a)
/-- kwrite kminimg, x[a] (R134). -/
def execKminimgWrite (a : XReg) (s : State) : Host.Outcome State Fault Refusal := .next (s.writeNamed 0x061 a)
/-- kwrite kdump, x[a] (R225). -/
def execKdumpWrite (a : XReg) (s : State) : Host.Outcome State Fault Refusal := .next (s.writeNamed 0x082 a)
/-- kwrite krasb, x[a] (R196). -/
def execKrasbWrite (a : XReg) (s : State) : Host.Outcome State Fault Refusal := .next (s.writeNamed 0x00A a)

/-- The kwrite of FLUSH with the current SPILL to kras (R196). -/
def execKrasFlush (s : State) : Host.Outcome State Fault Refusal :=
  .next (s.writeK (.kwrite 0 0x009) 0x009 (putBit (BitVec.ofNat 64 (s.hart.spill.toNat * 2 ^ 32)) 31 true) id)

/-- The physical address of k-register n in the window of hart h (Table 1-5). -/
def kwinPa (h n : Nat) : Nat := 0xFFF * 2 ^ 44 + 0xA0000000000 + h * 0x8000 + 8 * n

/-- A store of the current hart to a window at a physical address faults (R17, R189, R234). Under MODE 0 the address is its
own virtual one, which app mode may not use; else the row does not say through which virtual address the store went, and
ktval is a free value (log 113). -/
def State.windowFault (s : State) (pa : Nat) : State :=
  if fld s.hart.katp 60 4 = 0 then
    s.raise { cause := if s.hart.pm = 0 then 0x05 else 0x07, tval := BitVec.ofNat 64 pa }
  else s.raise { cause := 0x07, tval := Config.freeWord s.tick 46 }

/-- The current hart stores bits to kpreq of a hart through the k-register window (R17, R200). -/
def State.storeKpreq (s : State) (target : Nat) (w : Word) : State :=
  if s.hart.pm = 0 ∨ !(s.hartAt target).live then s.windowFault (kwinPa target 0x035)
  else
    s.endWrite (.st 0 0 .d 0) id (s.kwrite target s.hart.pm s.cur false 0x035 w)

/-- The current hart sets PRE in kpreq of a hart (R200). -/
def execKpreqPre (target : Nat) (s : State) : Host.Outcome State Fault Refusal := .next (s.storeKpreq target 1)

/-- The current hart sets IHI in kpreq of a hart (R200). -/
def execKpreqIhi (target : Nat) (s : State) : Host.Outcome State Fault Refusal := .next (s.storeKpreq target 2)

/-- The current hart stores to an engine window register (R234). -/
def execEngineWindowWrite (off : Nat) (v : Word) (s : State) : Host.Outcome State Fault Refusal :=
  if s.hart.pm = 0 ∨ !engineOk off then .next (s.windowFault (0xFFF * 2 ^ 44 + 0xA0000800000 + off))
  else .next (s.engineWrite s.hart.pm off v).advance

/-- The store stalled on a full junction buffer is accepted, if a line has drained (R148): st, strel, an atomic, or the
spill of a call or of a FLUSH. -/
def execStoreStallEnd (s : State) : Host.Outcome State Fault Refusal :=
  match s.waitingIn .store with
  | some (.st d a wd o) => execSt d a wd o s
  | some (.strel a b dbl sc) => execStrel a b dbl sc s
  | some (.amo d a b dbl o sc p) => execAmo d a b dbl o sc p s
  | some (.acas d a b dbl o sc) => execAcas d a b dbl o sc s
  | some (.call o) => execCall o s
  | some (.callr a) => execCallr a s
  | some (.kwrite a k) => execKwrite a k s
  | some (.kset d a k) => execKset d a k s
  | some (.kclr d a k) => execKclr d a k s
  | _ => .next s

/-! ### Breakpoints (R223) -/

/-- The suppression of kbrk ends with the word that it passes over, whether that completes or faults (R223). -/
def State.endSuppression (s : State) : State := s.mod fun v => { v with csup := false }

/-- The word at the pc is the one that kbrk names, and it is not passed over. -/
def Hart.hitsC (v : Hart) : Bool :=
  tst v.kbrk 63 && !tst v.kbrk 62 && !v.csup && fld v.kbrk 2 55 == fld v.pc 2 55

/-- A C-stream hit: breakpoint before the instruction, or the core becalmed. The word that runs next after its handler,
or after the hold, is not compared. -/
def State.hitC (s : State) : State :=
  if tst s.hart.kbrk 61 then (s.mod fun v => { v with csup := true }).becalm (coreOf s.cur) 1
  else
    let target := trapTarget s.hart.pm 0x02 0
    (s.raise { cause := 0x02, tval := 0 }).mod fun v => { v with supPend := (target, 0) :: v.supPend }

/-- The word at the bpc is the one that kbrk names. -/
def State.hitsV (s : State) (h : Nat) : Bool :=
  let v := s.hartAt h
  tst v.kbrk 63 && tst v.kbrk 62 && !v.ctx.vsup && v.ctx.blk.isSome && fld v.kbrk 3 54 == fld (s.bpc h) 3 54

/-- A V-stream hit: the breakpoint vector fault, or the core becalmed; the word is then passed over once. -/
def State.hitV (s : State) (h : Nat) : State :=
  let s1 := s.modCtx h fun c => { c.unissue with vsup := true }
  if tst (s.hartAt h).kbrk 61 then s1.becalm (coreOf h) 1 else s1.vfault h 0x14 0 false

/-- kbrk is hit in the stream that the row names; nothing happens where its condition does not hold (R223). -/
def execBreakpointHit (vs : Bool) (s : State) : Host.Outcome State Fault Refusal :=
  if vs then (if s.hitsV s.cur then .next (s.hitV s.cur) else .next s)
  else if s.hart.hitsC then .next s.hitC
  else .next s

/-! ### Events of a control thread -/

/-- Time passes until kcycle of the current hart's core reaches WHEN (R201). -/
def execDeadlineExpiry (s : State) : Host.Outcome State Fault Refusal :=
  let w := fld s.hart.kdeadline 0 63
  .next (s.modCore (coreOf s.cur) fun k => { k with kcycle := BitVec.ofNat 64 (max k.kcycle.toNat w) })

/-- The current hart at the boundary after a wfi that an event ends (R400). -/
def State.pastWfi (s : State) : State :=
  if s.hart.wait = some .wfi ∧ s.eventPending s.cur then s.advance else s

/-- The current hart stands at an hexit that completes before any event is taken (R202). -/
def State.exitDue (s : State) : Bool := s.hart.wait == some .hexit && s.exitReady s.cur

/-- The first pending asynchronous event of the current hart is taken, if it may be (R202). -/
def execAsyncEventTaken (s : State) : Host.Outcome State Fault Refusal :=
  if s.exitDue then .next s else .next ((s.pastWfi.boundary s.cur).getD s)

/-- The vector fault of the current hart is delivered, if it may be (R199, R202). -/
def execVectorFaultDelivery (s : State) : Host.Outcome State Fault Refusal :=
  let s1 := s.pastWfi
  let v := s1.hart
  if v.vfPend && v.mcPend.isNone && v.ie && !v.waits Wait.holdsEvents && !s.exitDue then .next (s1.deliverVfault s.cur) else .next s

/-- The pending machine check of the current hart is taken, whatever IE is (R202). -/
def execMachineCheckTaken (s : State) : Host.Outcome State Fault Refusal :=
  let s1 := s.pastWfi
  match s1.hart.mcPend with
  | some t => if s1.hart.waits Wait.holdsMcheck || s.exitDue then .next s else .next (s1.takeMcheck s.cur t)
  | none => .next s

/-- Stalled contexts of the current hart's core take free clusters (R31). -/
def execClusterStallRelease (s : State) : Host.Outcome State Fault Refusal := .next (s.settle (coreOf s.cur))

/-- A C-stream word that raises illegal instruction (R276, R278). -/
def execIllegalInstruction (w : W32) (s : State) : Host.Outcome State Fault Refusal :=
  .next (s.endSuppression.raise { cause := 0x01, tval := zext w })

/-- The ktval of an access fault at an address under the katp of the current hart (Table 10-4). -/
def State.accessTval (s : State) (va : Word) : Word :=
  if fld s.hart.katp 60 4 = 0 then BitVec.ofNat 64 (fld va 0 56) else va

/-- A C-stream fetch that fails (R189, R207): poisoned data makes a machine check pending, and the word does not
execute. -/
def execCStreamFetchFault (f : FetchFault) (s : State) : Host.Outcome State Fault Refusal :=
  match f with
  | .page => .next (s.endSuppression.raise { cause := 0x06, tval := s.pc })
  | .access => .next (s.endSuppression.raise { cause := 0x07, tval := s.accessTval s.pc })
  | .poison =>
    match s.fetchC s.cur with
    | .poison s1 => .next s1.again
    | _ => .next (s.scalarPoisoned s.cur 0).again

end Sys2Proof.Machine
end

