-- ==== Sys2Proof/Machine/Flags.lean ====
section
/-! DEFINITION. The floating-point events and their accumulation in kflags (R100, R101, Table 5-11). -/

namespace Sys2Proof.Machine

/-- A set of floating-point events, in the bit order of kflags: NX, UF, OF, DZ, NV (Table 5-11). -/
abbrev Events := BitVec 5

/-- Inexact. -/
def evNX : Events := 0x01
/-- Underflow: tiny and inexact after rounding. -/
def evUF : Events := 0x02
/-- Overflow, narrow saturation, integer saturation. -/
def evOF : Events := 0x04
/-- Division by zero, non-invertible ZP divisor. -/
def evDZ : Events := 0x08
/-- Invalid operation. -/
def evNV : Events := 0x10

/-- The events, if a condition holds. -/
def evIf (c : Bool) (e : Events) : Events := if c then e else 0

/-- Events are set in kflags of hart h and stay set (R100, R101). -/
def State.raiseFlags (s : State) (h : Nat) (e : Events) : State :=
  s.modHart h fun v => { v with kflags := v.kflags ||| e.setWidth 64 }

end Sys2Proof.Machine
end

