-- ==== Sys2Proof/Machine/Numbers.lean ====
section
/-! DEFINITION. Number formats and rounding (R84-R99): the element tags, the exact values of elements, and the one rounding
of an exact value into a format. -/

namespace Sys2Proof.Machine

/-! ### Element tags (Table 5-1) -/

/-- Tag codes of Table 5-1. -/
def tagNONE : Tag := 0x00
def tagFP32 : Tag := 0x01
def tagBF16 : Tag := 0x02
def tagFP16 : Tag := 0x03
def tagINT32 : Tag := 0x04
def tagUINT32 : Tag := 0x05
def tagZP : Tag := 0x06
def tagE4M3 : Tag := 0x08
def tagE5M2 : Tag := 0x09
def tagE3M2 : Tag := 0x0A
def tagE2M3 : Tag := 0x0B
def tagE2M1 : Tag := 0x0C
def tagE8M0 : Tag := 0x0D

/-- The code is listed in Table 5-1. -/
def tagListed (t : Tag) : Bool := decide (t.toNat ≤ 0x06) || (decide (0x08 ≤ t.toNat) && decide (t.toNat ≤ 0x0D)) || decide (0x20 ≤ t.toNat)

/-- SINT1-SINT16. -/
def isSint (t : Tag) : Bool := decide (0x20 ≤ t.toNat) && decide (t.toNat < 0x30)

/-- UINT1-UINT16. -/
def isUint (t : Tag) : Bool := decide (0x30 ≤ t.toNat)

/-- The width of a sliced tag; none for a container tag. -/
def sliceWidth (t : Tag) : Option Nat :=
  if t = tagE4M3 ∨ t = tagE5M2 ∨ t = tagE8M0 then some 8
  else if t = tagE3M2 ∨ t = tagE2M3 then some 6
  else if t = tagE2M1 then some 4
  else if isSint t then some (t.toNat - 0x1F)
  else if isUint t then some (t.toNat - 0x2F)
  else none

/-- A sliced tag (R67). -/
def isSliced (t : Tag) : Bool := (sliceWidth t).isSome

/-- Bits of an element: 32 in a container, w in a slice group. -/
def elemBits (t : Tag) : Nat := (sliceWidth t).getD 32

/-- A float tag other than E8M0. -/
def isFloat (t : Tag) : Bool :=
  t == tagFP32 || t == tagBF16 || t == tagFP16 || t == tagE4M3 || t == tagE5M2 || t == tagE3M2 || t == tagE2M3
    || t == tagE2M1

/-- An integer tag. -/
def isInteger (t : Tag) : Bool := t == tagINT32 || t == tagUINT32 || isSint t || isUint t

/-- A signed integer tag. -/
def isSignedTag (t : Tag) : Bool := t == tagINT32 || isSint t

/-- The limits of an integer tag (R86, R88). -/
def intMin (t : Tag) : Int := if isSignedTag t then -(2 ^ (elemBits t - 1) : Nat) else 0
def intMax (t : Tag) : Int :=
  if isSignedTag t then ((2 ^ (elemBits t - 1) : Nat) : Int) - 1 else ((2 ^ elemBits t : Nat) : Int) - 1

/-! ### Float formats (Tables 5-2, 5-3, R89) -/

/-- A float format: significand bits, exponent range of normal numbers, whether overflow saturates (Table 5-7), the
largest significand, its field widths. -/
structure Fmt where
  p      : Nat
  emin   : Int
  emax   : Int
  sat    : Bool
  maxSig : Nat
  ebits  : Nat
  deriving DecidableEq, Repr

def fmtFP32 : Fmt := { p := 24, emin := -126, emax := 127, sat := false, maxSig := 2 ^ 24 - 1, ebits := 8 }
def fmtBF16 : Fmt := { p := 8, emin := -126, emax := 127, sat := false, maxSig := 255, ebits := 8 }
def fmtFP16 : Fmt := { p := 11, emin := -14, emax := 15, sat := false, maxSig := 2047, ebits := 5 }
def fmtE4M3 : Fmt := { p := 4, emin := -6, emax := 8, sat := true, maxSig := 14, ebits := 4 }
def fmtE5M2 : Fmt := { p := 3, emin := -14, emax := 15, sat := false, maxSig := 7, ebits := 5 }
def fmtE3M2 : Fmt := { p := 3, emin := -2, emax := 4, sat := true, maxSig := 7, ebits := 3 }
def fmtE2M3 : Fmt := { p := 4, emin := 0, emax := 2, sat := true, maxSig := 15, ebits := 2 }
def fmtE2M1 : Fmt := { p := 2, emin := 0, emax := 2, sat := true, maxSig := 3, ebits := 2 }
def fmtF48 : Fmt := { p := 37, emin := -1022, emax := 1023, sat := false, maxSig := 2 ^ 37 - 1, ebits := 11 }

/-- The format of a float tag. -/
def fmtOf (t : Tag) : Fmt :=
  if t = tagBF16 then fmtBF16
  else if t = tagFP16 then fmtFP16
  else if t = tagE4M3 then fmtE4M3
  else if t = tagE5M2 then fmtE5M2
  else if t = tagE3M2 then fmtE3M2
  else if t = tagE2M3 then fmtE2M3
  else if t = tagE2M1 then fmtE2M1
  else fmtFP32

/-- The exponent bias of a format. -/
def Fmt.bias (f : Fmt) : Int := 1 - f.emin

/-- Width of the fraction field. -/
def Fmt.fbits (f : Fmt) : Nat := f.p - 1

/-- Width of the whole pattern. -/
def Fmt.width (f : Fmt) : Nat := f.p + f.ebits

/-! ### Exact values -/

/-- An exact value: a NaN, an infinity, or ± num / den × 2^e, zero with its sign. -/
inductive Num where
  | nan (sig : Bool)
  | inf (neg : Bool)
  | fin (neg : Bool) (num den : Nat) (e : Int)
  deriving DecidableEq, Repr, Inhabited

/-- A quiet NaN. -/
def Num.qnan : Num := .nan false

/-- Zero of a sign. -/
def Num.zero (neg : Bool) : Num := .fin neg 0 1 0

/-- An integer as an exact value. -/
def Num.ofInt (i : Int) : Num := .fin (decide (i < 0)) i.natAbs 1 0

/-- n · 2^e as a pair numerator, denominator. -/
def scale2 (n d : Nat) (e : Int) : Nat × Nat := if 0 ≤ e then (n * 2 ^ e.toNat, d) else (n, d * 2 ^ (-e).toNat)

/-- The value is a NaN. -/
def Num.isNan : Num → Bool
  | .nan _ => true
  | _ => false

/-- The value is a signalling NaN. -/
def Num.isSnan : Num → Bool
  | .nan s => s
  | _ => false

/-- The value is an infinity. -/
def Num.isInf : Num → Bool
  | .inf _ => true
  | _ => false

/-- The value is a zero. -/
def Num.isZero : Num → Bool
  | .fin _ n _ _ => n == 0
  | _ => false

/-- The sign of a value. -/
def Num.isNeg : Num → Bool
  | .nan _ => false
  | .inf n => n
  | .fin n _ _ _ => n

/-- The value with its sign set. -/
def Num.withSign (neg : Bool) : Num → Num
  | .nan s => .nan s
  | .inf _ => .inf neg
  | .fin _ n d e => .fin neg n d e

/-- The value negated. -/
def Num.negate (x : Num) : Num := x.withSign (!x.isNeg)

/-- The signed numerator of a finite value over a denominator and a power of two, all brought to a common scale: for two
values, their numerators over one denominator. -/
def commonNums (n1 d1 : Nat) (e1 : Int) (n2 d2 : Nat) (e2 : Int) : Nat × Nat × Nat × Int :=
  let e := min e1 e2
  (n1 * d2 * 2 ^ (e1 - e).toNat, n2 * d1 * 2 ^ (e2 - e).toNat, d1 * d2, e)

/-- a + b exactly. An exact zero sum of unlike signs, or of finite values that cancel, is −0 when `down` and else +0
(R361). -/
def Num.add (down : Bool) (a b : Num) : Num × Events :=
  match a, b with
  | .nan s, y => (.qnan, evIf (s || y.isSnan) evNV)
  | x, .nan s => (.qnan, evIf (s || x.isSnan) evNV)
  | .inf s, .inf t => if s = t then (.inf s, 0) else (.qnan, evNV)
  | .inf s, .fin _ _ _ _ => (.inf s, 0)
  | .fin _ _ _ _, .inf t => (.inf t, 0)
  | .fin s1 n1 d1 e1, .fin s2 n2 d2 e2 =>
    if n1 = 0 ∧ n2 = 0 then (.zero (if s1 = s2 then s1 else down), 0)
    else
      let (m1, m2, d, e) := commonNums n1 d1 e1 n2 d2 e2
      if s1 = s2 then (.fin s1 (m1 + m2) d e, 0)
      else if m1 = m2 then (.zero down, 0)
      else if m2 < m1 then (.fin s1 (m1 - m2) d e, 0)
      else (.fin s2 (m2 - m1) d e, 0)

/-- a × b exactly. -/
def Num.mul (a b : Num) : Num × Events :=
  match a, b with
  | .nan s, y => (.qnan, evIf (s || y.isSnan) evNV)
  | x, .nan s => (.qnan, evIf (s || x.isSnan) evNV)
  | .inf s, .inf t => (.inf (s != t), 0)
  | .inf s, .fin t n _ _ => if n = 0 then (.qnan, evNV) else (.inf (s != t), 0)
  | .fin s n _ _, .inf t => if n = 0 then (.qnan, evNV) else (.inf (s != t), 0)
  | .fin s1 n1 d1 e1, .fin s2 n2 d2 e2 => (.fin (s1 != s2) (n1 * n2) (d1 * d2) (e1 + e2), 0)

/-- a / b exactly (R372). -/
def Num.div (a b : Num) : Num × Events :=
  match a, b with
  | .nan s, y => (.qnan, evIf (s || y.isSnan) evNV)
  | x, .nan s => (.qnan, evIf (s || x.isSnan) evNV)
  | .inf _, .inf _ => (.qnan, evNV)
  | .inf s, .fin t _ _ _ => (.inf (s != t), 0)
  | .fin s _ _ _, .inf t => (.zero (s != t), 0)
  | .fin s1 n1 d1 e1, .fin s2 n2 d2 e2 =>
    if n2 = 0 then (if n1 = 0 then (.qnan, evNV) else (.inf (s1 != s2), evDZ))
    else (.fin (s1 != s2) (n1 * d2) (d1 * n2) (e1 - e2), 0)

/-- a × b + c, fused (R379): ∞ × 0 gives NV even when c is a quiet NaN. -/
def Num.fma (down : Bool) (a b c : Num) : Num × Events :=
  let (p, e1) := a.mul b
  if p.isNan then (.qnan, e1 ||| evIf c.isSnan evNV)
  else
    let (r, e2) := Num.add down p c
    (r, e1 ||| e2)

/-- a < b, for values that are not NaN; −0 and +0 compare equal. -/
def Num.lt (a b : Num) : Bool :=
  match a, b with
  | .nan _, _ => false
  | _, .nan _ => false
  | .inf s, .inf t => s && !t
  | .inf s, .fin _ _ _ _ => s
  | .fin _ _ _ _, .inf t => !t
  | .fin s1 n1 d1 e1, .fin s2 n2 d2 e2 =>
    let (m1, m2, _, _) := commonNums n1 d1 e1 n2 d2 e2
    let i1 : Int := if s1 then -(m1 : Int) else m1
    let i2 : Int := if s2 then -(m2 : Int) else m2
    decide (i1 < i2)

/-- a is below b in the order of R99, in which −0 is below +0. -/
def Num.below (a b : Num) : Bool := a.lt b || (!b.lt a && a.isZero && b.isZero && a.isNeg && !b.isNeg)

/-! ### Decoding elements -/

/-- The exact value of a float pattern of a format. Formats that saturate have no infinity; of them E4M3 alone has a
NaN. -/
def decodeFmt (f : Fmt) (bits : Nat) : Num :=
  let neg := bits.testBit (f.width - 1)
  let ex := (bits / 2 ^ f.fbits) % 2 ^ f.ebits
  let fr := bits % 2 ^ f.fbits
  let top := 2 ^ f.ebits - 1
  if f.sat then
    if f = fmtE4M3 ∧ ex = top ∧ fr = 7 then .nan false
    else if ex = 0 then .fin neg fr 1 (f.emin - f.fbits)
    else .fin neg (2 ^ f.fbits + fr) 1 ((ex : Int) - f.bias - f.fbits)
  else if ex = top then
    if fr = 0 then .inf neg else .nan (!fr.testBit (f.fbits - 1))
  else if ex = 0 then .fin neg fr 1 (f.emin - f.fbits)
  else .fin neg (2 ^ f.fbits + fr) 1 ((ex : Int) - f.bias - f.fbits)

/-- The exact value of an E8M0 pattern (R87). -/
def decodeE8M0 (bits : Nat) : Num := if bits % 256 = 255 then .qnan else .fin false 1 1 ((bits % 256 : Nat) - 127)

/-- The integer of an integer tag's pattern. -/
def decodeInt (t : Tag) (bits : Nat) : Int :=
  if isSignedTag t then signedOf (elemBits t) bits else ((bits % 2 ^ elemBits t : Nat) : Int)

/-- The exact value of an element under a tag: a BF16 operand is the FP32 value of the whole container (R85). DESIGN CHOICE
(log 115): this holds of a BF16 element of the B operand of a matrix instruction too, whose significand then has more than
the 8 bits of Table 6-1 when the low half of its container is not 0. -/
def decodeElem (t : Tag) (bits : Nat) : Num :=
  if t = tagBF16 then decodeFmt fmtFP32 bits
  else if isFloat t then decodeFmt (fmtOf t) (bits % 2 ^ (fmtOf t).width)
  else if t = tagE8M0 then decodeE8M0 bits
  else .ofInt (decodeInt t bits)

/-! ### Rounding (R93, R96, R97) -/

/-- A rounding mode in force (Table 5-6, .dyn resolved). -/
inductive RMode where
  | rne | rtz | rup | rdn | rmm | rsto
  deriving DecidableEq, Repr, Inhabited

/-- k with 2^k ≤ n / d < 2^(k+1), for n, d > 0. -/
def ilog2 (n d : Nat) : Int :=
  let k : Int := (n.log2 : Int) - (d.log2 : Int)
  let (a, b) := scale2 n d (-k)
  if a < b then k - 1 else k

/-- Whether the magnitude rounds up: t the kept part, r / d the discarded fraction, R the top half of the state
(R96). -/
def roundsUp (m : RMode) (neg : Bool) (rnd t r d : Nat) : Bool :=
  match m with
  | .rne => decide (d < 2 * r) || (decide (2 * r = d) && t % 2 == 1)
  | .rtz => false
  | .rup => !neg && r != 0
  | .rdn => neg && r != 0
  | .rmm => decide (d ≤ 2 * r)
  | .rsto => r != 0 && decide (2 ^ 16 ≤ r * 2 ^ 16 / d + rnd)

/-- n / d × 2^e rounded to a multiple of 2^q: the multiple, and whether it is inexact. -/
def roundAt (m : RMode) (neg : Bool) (rnd n d : Nat) (e q : Int) : Nat × Bool :=
  let (a, b) := scale2 n d (e - q)
  let t := a / b
  let r := a % b
  (if roundsUp m neg rnd t r b then t + 1 else t, r != 0)

/-- The quantum exponent of a magnitude in a format, subnormal range included. -/
def quantum (f : Fmt) (n d : Nat) (e : Int) : Int :=
  max (ilog2 n d + e - f.fbits) (f.emin - f.fbits)

/-- A float result: NaN, infinity, or t × 2^q. -/
inductive FloatRes where
  | nan
  | inf (neg : Bool)
  | val (neg : Bool) (t : Nat) (q : Int)
  deriving DecidableEq, Repr

/-- The largest finite value of a format. -/
def maxFinite (f : Fmt) (neg : Bool) : FloatRes := .val neg f.maxSig (f.emax - f.fbits)

/-- Overflow of a format that does not saturate (R96). -/
def overflowRes (f : Fmt) (m : RMode) (neg : Bool) : FloatRes :=
  match m with
  | .rne | .rmm | .rsto => .inf neg
  | .rtz => maxFinite f neg
  | .rup => if neg then maxFinite f neg else .inf neg
  | .rdn => if neg then .inf neg else maxFinite f neg

/-- n / d < m × 2^k. -/
def ltScaled (n d : Nat) (e : Int) (m : Nat) (k : Int) : Bool :=
  let (a, b) := scale2 n d (e - k)
  decide (a < m * b)

/-- A finite non-zero magnitude rounded into a format (R92, R96-R98), with its events. -/
def roundFinite (f : Fmt) (m : RMode) (neg : Bool) (rnd n d : Nat) (e : Int) : FloatRes × Events :=
  let big := f.emax - f.fbits
  let aboveMax := !ltScaled n d e f.maxSig big && !(scale2 n d (e - big)).1 == f.maxSig * (scale2 n d (e - big)).2
  if f.sat && aboveMax then (maxFinite f neg, evOF ||| evNX)
  else if m == .rsto && !ltScaled n d e (2 ^ f.p) big then (.inf neg, evOF ||| evNX)
  else
    let q := quantum f n d e
    let (t, inexact) := roundAt m neg rnd n d e q
    if !f.sat && decide (big ≤ q) && decide (f.maxSig < t) then
      (if m == .rsto then .inf neg else overflowRes f m neg, evOF ||| evNX)
    else if !f.sat && decide (big < q) then (overflowRes f m neg, evOF ||| evNX)
    else if f.sat == false && m == .rsto && aboveMax then (.val neg t q, evOF ||| evNX)
    else
      let qf := ilog2 n d + e - f.fbits
      let (tf, _) := roundAt m neg rnd n d e qf
      let tiny := ltScaled tf 1 qf 1 f.emin
      (.val neg t q, evIf inexact evNX ||| evIf (inexact && tiny) evUF)

/-- An exact value rounded once into a float format (R92, R96-R98). -/
def roundFloat (f : Fmt) (m : RMode) (rnd : Nat) (x : Num) : FloatRes × Events :=
  match x with
  | .nan s => (.nan, evIf s evNV)
  | .inf neg => if f.sat then (maxFinite f neg, evOF ||| evNX) else (.inf neg, 0)
  | .fin neg n d e => if n = 0 then (.val neg 0 (f.emin - f.fbits), 0) else roundFinite f m neg rnd n d e

/-- The pattern of a float result; E3M2, E2M3 and E2M1 have no NaN and hold +0 for it (Table 5-7). -/
def encodeFloat (f : Fmt) (r : FloatRes) : Nat :=
  let sgn (neg : Bool) : Nat := if neg then 2 ^ (f.width - 1) else 0
  match r with
  | .nan =>
    if f = fmtE4M3 then 0x7F
    else if f.sat then 0
    else (2 ^ f.ebits - 1) * 2 ^ f.fbits + 2 ^ (f.fbits - 1)
  | .inf neg => sgn neg + (2 ^ f.ebits - 1) * 2 ^ f.fbits
  | .val neg t q =>
    if t < 2 ^ f.fbits then sgn neg + t
    else if t = 2 ^ f.p then sgn neg + (q + 1 + f.fbits + f.bias).toNat * 2 ^ f.fbits
    else sgn neg + (q + f.fbits + f.bias).toNat * 2 ^ f.fbits + (t - 2 ^ f.fbits)

/-- NaN into a format without NaN is +0 with NV (Table 5-7). -/
def nanEvents (f : Fmt) (r : FloatRes) : Events := evIf (r == .nan && f.sat && f != fmtE4M3) evNV

/-- An exact value as E8M0 (R97). -/
def roundE8M0 (m : RMode) (rnd : Nat) (x : Num) : Nat × Events :=
  match x with
  | .fin false n d e =>
    if n = 0 then (0xFF, evNV)
    else
      let k := ilog2 n d + e
      let (a, b) := scale2 n d (e - k)
      let r := a - b
      let up := match m with
        | .rne | .rmm => decide (b ≤ 2 * r)
        | .rtz | .rdn => false
        | .rup => r != 0
        | .rsto => r != 0 && decide (2 ^ 16 ≤ r * 2 ^ 16 / b + rnd)
      let k1 := if up then k + 1 else k
      if 127 < k1 then (0xFE, evOF ||| evNX)
      else if k1 < -127 then (0x00, evUF ||| evNX)
      else ((k1 + 127).toNat, evIf (r != 0) evNX)
  | _ => (0xFF, evNV)

/-- An exact value as an integer of a tag (R92): rounded, NaN gives 0, out of range a limit. -/
def roundInt (t : Tag) (m : RMode) (rnd : Nat) (x : Num) : Int × Events :=
  match x with
  | .nan _ => (0, evNV)
  | .inf neg => (if neg then intMin t else intMax t, evNV)
  | .fin neg n d e =>
    if n = 0 then (0, 0)
    else
      let (k, inexact) := roundAt m neg rnd n d e 0
      let i : Int := if neg then -(k : Int) else k
      if i < intMin t then (intMin t, evNV)
      else if intMax t < i then (intMax t, evNV)
      else (i, evIf inexact evNX)

/-- The pattern of an integer in a width: its low bits. -/
def intBits (w : Nat) (i : Int) : Nat := (i % ((2 ^ w : Nat) : Int)).toNat

/-- The container or element bits of a float result under a tag: BF16 lies in [31:16] (R85). -/
def placeFloat (t : Tag) (bits : Nat) : Nat := if t = tagBF16 then bits * 0x10000 else bits

/-- An exact value narrowed from the FP32 domain into a tag (Table 5-5), with its events. -/
def narrowNum (t : Tag) (m : RMode) (rnd : Nat) (x : Num) : Nat × Events :=
  if t = tagE8M0 then roundE8M0 m rnd x
  else if isFloat t then
    let (r, ev) := roundFloat (fmtOf t) m rnd x
    (placeFloat t (encodeFloat (fmtOf t) r), ev ||| nanEvents (fmtOf t) r)
  else
    let (i, ev) := roundInt t m rnd x
    (intBits (elemBits t) i, ev)

/-- An exact integer narrowed from an integer T into a tag (Table 5-5). -/
def narrowInt (t : Tag) (m : RMode) (rnd : Nat) (sat : Bool) (i : Int) : Nat × Events :=
  if isInteger t then
    if sat && decide (i < intMin t) then (intBits (elemBits t) (intMin t), evOF)
    else if sat && decide (intMax t < i) then (intBits (elemBits t) (intMax t), evOF)
    else (intBits (elemBits t) i, 0)
  else narrowNum t m rnd (.ofInt i)

/-! ### Stochastic states (R95, R96) -/

/-- One advance of a lane state. -/
def advanceRnd (s : W32) : W32 :=
  let a := s ^^^ (s <<< 13)
  let b := a ^^^ (a >>> 17)
  b ^^^ (b <<< 5)

/-! ### Square root -/

/-- One refinement of an integer square root. -/
def isqrtStep (n x : Nat) : Nat := (x + n / x) / 2

/-- Newton's steps from above. -/
def isqrtLoop (n : Nat) : Nat → Nat → Nat
  | 0, x => x
  | k + 1, x => let y := isqrtStep n x; if x ≤ y then x else isqrtLoop n k y

/-- The integer square root. -/
def isqrt (n : Nat) : Nat := if n = 0 then 0 else isqrtLoop n (n.log2 + 8) (2 ^ (n.log2 / 2 + 1))

/-- √(n / d × 2^e) with 80 bits after its leading one, a sticky bit below when it is inexact: rounding it gives what
rounding the exact root gives. -/
def sqrtNum (n d : Nat) (e : Int) : Num :=
  let (a, b) := scale2 n d e
  let k : Nat := 160 + 2 * b.log2
  let v := a * 2 ^ (2 * k) / b
  let r := isqrt v
  let exact := r * r == v && (a * 2 ^ (2 * k)) % b == 0
  .fin false (2 * r + natOf (!exact)) 1 (-(k : Int) - 1)

/-! ### Enclosures of the transcendental functions (R373, R387)

An exact value is known to lie strictly between two fractions over 2^200; a free fraction picks the point that is
rounded, and a free bit the neighbour that is returned (log 8). -/

/-- Bits of the fixed-point enclosures. -/
def fixBits : Nat := 320

/-- 2^(2^-i) below and above, over 2^fixBits: square roots of 2, i times. -/
def rootsOf2 : Nat → Nat × Nat
  | 0 => (2 * 2 ^ fixBits, 2 * 2 ^ fixBits)
  | i + 1 =>
    let (lo, hi) := rootsOf2 i
    (isqrt (lo * 2 ^ fixBits), isqrt (hi * 2 ^ fixBits) + 1)

/-- 2^f below and above for a fraction f over 2^nb, from its top bit down: i is the weight of the next bit. `rlo`, `rhi`
enclose 2^(2^-i). -/
def exp2Loop (f : Nat) : Nat → Nat → Nat × Nat → Nat × Nat → Nat × Nat
  | 0, _, _, acc => acc
  | nb + 1, i, (rlo, rhi), (lo, hi) =>
    let r := (isqrt (rlo * 2 ^ fixBits), isqrt (rhi * 2 ^ fixBits) + 1)
    let acc := if f.testBit nb then (lo * r.1 / 2 ^ fixBits, hi * r.2 / 2 ^ fixBits + 1) else (lo, hi)
    exp2Loop f nb (i + 1) r acc

/-- 2^(f / 2^nb), 0 ≤ f < 2^nb, below and above over 2^fixBits. -/
def exp2Frac (f nb : Nat) : Nat × Nat := exp2Loop f nb 0 (rootsOf2 0) (2 ^ fixBits, 2 ^ fixBits)

/-- Binary digits of log2 of a fixed-point number in [1, 2), by repeated squaring with the low bits cut off: as many as the
fuel says, after those in the last argument. The logarithm lies between the digits and two units of the last one above. -/
def log2Loop : Nat → Nat → Nat → Nat
  | 0, _, digits => digits
  | k + 1, y, digits =>
    let z := y * y / 2 ^ fixBits
    if 2 * 2 ^ fixBits ≤ z then log2Loop k (z / 2) (2 * digits + 1) else log2Loop k z (2 * digits)

/-- log2 e below and above over 2^130: 1.4426950408889634073599246810018921374266459541529859… -/
def log2eLo : Nat := 0x5C551D94AE0BF85DDF43FF68348E9F447
def log2eHi : Nat := log2eLo + 1

end Sys2Proof.Machine
end

