-- ==== Sys2Proof/Machine/Transcend.lean ====
section
/-! DEFINITION. Square root, reciprocals, exponential, logarithm and hyperbolic tangent (R373, R387). Where a rule allows
either of the two representable neighbours, a free bit chooses; where the exact value is known to lie between two
fractions only, a free fraction picks the point (log 8). -/

namespace Sys2Proof.Machine

/-- What an element's function draws: a bit and a fraction. -/
structure Draw where
  bit  : Bool
  frac : Word
  deriving DecidableEq, Repr

/-- A magnitude lies above the largest finite value of a format. -/
def aboveFinite (f : Fmt) (n d : Nat) (e : Int) : Bool :=
  !ltScaled n d e f.maxSig (f.emax - f.fbits)
    && (scale2 n d (e - (f.emax - f.fbits))).1 != f.maxSig * (scale2 n d (e - (f.emax - f.fbits))).2

/-- A result with its sign set. -/
def FloatRes.withSign (neg : Bool) : FloatRes → FloatRes
  | .nan => .nan
  | .inf _ => .inf neg
  | .val _ t q => .val neg t q

/-- One of the two neighbours in a format of a non-zero magnitude, the magnitude itself when it is representable. Beyond the
finite range the overflow rule of R96 holds, with OF and NX: from MAXF + u on, and in a saturating format, as for any result;
between MAXF and MAXF + u the two values that bracket are MAXF and infinity, and either may be returned under every mode
(DEDUCED, log 141). -/
def neighbour (f : Fmt) (m : RMode) (rnd : Nat) (w : Draw) (neg : Bool) (n d : Nat) (e : Int) : FloatRes × Events :=
  if aboveFinite f n d e then
    if !f.sat && ltScaled n d e (2 ^ f.p) (f.emax - f.fbits) then
      (if w.bit then .inf neg else maxFinite f neg, evOF ||| evNX)
    else roundFinite f m neg rnd n d e
  else
    let (r, ev) := roundFinite f (if w.bit then .rup else .rtz) false rnd n d e
    (r.withSign neg, ev)

/-- The point that a free fraction picks strictly between a / b and c / b. -/
def pickPoint (w : Draw) (a c b : Nat) : Nat × Nat :=
  let k := 2 * w.frac.toNat + 1
  (a * (2 ^ 65 - k) + c * k, b * 2 ^ 65)

/-- A function's result: a special value, an exact value rounded under the mode, or one of two neighbours of a value. -/
inductive FnRes where
  | special (r : FloatRes) (e : Events)
  | rounded (x : Num)
  | either (neg : Bool) (n d : Nat) (e : Int)
  deriving DecidableEq, Repr

/-- vsqrt (R387, Table 24-6). -/
def sqrtFn (_ : Draw) (x : Num) : FnRes :=
  match x with
  | .nan s => .special .nan (evIf s evNV)
  | .inf true => .special .nan evNV
  | .inf false => .rounded (.inf false)
  | .fin neg n d e =>
    if n = 0 then .rounded (.zero neg)
    else if neg then .special .nan evNV
    else .rounded (sqrtNum n d e)

/-- vrsqrt (R387, Table 24-6). -/
def rsqrtFn (_ : Draw) (x : Num) : FnRes :=
  match x with
  | .nan s => .special .nan (evIf s evNV)
  | .inf true => .special .nan evNV
  | .inf false => .rounded (.zero false)
  | .fin neg n d e =>
    if n = 0 then .special (.inf neg) evDZ
    else if neg then .special .nan evNV
    else
      match sqrtNum d n (-e) with
      | .fin _ m b k => .either false m b k
      | y => .rounded y

/-- vrcp (R387, Table 24-6). -/
def rcpFn (_ : Draw) (x : Num) : FnRes :=
  match x with
  | .nan s => .special .nan (evIf s evNV)
  | .inf neg => .rounded (.zero neg)
  | .fin neg n d e => if n = 0 then .special (.inf neg) evDZ else .either neg d n (-e)

/-- 2^(a / 2^nb) for 0 ≤ a, from the integer and the fraction part: numerators over 2^fixBits below and above, and the
power of two. -/
def exp2Point (w : Draw) (a nb : Nat) : Nat × Nat × Int :=
  let (lo, hi) := exp2Frac (a % 2 ^ nb) nb
  let (p, q) := pickPoint w lo hi (2 ^ fixBits)
  (p, q, ((a / 2 ^ nb : Nat) : Int))

/-- The largest magnitude of an exponent that matters: beyond it every format overflows or is far below its smallest
value. -/
def expLimit : Nat := 2000

/-- vexp2 (R373, Table 23-11). -/
def exp2Fn (w : Draw) (x : Num) : FnRes :=
  match x with
  | .nan s => .special .nan (evIf s evNV)
  | .inf true => .rounded (.zero false)
  | .inf false => .rounded (.inf false)
  | .fin neg n d e =>
    let (a, b) := scale2 n d e
    if n = 0 then .rounded (.fin false 1 1 0)
    else if expLimit * b < a then .either false 1 1 (if neg then -(expLimit : Int) else expLimit)
    else if a % b = 0 then
      .either false 1 1 (if neg then -((a / b : Nat) : Int) else ((a / b : Nat) : Int))
    else
      let nb := b.log2
      -- a / b, not an integer; for a negative exponent the fraction counts up from the next integer below
      let up := if neg then (a / b + 1) * b - a else a
      let (p, q, k) := exp2Point w up nb
      .either false p q (if neg then -(((a / b + 1 : Nat)) : Int) + k else k)

/-- vlog2 (R373, Table 23-11). -/
def log2Fn (w : Draw) (x : Num) : FnRes :=
  match x with
  | .nan s => .special .nan (evIf s evNV)
  | .inf true => .special .nan evNV
  | .inf false => .rounded (.inf false)
  | .fin neg n d e =>
    if n = 0 then .special (.inf true) evDZ
    else if neg then .special .nan evNV
    else
      let k := ilog2 n d + e
      let (a, b) := scale2 n d (e - k)
      if a = b then
        if k = 0 then .rounded (.zero false) else .either (decide (k < 0)) k.natAbs 1 0
      else
        let digits := log2Loop 200 (a * 2 ^ fixBits / b) 0
        let (p, q) := pickPoint w digits (digits + 2) (2 ^ 200)
        if k < 0 then .either true (k.natAbs * q - p) q 0
        else .either false (k.natAbs * q + p) q 0

/-- tanh of a magnitude: a point strictly between two bounds. Small: x − x³/3 < tanh x < x; large: 1 − 2^-120 < tanh x < 1;
between, (E − 1) / (E + 1) with E = 2^(2x log2 e) enclosed. -/
def tanhPoint (w : Draw) (a b : Nat) : Nat × Nat :=
  if a * 2 ^ 20 < b then
    pickPoint w (3 * a * b * b - a * a * a) (3 * a * b * b) (3 * b * b * b)
  else if 45 * b ≤ a then pickPoint w (2 ^ 120 - 1) (2 ^ 120) (2 ^ 120)
  else
    let nb := b.log2 + 130
    let expo (l : Nat) : Nat × Nat × Nat :=
      let y := 2 * a * l
      let (lo, hi) := exp2Frac (y % 2 ^ nb) nb
      (lo * 2 ^ (y / 2 ^ nb), hi * 2 ^ (y / 2 ^ nb), 2 ^ fixBits)
    let (elo, _, one) := expo log2eLo
    let (_, ehi, _) := expo log2eHi
    pickPoint w ((elo - one) * (ehi + one)) ((ehi - one) * (elo + one)) ((elo + one) * (ehi + one))

/-- vtanh (R387, Table 24-6). -/
def tanhFn (w : Draw) (x : Num) : FnRes :=
  match x with
  | .nan s => .special .nan (evIf s evNV)
  | .inf neg => .rounded (.fin neg 1 1 0)
  | .fin neg n d e =>
    if n = 0 then .rounded (.zero neg)
    else
      let (a, b) := scale2 n d e
      let (p, q) := tanhPoint w a b
      .either neg p q 0

/-- The pattern of a function's result under a float tag, with its events. -/
def fnBits (t : Tag) (m : RMode) (rnd : Nat) (w : Draw) (r : FnRes) : Nat × Events :=
  let f := fmtOf t
  match r with
  | .special .nan ev => (placeFloat t (encodeFloat f .nan), ev ||| nanEvents f .nan)
  | .special (.inf neg) ev => if f.sat then (placeFloat t (encodeFloat f (maxFinite f neg)), ev ||| evOF ||| evNX)
      else (placeFloat t (encodeFloat f (.inf neg)), ev)
  | .special r ev => (placeFloat t (encodeFloat f r), ev)
  | .rounded x => narrowNum t m rnd x
  | .either neg n d e =>
    let (x, ev) := neighbour f m rnd w neg n d e
    (placeFloat t (encodeFloat f x), ev)

end Sys2Proof.Machine
end

