-- ==== Sys2Proof/Machine/Vector.lean ====
section
/-! DEFINITION. What every V-stream word shares: how it ends (R60, R207, R285, R301), the sweep and its policies
(R62-R73), the registers it reads and writes and the sealing of the strip (R81), and the sources of an element (R90,
R280). -/

namespace Sys2Proof.Machine

/-! ### How a word ends -/

/-- Why a V-stream word does not complete: a vector fault with nothing performed, one after a part that has performed, one in a
segment of an access that runs in several, whose restart step is that of every cluster (R193), a consumed uncorrectable error
(the latter after a part that has performed), a wait, or a read of another node by a stream instruction, with the address that
its outcome names (R217). -/
inductive VStop where
  | fault (sub : Nat) (tval : Word)
  | partly (s : State) (sub : Nat) (tval : Word)
  | segment (s : State) (sub : Nat) (tval : Word)
  | poison (src pa : Nat)
  | poisoned (s : State) (src pa : Nat)
  | wait (w : VWait) (s : State)
  | far (addr : Word) (pa : Nat)
  deriving DecidableEq, Repr

/-- Illegal word (R285 step 1). -/
def illegalWord : VStop := .fault 0x01 0

/-- Tag vector fault (R285 step 2). -/
def tagFault : VStop := .fault 0x07 0

/-- Matrix-state vector fault. -/
def matrixFault : VStop := .fault 0x0A 0

/-- A condition that a word needs, or its stop. -/
def need (c : Bool) (f : VStop) : Except VStop Unit := if c then .ok () else .error f

/-- The step of the hardware loops when the word at pc completes without a taken branch (R301): counters, active loops,
the next word. -/
def loopStep (pc : Word) : List W32 → List Loop → List W32 × List Loop × Word
  | lc, [] => (lc, [], pc + 8)
  | lc, l :: ls =>
    if l.last = pc then
      let k := lc.getD l.n 0 - 1
      if k ≠ 0 then (lc.set l.n k, l :: ls, l.first) else loopStep pc (lc.set l.n k) ls
    else (lc, l :: ls, pc + 8)

/-- The word at the bpc of hart h has completed: the loop step, and the next word. -/
def State.passWord (s : State) (h : Nat) : State :=
  s.modCtx h fun c =>
    let c1 := { c with waiting := none, step := 0, vsup := false, answered := false, acqM := none }
    match c.blk with
    | none => c1
    | some b =>
      let (lc, loops, pc) := loopStep b.pc c.lc c.loops
      { c1 with blk := some { b with pc := pc }, lc := lc, loops := loops }

/-- A branch is taken to t: the loops whose body does not hold t end, with the loops inside them (R298). -/
def State.branchTo (s : State) (h : Nat) (t : Word) : State :=
  s.modCtx h fun c =>
    let keep := (c.loops.reverse.takeWhile fun l => l.first.ule t && t.ule l.last).reverse
    let gone := c.loops.take (c.loops.length - keep.length)
    { c with blk := c.blk.map fun b => { b with pc := t }
             lc := gone.foldl (fun m l => m.set l.n 0) c.lc, loops := keep, step := 0, vsup := false }

/-- A vector fault ends its word: a suppression of kbrk ends too (R223), and the word has not completed. -/
def VCtx.faulted (c : VCtx) : VCtx := { c with vsup := false, issued := none }

/-- The end of a word that does not pass. -/
def State.stopWord (s : State) (h : Nat) : VStop → State
  | .fault sub t => (s.vfault h sub t (s.hartAt h).ctx.gathers).modCtx h VCtx.faulted
  | .partly s1 sub t => (s1.vfault h sub t false).modCtx h VCtx.faulted
  | .segment s1 sub t => (s1.vfault h sub t true).modCtx h fun c => c.faulted.keepMasks
  | .poison src pa => s.consume h src pa
  | .poisoned s1 src pa => s1.consume h src pa
  | .wait w s1 => s1.modCtx h fun c => { c.keepMasks with waiting := some w }
  | .far a pa => (s.ask h .vector a pa).modCtx h fun c => { c with waiting := some (.remote false) }

/-- The end of a block instruction of the current hart. -/
def endB (s : State) (r : Except VStop State) : Host.Outcome State Fault Refusal :=
  match r with
  | .ok s1 => .next (s1.passWord s1.cur)
  | .error e => .next (s.stopWord s.cur e)

/-- ICNT of hart h counts a vector instruction that has issued (R211). -/
def State.countIssue (s : State) (h : Nat) : State := s.modCtx h fun c => { c with icnt := (c.icnt + 1) % 8 }

/-- The end of a vector, matrix, copy or stream instruction of the current hart. ICNT counts it, and one that consumes an
uncorrectable error; one that faults or waits issues again (R211). -/
def endV (s : State) (r : Except VStop State) : Host.Outcome State Fault Refusal :=
  match r with
  | .ok s1 => endB s (.ok (s1.countIssue s1.cur))
  | .error (.poison src pa) => endB s (.error (.poisoned (s.countIssue s.cur) src pa))
  | .error (.poisoned s1 src pa) => endB s (.error (.poisoned (s1.countIssue s1.cur) src pa))
  | .error e => endB s (.error e)

/-! ### Block registers that hold poison (R206, R207; log 120) -/

/-- The block register of a scalar source. -/
def vsrcRegs : VSrc → List BReg
  | .breg r => [r]
  | .vec _ | .imm _ => []

/-- The block register of a second source. -/
def bsrcRegs : BSrc → List BReg
  | .reg r => [r]
  | .imm _ => []

/-- The block registers that a V-stream word takes into its computation. -/
def bReads (i : Instr) : List BReg :=
  match i with
  | .badd _ a s | .bsub _ a s | .bmul _ a s | .band _ a s | .bor _ a s | .bxor _ a s | .bshl _ a s | .bshr _ a s
  | .bset _ _ a s => a :: bsrcRegs s
  | .bloop _ a _ | .vreply a | .vbext _ _ a _ | .vbins _ _ a _ | .mdrain _ _ a _ _ | .mfill _ _ a | .msettile _ a _ _
  | .sprm a _ | .sld _ a | .sst _ a | .srat _ a | .sexp _ _ a | .scmp _ _ a
  | .vld _ a _ _ _ _ | .vldx _ a _ _ _ _ _ | .vldff _ a _ _ _ _ | .vst _ a _ _ _ _ | .vstx _ a _ _ _ _ _
  | .vamo _ _ a _ _ _ _ _ => [a]
  | .bbr _ a b _ | .mldz _ a b _ | .mstz _ a b | .snew _ a b _ | .smulm _ _ a b | .sgrow _ a b
  | .vlds _ a _ b _ _ _ | .vsts _ a _ b _ _ _ => [a, b]
  | .cpy a b c _ _ _ _ | .sterm _ a b c => [a, b, c]
  | .vsetl _ a cap _ => a :: cap.toList
  | .vrseed s => bsrcRegs s
  | .vadd _ _ b _ _ _ | .vsub _ _ b _ _ _ | .vmul _ _ b _ _ _ | .vmadd _ _ b _ _ _ | .vmsub _ _ b _ _ _
  | .vdiv _ _ b _ _ | .vmin _ _ b _ _ _ | .vmax _ _ b _ _ _ | .vand _ _ b _ | .vor _ _ b _ | .vxor _ _ b _
  | .vshl _ _ b _ _ | .vshr _ _ b _ | .vsar _ _ b _ | .vcmp _ _ _ b _ | .vsel _ _ b _ | .vbcast _ b _
  | .vscale _ _ b _ _ | .vslide _ _ b _ | .vbsl _ _ b _ | .vbsr _ _ b _ => vsrcRegs b
  | _ => []

/-- A word that ICNT counts: a vector, matrix, copy or stream instruction, and no block instruction (R211). -/
def counts (i : Instr) : Bool := !blockWord i

/-- The word reads a block register of the current hart that holds poison. -/
def State.bBad (s : State) (i : Instr) : Bool :=
  !s.ctx.bpoison.isEmpty && (bReads i).any fun r => (Map.find s.ctx.bpoison r.toNat).isSome

/-- The current context has stopped in t with a vector fault that s had not, at which it has performed nothing (R210): no
segment, no record, but for the buffered stores of a strip that it has sealed. -/
def State.faultsBare (s t : State) : Bool :=
  t.ctx.stopped && !s.ctx.stopped && t.ctx.step == s.ctx.step
    && (decide (t.part = s.part) || decide (t.part = (s.seal s.cur).part))
    && decide ((t.coreAt (coreOf s.cur)).descs = (s.coreAt (coreOf s.cur)).descs)

/-- The word of the current context that waits in t has taken what its registers hold into its computation already: a vsetl its
request in the cluster step, a word in segments a segment, a stream instruction a record (R207, R210). -/
def State.partDone (s t : State) : Bool :=
  t.ctx.waiting == some .clusters || t.ctx.step != s.ctx.step
    || decide ((t.coreAt (coreOf s.cur)).descs ≠ (s.coreAt (coreOf s.cur)).descs)

/-- A word that reads a poisoned block register consumes it where it would perform: t is what it would come to. A fault at which
it performs nothing, and a wait before it performs anything, come first (R210); the strip seals first where the word seals it
(R81), and ICNT counts the word (R211; log 120). -/
def State.consumeB (s t : State) (i : Instr) : State :=
  if s.faultsBare t || (t.ctx.waiting.isSome && !s.partDone t) then t
  else
    let sealed_ (x : State) : Bool := x.ctx.strip.any fun st => st.isSealed
    let s1 := if sealed_ t && !sealed_ s then s.seal s.cur else s
    (if counts i then s1.countIssue s.cur else s1).consume s.cur 1 0

/-- What a word comes to where one of its block registers holds poison, of what it would come to (R207; log 120). -/
def State.guardB (s : State) (i : Instr) (o : Host.Outcome State Fault Refusal) : Host.Outcome State Fault Refusal :=
  if s.bBad i then
    match o with
    | .next t => .next (s.consumeB t i)
    | o => o
  else o

/-! ### The sweep (R62-R73) -/

/-- The shape of the sweep: clusters held, columns per row, rows, G, the policies, the reference tag, the clusters of the
core that no checking lane checks (R213). -/
structure Sweep where
  clusters : List Nat
  vl       : Nat
  vrows    : Nat
  g        : Nat
  ta       : Bool
  ma       : Bool
  ref      : Tag
  out      : List Nat
  deriving DecidableEq, Repr

/-- The sweep of hart h. -/
def State.sweep (s : State) (h : Nat) : Sweep :=
  let g := (s.hartAt h).ctx.grant
  { clusters := s.clusterSet h, vl := g.vl.toNat, vrows := g.vrows, g := g.g.toNat, ta := tst g.vtype 12
    ma := tst g.vtype 13, ref := g.vtype.setWidth 6, out := (s.coreAt (coreOf h)).lanesOut }

/-- Lanes of the clusters held: 8|S|. -/
def Sweep.lanes (w : Sweep) : Nat := 8 * w.clusters.length

/-- Columns that a row holds under a tag (R91). -/
def Sweep.capacity (w : Sweep) (t : Tag) : Nat :=
  match sliceWidth t with
  | some k => 96 / k * w.lanes * 32
  | none => 96 * w.lanes

/-- Every column of the sweep fits the row of a tag (R91). -/
def Sweep.fits (w : Sweep) (t : Tag) : Bool := decide (w.vl ≤ w.capacity t)

/-- The position that holds column c under a tag (R62, R67). -/
def posOf (t : Tag) (c : Nat) : Nat := if isSliced t then c / 32 else c

/-- The flat element of row r, column c (R69). -/
def Sweep.flat (w : Sweep) (r c : Nat) : Nat := r * w.vl + c

/-- Every row and column of the sweep, in flat order. -/
def Sweep.cells (w : Sweep) : List (Nat × Nat) :=
  (List.range w.vrows).flatMap fun r => (List.range w.vl).map fun c => (r, c)

/-- The cluster, in the core, of the lane that hosts a position (R62). -/
def Sweep.clusterOf (w : Sweep) (p : Nat) : Nat := w.clusters.getD (p % w.lanes / 8) 0

/-- The registers of a group (R64). -/
def Sweep.group (w : Sweep) (v : VReg) : List Nat := (List.range w.vrows).map fun r => v.toNat + r

/-- A register group lies within v0-v31 (R64). -/
def Sweep.inRange (w : Sweep) (v : VReg) : Bool := decide (v.toNat + w.vrows ≤ 32)

/-- The tag of register n. -/
def VCtx.tagAt (c : VCtx) (n : Nat) : Tag := Sparse.read 0 c.vtags n

/-- The tag of a group, when its registers all carry the same one (R65). -/
def groupTag (c : VCtx) (w : Sweep) (v : VReg) : Option Tag :=
  let t := c.tagAt v.toNat
  if (w.group v).all fun n => c.tagAt n == t then some t else none

/-- The tag of a source group: uniform, listed and not NONE, its row wide enough (R65, R91). -/
def sourceTag (c : VCtx) (w : Sweep) (v : VReg) : Except VStop Tag :=
  match groupTag c w v with
  | some t => if t != tagNONE && w.fits t then .ok t else .error tagFault
  | none => .error tagFault

/-- The tag of a destination group that is read (R65). -/
def destTag (c : VCtx) (w : Sweep) (v : VReg) : Except VStop Tag :=
  match groupTag c w v with
  | some t => .ok t
  | none => .error tagFault

/-! ### Elements in registers (R62, R67) -/

/-- What an unlisted container reads as (State.v). -/
def onesW : W32 := 0xFFFFFFFF

/-- Container j of a slice group of width k, or the container of a position: its index in the register. -/
def containerIx (lanes k p j : Nat) : Nat := (p / lanes * k + j) * lanes + p % lanes

/-- The bits of column c of register n under a tag. -/
def VCtx.elem (x : VCtx) (lanes : Nat) (t : Tag) (n c : Nat) : Nat :=
  match sliceWidth t with
  | none => (Sparse.read onesW x.v (32 * c + n)).toNat
  | some k =>
    ((List.range k).map fun j =>
      natOf ((Sparse.read onesW x.v (32 * containerIx lanes k (c / 32) j + n)).getLsbD (c % 32)) * 2 ^ j).foldl
      (· + ·) 0

/-- A container that holds bits of column c of register n under a tag is poisoned (R206). -/
def VCtx.elemBad (x : VCtx) (lanes : Nat) (t : Tag) (n c : Nat) : Bool :=
  match sliceWidth t with
  | none => (Map.find x.vpoison (32 * c + n)).isSome
  | some k => (List.range k).any fun j => (Map.find x.vpoison (32 * containerIx lanes k (c / 32) j + n)).isSome

/-- Register contents with column c of register n set to bits under a tag. -/
def putElem (m : Sparse 32) (lanes : Nat) (t : Tag) (n c bits : Nat) : Sparse 32 :=
  match sliceWidth t with
  | none => Sparse.write onesW m (32 * c + n) (BitVec.ofNat 32 bits)
  | some k =>
    (List.range k).foldl (fun q j =>
      let i := 32 * containerIx lanes k (c / 32) j + n
      Sparse.write onesW q i (putBit (Sparse.read onesW q i) (c % 32) (bits.testBit j))) m

/-- All ones under a tag (R71). -/
def onesOf (t : Tag) : Nat := 2 ^ elemBits t - 1

/-- Bit p of row r of mask register m. -/
def VCtx.mbit (x : VCtx) (m r p : Nat) : Bool := Sparse.read (1 : BitVec 1) x.m (64 * p + 8 * r + m) == 1

/-- Mask contents with one bit set. -/
def putMbit (q : Sparse 1) (m r p : Nat) (b : Bool) : Sparse 1 :=
  Sparse.write 1 q (64 * p + 8 * r + m) (if b then 1 else 0)

/-! ### Policies (R71, R72) -/

/-- What becomes of an element of the sweep. -/
inductive Fate where
  | active | ones | keep
  deriving DecidableEq, Repr

/-- Whether tail elements take all ones (R72). -/
def tailOnes (w : Sweep) : Tail → Bool
  | .vtype => w.ta
  | .tu => false
  | .ta => true

/-- The governing mask bit of a column whose position is taken under a tag (R71, R91). -/
def maskOpen (x : VCtx) (mask : Option MReg) (t : Tag) (r c : Nat) : Bool :=
  match mask with
  | none => true
  | some m => x.mbit m.toNat r (posOf t c)

/-- The fate of an element that `on` calls unmasked (R71). -/
def Sweep.fate (w : Sweep) (tailAgnostic : Bool) (on : Nat → Nat → Bool) (r c : Nat) : Fate :=
  if w.g ≤ w.flat r c then (if tailAgnostic then .ones else .keep)
  else if on r c then .active
  else if w.ma then .ones else .keep

/-- The fate of an element under a control, with destination tag t. -/
def Sweep.fateOf (w : Sweep) (x : VCtx) (c : VCtl) (t : Tag) (r col : Nat) : Fate :=
  w.fate (tailOnes w c.tail) (maskOpen x c.mask t) r col

/-- The mask registers that a control reads. -/
def maskRegs (mask : Option MReg) : List Nat :=
  match mask with
  | some m => [m.toNat]
  | none => []

/-- A chunk acquire names a mask that a copy is bound to (R163). -/
def acquireOk (x : VCtx) (mask : Option MReg) (aq : Bool) : Bool :=
  !aq || (maskRegs mask).all fun m => (Map.find x.binds m).isSome

/-! ### Reads, writes and sealing (R81, R207) -/

/-- What a word reads and writes: vector registers and masks; a written one with whether some element of it is left
unchanged. `skip` is the number of element groups that its governing mask skips (R41); `unchecked` means that no checking
lane covers the word (R211). -/
structure Touch where
  rv : List Nat := []
  wv : List (Nat × Bool) := []
  rm : List Nat := []
  wm : List (Nat × Bool) := []
  skip : Nat := 0
  unchecked : Bool := false
  deriving DecidableEq, Repr

/-- Element groups, of 8 positions in a cluster, that each row of the sweep takes over all clusters (R41): under a sliced
tag its positions count, not its columns (log 59). -/
def Sweep.groups (w : Sweep) (t : Tag) : Nat :=
  let n := if isSliced t then (w.vl + 31) / 32 else w.vl
  (n + w.lanes - 1) / w.lanes * w.clusters.length

/-- Element groups whose governing mask bits are all false (R41). -/
def Sweep.skips (w : Sweep) (x : VCtx) (mask : Option MReg) (t : Tag) : Nat :=
  match mask with
  | none => 0
  | some m =>
    ((List.range w.vrows).map fun r =>
      ((List.range (w.groups t)).filter fun i =>
        (List.range 8).all fun l => !x.mbit m.toNat r (8 * i + l)).length).foldl (· + ·) 0

/-- The strip with a vector register read: read-carried when it is still carried (R81). -/
def Strip.readV (st : Strip) (n : Nat) : Strip := if tst st.vw n then st else { st with vr := putBit st.vr n true }

/-- The strip with a mask register read. -/
def Strip.readM (st : Strip) (n : Nat) : Strip := if tst st.mw n then st else { st with mr := putBit st.mr n true }

/-- The written registers that keep an element. -/
def partials (l : List (Nat × Bool)) : List Nat := (l.filter fun e => e.2).map fun e => e.1

/-- The strip after the reads of a word. -/
def Strip.afterReads (st : Strip) (t : Touch) : Strip :=
  (t.rm ++ partials t.wm).foldl Strip.readM ((t.rv ++ partials t.wv).foldl Strip.readV st)

/-- A write of the word goes to a read-carried register. -/
def Strip.mustSeal (st : Strip) (t : Touch) : Bool :=
  (t.wv.any fun e => tst st.vr e.1) || (t.wm.any fun e => tst st.mr e.1)

/-- The strip after the writes of a word. -/
def Strip.afterWrites (st : Strip) (t : Touch) : Strip :=
  { st with vw := t.wv.foldl (fun b e => putBit b e.1 true) st.vw, mw := t.wm.foldl (fun b e => putBit b e.1 true) st.mw }

/-- The reads and writes of a word of hart h are noted, and the strip seals where R81 says. -/
def State.touch (s : State) (h : Nat) (t : Touch) : State :=
  let s1 := s.modStrip h fun st => { st with cnt := { st.cnt with skipped := st.cnt.skipped + t.skip } }
  match (s1.hartAt h).ctx.strip with
  | none => s1
  | some st =>
    if st.isSealed then s1
    else
      let r := st.afterReads t
      let s2 := s1.modStrip h fun _ => r.afterWrites t
      if r.mustSeal t then s2.seal h else s2

/-- Registers that a word of hart h moves unread, poison and all, are read for R81 (R206, R397). -/
def State.markRead (s : State) (h : Nat) (l : List Nat) : State := s.touch h { rv := l }

/-- The columns that container i of a register holds data of, under a tag (R62, R67). -/
def columnsAt (lanes : Nat) (t : Tag) (i : Nat) : List Nat :=
  match sliceWidth t with
  | none => [i]
  | some k => (List.range 32).map fun b => 32 * (i / lanes / k * lanes + i % lanes) + b

/-- One of the first n columns of a register is poisoned, under its own tag (R206). -/
def VCtx.regBad (x : VCtx) (lanes n cols : Nat) : Bool :=
  x.vpoison.any fun e =>
    e.1 % 32 == n && (columnsAt lanes (x.tagAt n) (e.1 / 32)).any fun c => decide (c < cols)

/-- A word consumes poison in a register or a mask, in what the sweep covers of it (R207, SRC 1). -/
def poisonedReads (x : VCtx) (w : Sweep) (t : Touch) : Bool :=
  (t.rv.any fun n => x.regBad w.lanes n w.vl)
    || (x.mpoison.any fun e => hasNat t.rm (e.1 % 8) && decide (e.1 / 64 < w.vl) && decide (e.1 / 8 % 8 < w.vrows))

/-- The poison that is left in registers when a sweep has written a group under a tag: containers that it has written whole
hold none (R206). -/
def Sweep.cleansed (w : Sweep) (vd : VReg) (t : Tag) (fate : Nat → Nat → Fate) (m : Map Unit) : Map Unit :=
  m.filter fun e =>
    let r := e.1 % 32 - vd.toNat
    !(hasNat (w.group vd) (e.1 % 32)
      && (columnsAt w.lanes t (e.1 / 32)).all fun c => decide (c < w.vl) && fate r c != .keep)

/-- Rows of the sweep in which some element is left unchanged. -/
def Sweep.keepsRow (w : Sweep) (fate : Nat → Nat → Fate) (r : Nat) : Bool :=
  (List.range w.vl).any fun c => fate r c == .keep

/-- The written registers of a group, each with whether it keeps an element. -/
def Sweep.written (w : Sweep) (vd : VReg) (fate : Nat → Nat → Fate) : List (Nat × Bool) :=
  (List.range w.vrows).map fun r => (vd.toNat + r, w.keepsRow fate r)

/-- The tags of a group set. -/
def setTags (m : Sparse 6) (w : Sweep) (vd : VReg) (t : Tag) : Sparse 6 :=
  (w.group vd).foldl (fun q n => Sparse.write 0 q n t) m

/-- Register contents, lane states and events as a sweep goes on. -/
structure Progress where
  v   : Sparse 32
  rnd : Sparse 32
  ev  : Events
  deriving DecidableEq, Repr

/-- The state of a lane by its index among the lanes held (R95). -/
def laneRnd (m : Sparse 32) (q : Nat) : W32 := Sparse.read onesW m q

/-- One element of a sweep: an active one takes the value that `val` gives from the top half of its lane's state, which
advances first when `rsto` (R95, R96). -/
def stepCell (w : Sweep) (vd : VReg) (t : Tag) (fate : Nat → Nat → Fate) (rsto : Bool)
    (val : Nat → Nat → Nat → Nat × Events) (p : Progress) (rc : Nat × Nat) : Progress :=
  match fate rc.1 rc.2 with
  | .keep => p
  | .ones => { p with v := putElem p.v w.lanes t (vd.toNat + rc.1) rc.2 (onesOf t) }
  | .active =>
    let q := posOf t rc.2 % w.lanes
    let rnd := if rsto then Sparse.write onesW p.rnd q (advanceRnd (laneRnd p.rnd q)) else p.rnd
    let (bits, ev) := val rc.1 rc.2 (fld (laneRnd rnd q) 16 16)
    { v := putElem p.v w.lanes t (vd.toNat + rc.1) rc.2 bits, rnd := rnd, ev := p.ev ||| ev }

/-- The lane that hosts a position is under check: lane ICNT mod 8 of a cluster that still has its checking lane (R211,
R213). -/
def Sweep.checks (w : Sweep) (x : VCtx) (pos : Nat) : Bool := pos % 8 == x.icnt % 8 && !hasNat w.out (w.clusterOf pos)

/-- A lane under check has an active element (R211). -/
def Sweep.compares (w : Sweep) (x : VCtx) (t : Tag) (fate : Nat → Nat → Fate) : Bool :=
  w.cells.any fun e => fate e.1 e.2 == .active && w.checks x (posOf t e.2)

/-- A checked word of hart h has performed: a lane-check mismatch of an upset lane (R212), else its state. -/
def State.laneChecked (s : State) (h : Nat) (compared : Bool) : Except VStop State :=
  if (s.hartAt h).ctx.laneUpset && compared then
    .error (.poisoned (s.modCtx h fun c => { c with laneUpset := false }) 5 0)
  else .ok s

/-- The reads and writes of a word of hart h are noted, and then a poisoned register or mask is consumed: a word that seals
the strip performs after the seal (R81, R207). -/
def State.sweepTouch (s : State) (h : Nat) (w : Sweep) (t : Touch) : Except VStop State :=
  if poisonedReads (s.hartAt h).ctx w t then .error (.poisoned (s.touch h t) 1 0) else .ok (s.touch h t)

/-- The elements of a group written under their fates, with the group's tag and the events (R65, R71, R100), and the lane
check (R211, R212). -/
def State.sweepApply (s : State) (h : Nat) (w : Sweep) (vd : VReg) (t : Tag) (unchecked : Bool)
    (fate : Nat → Nat → Fate) (rsto : Bool) (val : Nat → Nat → Nat → Nat × Events) : Except VStop State :=
  let x := (s.hartAt h).ctx
  let p := w.cells.foldl (stepCell w vd t fate rsto val) { v := x.v, rnd := x.rnd, ev := 0 }
  ((s.modCtx h fun c =>
    { c with v := p.v, rnd := p.rnd, vtags := setTags c.vtags w vd t
             vpoison := w.cleansed vd t fate c.vpoison }).raiseFlags h p.ev).laneChecked h
    (!unchecked && w.compares x t fate)

/-- A swept write of hart h to a group, with the registers it touches (R65, R71, R81). With G = 0 nothing changes (R73). -/
def State.sweepWrite (s : State) (h : Nat) (w : Sweep) (vd : VReg) (t : Tag) (reads : Touch)
    (fate : Nat → Nat → Fate) (rsto : Bool) (val : Nat → Nat → Nat → Nat × Events) : Except VStop State :=
  if w.g = 0 then .ok s
  else do
    let s1 ← s.sweepTouch h w { reads with wv := w.written vd fate }
    s1.sweepApply h w vd t reads.unchecked fate rsto val

/-! ### Sources of an element (R90, R280, Table 19-6) -/

/-- A source: its tag, the tag under which its bits are read, the bits at a row and column, the registers it reads. -/
structure Source where
  tag  : Tag
  rtag : Tag
  bits : Nat → Nat → Nat
  regs : List Nat

/-- A vector source. -/
def vecSource (x : VCtx) (w : Sweep) (v : VReg) (t : Tag) : Source :=
  { tag := t, rtag := t, bits := fun r c => x.elem w.lanes t (v.toNat + r) c, regs := w.group v }

/-- The tag under which a scalar source beside a tag is read (Table 19-6). -/
def scalarTag (t : Tag) : Tag :=
  if t = tagFP16 then tagFP16
  else if isFloat t then tagFP32
  else if t = tagE8M0 then tagE8M0
  else if t = tagZP then tagZP
  else if isSignedTag t then tagINT32
  else tagUINT32

/-- The bits of a b-register as a scalar source (Table 19-6). -/
def bregBits (rt : Tag) (v : Word) : Nat :=
  if rt = tagFP16 then fld v 0 16 else if rt = tagE8M0 then fld v 0 8 else fld v 0 32

/-- The bits of an immediate as a scalar source (Table 19-6). -/
def immBits (rt : Tag) (i : BitVec 16) : Nat :=
  if rt = tagFP32 then i.toNat * 0x10000
  else if rt = tagINT32 then (i.signExtend 32).toNat
  else if rt = tagE8M0 then i.toNat % 256
  else i.toNat

/-- Source b beside a source of tag t: a vector group with its own tag, or a scalar that takes t (R280). -/
def sourceB (x : VCtx) (w : Sweep) (b : VSrc) (t : Tag) : Except VStop Source :=
  match b with
  | .vec v => do
    let u ← sourceTag x w v
    .ok (vecSource x w v u)
  | .breg r => .ok { tag := t, rtag := scalarTag t, bits := fun _ _ => bregBits (scalarTag t) (x.br r), regs := [] }
  | .imm i => .ok { tag := t, rtag := scalarTag t, bits := fun _ _ => immBits (scalarTag t) i, regs := [] }

/-- A group beyond v31 in source b is an illegal word (R64). -/
def srcInRange (w : Sweep) : VSrc → Bool
  | .vec v => w.inRange v
  | .breg _ => true
  | .imm _ => true

/-- The exact value of a source. -/
def Source.num (o : Source) (r c : Nat) : Num := decodeElem o.rtag (o.bits r c)

/-- The exact integer of a source. -/
def Source.int (o : Source) (r c : Nat) : Int := decodeInt o.rtag (o.bits r c)

/-- The residue of a source modulo p (R86). -/
def Source.res (o : Source) (p : Nat) (r c : Nat) : Nat := o.bits r c % p

/-- The computation type (Table 5-4). -/
inductive CType where
  | fp | int32 | uint32 | zp
  deriving DecidableEq, Repr

/-- The computation type of sources (R90); none is a tag fault. E8M0 is for the entries that name it. -/
def ctype (l : List Tag) : Option CType :=
  if l.any fun t => !tagListed t || t == tagNONE || t == tagE8M0 then none
  else if l.any fun t => t == tagZP then (if l.all fun t => t == tagZP then some .zp else none)
  else if l.any isFloat then some .fp
  else if l.all fun t => t == tagUINT32 || isUint t then some .uint32
  else some .int32

/-- The tag that names a computation type. -/
def ctypeTag : CType → Tag
  | .fp => tagFP32
  | .int32 => tagINT32
  | .uint32 => tagUINT32
  | .zp => tagZP

/-- The tag T that a destination tagged NONE takes (R91): the computation type of the sources, or the tag of an only source,
FP32 for any float (R90). -/
def noneTag (l : List Tag) (ct : CType) : Tag :=
  match l, ct with
  | [t], .int32 => t
  | [t], .uint32 => t
  | _, _ => ctypeTag ct

/-- The destination format (R91): a ZP result goes to ZP alone, and ZP and E8M0 take no other result. -/
def resultTag (w : Sweep) (l : List Tag) (ct : CType) (d : Tag) : Except VStop Tag :=
  let t := if d = tagNONE then noneTag l ct else d
  if tagListed t && w.fits t && t != tagE8M0 && ((t == tagZP) == (ct == .zp)) then .ok t else .error tagFault

/-- The rounding mode in force (R93, R94). -/
def rmode (kfrm : Word) : Rm → RMode
  | .rne => .rne
  | .rtz => .rtz
  | .rup => .rup
  | .rdn => .rdn
  | .rmm => .rmm
  | .rsto => .rsto
  | .dyn =>
    match fld kfrm 0 3 with
    | 1 => .rtz
    | 2 => .rup
    | 3 => .rdn
    | 4 => .rmm
    | 5 => .rsto
    | _ => .rne

/-- The prime of a position (R86): entry c mod n of the table, c the cluster of its lane. -/
def primeOf (primes : List Nat) (w : Sweep) (pos : Nat) : Nat :=
  primes.getD (w.clusterOf pos % primes.length) 1

end Sys2Proof.Machine
end

