-- ==== Sys2Proof/Machine/VArith.lean ====
section
/-! DEFINITION. The element-wise vector instructions (R359-R361, R364, R365, R368, R369, R371-R373, R375, R379, R381-R383,
R387, R390-R392). -/

namespace Sys2Proof.Machine

/-! ### The general element-wise instruction (R359) -/

/-- An operation in each computation type: on exact values (with whether an exact zero is negative), on integers, and on
residues modulo p; `ones` says of integers that the result is the all-ones pattern of D, whatever D is. -/
structure EOp where
  fp  : Bool → Num → Num → Num → Num × Events
  int : Tag → Int → Int → Int → Int × Events
  zp  : Nat → Nat → Nat → Nat → Nat × Events
  ones : Int → Int → Bool := fun _ _ => false

/-- The container bits that a float result keeps (R85, R364). -/
def keptBits (t : Tag) (bits : Nat) : Nat :=
  if t = tagBF16 then bits / 0x10000 * 0x10000 else if t = tagFP16 then bits % 0x10000 else bits

/-- The checks that every element-wise word makes before its tags (R285 step 1): its groups and its chunk acquire. -/
def elementChecks (x : VCtx) (w : Sweep) (c : VCtl) (groups : List VReg) : Except VStop Unit :=
  need (groups.all w.inRange && acquireOk x c.mask c.aq) illegalWord

/-- An element-wise instruction of hart h over its sources (R359). -/
def State.elementwise (s : State) (h : Nat) (vd : VReg) (a b c : Source) (used : List Source) (rm : Rm) (sat : Bool)
    (ctl : VCtl) (op : EOp) : Except VStop State := do
  let v := s.hartAt h
  let x := v.ctx
  let w := s.sweep h
  let ct ← (match ctype (used.map fun o => o.tag) with
    | some t => .ok t
    | none => .error tagFault : Except VStop CType)
  let primes := (s.coreAt (coreOf h)).primes
  need (!(ct == .zp && primes.isEmpty)) tagFault
  let d ← destTag x w vd
  let t ← resultTag w (used.map fun o => o.tag) ct d
  let m := rmode v.kfrm rm
  let rsto := m == .rsto && ct != .zp && !(ct != .fp && isInteger t)
  s.sweepWrite h w vd t { rv := used.flatMap fun o => o.regs, rm := maskRegs ctl.mask, skip := w.skips x ctl.mask t } (w.fateOf x ctl t) rsto
    fun r col rnd =>
      match ct with
      | .fp =>
        let (y, e) := op.fp (m == .rdn) (a.num r col) (b.num r col) (c.num r col)
        let (bits, e2) := narrowNum t m rnd y
        (bits, e ||| e2)
      | .zp =>
        let p := primeOf primes w (posOf t col)
        op.zp p (a.res p r col) (b.res p r col) (c.res p r col)
      | _ =>
        let (y, e) := op.int t (a.int r col) (b.int r col) (c.int r col)
        if op.ones (a.int r col) (b.int r col) then (keptBits t (onesOf t), e)
        else
          let (bits, e2) := narrowInt t m rnd sat y
          (bits, e ||| e2)

/-- An instruction of two sources va and b. -/
def State.binary (s : State) (h : Nat) (vd va : VReg) (b : VSrc) (rm : Rm) (sat : Bool) (ctl : VCtl) (op : EOp) :
    Except VStop State := do
  let x := (s.hartAt h).ctx
  let w := s.sweep h
  need (srcInRange w b) illegalWord
  elementChecks x w ctl [vd, va]
  let ta ← sourceTag x w va
  let a := vecSource x w va ta
  let ob ← sourceB x w b ta
  s.elementwise h vd a ob a [a, ob] rm sat ctl op

/-- An instruction of three sources va, b, vc. -/
def State.ternary (s : State) (h : Nat) (vd va : VReg) (b : VSrc) (vc : VReg) (rm : Rm) (ctl : VCtl) (op : EOp) :
    Except VStop State := do
  let x := (s.hartAt h).ctx
  let w := s.sweep h
  need (srcInRange w b) illegalWord
  elementChecks x w ctl [vd, va, vc]
  let ta ← sourceTag x w va
  let a := vecSource x w va ta
  let ob ← sourceB x w b ta
  let tc ← sourceTag x w vc
  let c := vecSource x w vc tc
  s.elementwise h vd a ob c [a, ob, c] rm false ctl op

/-- An instruction of one source va. -/
def State.unary (s : State) (h : Nat) (vd va : VReg) (rm : Rm) (ctl : VCtl) (op : EOp) : Except VStop State := do
  let x := (s.hartAt h).ctx
  let w := s.sweep h
  elementChecks x w ctl [vd, va]
  let ta ← sourceTag x w va
  let a := vecSource x w va ta
  s.elementwise h vd a a a [a] rm false ctl op

/-! ### Operations -/

/-- a + b (R361). -/
def opAdd : EOp where
  fp := fun dn a b _ => Num.add dn a b
  int := fun _ a b _ => (a + b, 0)
  zp := fun p a b _ => ((a + b) % p, 0)

/-- a − b (R379). -/
def opSub : EOp where
  fp := fun dn a b _ => Num.add dn a b.negate
  int := fun _ a b _ => (a - b, 0)
  zp := fun p a b _ => ((a + (p - b)) % p, 0)

/-- a × b (R379). -/
def opMul : EOp where
  fp := fun _ a b _ => a.mul b
  int := fun _ a b _ => (a * b, 0)
  zp := fun p a b _ => (a * b % p, 0)

/-- a × b + c (R379). -/
def opMadd : EOp where
  fp := fun dn a b c => Num.fma dn a b c
  int := fun _ a b c => (a * b + c, 0)
  zp := fun p a b c => ((a * b + c) % p, 0)

/-- a × b − c (R379). -/
def opMsub : EOp where
  fp := fun dn a b c => Num.fma dn a b c.negate
  int := fun _ a b c => (a * b - c, 0)
  zp := fun p a b c => ((a * b + (p - c)) % p, 0)

/-- Extended Euclid, bounded by fuel: the inverse of a modulo p, and the greatest common divisor. -/
def egcd : Nat → Int → Int → Int → Int → Int × Int
  | 0, r, _, t, _ => (t, r)
  | k + 1, r, r2, t, t2 => if r2 = 0 then (t, r) else egcd k r2 (r % r2) t2 (t - r / r2 * t2)

/-- The inverse of b modulo p, if b is prime to p. -/
def inverseMod (b p : Nat) : Option Nat :=
  let (t, g) := egcd 100 b p 1 0
  if b % p ≠ 0 ∧ g = 1 then some (t % (p : Int)).toNat else none

/-- a / b (R372): integers toward zero, a zero divisor gives all ones of D with DZ; ZP by the inverse (R86). -/
def opDiv : EOp where
  fp := fun _ a b _ => a.div b
  int := fun _ a b _ => if b = 0 then (-1, evDZ) else (Int.tdiv a b, 0)
  zp := fun p a b _ =>
    match inverseMod b p with
    | some i => (a * i % p, 0)
    | none => (0, evDZ)
  ones := fun _ b => b == 0

/-- The smaller or the larger of two values (R99): a quiet NaN is missing, unless `p` propagates it. -/
def minmaxNum (big p : Bool) (a b : Num) : Num × Events :=
  let ev := evIf (a.isSnan || b.isSnan) evNV
  if p && (a.isNan || b.isNan) then (.qnan, ev)
  else if a.isNan then (if b.isNan then (.qnan, ev) else (b, ev))
  else if b.isNan then (a, ev)
  else if big then (if a.below b then b else a, ev)
  else (if b.below a then b else a, ev)

/-- vmin and vmax (R99, R381). -/
def opMinmax (big p : Bool) : EOp where
  fp := fun _ a b _ => minmaxNum big p a b
  int := fun _ a b _ => (if big then max a b else min a b, 0)
  zp := fun _ a _ _ => (a, 0)

/-- |a| (R360). -/
def opAbs : EOp where
  fp := fun _ a _ _ => if a.isNan then (.qnan, evIf a.isSnan evNV) else (a.withSign false, 0)
  int := fun _ a _ _ => ((a.natAbs : Int), 0)
  zp := fun _ a _ _ => (a, 0)

/-- −a (R383). -/
def opNeg : EOp where
  fp := fun _ a _ _ => if a.isNan then (.qnan, evIf a.isSnan evNV) else (a.negate, 0)
  int := fun _ a _ _ => (-a, 0)
  zp := fun p a _ _ => (if a = 0 then 0 else p - a, 0)

/-! ### Arithmetic -/

/-- vadd (R361). -/
def execVadd (vd va : VReg) (b : VSrc) (rm : Rm) (sat : Bool) (c : VCtl) (s : State) : Host.Outcome State Fault Refusal :=
  endV s (s.binary s.cur vd va b rm sat c opAdd)

/-- vsub (R379). -/
def execVsub (vd va : VReg) (b : VSrc) (rm : Rm) (sat : Bool) (c : VCtl) (s : State) : Host.Outcome State Fault Refusal :=
  endV s (s.binary s.cur vd va b rm sat c opSub)

/-- vmul (R379). -/
def execVmul (vd va : VReg) (b : VSrc) (rm : Rm) (sat : Bool) (c : VCtl) (s : State) : Host.Outcome State Fault Refusal :=
  endV s (s.binary s.cur vd va b rm sat c opMul)

/-- vmadd (R379). -/
def execVmadd (vd va : VReg) (b : VSrc) (vc : VReg) (rm : Rm) (c : VCtl) (s : State) :
    Host.Outcome State Fault Refusal :=
  endV s (s.ternary s.cur vd va b vc rm c opMadd)

/-- vmsub (R379). -/
def execVmsub (vd va : VReg) (b : VSrc) (vc : VReg) (rm : Rm) (c : VCtl) (s : State) :
    Host.Outcome State Fault Refusal :=
  endV s (s.ternary s.cur vd va b vc rm c opMsub)

/-- vdiv (R372). The all-ones pattern of a float D from integer sources is that of the bits its tag keeps (log 17). -/
def execVdiv (vd va : VReg) (b : VSrc) (rm : Rm) (c : VCtl) (s : State) : Host.Outcome State Fault Refusal :=
  endV s (s.binary s.cur vd va b rm false c opDiv)

/-- The tags of a vmin, vmax, vabs: ZP is a tag vector fault (R86). -/
def State.noZp (s : State) (h : Nat) (va : VReg) : Except VStop Unit :=
  need (!((s.hartAt h).ctx.tagAt va.toNat == tagZP)) tagFault

/-- vmin and vmax after the register checks. -/
def State.minmax (s : State) (h : Nat) (vd va : VReg) (b : VSrc) (rm : Rm) (c : VCtl) (big p : Bool) :
    Except VStop State := do
  let w := s.sweep h
  need (srcInRange w b) illegalWord
  elementChecks (s.hartAt h).ctx w c [vd, va]
  s.noZp h va
  s.binary h vd va b rm false c (opMinmax big p)

/-- vmin (R99, R381). -/
def execVmin (vd va : VReg) (b : VSrc) (rm : Rm) (p : Bool) (c : VCtl) (s : State) : Host.Outcome State Fault Refusal :=
  endV s (s.minmax s.cur vd va b rm c false p)

/-- vmax (R99, R381). -/
def execVmax (vd va : VReg) (b : VSrc) (rm : Rm) (p : Bool) (c : VCtl) (s : State) : Host.Outcome State Fault Refusal :=
  endV s (s.minmax s.cur vd va b rm c true p)

/-- vabs (R360). -/
def execVabs (vd va : VReg) (rm : Rm) (c : VCtl) (s : State) : Host.Outcome State Fault Refusal :=
  endV s (do
    elementChecks s.ctx (s.sweep s.cur) c [vd, va]
    s.noZp s.cur va
    s.unary s.cur vd va rm c opAbs)

/-- vneg (R383). -/
def execVneg (vd va : VReg) (rm : Rm) (c : VCtl) (s : State) : Host.Outcome State Fault Refusal :=
  endV s (s.unary s.cur vd va rm c opNeg)

/-! ### Bit patterns and shifts (R364, R390) -/

/-- The tag of a combination of bit patterns (R364): integers by R90, or one of FP32, BF16, FP16 shared by the sources
and D. -/
def logicTag (w : Sweep) (ta tb d : Tag) : Except VStop Tag :=
  if isInteger ta && isInteger tb then
    match ctype [ta, tb] with
    | some ct =>
      let t := if d = tagNONE then ctypeTag ct else d
      if isInteger t && w.fits t then .ok t else .error tagFault
    | none => .error tagFault
  else if ta == tb && (ta == tagFP32 || ta == tagBF16 || ta == tagFP16) && (d == ta || d == tagNONE) then .ok ta
  else .error tagFault

/-- vand, vor, vxor (R364). -/
def State.logic (s : State) (h : Nat) (vd va : VReg) (b : VSrc) (c : VCtl) (f : Nat → Nat → Nat) :
    Except VStop State := do
  let x := (s.hartAt h).ctx
  let w := s.sweep h
  need (srcInRange w b) illegalWord
  elementChecks x w c [vd, va]
  let ta ← sourceTag x w va
  let a := vecSource x w va ta
  let ob ← sourceB x w b ta
  let d ← destTag x w vd
  let t ← logicTag w ta ob.tag d
  s.sweepWrite h w vd t { rv := a.regs ++ ob.regs, rm := maskRegs c.mask, skip := w.skips x c.mask t } (w.fateOf x c t) false fun r col _ =>
    if isInteger t then
      (f (intBits 32 (a.int r col)) (intBits 32 (ob.int r col)) % 2 ^ elemBits t, 0)
    else (keptBits t (f (a.bits r col) (ob.bits r col)), 0)

/-- vand (R364). -/
def execVand (vd va : VReg) (b : VSrc) (c : VCtl) (s : State) : Host.Outcome State Fault Refusal :=
  endV s (s.logic s.cur vd va b c fun p q => p &&& q)

/-- vor (R364). -/
def execVor (vd va : VReg) (b : VSrc) (c : VCtl) (s : State) : Host.Outcome State Fault Refusal :=
  endV s (s.logic s.cur vd va b c fun p q => p ||| q)

/-- vxor (R364). -/
def execVxor (vd va : VReg) (b : VSrc) (c : VCtl) (s : State) : Host.Outcome State Fault Refusal :=
  endV s (s.logic s.cur vd va b c fun p q => p ^^^ q)

/-- A 32-bit pattern read in an integer computation type. -/
def patternInt (ct : CType) (n : Nat) : Int := if ct = .int32 then signedOf 32 n else ((n % 2 ^ 32 : Nat) : Int)

/-- A shift (R390): on the 32-bit pattern of a in T, then narrowed; `f` gives the shifted pattern, `exact` the value
that .sat compares with the range of D. -/
def State.shift (s : State) (h : Nat) (vd va : VReg) (b : VSrc) (c : VCtl) (sat : Bool)
    (f : W32 → Nat → W32) : Except VStop State := do
  let x := (s.hartAt h).ctx
  let w := s.sweep h
  need (srcInRange w b) illegalWord
  elementChecks x w c [vd, va]
  let ta ← sourceTag x w va
  let a := vecSource x w va ta
  let ob ← sourceB x w b ta
  need (isInteger ta && isInteger ob.tag) tagFault
  let ct ← (match ctype [ta, ob.tag] with
    | some t => .ok t
    | none => .error tagFault : Except VStop CType)
  let d ← destTag x w vd
  let t ← resultTag w [ta, ob.tag] ct d
  need (isInteger t) tagFault
  s.sweepWrite h w vd t { rv := a.regs ++ ob.regs, rm := maskRegs c.mask, skip := w.skips x c.mask t } (w.fateOf x c t) false fun r col _ =>
    let n := intBits 32 (ob.int r col) % 32
    let p : W32 := BitVec.ofNat 32 (intBits 32 (a.int r col))
    if sat then narrowInt t .rne 0 true (a.int r col * ((2 ^ n : Nat) : Int))
    else narrowInt t .rne 0 false (patternInt ct (f p n).toNat)

/-- vshl (R390). -/
def execVshl (vd va : VReg) (b : VSrc) (sat : Bool) (c : VCtl) (s : State) : Host.Outcome State Fault Refusal :=
  endV s (s.shift s.cur vd va b c sat fun p n => p <<< n)

/-- vshr (R390). -/
def execVshr (vd va : VReg) (b : VSrc) (c : VCtl) (s : State) : Host.Outcome State Fault Refusal :=
  endV s (s.shift s.cur vd va b c false fun p n => p >>> n)

/-- vsar (R390). -/
def execVsar (vd va : VReg) (b : VSrc) (c : VCtl) (s : State) : Host.Outcome State Fault Refusal :=
  endV s (s.shift s.cur vd va b c false fun p n => p.sshiftRight n)

/-! ### Compare (R369) -/

/-- A condition on two exact values (Table 23-8). -/
def vcondNum (cc : VCond) (a b : Num) : Bool × Events :=
  let un := a.isNan || b.isNan
  let sig := evIf (a.isSnan || b.isSnan) evNV
  let lt := a.lt b
  let gt := b.lt a
  match cc with
  | .eq => (!un && !lt && !gt, sig)
  | .ne => (un || lt || gt, sig)
  | .lt => (!un && lt, evIf un evNV)
  | .le => (!un && !gt, evIf un evNV)
  | .gt => (!un && gt, evIf un evNV)
  | .ge => (!un && !lt, evIf un evNV)
  | .un => (un, sig)

/-- A condition on two exact integers. -/
def vcondInt (cc : VCond) (a b : Int) : Bool :=
  match cc with
  | .eq => decide (a = b)
  | .ne => decide (a ≠ b)
  | .lt => decide (a < b)
  | .le => decide (a ≤ b)
  | .gt => decide (b < a)
  | .ge => decide (b ≤ a)
  | .un => false

/-- Positions of a mask row in the mask sweep (R319). -/
def Sweep.positions (w : Sweep) : Nat := if isSliced w.ref then (w.vl + 31) / 32 else w.vl

/-- The columns that a position of the mask sweep holds (R319). -/
def Sweep.columns (w : Sweep) (p : Nat) : List Nat :=
  if isSliced w.ref then (List.range (min 32 (w.vl - 32 * p))).map fun i => 32 * p + i else [p]

/-- A position of the mask sweep is active: one of its columns is not tail (R319). -/
def Sweep.maskActive (w : Sweep) (r p : Nat) : Bool := (w.columns p).any fun c => decide (w.flat r c < w.g)

/-- Rows and positions of the mask sweep, in flat order. -/
def Sweep.maskCells (w : Sweep) : List (Nat × Nat) :=
  (List.range w.vrows).flatMap fun r => (List.range w.positions).map fun p => (r, p)

/-- A mask write of hart h (R319): active positions take `val`, or stay where it says none; inactive positions take 1
under TA. With G = 0 nothing changes (R73). -/
def State.maskWrite (s : State) (h : Nat) (w : Sweep) (md : Nat) (reads : Touch) (ev : Events)
    (val : Nat → Nat → Option Bool) : Except VStop State :=
  if w.g = 0 then .ok s
  else do
    let x := (s.hartAt h).ctx
    let bit (r p : Nat) : Option Bool := if w.maskActive r p then val r p else if w.ta then some true else none
    let part := w.maskCells.any fun e => (bit e.1 e.2).isNone
    let m := w.maskCells.foldl (fun q e =>
      match bit e.1 e.2 with
      | some b => putMbit q md e.1 e.2 b
      | none => q) x.m
    let s1 ← s.sweepTouch h w { reads with wm := [(md, part)] }
    let bad := x.mpoison.filter fun e =>
      !(e.1 % 8 == md && (w.maskCells.any fun k => 8 * k.2 + k.1 == e.1 / 8 && (bit k.1 k.2).isSome))
    ((s1.modCtx h fun c => { c with m := m, binds := Map.erase c.binds md, mpoison := bad }).raiseFlags h
      ev).laneChecked h
      (!reads.unchecked && w.maskCells.any fun e => w.maskActive e.1 e.2 && (val e.1 e.2).isSome && w.checks x e.2)

/-- The comparison of va and b in T (R369): the value of a row and column, and its events. -/
def compareAt (ct : CType) (cc : VCond) (a b : Source) (primes : List Nat) (w : Sweep) (r c : Nat) : Bool × Events :=
  match ct with
  | .fp => vcondNum cc (a.num r c) (b.num r c)
  | .zp =>
    let p := primeOf primes w c
    (vcondInt cc (a.res p r c : Nat) (b.res p r c : Nat), 0)
  | _ => (vcondInt cc (a.int r c) (b.int r c), 0)

/-- vcmp of hart h (R369). -/
def State.compare (s : State) (h : Nat) (cc : VCond) (md : MReg) (va : VReg) (b : VSrc) (c : MCtl) :
    Except VStop State := do
  let x := (s.hartAt h).ctx
  let w := s.sweep h
  need (srcInRange w b && w.inRange va && acquireOk x c.mask c.aq) illegalWord
  let ta ← sourceTag x w va
  let a := vecSource x w va ta
  let ob ← sourceB x w b ta
  let ct ← (match ctype [ta, ob.tag] with
    | some t => .ok t
    | none => .error tagFault : Except VStop CType)
  let primes := (s.coreAt (coreOf h)).primes
  need (!(ct == .zp && (primes.isEmpty || !(cc == .eq || cc == .ne)))) tagFault
  let on (r p : Nat) : Bool :=
    match c.mask with
    | some m => x.mbit m.toNat r p
    | none => true
  let live (r p : Nat) : List Nat := (w.columns p).filter fun col => decide (w.flat r col < w.g)
  let ev := w.maskCells.foldl (fun e rp =>
    if on rp.1 rp.2 then
      (live rp.1 rp.2).foldl (fun f col => f ||| (compareAt ct cc a ob primes w rp.1 col).2) e
    else e) (0 : Events)
  s.maskWrite h w md.toNat { rv := a.regs ++ ob.regs, rm := maskRegs c.mask, skip := w.skips x c.mask ta } ev fun r p =>
    if on r p then some ((live r p).any fun col => (compareAt ct cc a ob primes w r col).1)
    else if w.ma then some true else none

/-- vcmp (R369). -/
def execVcmp (cc : VCond) (md : MReg) (va : VReg) (b : VSrc) (c : MCtl) (s : State) :
    Host.Outcome State Fault Refusal :=
  endV s (s.compare s.cur cc md va b c)

/-! ### Select, move, broadcast, index (R365, R375, R382, R392) -/

/-- A value read under one tag, narrowed into another under a mode (R92). -/
def convertBits (from_ to_ : Tag) (m : RMode) (rnd bits : Nat) : Nat × Events :=
  if isInteger from_ then narrowInt to_ m rnd false (decodeInt from_ bits)
  else narrowNum to_ m rnd (decodeElem from_ bits)

/-- What vsel leaves of the chosen source in an element of tag t (R392): its bits where it carries the tag, a scalar beside ZP
being read modulo p, and the value narrowed under rne elsewhere; `fp` says that T is the FP32 domain. A scalar beside BF16 is
the whole container (R85, Table 19-6) and is copied; one beside a sliced float is an FP32 pattern, which no element of the
slice can hold, and is narrowed (DEDUCED, log 132). Without a prime table the residue of a scalar is a free value (log 114). -/
def selectBits (o : Source) (t : Tag) (fp : Bool) (p : Option Nat) (free r c : Nat) : Nat × Events :=
  if t = tagZP ∧ o.regs.isEmpty then
    (match p with
      | some p => o.res p r c
      | none => free, 0)
  else if o.tag = t ∧ (o.rtag = o.tag ∨ t = tagE8M0 ∨ t = tagZP ∨ t = tagBF16) then (o.bits r c % 2 ^ elemBits t, 0)
  else if fp then narrowNum t .rne 0 (o.num r c)
  else narrowInt t .rne 0 false (o.int r c)

/-- vsel of hart h (R392): mr selects. -/
def State.select (s : State) (h : Nat) (vd va : VReg) (b : VSrc) (c : VCtl) : Except VStop State := do
  let x := (s.hartAt h).ctx
  let w := s.sweep h
  need (srcInRange w b) illegalWord
  elementChecks x w c [vd, va]
  let ta ← sourceTag x w va
  let a := vecSource x w va ta
  let ob ← sourceB x w b ta
  let d ← destTag x w vd
  let special := ta == tagZP || ob.tag == tagZP || ta == tagE8M0 || ob.tag == tagE8M0 || d == tagZP || d == tagE8M0
  let ct := ctype [ta, ob.tag]
  let t ← (if special then
      (if ta == ob.tag && (d == tagNONE || d == ta) then .ok ta else .error tagFault)
    else
      match ct with
      | some ct => resultTag w [ta, ob.tag] ct d
      | none => .error tagFault : Except VStop Tag)
  need (w.fits t) tagFault
  let primes := (s.coreAt (coreOf h)).primes
  s.sweepWrite h w vd t { rv := a.regs ++ ob.regs, rm := maskRegs c.mask }
    (w.fate (tailOnes w c.tail) fun _ _ => true) false fun r col _ =>
      selectBits (if maskOpen x c.mask t r col then a else ob) t (ct == some .fp)
        (if primes.isEmpty then none else some (primeOf primes w col))
        ((Config.freeWord s.tick (1000 + w.flat r col)).toNat % 2 ^ 32) r col

/-- vsel (R392). -/
def execVsel (vd va : VReg) (b : VSrc) (c : VCtl) (s : State) : Host.Outcome State Fault Refusal :=
  endV s (s.select s.cur vd va b c)

/-- vmov (R382): bits copied under va's tag; a destination of another tag is a tag fault. -/
def execVmov (vd va : VReg) (c : VCtl) (s : State) : Host.Outcome State Fault Refusal :=
  endV s (do
    let h := s.cur
    let x := s.ctx
    let w := s.sweep h
    elementChecks x w c [vd, va]
    let ta ← sourceTag x w va
    let d ← destTag x w vd
    need (d == tagNONE || d == ta) tagFault
    s.sweepWrite h w vd ta { rv := w.group va, rm := maskRegs c.mask, skip := w.skips x c.mask ta } (w.fateOf x c ta) false fun r col _ =>
      (x.elem w.lanes ta (va.toNat + r) col, 0))

/-- vbcast (R365): the scalar read under vd's tag, narrowed into it under rne. -/
def execVbcast (vd : VReg) (b : VSrc) (c : VCtl) (s : State) : Host.Outcome State Fault Refusal :=
  endV s (do
    let h := s.cur
    let x := s.ctx
    let w := s.sweep h
    elementChecks x w c [vd]
    let t ← destTag x w vd
    need (t != tagNONE && t != tagE8M0 && w.fits t) tagFault
    let primes := (s.coreAt (coreOf h)).primes
    need (!(t == tagZP && primes.isEmpty)) tagFault
    let o ← sourceB x w b t
    s.sweepWrite h w vd t { rm := maskRegs c.mask, skip := w.skips x c.mask t } (w.fateOf x c t) false fun r col _ =>
      if t = tagZP then (o.res (primeOf primes w col) r col, 0)
      else convertBits o.rtag t .rne 0 (o.bits r col))

/-- vid (R375): the flat index narrowed into D under rne. -/
def execVid (vd : VReg) (c : VCtl) (s : State) : Host.Outcome State Fault Refusal :=
  endV s (do
    let h := s.cur
    let x := s.ctx
    let w := s.sweep h
    elementChecks x w c [vd]
    let d ← destTag x w vd
    let t := if d = tagNONE then tagINT32 else d
    need (t != tagE8M0 && t != tagZP && w.fits t) tagFault
    s.sweepWrite h w vd t { rm := maskRegs c.mask, skip := w.skips x c.mask t } (w.fateOf x c t) false fun r col _ =>
      narrowInt t .rne 0 false (w.flat r col))

/-! ### Convert, scale, classify (R368, R371, R391) -/

/-- The pairings of Table 23-9. -/
def cvtPairs (a d : Tag) : Bool :=
  if a = tagZP then d == tagZP || d == tagINT32 || d == tagUINT32
  else if d = tagZP then a == tagINT32 || a == tagUINT32
  else true

/-- One element converted (Table 23-9). -/
def cvtElem (a d : Tag) (m : RMode) (rnd p bits : Nat) : Nat × Events :=
  if a = tagZP then (bits % p, 0)
  else if d = tagZP then ((decodeInt a bits % (p : Int)).toNat, 0)
  else if a = tagE8M0 ∧ d = tagE8M0 then (bits, 0)
  else convertBits a d m rnd bits

/-- The tag that a vcvt into a NONE destination gives it (R90, R91). DESIGN CHOICE (log 116): an E8M0 source counts as a float
other than FP32, so it gives FP32. -/
def cvtTag (ta : Tag) : Tag := if ta = tagZP ∨ isInteger ta then ta else tagFP32

/-- vcvt of hart h (R371). -/
def State.convert (s : State) (h : Nat) (vd va : VReg) (rm : Rm) (c : VCtl) : Except VStop State := do
  let v := s.hartAt h
  let x := v.ctx
  let w := s.sweep h
  elementChecks x w c [vd, va]
  let ta ← sourceTag x w va
  let d ← destTag x w vd
  let t := if d = tagNONE then cvtTag ta else d
  let primes := (s.coreAt (coreOf h)).primes
  need (cvtPairs ta t && w.fits t && !((ta == tagZP || t == tagZP) && primes.isEmpty)) tagFault
  let m := rmode v.kfrm rm
  let rsto := m == .rsto && ta != tagZP && t != tagZP && !(isInteger ta && isInteger t)
  s.sweepWrite h w vd t { rv := w.group va, rm := maskRegs c.mask, skip := w.skips x c.mask t } (w.fateOf x c t) rsto fun r col rnd =>
    cvtElem ta t m rnd (primeOf primes w col) (x.elem w.lanes ta (va.toNat + r) col)

/-- vcvt (R371). -/
def execVcvt (vd va : VReg) (rm : Rm) (c : VCtl) (s : State) : Host.Outcome State Fault Refusal :=
  endV s (s.convert s.cur vd va rm c)

/-- vscale of hart h (R391). DESIGN CHOICE (log 128): e = 255 raises no NV whatever va holds, and gives +0 in a D that has no
NaN. -/
def State.scale (s : State) (h : Nat) (vd va : VReg) (b : VSrc) (rm : Rm) (c : VCtl) : Except VStop State := do
  let v := s.hartAt h
  let x := v.ctx
  let w := s.sweep h
  need (srcInRange w b) illegalWord
  elementChecks x w c [vd, va]
  let ta ← sourceTag x w va
  let ob ← sourceB x w b tagE8M0
  need (isFloat ta && ob.tag == tagE8M0) tagFault
  let d ← destTag x w vd
  let t := if d = tagNONE then tagFP32 else d
  need ((isFloat t || t == tagE8M0) && w.fits t) tagFault
  let m := rmode v.kfrm rm
  s.sweepWrite h w vd t { rv := w.group va ++ ob.regs, rm := maskRegs c.mask, skip := w.skips x c.mask t } (w.fateOf x c t) (m == .rsto)
    fun r col rnd =>
      let a := decodeElem ta (x.elem w.lanes ta (va.toNat + r) col)
      let e := ob.bits r col % 256
      if e = 255 then (if t = tagE8M0 then 0xFF else (narrowNum t m rnd .qnan).1, 0)
      else
        let (y, e1) := a.mul (decodeE8M0 e)
        let (bits, e2) := narrowNum t m rnd y
        (bits, e1 ||| e2)

/-- vscale (R391). -/
def execVscale (vd va : VReg) (b : VSrc) (rm : Rm) (c : VCtl) (s : State) : Host.Outcome State Fault Refusal :=
  endV s (s.scale s.cur vd va b rm c)

/-- The class bit of a float value (Table 23-7); `sub` says whether a finite value is subnormal. -/
def classBit (f : Fmt) (x : Num) : Nat :=
  match x with
  | .nan true => 8
  | .nan false => 9
  | .inf true => 0
  | .inf false => 7
  | .fin neg n d e =>
    if n = 0 then (if neg then 3 else 4)
    else if ltScaled n d e 1 f.emin then (if neg then 2 else 5)
    else if neg then 1 else 6

/-- vclass (R368). -/
def execVclass (vd va : VReg) (c : VCtl) (s : State) : Host.Outcome State Fault Refusal :=
  endV s (do
    let h := s.cur
    let x := s.ctx
    let w := s.sweep h
    elementChecks x w c [vd, va]
    let ta ← sourceTag x w va
    let d ← destTag x w vd
    let t := if d = tagNONE then tagUINT32 else d
    need (isFloat ta && (t == tagINT32 || t == tagUINT32) && w.fits t) tagFault
    s.sweepWrite h w vd t { rv := w.group va, rm := maskRegs c.mask, skip := w.skips x c.mask t } (w.fateOf x c t) false fun r col _ =>
      (2 ^ classBit (fmtOf ta) (decodeElem ta (x.elem w.lanes ta (va.toNat + r) col)), 0))

/-! ### Functions (R373, R387) -/

/-- What element e of the current step draws. vtanh draws by the magnitude, so that it is odd within one instruction. -/
def drawAt (tick e : Nat) : Draw := { bit := Config.freeBit tick e, frac := Config.freeFraction tick e }

/-- A function of one source on float tags (R373, R387). -/
def State.function (s : State) (h : Nat) (vd va : VReg) (rm : Rm) (c : VCtl) (byMagnitude : Bool)
    (f : Draw → Num → FnRes) : Except VStop State := do
  let v := s.hartAt h
  let x := v.ctx
  let w := s.sweep h
  elementChecks x w c [vd, va]
  let ta ← sourceTag x w va
  let d ← destTag x w vd
  let t := if d = tagNONE then tagFP32 else d
  need (isFloat ta && isFloat t && w.fits t) tagFault
  let m := rmode v.kfrm rm
  s.sweepWrite h w vd t { rv := w.group va, rm := maskRegs c.mask, skip := w.skips x c.mask t } (w.fateOf x c t) (m == .rsto) fun r col rnd =>
    let bits := x.elem w.lanes ta (va.toNat + r) col
    let ix := if byMagnitude then bits % 2 ^ (if isSliced ta then elemBits ta - 1 else if ta = tagFP16 then 15 else 31)
      else w.flat r col
    let dr := drawAt s.tick ix
    fnBits t m rnd dr (f dr (decodeElem ta bits))

/-- vsqrt (R387). -/
def execVsqrt (vd va : VReg) (rm : Rm) (c : VCtl) (s : State) : Host.Outcome State Fault Refusal :=
  endV s (s.function s.cur vd va rm c false sqrtFn)

/-- vrsqrt (R387). -/
def execVrsqrt (vd va : VReg) (rm : Rm) (c : VCtl) (s : State) : Host.Outcome State Fault Refusal :=
  endV s (s.function s.cur vd va rm c false rsqrtFn)

/-- vrcp (R387). -/
def execVrcp (vd va : VReg) (rm : Rm) (c : VCtl) (s : State) : Host.Outcome State Fault Refusal :=
  endV s (s.function s.cur vd va rm c false rcpFn)

/-- vexp2 (R373). -/
def execVexp2 (vd va : VReg) (rm : Rm) (c : VCtl) (s : State) : Host.Outcome State Fault Refusal :=
  endV s (s.function s.cur vd va rm c false exp2Fn)

/-- vlog2 (R373). -/
def execVlog2 (vd va : VReg) (rm : Rm) (c : VCtl) (s : State) : Host.Outcome State Fault Refusal :=
  endV s (s.function s.cur vd va rm c false log2Fn)

/-- vtanh (R387). -/
def execVtanh (vd va : VReg) (rm : Rm) (c : VCtl) (s : State) : Host.Outcome State Fault Refusal :=
  endV s (s.function s.cur vd va rm c true tanhFn)

end Sys2Proof.Machine
end

