-- ==== Sys2Proof/Machine/Block.lean ====
section
/-! DEFINITION. The block instructions, the replies, the end of a block, and the rows of words that fault (R52-R57, R183,
R223, R281, R285, R288, R292, R297-R301, R367, R380, R388). -/

namespace Sys2Proof.Machine

/-! ### Block arithmetic (R297) -/

/-- b[bd] ← w in the context of the current hart. -/
def State.bw (s : State) (bd : BReg) (w : Word) : State := s.modCtx s.cur fun c => c.bw bd w

/-- b[bd] ← f of b[ba] and the second source. -/
def State.blockOp (s : State) (bd ba : BReg) (src : BSrc) (f : Word → Word → Word) : Host.Outcome State Fault Refusal :=
  endB s (.ok (s.bw bd (f (s.ctx.br ba) (s.ctx.bsrc src))))

/-- bli. -/
def execBli (bd : BReg) (imm : W32) (s : State) : Host.Outcome State Fault Refusal :=
  endB s (.ok (s.bw bd (sext imm)))

/-- badd. -/
def execBadd (bd ba : BReg) (src : BSrc) (s : State) : Host.Outcome State Fault Refusal :=
  s.blockOp bd ba src fun a b => a + b

/-- bsub. -/
def execBsub (bd ba : BReg) (src : BSrc) (s : State) : Host.Outcome State Fault Refusal :=
  s.blockOp bd ba src fun a b => a - b

/-- bmul. -/
def execBmul (bd ba : BReg) (src : BSrc) (s : State) : Host.Outcome State Fault Refusal :=
  s.blockOp bd ba src fun a b => a * b

/-- band. -/
def execBand (bd ba : BReg) (src : BSrc) (s : State) : Host.Outcome State Fault Refusal :=
  s.blockOp bd ba src fun a b => a &&& b

/-- bor. -/
def execBor (bd ba : BReg) (src : BSrc) (s : State) : Host.Outcome State Fault Refusal :=
  s.blockOp bd ba src fun a b => a ||| b

/-- bxor. -/
def execBxor (bd ba : BReg) (src : BSrc) (s : State) : Host.Outcome State Fault Refusal :=
  s.blockOp bd ba src fun a b => a ^^^ b

/-- bshl: by s[5:0]. -/
def execBshl (bd ba : BReg) (src : BSrc) (s : State) : Host.Outcome State Fault Refusal :=
  s.blockOp bd ba src fun a b => a <<< fld b 0 6

/-- bshr: by s[5:0], logical. -/
def execBshr (bd ba : BReg) (src : BSrc) (s : State) : Host.Outcome State Fault Refusal :=
  s.blockOp bd ba src fun a b => a >>> fld b 0 6

/-- bset. -/
def execBset (c : Cond) (bd ba : BReg) (src : BSrc) (s : State) : Host.Outcome State Fault Refusal :=
  s.blockOp bd ba src fun a b => boolWord (condHolds c a b)

/-! ### Loops and branches (R298, R301) -/

/-- The word at the bpc of hart h is the last word of the body of an active loop. -/
def State.atLoopEnd (s : State) (h : Nat) : Bool := (s.hartAt h).ctx.loops.any fun l => l.last == s.bpc h

/-- A taken branch ends the word of the current hart. -/
def State.endBranch (s : State) (t : Word) : State := (s.branchTo s.cur t).modCtx s.cur fun c => { c with waiting := none }

/-- bbr. -/
def execBbr (c : Cond) (ba bb : BReg) (off : W32) (s : State) : Host.Outcome State Fault Refusal :=
  if s.atLoopEnd s.cur then endB s (.error illegalWord)
  else if condHolds c (s.ctx.br ba) (s.ctx.br bb) then .next (s.endBranch (blockTarget (s.bpc s.cur) off))
  else endB s (.ok s)

/-- bjmp. -/
def execBjmp (off : W32) (s : State) : Host.Outcome State Fault Refusal :=
  if s.atLoopEnd s.cur then endB s (.error illegalWord)
  else .next (s.endBranch (blockTarget (s.bpc s.cur) off))

/-- A bloop of loop n over a body that ends at `last`, with count c, that R54 and R301 make an illegal word. -/
def State.bloopBad (s : State) (n : Nat) (last : Word) (c : Nat) (off : W32) : Bool :=
  let loops := s.ctx.loops
  s.atLoopEnd s.cur || decide (off.toInt ≤ 0) || (c != 0 && decide (4 ≤ loops.length))
    || (loops.any fun l => l.n == n)
    || (match loops with
        | [] => false
        | l :: _ => l.last.ult last)

/-- bloop: the loop opens, or with count 0 the body is skipped and no loop opens (R301). -/
def execBloop (n : BitVec 2) (ba : BReg) (off : W32) (s : State) : Host.Outcome State Fault Refusal :=
  let c : W32 := (s.ctx.br ba).setWidth 32
  let pc := s.bpc s.cur
  let last := blockTarget pc off
  if s.bloopBad n.toNat last c.toNat off then endB s (.error illegalWord)
  else
    .next (s.modCtx s.cur fun x =>
      { x with
        blk := x.blk.map fun b => { b with pc := if c = 0 then last + 8 else pc + 8 }
        lc := if c = 0 then x.lc else x.lc.set n.toNat c
        loops := if c = 0 then x.loops else { n := n.toNat, first := pc + 8, last := last } :: x.loops
        waiting := none, step := 0, vsup := false })

/-! ### End of the block (R53) -/

/-- The block of hart h ends: its strip closes, its slots and its command retire, the stream unit is released (R131), an
idle context donates (R32). -/
def State.endBlock (s : State) (h : Nat) : State :=
  let s1 := ((s.closeStrip h false false).retireBlock h).modCtx h fun c => { c with waiting := none, vsup := false }
  (s1.modCore (coreOf h) fun k => k.leaveStream h).settle (coreOf h)

/-- vend. -/
def execVend (s : State) : Host.Outcome State Fault Refusal := .next (s.endBlock s.cur)

/-! ### Replies (R56, R57, R388) -/

/-- The current hart's block may send another reply (R57). -/
def State.replyOk (s : State) : Bool :=
  match s.ctx.blk with
  | some b => decide (b.sent < b.cmd.nrep)
  | none => false

/-- A reply is sent: the strip seals, the reply fills the next slot (R57, R81, R183). -/
def State.reply (s : State) (w : Word) : State :=
  (s.seal s.cur).mod fun v =>
    { v with replies := v.replies ++ [w], rsv := v.rsv - 1,
             ctx := { v.ctx with blk := v.ctx.blk.map fun b => { b with sent := b.sent + 1 } } }

/-- True active positions of a mask in the mask sweep (R319). -/
def State.truePositions (s : State) (h m : Nat) : List (Nat × Nat) :=
  let w := s.sweep h
  w.maskCells.filter fun e => w.maskActive e.1 e.2 && (s.hartAt h).ctx.mbit m e.1 e.2

/-- A reply of f of the count of true active positions. With G = 0 no position is active and the mask is not read. The strip
seals before the mask is read (R81). -/
def State.replyMask (s : State) (m : MReg) (f : Nat → Nat) : Except VStop State := do
  need s.replyOk (.fault 0x09 0)
  let reads : Touch := if s.ctx.grant.g = 0 then {} else { rm := [m.toNat] }
  let s1 ← (s.seal s.cur).sweepTouch s.cur (s.sweep s.cur) reads
  .ok (s1.reply (BitVec.ofNat 64 (f (s.truePositions s.cur m.toNat).length)))

/-- vreply bn. -/
def execVreply (n : BReg) (s : State) : Host.Outcome State Fault Refusal :=
  endB s (if s.replyOk then .ok (s.reply (s.ctx.br n)) else .error (.fault 0x09 0))

/-- vreply.any. -/
def execVreplyAny (m : MReg) (s : State) : Host.Outcome State Fault Refusal :=
  endB s (s.replyMask m fun n => natOf (n != 0))

/-- vreply.none. -/
def execVreplyNone (m : MReg) (s : State) : Host.Outcome State Fault Refusal :=
  endB s (s.replyMask m fun n => natOf (n == 0))

/-- vreply.pop. -/
def execVreplyPop (m : MReg) (s : State) : Host.Outcome State Fault Refusal := endB s (s.replyMask m fun n => n)

/-! ### Reading registers, the mark, the breakpoint -/

/-- bkrd (R300): kcycle is the helm's count. -/
def execBkrd (bd : BReg) (k : KNum) (s : State) : Host.Outcome State Fault Refusal :=
  let w := if k = 0x00D then (s.coreAt (coreOf s.cur)).hcycle else s.kread s.cur 0 k.toNat
  endB s (if hasNat bkrdReads k.toNat then .ok (s.bw bd w) else .error illegalWord)

/-- vmark (R380). -/
def execVmark (imm : W32) (s : State) : Host.Outcome State Fault Refusal :=
  endB s (.ok (s.modCtx s.cur fun c => { c with mark := imm }))

/-- vbrk (R367): the fault names the vbrk, which counts as executed; with kbrk.HOLD the core becomes becalmed. -/
def execVbrk (s : State) : Host.Outcome State Fault Refusal :=
  if tst s.hart.kbrk 61 then .next ((s.passWord s.cur).becalm (coreOf s.cur) 1)
  else .next ((s.vfault s.cur 0x14 0 false).passWord s.cur)

/-! ### Words that fault (R55, R281, R285) -/

/-- The current context has issued no word. -/
def State.unissued (s : State) : State := s.modCtx s.cur VCtx.unissue

/-- A block word that is no instruction. -/
def execIllegalWord (s : State) : Host.Outcome State Fault Refusal := .next (s.unissued.stopWord s.cur illegalWord)

/-- ktval of an access fault of the fetch at the bpc of hart h (R290): virtual, or physical without translation. -/
def State.bpcAccess (s : State) (h : Nat) : Word :=
  if fld (s.vecView h).katp 60 4 = 0 then BitVec.ofNat 64 (fld (s.bpc h) 0 56) else s.bpc h

/-- A block word that cannot be fetched (R55); poisoned data is consumed (R207). Nothing happens with no block in
progress or a stopped one. -/
def execBlockWordFetchFault (f : FetchFault) (s : State) : Host.Outcome State Fault Refusal :=
  if s.ctx.blk.isNone || s.ctx.stopped then .next s
  else
    match f with
    | .page => .next (s.unissued.stopWord s.cur (.fault 0x02 (s.bpc s.cur)))
    | .access => .next (s.unissued.stopWord s.cur (.fault 0x05 (s.bpcAccess s.cur)))
    | .poison =>
      match s.fetchV s.cur with
      | .poison src pa => .next (s.consume s.cur src pa)
      | _ => .next (s.consume s.cur 8 0)

end Sys2Proof.Machine
end

