-- ==== Sys2Proof/Machine/VConfig.lean ====
section
/-! DEFINITION. vsetl, vtag, vrseed: opening a strip, setting tags, seeding the stochastic states (R31, R66, R68-R70, R80,
R95, R122, R389, R393). -/

namespace Sys2Proof.Machine

/-! ### vsetl (R393) -/

/-- The columns-per-container factors of a reference tag: slots of a lane and elements of a position (R69). -/
def slotsOf (t : Tag) : Nat :=
  match sliceWidth t with
  | some k => 96 / k
  | none => 96

/-- Elements of a position under a tag (R69). -/
def perPosition (t : Tag) : Nat := if isSliced t then 32 else 1

/-- G rounded down to whole blocks of BLK, when it holds one (R69). -/
def blockRound (blk g : Nat) : Nat :=
  if blk = 0 then g else if 8 * 2 ^ blk ≤ g then g / (8 * 2 ^ blk) * (8 * 2 ^ blk) else g

/-- G for a request, a vtype, a cap and a cluster count (R69). -/
def grantG (vt : BitVec 16) (request cap n : Nat) : Nat :=
  let t : Tag := vt.setWidth 6
  blockRound (fld vt 8 4) (min request (2 ^ fld vt 6 2 * 8 * n * min cap (slotsOf t) * perPosition t))

/-- The strip registers that a vsetl writes (R69, R70). -/
def grantOf (vt : BitVec 16) (request cap n : Nat) : Grant :=
  let g := grantG vt request cap n
  let rows := 2 ^ fld vt 6 2
  { vl := BitVec.ofNat 32 ((g + rows - 1) / rows), vtype := vt, depth := cap, g := BitVec.ofNat 32 g
    trim := false, f := BitVec.ofNat 32 g }

/-- The depth cap in force (R68). -/
def VCtx.capFrom (x : VCtx) : Option BReg → Nat
  | none => 96
  | some b =>
    let n := (x.br b).toNat
    if n < 1 ∨ 96 < n then 96 else n

/-- The cluster step of a vsetl (R31, R214), or the context still stalled in it. A vsetl that has stalled makes no second step.
DESIGN CHOICE (log 117): the set of the owner of the matrix array does not change at its vsetl (R105, Table 6-8); whether its
request 0 releases every cluster (R31, R394) or none is left open. -/
def State.vsetlClusters (s : State) (h request : Nat) : Except State State :=
  let c := coreOf h
  let t := ctxOf h
  let u :=
    if s.ownsArray h && !(request == 0 && Config.ownerReleases) then s
    else if (s.hartAt h).ctx.waiting = some .clusters then s.settle c
    else if s.stranded c t then s.joinStalled c t none
    else if request = 0 then s.releaseAll c t
    else
      let s1 := s.clusterStep c t
      if (s1.held c t).length < s1.minOf c t then (s1.joinStalled c t none).settle c else s1
  if u.isStalled c t then .error u else .ok u

/-- The marks of the shadowed tiles of hart h (R122). -/
def State.tileMarks (s : State) (h : Nat) : List TileMark :=
  if (s.hartAt h).ctx.shadow && s.ownsArray h then
    (List.range 16).map fun z =>
      let t := Map.get {} (s.coreAt (coreOf h)).tiles z
      { z := z, tag := t.tag, nv := t.nv, of_ := t.of_ }
  else []

/-- A strip opens unsealed on hart h, with its checkpoint; woff is the word offset of its vsetl (R80, R220). -/
def State.openStrip (s : State) (h : Nat) (woff : W32) : State :=
  let x := (s.hartAt h).ctx
  let ck : Checkpoint :=
    { b := x.b, bad := x.bpoison, lc := x.lc, loops := x.loops, grant := x.grant, pc := s.bpc h, marks := s.tileMarks h
      rnd := x.rnd }
  s.modCtx h fun c =>
    { c with strip := some { ck := ck, cnt := { start := (s.coreAt (coreOf h)).hcycle, woff := woff } } }

/-- The word offset of the word at the bpc of hart h from its block address (Table 11-5). -/
def State.stripOffset (s : State) (h : Nat) : W32 :=
  let addr := ((s.hartAt h).ctx.blk.map fun b => b.cmd.addr).getD 0
  BitVec.ofInt 32 ((s.bpc h - addr).toInt / 8)

/-- The grant of a vsetl and the strip that it opens, after its cluster step: the word passes, and the checkpoint is
taken (R393 steps 4 and 5). -/
def State.vsetlGrant (s : State) (h : Nat) (bd ba : BReg) (cap : Option BReg) (vt : BitVec 16) : State :=
  let x := (s.hartAt h).ctx
  let n := if tst vt 14 then (s.hartAt h).gcl else (s.clusterSet h).length
  let g := grantOf vt (x.br ba).toNat (x.capFrom cap) n
  let s1 := s.modCtx h fun c => { c.bw bd (g.g.setWidth 64) with grant := g, icnt := (c.icnt + 1) % 8 }
  (s1.passWord h).openStrip h (s.stripOffset h)

/-- vsetl: a fault closes nothing; a stall leaves the strip closed (R393). -/
def execVsetl (bd ba : BReg) (cap : Option BReg) (vt : BitVec 16) (s : State) : Host.Outcome State Fault Refusal :=
  let t : Tag := vt.setWidth 6
  if tst vt 15 || decide (4 ≤ fld vt 8 4) || (tst vt 14 && !s.hart.inGang) then endV s (.error illegalWord)
  else if t == tagNONE || !tagListed t then endV s (.error tagFault)
  else
    let s1 := s.closeStrip s.cur false false
    match s1.vsetlClusters s.cur (s.ctx.br ba).toNat with
    | .error s2 => endV s (.error (.wait .clusters s2))
    | .ok s2 => .next (s2.vsetlGrant s.cur bd ba cap vt)

/-! ### vtag and vrseed -/

/-- vtag (R66): the bits stay, and with them their poison. -/
def State.retag (s : State) (h : Nat) (vd : VReg) (t : Tag) : State :=
  let w := s.sweep h
  (s.touch h { wv := (w.group vd).map fun n => (n, false) }).modCtx h fun c => { c with vtags := setTags c.vtags w vd t }

/-- vtag. -/
def execVtag (vd : VReg) (tag : Tag) (s : State) : Host.Outcome State Fault Refusal :=
  endV s (do
    need ((s.sweep s.cur).inRange vd) illegalWord
    need (tagListed tag) tagFault
    .ok (s.retag s.cur vd tag))

/-- The state of lane number ℓ of the core after a vrseed (R95). -/
def seedOf (seed : W32) (l : Nat) : W32 :=
  let v := seed ^^^ BitVec.ofNat 32 (l * 0x9E3779B9)
  if v = 0 then 1 else v

/-- The states of the lanes of a cluster set, by lane index. -/
def seedLanes (seed : W32) (clusters : List Nat) : Sparse 32 :=
  (List.range (8 * clusters.length)).foldl
    (fun m q => Sparse.write onesW m q (seedOf seed (8 * clusters.getD (q / 8) 0 + q % 8))) []

/-- vrseed (R389). -/
def execVrseed (src : BSrc) (s : State) : Host.Outcome State Fault Refusal :=
  let seed : W32 := match src with
    | .reg r => (s.ctx.br r).setWidth 32
    | .imm i => i
  endV s (.ok (s.modCtx s.cur fun c => { c with rnd := seedLanes seed (s.clusterSet s.cur) }))

end Sys2Proof.Machine
end

