-- ==== Sys2Proof/Machine/VReduce.lean ====
section
/-! DEFINITION. The reductions (R78, R95, R385, R386). -/

namespace Sys2Proof.Machine

/-! ### Combining (R78) -/

/-- The lane state and the events of a reduction as it goes on. -/
structure RedAcc where
  rnd : W32
  ev  : Events
  deriving DecidableEq, Repr

/-- One rounding step into a tag: under rsto the state advances first (R95). -/
def roundStep (t : Tag) (m : RMode) (y : Num) (p : RedAcc) : Nat × RedAcc :=
  let rnd := if m == .rsto then advanceRnd p.rnd else p.rnd
  let (bits, e) := narrowNum t m (fld rnd 16 16) y
  (bits, { rnd := rnd, ev := p.ev ||| e })

/-- One step of a float vrsum: exact, then rounded into D (R385). -/
def sumStep (t : Tag) (m : RMode) (a b : Num) (p : RedAcc) : Num × RedAcc :=
  let (y, e) := Num.add (m == .rdn) a b
  let (bits, q) := roundStep t m y { p with ev := p.ev ||| e }
  (decodeElem t bits, q)

/-- One step of vrmax or vrmin, exact (R99, R385). -/
def extremeStep (big : Bool) (a b : Num) (p : RedAcc) : Num × RedAcc :=
  let (y, e) := minmaxNum big false a b
  (y, { p with ev := p.ev ||| e })

/-- A pair combined: an element with an absent partner passes unchanged (R78). -/
def combine (f : Num → Num → RedAcc → Num × RedAcc) (a b : Option Num) (p : RedAcc) : Option Num × RedAcc :=
  match a, b with
  | some x, some y =>
    let (z, q) := f x y p
    (some z, q)
  | some x, none => (some x, p)
  | none, y => (y, p)

/-- Element order (R78). -/
def ordReduce (f : Num → Num → RedAcc → Num × RedAcc) (l : List (Option Num)) (p : RedAcc) : Option Num × RedAcc :=
  l.foldl (fun z x => combine f z.1 x z.2) (none, p)

/-- One level of the tree: pairs (0,1), (2,3) and so on. -/
def treeLevel (f : Num → Num → RedAcc → Num × RedAcc) : List (Option Num) → RedAcc → List (Option Num) × RedAcc
  | a :: b :: l, p =>
    let (c, q) := combine f a b p
    let (m, r) := treeLevel f l q
    (c :: m, r)
  | l, p => (l, p)

/-- Level by level, at most k levels (R78). -/
def treeReduce (f : Num → Num → RedAcc → Num × RedAcc) : Nat → List (Option Num) → RedAcc → Option Num × RedAcc
  | _, [], p => (none, p)
  | _, [x], p => (x, p)
  | 0, x :: _, p => (x, p)
  | k + 1, l, p =>
    let (m, q) := treeLevel f l p
    treeReduce f k m q

/-- The reduction in the order that fn8[0] names. Sixty-four levels hold any G. -/
def reduceNums (tree : Bool) (f : Num → Num → RedAcc → Num × RedAcc) (l : List (Option Num)) (p : RedAcc) : Option Num × RedAcc :=
  if tree then treeReduce f 64 l p else ordReduce f l p

/-! ### The source and the destination -/

/-- The elements 0 … G−1 of a source, in flat order, with their row and column. -/
def Sweep.elements (w : Sweep) : List (Nat × Nat) := w.cells.filter fun e => decide (w.flat e.1 e.2 < w.g)

/-- An element of a source tagged t takes part (R385): not tail, its mask bit true. -/
def partakes (x : VCtx) (mask : Option MReg) (t : Tag) (e : Nat × Nat) : Bool := maskOpen x mask t e.1 e.2

/-- The number of steps of a vrsum over n present elements (R95, R385). -/
def present (l : List (Option Num)) : Nat := (l.filter Option.isSome).length

/-- What a reduction writes: its elements by column of row 0, events, and the state of lane 8 × S[0]. -/
structure Reduced where
  vals : List (Nat × Nat)
  ev   : Events
  rnd  : W32
  deriving DecidableEq, Repr

/-- The elements of a reduction are written (R385): every other element of the sweep follows the tail policy. -/
def State.reduceWrite (s : State) (h : Nat) (w : Sweep) (vd va : VReg) (t : Tag) (c : VCtl) (z : Reduced) :
    Except VStop State := do
  let x := (s.hartAt h).ctx
  let ta := (groupTag x w va).getD t
  let on (r col : Nat) : Bool := r == 0 && z.vals.any fun e => e.1 == col
  let fate (r col : Nat) : Fate := if on r col then .active else if tailOnes w c.tail then .ones else .keep
  let s1 ← s.sweepWrite h w vd t
    { rv := w.group va, rm := maskRegs c.mask, skip := w.skips x c.mask ta, unchecked := true } fate false
    fun _ col _ => (Map.get 0 z.vals col, 0)
  if w.g = 0 then .ok s1
  else
    ((s1.modCtx h fun x => { x with rnd := Sparse.write onesW x.rnd 0 z.rnd }).raiseFlags h z.ev).laneChecked h
      (w.compares x ta (w.fateOf x c ta))

/-- The checks of a reduction before its tags: its groups, its chunk acquire. -/
def State.reduceChecks (s : State) (h : Nat) (vd va : VReg) (c : VCtl) : Except VStop Tag := do
  let x := (s.hartAt h).ctx
  let w := s.sweep h
  elementChecks x w c [vd, va]
  sourceTag x w va

/-- One result narrowed into an integer or a float D from integers: it is a rounding step into a float, and for a vrmax or
vrmin (`step`) into an integer too (R95, R385). -/
def intResult (t : Tag) (m : RMode) (step : Bool) (i : Int) (p : RedAcc) : Nat × RedAcc :=
  if isInteger t then
    let (bits, e) := narrowInt t m 0 false i
    (bits, { rnd := if step && m == .rsto then advanceRnd p.rnd else p.rnd, ev := p.ev ||| e })
  else roundStep t m (Num.ofInt i) p

/-- The value of Table 24-4. -/
def emptyValue (t : Tag) (kind : Option Bool) : Nat :=
  match kind with
  | none => 0
  | some big =>
    if isInteger t then intBits (elemBits t) (if big then intMin t else intMax t) else (narrowNum t .rne 0 .qnan).1

/-- vrsum (none), vrmax (some true) or vrmin (some false) over integers or floats (R385). -/
def reduceValue (ct : CType) (t : Tag) (m : RMode) (tree : Bool) (kind : Option Bool) (tag : Tag)
    (bits : List (Option Nat)) (p : RedAcc) : Nat × RedAcc :=
  let there := bits.filterMap id
  if there.isEmpty then (emptyValue t kind, p)
  else if ct == .fp then
    let l := bits.map fun b => b.map fun n => decodeElem tag n
    let f := match kind with
      | none => sumStep t m
      | some big => extremeStep big
    let (y, q) := reduceNums tree f l p
    let z := y.getD (Num.zero false)
    if kind.isNone && decide (2 ≤ present l) then ((narrowNum t m 0 z).1, q) else roundStep t m z q
  else
    let ints := there.map fun n => decodeInt tag n
    let i := match kind with
      | none => ints.foldl (· + ·) 0
      | some big => (ints.drop 1).foldl (fun a b => if big then max a b else min a b) (ints.headD 0)
    intResult t m kind.isSome i p

/-- The sum of each cluster modulo its prime (R386), by the column that takes it. -/
def zpSums (x : VCtx) (w : Sweep) (primes : List Nat) (va : VReg) (mask : Option MReg) : List (Nat × Nat) :=
  let l := w.elements.filter (partakes x mask tagZP)
  (List.range w.clusters.length).map fun i =>
    let p := primes.getD (w.clusters.getD i 0 % primes.length) 1
    (8 * i, (l.filter fun e => e.2 % w.lanes / 8 == i).foldl
      (fun a e => (a + x.elem w.lanes tagZP (va.toNat + e.1) e.2) % p) 0)

/-- vrsum, vrmax and vrmin of hart h (R385, R386). -/
def State.reduce (s : State) (h : Nat) (vd va : VReg) (rm : Rm) (tree : Bool) (c : VCtl) (kind : Option Bool) :
    Except VStop State := do
  let v := s.hartAt h
  let x := v.ctx
  let w := s.sweep h
  let ta ← s.reduceChecks h vd va c
  let ct ← (match ctype [ta] with
    | some t => .ok t
    | none => .error tagFault : Except VStop CType)
  let primes := (s.coreAt (coreOf h)).primes
  need (!(ct == .zp && (primes.isEmpty || kind.isSome))) tagFault
  let d ← destTag x w vd
  let t ← resultTag w [ta] ct d
  let p : RedAcc := { rnd := laneRnd x.rnd 0, ev := 0 }
  if ct == .zp then
    s.reduceWrite h w vd va t c { vals := zpSums x w primes va c.mask, ev := 0, rnd := p.rnd }
  else
    let bits := w.elements.map fun e =>
      if partakes x c.mask ta e then some (x.elem w.lanes ta (va.toNat + e.1) e.2) else none
    let (n, q) := reduceValue ct t (rmode v.kfrm rm) tree kind ta bits p
    s.reduceWrite h w vd va t c { vals := [(0, n)], ev := q.ev, rnd := q.rnd }

/-- One bits of a number, of its low n bits. -/
def onesCount (n v : Nat) : Nat := ((List.range n).filter fun i => v.testBit i).length

/-- vrbit of hart h (R385). -/
def State.reduceBits (s : State) (h : Nat) (vd va : VReg) (c : VCtl) : Except VStop State := do
  let x := (s.hartAt h).ctx
  let w := s.sweep h
  let ta ← s.reduceChecks h vd va c
  need (ta != tagZP && ta != tagE8M0) tagFault
  let d ← destTag x w vd
  let t := if d = tagNONE then tagUINT32 else d
  need ((t == tagUINT32 || t == tagINT32) && w.fits t) tagFault
  let n := (w.elements.filter (partakes x c.mask ta)).foldl
    (fun a e => a + onesCount (elemBits ta) (x.elem w.lanes ta (va.toNat + e.1) e.2)) 0
  s.reduceWrite h w vd va t c { vals := [(0, n % 2 ^ 32)], ev := 0, rnd := laneRnd x.rnd 0 }

/-! ### The instructions -/

/-- vrsum. -/
def execVrsum (vd va : VReg) (rm : Rm) (tree : Bool) (c : VCtl) (s : State) : Host.Outcome State Fault Refusal :=
  endV s (s.reduce s.cur vd va rm tree c none)

/-- vrmax. -/
def execVrmax (vd va : VReg) (rm : Rm) (tree : Bool) (c : VCtl) (s : State) : Host.Outcome State Fault Refusal :=
  endV s (s.reduce s.cur vd va rm tree c (some true))

/-- vrmin. -/
def execVrmin (vd va : VReg) (rm : Rm) (tree : Bool) (c : VCtl) (s : State) : Host.Outcome State Fault Refusal :=
  endV s (s.reduce s.cur vd va rm tree c (some false))

/-- vrbit: the count does not depend on the order. -/
def execVrbit (vd va : VReg) (_tree : Bool) (c : VCtl) (s : State) : Host.Outcome State Fault Refusal :=
  endV s (s.reduceBits s.cur vd va c)

end Sys2Proof.Machine
end

