-- ==== Sys2Proof/Machine/VPermute.lean ====
section
/-! DEFINITION. The permutes and the bit-string instructions (R77, R366, R370, R374, R395). -/

namespace Sys2Proof.Machine

/-! ### Sources -/

/-- The tag of a source that must be a container tag other than ZP (R366, R370). -/
def containerTag (x : VCtx) (w : Sweep) (v : VReg) : Except VStop Tag := do
  let t ← sourceTag x w v
  need (!isSliced t && t != tagZP) tagFault
  .ok t

/-- Two groups of vrows registers share a register. -/
def Sweep.overlap (w : Sweep) (a b : VReg) : Bool := (w.group a).any fun n => hasNat (w.group b) n

/-- The bits of flat element e of a group (R69). -/
def VCtx.flatElem (x : VCtx) (w : Sweep) (t : Tag) (v : VReg) (e : Nat) : Nat :=
  x.elem w.lanes t (v.toNat + e / w.vl) (e % w.vl)

/-- The checks of a permute before its tags: its groups, none of them over vd (R370). -/
def permuteChecks (x : VCtx) (w : Sweep) (vd : VReg) (srcs : List VReg) (c : VCtl) : Except VStop Unit := do
  elementChecks x w c (vd :: srcs)
  need (!(srcs.any fun v => w.overlap vd v)) illegalWord

/-! ### Slide and gather (R374, R395) -/

/-- The bits of element i of va, or 0 outside 0 … G−1. -/
def takeElem (x : VCtx) (w : Sweep) (t : Tag) (va : VReg) (i : Int) : Nat :=
  if 0 ≤ i ∧ i < w.g then x.flatElem w t va i.toNat else 0

/-- The amount of a vslide (R395): signed, whatever the tags. -/
def slideAmount (x : VCtx) : VSrc → Int
  | .breg r => (x.br r).toInt
  | .imm i => i.toInt
  | .vec _ => 0

/-- vslide. DESIGN CHOICE (log 140): the checking lane covers no permute (R211). -/
def execVslide (vd va : VReg) (b : VSrc) (c : VCtl) (s : State) : Host.Outcome State Fault Refusal :=
  endV s (do
    let x := s.ctx
    let w := s.sweep s.cur
    need b.scalar illegalWord
    permuteChecks x w vd [va] c
    let t ← containerTag x w va
    s.sweepWrite s.cur w vd t { rv := w.group va, rm := maskRegs c.mask, skip := w.skips x c.mask t, unchecked := true } (w.fateOf x c t) false fun r col _ =>
      (takeElem x w t va ((w.flat r col : Nat) - slideAmount x b), 0))

/-- vgath: indices read as unsigned. -/
def execVgath (vd va vb : VReg) (c : VCtl) (s : State) : Host.Outcome State Fault Refusal :=
  endV s (do
    let x := s.ctx
    let w := s.sweep s.cur
    permuteChecks x w vd [va, vb] c
    let t ← containerTag x w va
    let tb ← sourceTag x w vb
    need (tb == tagINT32 || tb == tagUINT32) tagFault
    s.sweepWrite s.cur w vd t { rv := w.group va ++ w.group vb, rm := maskRegs c.mask, skip := w.skips x c.mask t, unchecked := true } (w.fateOf x c t) false
      fun r col _ => (takeElem x w t va (x.elem w.lanes tb (vb.toNat + r) col : Nat), 0))

/-! ### Compress and expand (R370) -/

/-- The elements that a selector picks, in flat order. -/
def picked (x : VCtx) (w : Sweep) (c : VCtl) (t : Tag) : List Nat :=
  (w.elements.filter fun e => maskOpen x c.mask t e.1 e.2).map fun e => w.flat e.1 e.2

/-- The place of an element in a list of elements. -/
def placeOf (l : List Nat) (e : Nat) : Nat := (l.takeWhile fun n => n != e).length

/-- vcomp: elements beyond the picked ones follow the tail policy. -/
def execVcomp (vd va : VReg) (c : VCtl) (s : State) : Host.Outcome State Fault Refusal :=
  endV s (do
    let x := s.ctx
    let w := s.sweep s.cur
    permuteChecks x w vd [va] c
    let t ← containerTag x w va
    let l := picked x w c t
    let fate (r col : Nat) : Fate :=
      if w.flat r col < l.length then .active else if tailOnes w c.tail then .ones else .keep
    s.sweepWrite s.cur w vd t { rv := w.group va, rm := maskRegs c.mask, unchecked := true } fate false fun r col _ =>
      (x.flatElem w t va (l.getD (w.flat r col) 0), 0))

/-- vexpd: elements that are not picked follow the policy of masked-off ones. -/
def execVexpd (vd va : VReg) (c : VCtl) (s : State) : Host.Outcome State Fault Refusal :=
  endV s (do
    let x := s.ctx
    let w := s.sweep s.cur
    permuteChecks x w vd [va] c
    let t ← containerTag x w va
    let l := picked x w c t
    s.sweepWrite s.cur w vd t { rv := w.group va, rm := maskRegs c.mask, unchecked := true } (w.fateOf x c t) false fun r col _ =>
      (x.flatElem w t va (placeOf l (w.flat r col)), 0))

/-! ### Bit strings (R77, R366) -/

/-- The columns of row r that form its bit string (R77). -/
def Sweep.stringColumns (w : Sweep) (r : Nat) : Nat := min (w.g - r * w.vl) w.vl

/-- The bit string of row r of a group, n columns long. -/
def VCtx.bitString (x : VCtx) (v : VReg) (r n : Nat) : Nat :=
  ((List.range n).map fun c => (Sparse.read onesW x.v (32 * c + (v.toNat + r))).toNat * 2 ^ (32 * c)).foldl (· + ·) 0

/-- A bit-string instruction of hart h over its source groups: `f` gives the string of row r with L bits. DESIGN CHOICE
(log 140): the checking lane does not cover it (R211). -/
def State.bitStrings (s : State) (h : Nat) (vd va : VReg) (more : List VReg) (tl : Tail)
    (f : Nat → Nat → Nat → Nat) : Except VStop State := do
  let x := (s.hartAt h).ctx
  let w := s.sweep h
  need ((vd :: va :: more).all w.inRange) illegalWord
  let t ← containerTag x w va
  more.forM fun v => do
    let _ ← containerTag x w v
  let rows := (List.range w.vrows).map fun r => f r (w.stringColumns r) (32 * w.stringColumns r)
  let fate (r col : Nat) : Fate :=
    if w.flat r col < w.g then .active else if tailOnes w tl then .ones else .keep
  s.sweepWrite h w vd t { rv := (va :: more).flatMap w.group, unchecked := true } fate false fun r col _ =>
    (rows.getD r 0 / 2 ^ (32 * col) % 2 ^ 32, 0)

/-- The amount of a bit shift: a b-register unsigned, or the immediate zero-extended. -/
def bitAmount (x : VCtx) : VSrc → Nat
  | .breg r => (x.br r).toNat
  | .imm i => i.toNat
  | .vec _ => 0

/-- vbsl. -/
def execVbsl (vd va : VReg) (b : VSrc) (t : Tail) (s : State) : Host.Outcome State Fault Refusal :=
  endV s (do
    need b.scalar illegalWord
    let n := bitAmount s.ctx b
    s.bitStrings s.cur vd va [] t fun r k l =>
      if n < l then s.ctx.bitString va r k * 2 ^ n % 2 ^ l else 0)

/-- vbsr. -/
def execVbsr (vd va : VReg) (b : VSrc) (t : Tail) (s : State) : Host.Outcome State Fault Refusal :=
  endV s (do
    need b.scalar illegalWord
    let n := bitAmount s.ctx b
    s.bitStrings s.cur vd va [] t fun r k l => if n < l then s.ctx.bitString va r k / 2 ^ n else 0)

/-- vfunl: va above vb, shifted left by n. -/
def execVfunl (vd va vb : VReg) (n : BitVec 16) (t : Tail) (s : State) : Host.Outcome State Fault Refusal :=
  endV s (s.bitStrings s.cur vd va [vb] t fun r k l =>
    let both := s.ctx.bitString vb r k + s.ctx.bitString va r k * 2 ^ l
    if n.toNat ≤ l then both / 2 ^ (l - n.toNat) % 2 ^ l else both * 2 ^ (n.toNat - l) % 2 ^ l)

/-- vfunr: vb above va, shifted right by n. -/
def execVfunr (vd va vb : VReg) (n : BitVec 16) (t : Tail) (s : State) : Host.Outcome State Fault Refusal :=
  endV s (s.bitStrings s.cur vd va [vb] t fun r k l =>
    (s.ctx.bitString va r k + s.ctx.bitString vb r k * 2 ^ l) / 2 ^ n.toNat % 2 ^ l)

/-- vbext: pos in bn[31:0], len in bn[63:32]. -/
def execVbext (vd va : VReg) (bn : BReg) (t : Tail) (s : State) : Host.Outcome State Fault Refusal :=
  let pos := fld (s.ctx.br bn) 0 32
  let len := fld (s.ctx.br bn) 32 32
  endV s (s.bitStrings s.cur vd va [] t fun r k l =>
    if pos < l then s.ctx.bitString va r k / 2 ^ pos % 2 ^ min len l else 0)

/-- vbins: it reads vd. -/
def execVbins (vd va : VReg) (bn : BReg) (t : Tail) (s : State) : Host.Outcome State Fault Refusal :=
  let pos := fld (s.ctx.br bn) 0 32
  let len := fld (s.ctx.br bn) 32 32
  endV s (s.bitStrings s.cur vd va [vd] t fun r k l =>
    let old := s.ctx.bitString vd r k
    if pos < l then
      let n := min len (l - pos)
      old % 2 ^ pos + (s.ctx.bitString va r k % 2 ^ n) * 2 ^ pos + old / 2 ^ (pos + n) * 2 ^ (pos + n)
    else old)

end Sys2Proof.Machine
end

