-- ==== Sys2Proof/Machine/VMask.lean ====
section
/-! DEFINITION. The mask instructions (R319, R321, R327, R329). -/

namespace Sys2Proof.Machine

/-- The operation of mlog (Table 21-5). -/
def mlogBit (op : MlogOp) (a b : Bool) : Bool :=
  match op with
  | .and => a && b
  | .or => a || b
  | .xor => a != b
  | .andn => a && !b
  | .not => !a

/-- The masks that mlog reads. -/
def mlogReads (op : MlogOp) (ma mb : MReg) : List Nat := if op = .not then [ma.toNat] else [ma.toNat, mb.toNat]

/-- mlog. -/
def execMlog (op : MlogOp) (md ma mb : MReg) (s : State) : Host.Outcome State Fault Refusal :=
  let x := s.ctx
  endV s (s.maskWrite s.cur (s.sweep s.cur) md.toNat { rm := mlogReads op ma mb } 0 fun r p =>
    some (mlogBit op (x.mbit ma.toNat r p) (x.mbit mb.toNat r p)))

/-! ### Tests (R327) -/

/-- A mask test of the current hart: b[bd] takes f of the true active positions. With G = 0 none is active and the mask is
not read. -/
def State.maskTest (s : State) (bd : BReg) (ma : MReg) (f : List (Nat × Nat) → Word) : Except VStop State := do
  let reads : Touch := if s.ctx.grant.g = 0 then {} else { rm := [ma.toNat] }
  let s1 ← s.sweepTouch s.cur (s.sweep s.cur) reads
  .ok (s1.bw bd (f (s.truePositions s.cur ma.toNat)))

/-- mpop. -/
def execMpop (bd : BReg) (ma : MReg) (s : State) : Host.Outcome State Fault Refusal :=
  endV s (s.maskTest bd ma fun l => BitVec.ofNat 64 l.length)

/-- The flat index of the first element that a position holds. -/
def Sweep.firstOf (w : Sweep) (e : Nat × Nat) : Nat := e.1 * w.vl + (if isSliced w.ref then 32 * e.2 else e.2)

/-- mfirst. -/
def execMfirst (bd : BReg) (ma : MReg) (s : State) : Host.Outcome State Fault Refusal :=
  let w := s.sweep s.cur
  endV s (s.maskTest bd ma fun l =>
    match l with
    | [] => BitVec.allOnes 64
    | e :: _ => BitVec.ofNat 64 (w.firstOf e))

/-- mtest. -/
def execMtest (none : Bool) (bd : BReg) (ma : MReg) (s : State) : Host.Outcome State Fault Refusal :=
  endV s (s.maskTest bd ma fun l => boolWord (l.isEmpty == none))

/-! ### Positions about the first true one (R321) -/

/-- The number of a position in flat order of the mask sweep. -/
def Sweep.maskIndex (w : Sweep) (e : Nat × Nat) : Nat := e.1 * w.positions + e.2

/-- mbef, minc and monly of the current hart: `f` compares a position with the first true active one. -/
def State.aboutFirst (s : State) (md ma : MReg) (f : Nat → Option Nat → Bool) : Except VStop State :=
  let w := s.sweep s.cur
  let first := (s.truePositions s.cur ma.toNat).head?.map w.maskIndex
  s.maskWrite s.cur w md.toNat { rm := [ma.toNat] } 0 fun r p => some (f (w.maskIndex (r, p)) first)

/-- mbef. -/
def execMbef (md ma : MReg) (s : State) : Host.Outcome State Fault Refusal :=
  endV s (s.aboutFirst md ma fun i first =>
    match first with
    | some k => decide (i < k)
    | none => true)

/-- minc. -/
def execMinc (md ma : MReg) (s : State) : Host.Outcome State Fault Refusal :=
  endV s (s.aboutFirst md ma fun i first =>
    match first with
    | some k => decide (i ≤ k)
    | none => true)

/-- monly. -/
def execMonly (md ma : MReg) (s : State) : Host.Outcome State Fault Refusal :=
  endV s (s.aboutFirst md ma fun i first => first == some i)

end Sys2Proof.Machine
end

