-- ==== Sys2Proof/Machine/VMem.lean ====
section
/-! DEFINITION. The vector memory instructions: element addresses, the chunk acquire, probing and pinning, segments, the
strip buffer, heat counts; loads, stores, table accesses, atomics (R67, R75, R76, R80, R81, R163-R165, R171, R177, R180,
R192, R193, R207, R290, R362, R363, R376-R378, R396-R399). -/

namespace Sys2Proof.Machine

/-! ### Elements in memory (R376, Table 23-12) -/

/-- Bits of an element in memory. -/
def memBits (t : Tag) : Nat := if t = tagBF16 ∨ t = tagFP16 then 16 else elemBits t

/-- An element in memory: its row and column, its lowest byte, its bytes, and the bit of them that it starts at. -/
structure MemElem where
  r  : Nat
  c  : Nat
  va : Word
  n  : Nat
  sh : Nat
  deriving DecidableEq, Repr

/-- The address of byte i of an element. -/
def MemElem.byte (e : MemElem) (i : Nat) : Word := e.va + BitVec.ofNat 64 i

/-- How a word gives the address of an element (R376). -/
inductive AddrForm where
  | unit
  | stride (by_ : Word)
  | index (vi : VReg) (signed : Bool)
  deriving DecidableEq, Repr

/-- Index(vi[e]): signed under INT32, unsigned under UINT32 (R376). -/
def indexOf (x : VCtx) (w : Sweep) (vi : VReg) (signed : Bool) (r c : Nat) : Word :=
  let v : W32 := BitVec.ofNat 32 (x.elem w.lanes tagUINT32 (vi.toNat + r) c)
  if signed then v.signExtend 64 else v.setWidth 64

/-- Element (r, c) of a vector access from address a under tag t (R67, R376). -/
def memElem (x : VCtx) (w : Sweep) (t : Tag) (a : Word) (f : AddrForm) (r c : Nat) : MemElem :=
  let e := w.flat r c
  match sliceWidth t with
  | some k =>
    { r := r, c := c, va := a + BitVec.ofNat 64 (e * k / 8), n := (e * k % 8 + k + 7) / 8, sh := e * k % 8 }
  | none =>
    let n := memBits t / 8
    let va := match f with
      | .unit => a + BitVec.ofNat 64 (e * n)
      | .stride b => a + BitVec.ofNat 64 e * b
      | .index vi sg => a + indexOf x w vi sg r c
    { r := r, c := c, va := va, n := n, sh := 0 }

/-- Every element of the sweep that is not tail. -/
def memElems (x : VCtx) (w : Sweep) (t : Tag) (a : Word) (f : AddrForm) : List MemElem :=
  w.elements.map fun e => memElem x w t a f e.1 e.2

/-- The register bits of an element from its bytes in memory. -/
def fromMemory (t : Tag) (sh : Nat) (bs : List Byte) : Nat :=
  let v := natOfBytes bs / 2 ^ sh % 2 ^ memBits t
  if t = tagBF16 then v * 0x10000 else v

/-- The bits of its bytes that an element holds (R398). -/
def ownBits (t : Tag) (sh n : Nat) : List Byte := bytesOf (BitVec.ofNat 64 ((2 ^ memBits t - 1) * 2 ^ sh)) n

/-- The bytes of an element from its register bits, over the old bytes: exactly its own bits change (R398). -/
def toMemory (t : Tag) (sh : Nat) (old : List Byte) (bits : Nat) : List Byte :=
  let k := memBits t
  let v := (if t = tagBF16 then bits / 0x10000 else bits) % 2 ^ k
  let o := natOfBytes old
  bytesOf (BitVec.ofNat 64 (o % 2 ^ sh + v * 2 ^ sh + o / 2 ^ (sh + k) * 2 ^ (sh + k))) old.length

/-! ### The chunk acquire (R163) -/

/-- The copy that a mask register is bound to. -/
def VCtx.boundCopy (x : VCtx) (m : MReg) : Option Copy :=
  match Map.find x.binds m.toNat with
  | some id => x.copies.find? fun c => c.id == id
  | none => none

/-- The bit of chunk k in row 0 of a mask, as an .acq word has read it at its issue (R163). -/
def VCtx.chunkBit (x : VCtx) (m : MReg) (k : Nat) : Bool := { x with m := x.acqM.getD x.m }.mbit m.toNat 0 k

/-- n bytes from va lie in the destination of a copy, in chunks whose bits in row 0 of a mask are set. -/
def inChunks (x : VCtx) (m : MReg) (c : Copy) (va : Word) (n : Nat) : Bool :=
  let d := (va - c.dst).toNat
  decide (d + n ≤ c.len)
    && (List.range ((d + n - 1) / c.chunkBytes - d / c.chunkBytes + 1)).all fun i =>
      x.chunkBit m (d / c.chunkBytes + i)

/-- An element is unmasked under a mask and a chunk acquire (R71, R163). -/
def elemOn (x : VCtx) (mask : Option MReg) (aq : Bool) (t : Tag) (e : MemElem) : Bool :=
  match mask with
  | none => true
  | some m =>
    if aq then
      match x.boundCopy m with
      | some c => inChunks x m c e.va e.n
      | none => false
    else x.mbit m.toNat e.r (posOf t e.c)

/-- The columns that position p holds under a tag (R62, R67). -/
def columnsOf (t : Tag) (p : Nat) : List Nat := if isSliced t then (List.range 32).map fun i => 32 * p + i else [p]

/-- Element groups in which `on` calls no element unmasked (R41). -/
def Sweep.skipsOn (w : Sweep) (t : Tag) (on : Nat → Nat → Bool) : Nat :=
  ((List.range w.vrows).map fun r =>
    ((List.range (w.groups t)).filter fun i =>
      (List.range 8).all fun l => (columnsOf t (8 * i + l)).all fun c => decide (w.vl ≤ c) || !on r c).length).foldl (· + ·) 0

/-- Element groups that the governing mask of a memory access skips (R41): its bits by position, or, under a chunk acquire, by
the chunk of each element (R163). -/
def Sweep.memSkips (w : Sweep) (x : VCtx) (mask : Option MReg) (aq : Bool) (t : Tag) (el : Nat → Nat → MemElem) : Nat :=
  if aq then w.skipsOn t fun r c => elemOn x mask true t (el r c) else w.skips x mask t

/-! ### Probing (R154, R192, R290) -/

/-- The page keys of an element, lowest page first: 2 × its 4 KiB page number, plus 1 when the scratchpad window decides
the element. -/
def pageKeys (kspb : Word) (e : MemElem) : List Nat :=
  let win := natOf (windowOff kspb e.va).isSome
  let p := e.va.toNat / 0x1000
  let q := (e.byte (e.n - 1)).toNat / 0x1000
  if p = q then [2 * p + win] else [2 * p + win, 2 * q + win]

/-- Every page that elements touch, ascending, each with the lowest element on it. -/
def pagesOf (kspb : Word) (l : List MemElem) : Map MemElem :=
  l.foldl (fun m e => (pageKeys kspb e).foldl
    (fun q k => if (Map.find q k).isSome then q else Map.put q k e) m) []

/-- The first byte of an element on a page. -/
def firstOn (e : MemElem) (key : Nat) : Word :=
  if e.va.toNat / 0x1000 = key / 2 then e.va else BitVec.ofNat 64 (key / 2 * 0x1000)

/-- The view under which a page is probed: the window decides only elements that begin in it. -/
def keyView (v : View) (key : Nat) : View := if key % 2 = 1 then v else { v with kspb := 0 }

/-- Pinned pages: by key, the translation of the page's first byte (its physical address is that of the page). -/
abbrev Pins := Map Xlat

/-- One page probed (R189, R192). -/
def State.probePage (s : State) (v : View) (a : Acc) (key : Nat) (e : MemElem) : Except AccErr (Xlat × State) := do
  let va := firstOn e key
  let (x, s1) ← s.translate (keyView v key) a va PaKind.isMem
  .ok ({ x with pa := x.pa - va.toNat % 0x1000 }, s1)

/-- The page-fault subcode of an access (Table 19-15). -/
def pageSub : Acc → Nat
  | .fetch => 0x02
  | .load => 0x03
  | .store => 0x04
  | .amo => 0x04

/-- The stop of a failed probe of an element (R207, R290). -/
def probeStop (s : State) (a : Acc) (e : MemElem) : AccErr → VStop
  | .page => .fault (pageSub a) e.va
  | .access t => .fault 0x05 t
  | .table t => .fault 0x05 t
  | .poison pa => .poison (s.srcOf pa) (pa % 2 ^ 56)

/-- Every page probed in ascending order: the first failure is that of the lowest page (R192). -/
def State.probe (s : State) (v : View) (a : Acc) : Map MemElem → Pins → Except VStop (Pins × State)
  | [], p => .ok (p, s)
  | (k, e) :: m, p =>
    match s.probePage v a k e with
    | .error f => .error (probeStop s a e f)
    | .ok (x, s1) => State.probe s1 v a m (Map.put p k x)

/-- The elements of a list that have a page whose probe fails. -/
def State.failing (s : State) (v : View) (a : Acc) (l : List MemElem) : List MemElem :=
  let bad := (pagesOf v.kspb l).filter fun e =>
    match s.probePage v a e.1 e.2 with
    | .error (.poison _) => false
    | .error _ => true
    | .ok _ => false
  l.filter fun e => (pageKeys v.kspb e).any fun k => (Map.find bad k).isSome

/-- The physical address of byte i of an element under its pins. -/
def pinnedPa (kspb : Word) (p : Pins) (e : MemElem) (i : Nat) : Nat :=
  let b := e.byte i
  let key := 2 * (b.toNat / 0x1000) + natOf (windowOff kspb e.va).isSome
  ((Map.find p key).getD { pa := 0, pbmt := 0, page := none }).pa + b.toNat % 0x1000

/-! ### Segments (R193) -/

/-- The step of an element: row, then slot. -/
def stepOf (w : Sweep) (e : MemElem) : Nat := e.r * ((w.vl + w.lanes - 1) / w.lanes) + e.c / w.lanes

/-- The pages of an element as the pin table counts them: a page of any size once, nothing for untranslated addresses. -/
def State.pinIds (s : State) (v : View) (a : Acc) (e : MemElem) : List (Nat × Nat) :=
  (pageKeys v.kspb e).filterMap fun k =>
    match s.probePage v a k e with
    | .ok (x, _) => x.page
    | .error _ => some (k / 2, 0)

/-- Distinct pages added to a table. -/
def addPages (t l : List (Nat × Nat)) : List (Nat × Nat) :=
  l.foldl (fun q p => if q.any fun r => r == p then q else p :: q) t

/-- The pages that elements pin. -/
def State.pinned (s : State) (v : View) (a : Acc) (l : List MemElem) : List (Nat × Nat) :=
  l.foldl (fun t e => addPages t (s.pinIds v a e)) []

/-- Elements by step, in ascending order of step. -/
def byStep (w : Sweep) (l : List MemElem) : Map (List MemElem) :=
  l.foldl (fun m e => Map.modify [] m (stepOf w e) fun q => q ++ [e]) []

/-- A segment: its first step, its elements, its pages. -/
structure Segment where
  first : Nat
  els   : List MemElem
  pages : List (Nat × Nat)
  deriving DecidableEq, Repr

/-- The segments of a list of steps, each the longest run that fits the pin table; the last one first. -/
def State.segmentsFrom (s : State) (v : View) (a : Acc) : Map (List MemElem) → List Segment → List Segment
  | [], acc => acc
  | (k, els) :: m, [] => State.segmentsFrom s v a m [{ first := k, els := els, pages := s.pinned v a els }]
  | (k, els) :: m, g :: gs =>
    let all := addPages g.pages (s.pinned v a els)
    if all.length ≤ 2048 then State.segmentsFrom s v a m ({ g with els := g.els ++ els, pages := all } :: gs)
    else State.segmentsFrom s v a m ({ first := k, els := els, pages := s.pinned v a els } :: g :: gs)

/-- The first segment begins at the restart step. -/
def beginAt (start : Nat) : List Segment → List Segment
  | [] => []
  | g :: gs => { g with first := start } :: gs

/-- The segments of an access from a restart step on (R193): one when its pages fit the pin table. -/
def State.segments (s : State) (v : View) (a : Acc) (w : Sweep) (l : List MemElem) (start : Nat) : List Segment :=
  let rest := l.filter fun e => decide (start ≤ stepOf w e)
  if (pagesOf v.kspb rest).length ≤ 2048 then [{ first := start, els := rest, pages := [] }]
  else beginAt start (s.segmentsFrom v a (byStep w rest) []).reverse

/-! ### Heat (R165) -/

/-- The kind of a vector access. -/
inductive HeatKind where
  | unit | strided | indexed
  deriving DecidableEq, Repr

/-- The entry with a count raised. -/
def TlbEntry.heat (e : TlbEntry) (k : HeatKind) (n : Nat) : TlbEntry :=
  match k with
  | .unit => { e with unitCnt := e.unitCnt + n }
  | .strided => { e with strided := e.strided + n }
  | .indexed => { e with indexed := e.indexed + n }

/-- One L2 entry with its counts raised; at 2^24 it appends its record and clears them. -/
def State.heatEntry (s : State) (t i : Nat) (e : TlbEntry) : State :=
  let hot := decide (2 ^ 24 ≤ e.unitCnt) || decide (2 ^ 24 ≤ e.strided) || decide (2 ^ 24 ≤ e.indexed)
  let s1 := if hot then s.appendHeat t e true else s
  let f := if hot then { e with unitCnt := 0, strided := 0, indexed := 0 } else e
  s1.modTower t fun x => { x with tlb := x.tlb.set i f }

/-- n active elements touched a page. -/
def State.heatPage (s : State) (v : View) (k : HeatKind) (page : Nat × Nat) (n : Nat) : State :=
  let t := s.towerOf v.core
  let asid : BitVec 16 := BitVec.ofNat 16 (fld v.katp 44 16)
  let l := (s.towerAt t).tlb
  match l.findIdx? fun e => e.vpn == page.1 && e.level == page.2 && (e.asid == asid || tst e.pte 5) with
  | some i => s.heatEntry t i ((l.getD i default).heat k n)
  | none => s

/-- The pages of an element under its pins. -/
def pagesUnder (kspb : Word) (p : Pins) (e : MemElem) : List (Nat × Nat) :=
  addPages [] ((pageKeys kspb e).filterMap fun k => (Map.find p k).bind fun x => x.page)

/-- The elements of an access that has performed are counted. -/
def State.heat (s : State) (v : View) (k : HeatKind) (p : Pins) (l : List MemElem) : State :=
  let touched := l.map (pagesUnder v.kspb p)
  (touched.foldl addPages []).foldl (fun t pg =>
    t.heatPage v k pg (touched.filter fun q => q.any fun r => r == pg).length) s

/-! ### Reading and writing elements (R80, R81, R206, R207) -/

/-- The bytes of an element, or the poison that its read consumes. -/
def State.readElem (s : State) (h : Nat) (kspb : Word) (p : Pins) (e : MemElem) : Except VStop (List Byte) :=
  let pas := (List.range e.n).map (pinnedPa kspb p e)
  match pas.find? fun pa => s.vecPoison h (s.cell pa) 1 with
  | some pa => .error (.poison (s.srcOf pa) (pa % 2 ^ 56))
  | none => .ok (pas.flatMap fun pa => s.vecBytes h (s.cell pa) 1)

/-- The strip buffer of hart h takes stores. -/
def State.buffers (s : State) (h : Nat) : Bool :=
  match (s.hartAt h).ctx.strip with
  | some st => !st.isSealed
  | none => false

/-- A strip buffer with the bits m of one byte stored (R80, R398); `storage` is its class at issue (R234). -/
def Strip.store (st : Strip) (k : Nat) (b m : Byte) (bad storage : Bool) : Strip :=
  let whole := m == 0xFF
  let old := Map.find st.buf k
  let bits := match Map.find st.bits k with
    | some q => q ||| m
    | none => if old.isSome then 0xFF else m
  { st with
    buf := Map.put st.buf k ((b &&& m) ||| (old.getD 0 &&& ~~~m))
    bits := if bits = 0xFF then Map.erase st.bits k else Map.put st.bits k bits
    bufBad := if bad then Map.put st.bufBad k () else if whole then Map.erase st.bufBad k else st.bufBad
    storage := if storage then Map.put st.storage k () else if whole then Map.erase st.storage k else st.storage }

/-- Bytes of the vector agent of hart h perform at neighbouring physical addresses, those of each 4 KiB page in its class
(R237): they touch at most two. -/
def State.vecPerform (s : State) (h pa : Nat) (bs : List Byte) : State :=
  let n := 0x1000 - pa % 0x1000
  if s.inStorage pa == s.inStorage (pa + n) then s.perform h pa bs fun _ => true
  else
    let s1 := s.perform h pa (bs.take n) fun _ => true
    if bs.length ≤ n then s1 else s1.perform h (pa + n) (bs.drop n) fun _ => true

/-- Bytes stored by the vector agent of hart h at neighbouring physical addresses, their bits `ms` being its own: into the
strip buffer, or performed. Over a host link that is down they are lost (R238). -/
def State.vecStore (s : State) (h pa : Nat) (bs ms : List Byte) (bad : Bool) : State :=
  let k := s.cell pa
  let l := List.range bs.length
  if s.paKind pa = .hostLost then s.writeLost h pa
  else if s.buffers h then
    s.modStrip h fun st =>
      l.foldl (fun q i => q.store (k + i) (bs.getD i 0) (ms.getD i 0xFF) bad (s.inStorage (pa + i))) st
  else
    let worse := l.filter fun i => bad || (ms.getD i 0xFF != 0xFF && s.poisonAt (k + i))
    (s.vecPerform h pa bs).modPart fun q => worse.foldl (fun r i => r.markPoison (k + i)) q

/-- The bytes of the elements of a store in their order (R81): sliced elements that share a byte count it once. -/
def storeBytes (sliced : Bool) : Option Word → List MemElem → Nat
  | _, [] => 0
  | last, e :: l =>
    (if sliced ∧ last = some e.va then e.n - 1 else e.n) + storeBytes sliced (some (e.byte (e.n - 1))) l

/-- Accesses of an agent to an IO page perform in program order (R152), so a store to one does not wait in the strip buffer: the
strip seals first. DESIGN CHOICE (log 122): R81 names no such event. -/
def State.sealIO (s : State) (h : Nat) (p : Pins) : State := if p.any fun e => e.2.pbmt == 2 then s.seal h else s

/-- Room in the strip buffer for a store of n bytes: the strip seals when the buffered stores would exceed 128 KiB (R80,
R81). -/
def State.makeRoom (s : State) (h n : Nat) : State :=
  match (s.hartAt h).ctx.strip with
  | some st => if 0x20000 < st.stored + n then s.seal h else s.modStrip h fun x => { x with stored := x.stored + n }
  | none => s

/-- One element stored. -/
def State.writeElem (s : State) (h : Nat) (kspb : Word) (p : Pins) (t : Tag) (bits : Nat) (bad : Bool) (e : MemElem) :
    State :=
  let old := (List.range e.n).flatMap fun i => s.vecBytes h (s.cell (pinnedPa kspb p e i)) 1
  let new := toMemory t e.sh old bits
  let own := ownBits t e.sh e.n
  if s.cell (pinnedPa kspb p e (e.n - 1)) = s.cell (pinnedPa kspb p e 0) + (e.n - 1) then
    s.vecStore h (pinnedPa kspb p e 0) new own bad
  else (List.range e.n).foldl (fun u i =>
    u.vecStore h (pinnedPa kspb p e i) [new.getD i 0] [own.getD i 0] bad) s

/-- The first byte of a list of elements that lies on another node (R217). -/
def State.remoteByte (s : State) (kspb : Word) (p : Pins) (els : List MemElem) : Option (Word × Nat) :=
  (els.flatMap fun e => (List.range e.n).map fun i => (e.byte i, pinnedPa kspb p e i)).find? fun b =>
    (s.paKind b.2).isRemote

/-- The word of hart h waits for the data of another node that it reads, until they have come; lost data are an access fault
(R217, Table 11-4). DESIGN CHOICE (log 104): one transaction stands for all that a word reads. -/
def State.awaitData (s : State) (h : Nat) (v : View) (p : Pins) (zp : Bool) (els : List MemElem) : Except VStop Unit :=
  let c := (s.hartAt h).ctx
  if c.answered && !c.lost then .ok ()
  else
    match s.remoteByte v.kspb p els with
    | none => .ok ()
    | some b =>
      if c.answered then .error (.fault 0x05 (v.faultAddr b.1 b.2))
      else .error (.wait (.remote zp) (s.ask h .vector (v.faultAddr b.1 b.2) b.2))

/-- A release at dev or sys scope seals the strip (R81). -/
def releases : Option Scope → Bool
  | some .dev | some .sys => true
  | some .core | none => false

/-! ### Checks (R283, R285) -/

/-- A memory tag: NONE and reserved codes are tag faults; forms but the unit-stride ones take container tags only. -/
def memTagOk (t : Tag) (sliced : Bool) : Bool := tagListed t && t != tagNONE && (sliced || !isSliced t)

/-- The tag of an index group (R376, R396, R399). -/
def indexTag (x : VCtx) (w : Sweep) (vi : VReg) : Except VStop Tag := do
  let t ← sourceTag x w vi
  need (t == tagINT32 || t == tagUINT32) tagFault
  .ok t

/-- The address form with the index group's tag checked. -/
def checkForm (x : VCtx) (w : Sweep) (f : AddrForm) : Except VStop AddrForm :=
  match f with
  | .unit => .ok .unit
  | .stride b => .ok (.stride b)
  | .index vi _ => do
    let t ← indexTag x w vi
    .ok (.index vi (t == tagINT32))

/-- The groups that an address form names. -/
def formGroups : AddrForm → List VReg
  | .unit => []
  | .stride _ => []
  | .index vi _ => [vi]

/-- Heat of an address form. -/
def formHeat : AddrForm → HeatKind
  | .unit => .unit
  | .stride _ => .strided
  | .index _ _ => .indexed

/-- The address that base and offset give (R376). -/
def VCtx.memBase (x : VCtx) (base : BReg) (off : BitVec 16) : Word := x.br base + sext off

/-- An active container element that is not a multiple of its size (R377, R397): the lowest one faults. -/
def alignCheck (t : Tag) (l : List MemElem) : Except VStop Unit :=
  if isSliced t then .ok ()
  else
    match l.find? fun e => !aligned e.va e.n with
    | some e => .error (.fault 0x06 e.va)
    | none => .ok ()

/-! ### Running segments -/

/-- The context with the restart step of its word set (R193). -/
def State.setStep (s : State) (h k : Nat) : State := s.modCtx h fun c => { c with step := k }

/-- Segments in order; a stop in one leaves the earlier ones performed, and a wait begins again at it (R193). `many` says that
the access runs in more than one segment. -/
def runSegments (h : Nat) (many : Bool) (f : State → Segment → Except VStop State) (s : State) :
    List Segment → Except VStop State
  | [] => .ok s
  | g :: gs =>
    match f s g with
    | .ok s1 => runSegments h many f s1 gs
    | .error (.fault sub t) =>
      .error (if many then .segment (s.setStep h g.first) sub t else .partly (s.setStep h g.first) sub t)
    | .error (.poison src pa) => .error (.poisoned s src pa)
    | .error (.wait q s1) => .error (.wait q (s1.setStep h g.first))
    | .error e => .error e

/-- An access with these segments, from a restart step on, runs in more than one (R193). -/
def inSegments (start : Nat) (gs : List Segment) : Bool := start != 0 || decide (1 < gs.length)

/-- What a segment reads and writes: the groups that the mask skips count once, with the first one (R41). -/
def Touch.atStep (t : Touch) (first : Nat) : Touch := if first = 0 then t else { t with skip := 0 }

/-! ### Loads (R377) -/

/-- The elements of a load read, each as `f` takes it; poison in one is consumed after what the word has noted. -/
def State.readElems {α : Type} (s : State) (h : Nat) (kspb : Word) (p : Pins) (f : MemElem → List Byte → α)
    (els : List MemElem) : Except VStop (List α) :=
  els.mapM fun e =>
    match s.readElem h kspb p e with
    | .ok bs => .ok (f e bs)
    | .error (.poison src pa) => .error (.poisoned s src pa)
    | .error q => .error q

/-- A segment of a load: its pages probed, its elements read, the elements of its steps written. The word's write is
partial when the whole word leaves an element of the sweep unchanged (R257). -/
def State.loadSegment (s : State) (h : Nat) (v : View) (w : Sweep) (vd : VReg) (t : Tag) (k : HeatKind) (reads : Touch)
    (fate : Nat → Nat → Fate) (mine : Nat → Nat → Bool) (els : List MemElem) : Except VStop State := do
  let (p, s1) ← s.probe v .load (pagesOf v.kspb els) []
  s1.awaitData h v p (t == tagZP) els
  let s2 ← s1.sweepTouch h w { reads with wv := w.written vd fate }
  let vals ← s2.readElems h v.kspb p (fun e bs => (w.flat e.r e.c, fromMemory t e.sh bs)) els
  let f (r c : Nat) : Fate := if mine r c then fate r c else .keep
  (s2.heat v k p els).sweepApply h w vd t true f false fun r c _ => (Map.get 0 vals (w.flat r c), 0)

/-- The step at which the segment after g begins. -/
def nextFirst (gs : List Segment) (g : Segment) : Option Nat :=
  (gs.find? fun q => decide (g.first < q.first)).map fun q => q.first

/-- A step belongs to a segment. -/
def inSegment (gs : List Segment) (g : Segment) (k : Nat) : Bool :=
  decide (g.first ≤ k) &&
    match nextFirst gs g with
    | some n => decide (k < n)
    | none => true

/-- The scratchpad that a physical address lies in is that of core c, or of the dark core that c leads (R13, R164). -/
def State.ownSpad (s : State) (c pa : Nat) : Bool :=
  match s.paKind pa with
  | .spad d _ => d == c || (s.ganged c && s.nextHelm c == some d)
  | _ => false

/-- A copy of hart h has still to write a byte at a physical address: it lies in a sector not yet written of a chunk that is
neither complete nor faulted (R164). -/
def State.stillCopies (s : State) (h : Nat) (cp : Copy) (pa : Nat) : Bool :=
  let v : View := { katp := cp.katp, mode := cp.mode, sum := cp.sum, kspb := cp.window, core := coreOf h, vec := true }
  (List.range cp.count).any fun k =>
    let bytes := min cp.chunkBytes (cp.len - k * cp.chunkBytes)
    let ch := (Map.find cp.chunks k).getD { unwritten := BitVec.ofNat 128 (2 ^ (bytes / 256) - 1) }
    !ch.complete && !ch.faulted && (List.range (bytes / 256)).any fun i =>
      tst ch.unwritten i &&
        match s.translate v .store (cp.dst + BitVec.ofNat 64 (k * cp.chunkBytes + 256 * i)) PaKind.isMem with
        | .ok (y, _) => s.cell y.pa / 256 == s.cell pa / 256
        | .error _ => false

/-- A chained load waits (R164): a byte that it reads in the scratchpad of its own core is one that an outstanding copy of
its context has still to write. -/
def State.chained (s : State) (h : Nat) (v : View) (els : List MemElem) : Bool :=
  let copies := (s.hartAt h).ctx.copies.filter Copy.outstanding
  !copies.isEmpty && els.any fun e => (List.range e.n).any fun i =>
    match s.translate v .load (e.byte i) PaKind.isMem with
    | .error _ => false
    | .ok (x, _) => s.ownSpad (coreOf h) x.pa && copies.any fun cp => s.stillCopies h cp x.pa

/-- A load of hart h but vldff (R377). DESIGN CHOICE (log 138): where an indexed load goes on at a later segment, its tag and
alignment checks judge all its elements again, under the tags that vd and vi then carry. -/
def State.vload (s : State) (h : Nat) (vd : VReg) (base : BReg) (off : BitVec 16) (form : AddrForm) (t : Tag)
    (c : VCtl) : Except VStop State := do
  let x := (s.hartAt h).ctx
  let w := s.sweep h
  elementChecks x w c (vd :: formGroups form)
  need (memTagOk t (form == .unit)) tagFault
  let f ← checkForm x w form
  need (w.fits t) tagFault
  if w.g = 0 then .ok s
  else
    let els := (memElems x w t (x.memBase base off) f).filter (elemOn x c.mask c.aq t)
    alignCheck t els
    let v := s.vecView h
    need (!(form == .unit && s.chained h v els)) (.wait (.chain (t == tagZP)) s)
    let reads : Touch :=
      { rv := (formGroups form).flatMap w.group, rm := maskRegs c.mask
        skip := w.memSkips x c.mask c.aq t (memElem x w t (x.memBase base off) f), unchecked := true }
    let on (r col : Nat) : Bool := els.any fun e => e.r == r && e.c == col
    let fate := w.fate (tailOnes w c.tail) on
    let gs := if form == .unit then [{ first := 0, els := els, pages := [] }] else s.segments v .load w els x.step
    runSegments h (inSegments x.step gs) (fun u g =>
      u.loadSegment h v w vd t (formHeat form) (reads.atStep g.first) fate
        (fun r col => form == .unit || inSegment gs g (stepOf w (memElem x w t 0 .unit r col))) g.els) s gs

/-- The lowest element of a first-fault load of hart h that faults: its probe fails, or its data on another node are lost (R75,
R219, R378). -/
def State.firstFailing (s : State) (h : Nat) (v : View) (els : List MemElem) : Option MemElem :=
  let x := (s.hartAt h).ctx
  let e := (s.failing v .load els).head?
  if x.answered && x.lost then
    let kept := match e with
      | some q => els.takeWhile fun k => k != q
      | none => els
    match s.probe v .load (pagesOf v.kspb kept) [] with
    | .ok (p, s1) => (kept.find? fun k => (s1.remoteByte v.kspb p [k]).isSome).or e
    | .error _ => e
  else e

/-- A first-fault load of hart h (R75, R378). One instruction touches at most 97 pages, so the pin table holds it. -/
def State.vloadFirst (s : State) (h : Nat) (vd : VReg) (base : BReg) (off : BitVec 16) (t : Tag) (c : VCtl) :
    Except VStop State := do
  let x := (s.hartAt h).ctx
  let w := s.sweep h
  elementChecks x w c [vd]
  need (memTagOk t true && w.fits t) tagFault
  if w.g = 0 then .ok s
  else
    let els := (memElems x w t (x.memBase base off) .unit).filter (elemOn x c.mask c.aq t)
    alignCheck t els
    let v := s.vecView h
    let reads : Touch :=
      { rm := maskRegs c.mask, skip := w.memSkips x c.mask c.aq t (memElem x w t (x.memBase base off) .unit)
        unchecked := true }
    match s.firstFailing h v els with
    | none =>
      s.loadSegment h v w vd t .unit reads
        (w.fate (tailOnes w c.tail) fun r col => els.any fun e => e.r == r && e.c == col) (fun _ _ => true) els
    | some e =>
      let f := w.flat e.r e.c
      if f = 0 then
        let (p, s1) ← s.probe v .load (pagesOf v.kspb els) []
        s1.awaitData h v p (t == tagZP) els
        .ok s1
      else
        let kept := els.filter fun m => decide (w.flat m.r m.c < f)
        let s1 ← s.loadSegment h v { w with g := f } vd t .unit reads
          (Sweep.fate { w with g := f } (tailOnes w c.tail) fun r col => kept.any fun m => m.r == r && m.c == col)
          (fun _ _ => true) kept
        .ok (s1.modCtx h fun y => { y with grant := { y.grant with
          g := BitVec.ofNat 32 f, trim := true, f := BitVec.ofNat 32 f
          vl := if y.grant.vrows = 1 then BitVec.ofNat 32 f else y.grant.vl } })

/-- vld. -/
def execVld (vd : VReg) (base : BReg) (off : BitVec 16) (t : Tag) (_o : Option Scope) (c : VCtl) (s : State) :
    Host.Outcome State Fault Refusal :=
  endV s (s.vload s.cur vd base off .unit t c)

/-- vlds. -/
def execVlds (vd : VReg) (base : BReg) (off : BitVec 16) (bs : BReg) (t : Tag) (_o : Option Scope) (c : VCtl)
    (s : State) : Host.Outcome State Fault Refusal :=
  endV s (s.vload s.cur vd base off (.stride (s.ctx.br bs)) t c)

/-- vldx. -/
def execVldx (vd : VReg) (base : BReg) (off : BitVec 16) (vi : VReg) (t : Tag) (_o : Option Scope) (c : VCtl)
    (s : State) : Host.Outcome State Fault Refusal :=
  endV s (s.vload s.cur vd base off (.index vi false) t c)

/-- vldff. -/
def execVldff (vd : VReg) (base : BReg) (off : BitVec 16) (t : Tag) (_o : Option Scope) (c : VCtl) (s : State) :
    Host.Outcome State Fault Refusal :=
  endV s (s.vloadFirst s.cur vd base off t c)

/-! ### Stores (R396-R398) -/

/-- The scope of a release that a store or an atomic makes; core where it makes none. -/
def releaseScope : Option Scope → Scope
  | some s => s
  | none => .core

/-- A release at dev or sys scope seals the strip, and at sys waits for earlier writes (R81, R182). -/
def State.vecRelease (s : State) (h : Nat) (o : Option Scope) : Except VStop State :=
  let s1 := if releases o then s.seal h else s
  if s1.released (releaseScope o) then .ok s1 else .error (.wait .release s1)

/-- A segment of a store: its pages probed, its elements written in ascending order. -/
def State.storeSegment (s : State) (h : Nat) (v : View) (w : Sweep) (vs : VReg) (t : Tag) (k : HeatKind)
    (o : Option Scope) (reads : Touch) (els : List MemElem) : Except VStop State := do
  let x := (s.hartAt h).ctx
  let (p, s1) ← s.probe v .store (pagesOf v.kspb els) []
  let s2 ← (s1.sealIO h p).vecRelease h o
  let s3 ← s2.sweepTouch h w reads
  let s4 := (s3.markRead h (w.group vs)).makeRoom h (storeBytes (isSliced t) none els)
  let s5 := els.foldl (fun u e =>
    let n := vs.toNat + e.r
    u.writeElem h v.kspb p t (x.elem w.lanes t n e.c) (x.elemBad w.lanes t n e.c) e) s4
  .ok (s5.heat v k p els)

/-- A store of hart h (R397). DESIGN CHOICE (log 135): with G = 0 one with a release at dev or sys scope does no work (R73) and
does not seal (R81). -/
def State.vstore (s : State) (h : Nat) (vs : VReg) (base : BReg) (off : BitVec 16) (form : AddrForm) (t : Tag)
    (o : Option Scope) (c : MCtl) : Except VStop State := do
  let x := (s.hartAt h).ctx
  let w := s.sweep h
  need ((vs :: formGroups form).all w.inRange && acquireOk x c.mask c.aq) illegalWord
  need (memTagOk t (form == .unit)) tagFault
  let f ← checkForm x w form
  need (groupTag x w vs == some t && w.fits t) tagFault
  if w.g = 0 then .ok s
  else
    let els := (memElems x w t (x.memBase base off) f).filter (elemOn x c.mask c.aq t)
    alignCheck t els
    let v := s.vecView h
    let reads : Touch :=
      { rv := (formGroups form).flatMap w.group, rm := maskRegs c.mask
        skip := w.memSkips x c.mask c.aq t (memElem x w t (x.memBase base off) f), unchecked := true }
    let gs := if form == .unit then [{ first := 0, els := els, pages := [] }] else s.segments v .store w els x.step
    runSegments h (inSegments x.step gs) (fun u g => u.storeSegment h v w vs t (formHeat form) o (reads.atStep g.first) g.els) s gs

/-- vst. -/
def execVst (vd : VReg) (base : BReg) (off : BitVec 16) (t : Tag) (o : Option Scope) (c : MCtl) (s : State) :
    Host.Outcome State Fault Refusal :=
  endV s (s.vstore s.cur vd base off .unit t o c)

/-- vsts. -/
def execVsts (vd : VReg) (base : BReg) (off : BitVec 16) (bs : BReg) (t : Tag) (o : Option Scope) (c : MCtl)
    (s : State) : Host.Outcome State Fault Refusal :=
  endV s (s.vstore s.cur vd base off (.stride (s.ctx.br bs)) t o c)

/-- vstx. -/
def execVstx (vd : VReg) (base : BReg) (off : BitVec 16) (vi : VReg) (t : Tag) (o : Option Scope) (c : MCtl)
    (s : State) : Host.Outcome State Fault Refusal :=
  endV s (s.vstore s.cur vd base off (.index vi false) t o c)

/-! ### Table accesses (R76, R399) -/

/-- The lane, in the core, that hosts a position (R62). -/
def Sweep.laneOf (w : Sweep) (p : Nat) : Nat := 8 * w.clusterOf p + p % 8

/-- The scratchpad address of offset o in the bank of a lane of core c (R76). -/
def State.bankPa (s : State) (c lane o : Nat) : Nat :=
  spadPa (if lane < 64 then c else (s.nextHelm c).getD c) (256 * (o / 4) + 4 * (lane % 64))

/-- The offset of an element of a table access (R399): unsigned. -/
def tableOffset (x : VCtx) (w : Sweep) (vi : VReg) (e : Nat × Nat) : Nat :=
  x.elem w.lanes tagUINT32 (vi.toNat + e.1) e.2

/-- The scratchpad address of an element of a table access. -/
def State.tablePa (s : State) (h : Nat) (x : VCtx) (w : Sweep) (vi : VReg) (e : Nat × Nat) : Nat :=
  s.bankPa (coreOf h) (w.laneOf e.2) (tableOffset x w vi e)

/-- A physical address that a chunk with a set bit has written (R163). -/
def State.inWritten (s : State) (x : VCtx) (m : MReg) (pa : Nat) : Bool :=
  match x.boundCopy m with
  | some c => c.chunks.any fun e => x.chunkBit m e.1 && e.2.pas.any fun q => s.cell q / 256 == s.cell pa / 256
  | none => false

/-- The active elements of a table access. -/
def State.tableActive (s : State) (h : Nat) (x : VCtx) (w : Sweep) (vi : VReg) (t : Tag) (mask : Option MReg)
    (aq : Bool) : List (Nat × Nat) :=
  w.elements.filter fun e =>
    match mask with
    | none => true
    | some m => if aq then s.inWritten x m (s.tablePa h x w vi e) else x.mbit m.toNat e.1 (posOf t e.2)

/-- Element groups that the governing mask of a table access skips (R41, R163). -/
def State.tableSkips (s : State) (h : Nat) (x : VCtx) (w : Sweep) (vi : VReg) (t : Tag) (mask : Option MReg) (aq : Bool) : Nat :=
  match aq, mask with
  | true, some m => w.skipsOn t fun r c => s.inWritten x m (s.tablePa h x w vi (r, c))
  | _, _ => w.skips x mask t

/-- The range and alignment faults of a table access (R76). -/
def tableFaults (x : VCtx) (w : Sweep) (vi : VReg) (l : List (Nat × Nat)) : Except VStop Unit :=
  let offs := l.map (tableOffset x w vi)
  match offs.find? fun o => decide (0xC000 ≤ o) with
  | some o => .error (.fault 0x08 (BitVec.ofNat 64 o))
  | none =>
    match offs.find? fun o => o % 4 != 0 with
    | some o => .error (.fault 0x06 (BitVec.ofNat 64 o))
    | none => .ok ()

/-- vtld of hart h. -/
def State.tableLoad (s : State) (h : Nat) (vd vi : VReg) (t : Tag) (c : VCtl) : Except VStop State := do
  let x := (s.hartAt h).ctx
  let w := s.sweep h
  elementChecks x w c [vd, vi]
  need (memTagOk t false) tagFault
  let _ ← indexTag x w vi
  need (w.fits t) tagFault
  if w.g = 0 then .ok s
  else
    let l := s.tableActive h x w vi t c.mask c.aq
    tableFaults x w vi l
    let fate := w.fate (tailOnes w c.tail) fun r col => l.any fun e => e == (r, col)
    let s1 ← s.sweepTouch h w
      { rv := w.group vi, rm := maskRegs c.mask, skip := s.tableSkips h x w vi t c.mask c.aq, wv := w.written vd fate }
    match l.find? fun e => s1.vecPoison h (s1.cell (s1.tablePa h x w vi e)) 4 with
    | some e => .error (.poisoned s1 2 (s1.tablePa h x w vi e % 2 ^ 56))
    | none =>
      s1.sweepApply h w vd t true fate false fun r col _ =>
        (natOfBytes (s1.vecBytes h (s1.cell (s1.tablePa h x w vi (r, col))) 4), 0)

/-- vtst of hart h: elements in ascending order. -/
def State.tableStore (s : State) (h : Nat) (vs vi : VReg) (t : Tag) (c : MCtl) : Except VStop State := do
  let x := (s.hartAt h).ctx
  let w := s.sweep h
  need ([vs, vi].all w.inRange && acquireOk x c.mask c.aq) illegalWord
  need (memTagOk t false) tagFault
  let _ ← indexTag x w vi
  need (groupTag x w vs == some t && w.fits t) tagFault
  if w.g = 0 then .ok s
  else
    let l := s.tableActive h x w vi t c.mask c.aq
    tableFaults x w vi l
    let reads : Touch :=
      { rv := w.group vi, rm := maskRegs c.mask, skip := s.tableSkips h x w vi t c.mask c.aq, unchecked := true }
    let s1 ← s.sweepTouch h w reads
    .ok (l.foldl (fun u e =>
      let n := vs.toNat + e.1
      u.vecStore h (s.tablePa h x w vi e) (bytesOf (BitVec.ofNat 32 (x.elem w.lanes t n e.2)) 4) (List.replicate 4 0xFF)
        (x.elemBad w.lanes t n e.2)) ((s1.markRead h (w.group vs)).makeRoom h (4 * l.length)))

/-- vtld. -/
def execVtld (vd vi : VReg) (t : Tag) (c : VCtl) (s : State) : Host.Outcome State Fault Refusal :=
  endV s (s.tableLoad s.cur vd vi t c)

/-- vtst. -/
def execVtst (vs vi : VReg) (t : Tag) (c : MCtl) (s : State) : Host.Outcome State Fault Refusal :=
  endV s (s.tableStore s.cur vs vi t c)

/-! ### Atomics (R362, R363) -/

/-- AmoOp on integers. -/
def vamoInt (op : VAmoOp) (t : Tag) (old src : W32) : W32 :=
  match op with
  | .add => old + src
  | .and => old &&& src
  | .or => old ||| src
  | .xor => old ^^^ src
  | .min => if t = tagINT32 then amoOp .min old src else amoOp .minu old src
  | .max => if t = tagINT32 then amoOp .max old src else amoOp .maxu old src
  | .swap => src

/-- AmoOp on FP32, with its events. -/
def vamoFloat (op : VAmoOp) (old src : W32) : W32 × Events :=
  let a := decodeElem tagFP32 old.toNat
  let b := decodeElem tagFP32 src.toNat
  let narrow (y : Num × Events) : W32 × Events :=
    let (bits, e) := narrowNum tagFP32 .rne 0 y.1
    (BitVec.ofNat 32 bits, y.2 ||| e)
  match op with
  | .add => narrow (Num.add false a b)
  | .min => narrow (minmaxNum false false a b)
  | .max => narrow (minmaxNum true false a b)
  | .swap | .and | .or | .xor => (src, 0)

/-- AmoOp under a tag. -/
def vamoOp (op : VAmoOp) (t : Tag) (old src : W32) : W32 × Events :=
  if t = tagFP32 then vamoFloat op old src else (vamoInt op t old src, 0)

/-- The elements of a vamo as they perform, one act each: the old values by flat element, and the events. Over a host link
that is down the old value is a free value, and the write is lost (R238; log 83). -/
def State.vamoRun (s : State) (h : Nat) (kspb : Word) (p : Pins) (x : VCtx) (w : Sweep) (op : VAmoOp) (vd : VReg)
    (t : Tag) : List MemElem → Except VStop (List (Nat × Nat) × Events × State)
  | [] => .ok ([], 0, s)
  | e :: es =>
    let pa := pinnedPa kspb p e 0
    if s.vecPoison h (s.cell pa) 4 then .error (.poisoned s (s.srcOf pa) (pa % 2 ^ 56))
    else
      let old : W32 := if s.paKind pa = .hostLost then (Config.freeWord s.tick (2000 + w.flat e.r e.c)).setWidth 32
        else ofBytes 32 (s.vecBytes h (s.cell pa) 4)
      let (new, ev) := vamoOp op t old (BitVec.ofNat 32 (x.elem w.lanes t (vd.toNat + e.r) e.c))
      match State.vamoRun (s.perform h pa (bytesOf new 4) fun _ => true) h kspb p x w op vd t es with
      | .ok (l, ev2, s1) => .ok ((w.flat e.r e.c, old.toNat) :: l, ev ||| ev2, s1)
      | .error f => .error f

/-- The tags that a vamo takes (R362). -/
def vamoTagOk (op : VAmoOp) (t : Tag) : Bool :=
  t == tagINT32 || t == tagUINT32 || (t == tagFP32 && !(op == .and || op == .or || op == .xor))

/-- The release that an order field of vamo makes, if any. -/
def vamoRelease : VmOrd → Option Scope
  | .rel s => some s
  | .plain | .acq _ => none

/-- vamo of hart h. One whose data of another node are lost takes the machine check of a write and goes on (R219; log 104).
DESIGN CHOICE (log 135): with G = 0 it does no work (R73) and does not seal (R81). -/
def State.vamo (s : State) (h : Nat) (op : VAmoOp) (vd : VReg) (base : BReg) (off : BitVec 16) (vi : VReg) (t : Tag)
    (o : VmOrd) (c : VCtl) : Except VStop State := do
  let x := (s.hartAt h).ctx
  let w := s.sweep h
  elementChecks x w c [vd, vi]
  need (vamoTagOk op t) tagFault
  let ti ← indexTag x w vi
  need (groupTag x w vd == some t && w.fits t) tagFault
  if w.g = 0 then .ok s
  else
    let els := (memElems x w t (x.memBase base off) (.index vi (ti == tagINT32))).filter (elemOn x c.mask c.aq t)
    alignCheck t els
    let v := s.vecView h
    need (decide ((pagesOf v.kspb els).length ≤ 2048) || decide ((s.pinned v .amo els).length ≤ 2048)) (.fault 0x11 0)
    let (p, s1) ← s.probe v .amo (pagesOf v.kspb els) []
    let reads : Touch :=
      { rv := w.group vi ++ w.group vd, rm := maskRegs c.mask
        skip := w.memSkips x c.mask c.aq t (memElem x w t (x.memBase base off) (.index vi (ti == tagINT32))), unchecked := true }
    let fate := w.fate (tailOnes w c.tail) fun r col => els.any fun e => e.r == r && e.c == col
    if !x.answered then s1.awaitData h v p false els
    let s2 ← (s1.seal h).vecRelease h (vamoRelease o)
    let s3 ← s2.sweepTouch h w { reads with wv := w.written vd fate }
    let (vals, ev, s4) ← s3.vamoRun h v.kspb p x w op vd t els
    let s5 ← (s4.heat v .indexed p els).sweepApply h w vd t true fate false fun r col _ =>
      (Map.get 0 vals (w.flat r col), 0)
    .ok (s5.raiseFlags h ev)

/-- vamo: but for the wait of a release at sys scope, the order field orders accesses that this model performs in order. -/
def execVamo (op : VAmoOp) (vd : VReg) (base : BReg) (off : BitVec 16) (vi : VReg) (t : Tag) (o : VmOrd) (c : VCtl)
    (s : State) : Host.Outcome State Fault Refusal :=
  endV s (s.vamo s.cur op vd base off vi t o c)

/-! ### The V-stream fence -/

/-- fvv of the V-stream (R180): every access performs before the next word. -/
def execFvvV (s : State) : Host.Outcome State Fault Refusal := endV s (.ok s)

end Sys2Proof.Machine
end

