-- ==== Sys2Proof/Machine/CopyEng.lean ====
section
/-! DEFINITION. The copy engine: cpy, cpyw, cpyr, cpyq, and the chunks of copies (R154-R163, R167, R304, R305). -/

namespace Sys2Proof.Machine

/-! ### Barriers and copies (R156, R160) -/

/-- The barrier with bytes added to ISSUED (field 32) or DONE (field 0). -/
def barrierAdd (m : Sparse 64) (cb lo n : Nat) : Sparse 64 :=
  let v := Sparse.read 0 m cb
  Sparse.write 0 m cb (putFld v lo 32 (fld v lo 32 + n))

/-- Every chunk of a copy is complete. -/
def Copy.isDone (c : Copy) : Bool := !c.outstanding && !c.isHeld

/-- Copies that nothing can reach any more leave the list: done and bound to no mask. -/
def VCtx.prune (x : VCtx) : VCtx :=
  { x with copies := x.copies.filter fun c => c.outstanding || c.isHeld || x.binds.any fun b => b.2 == c.id }

/-- The copies of a context on a barrier. -/
def VCtx.onBarrier (x : VCtx) (cb : Nat) : List Copy := x.copies.filter fun c => c.cb == cb

/-- Copies that count toward the limit of 16 (R157, R160). -/
def VCtx.slotsUsed (x : VCtx) : Nat := (x.copies.filter fun c => !c.isDone).length

/-- Bytes of chunk k of a copy: the last one may be shorter (R158). -/
def Copy.bytesOf (c : Copy) (k : Nat) : Nat := min c.chunkBytes (c.len - k * c.chunkBytes)

/-- A chunk as the engine first meets it: every sector unwritten. -/
def Copy.chunkAt (c : Copy) (k : Nat) : Chunk :=
  (Map.find c.chunks k).getD { unwritten := BitVec.ofNat 128 (2 ^ (c.bytesOf k / 256) - 1) }

/-! ### Instructions -/

/-- Source and destination of a copy share an address. -/
def rangesMeet (a b : Word) (n : Nat) : Bool := decide ((a - b).toNat < n) || decide ((b - a).toNat < n)

/-- The mask register of a cpy with positions 0 … n−1 of row 0 cleared. -/
def clearRow0 (q : Sparse 1) (m n : Nat) : Sparse 1 := (List.range n).foldl (fun p i => putMbit p m 0 i false) q

/-- Memory as it is at dev scope: with the writes that are kept for another node or for the host (R217, R237). -/
def State.devMem (s : State) : List Host.Cell :=
  (s.part.trans.foldl (fun p t => if t.write then p.putBytes (s.cell t.pa) t.data else p) s.part).mem

/-- The copy that a cpy of hart h issues (R157). -/
def State.newCopy (s : State) (h : Nat) (dst src : Word) (len : Nat) (code cb : Nat) (sc : Scope) : Copy :=
  let v := s.vecView h
  { id := (s.hartAt h).ctx.nextCopy, dst := dst, src := src, len := len, code := code, cb := cb, scope := sc
    window := v.kspb, katp := v.katp, mode := v.mode, sum := v.sum
    qpos := ((s.hartAt h).ctx.blk.map fun b => b.cmd.pos).getD 0, chunks := []
    snap := if rangesMeet dst src len then some s.devMem else none
    snapBad := if rangesMeet dst src len then s.part.poison else [], seq := (s.coreAt (coreOf h)).copySeq }

/-- The poison marks without those of positions 0 … n−1 of row 0 of a mask register, which new data has taken (R206). -/
def cleanRow0 (q : Map Unit) (m n : Nat) : Map Unit := (List.range n).foldl (fun p i => Map.erase p (64 * i + m)) q

/-- The copy is issued (R157), behind the copies that the helm has been given before (R37). -/
def State.issueCopy (s : State) (h : Nat) (cp : Copy) (mk : Option MReg) : State :=
  (s.modCore (coreOf h) fun k => { k with copySeq := k.copySeq + 1 }).modCtx h fun x =>
    VCtx.prune
      { x with
        barriers := barrierAdd x.barriers cp.cb 32 cp.len
        m := (maskRegs mk).foldl (fun q m => clearRow0 q m cp.count) x.m
        mpoison := (maskRegs mk).foldl (fun q m => cleanRow0 q m cp.count) x.mpoison
        binds := (maskRegs mk).foldl (fun q m => Map.put q m cp.id) x.binds
        copies := x.copies ++ [cp], nextCopy := x.nextCopy + 1 }

/-- The chunks of a copy of a length. -/
def chunkCount (len code : Nat) : Nat := (len + 256 * 2 ^ code - 1) / (256 * 2 ^ code)

/-- cpy of hart h: the checks of R157 in order, then its issue. -/
def State.cpy (s : State) (h : Nat) (bd bs bl : BReg) (code : BitVec 3) (cb : BitVec 2) (sc : Scope)
    (mk : Option MReg) : Except VStop State := do
  let x := (s.hartAt h).ctx
  match [x.br bd, x.br bs, x.br bl].find? fun a => !aligned a 256 with
  | some a => .error (.fault 0x06 a)
  | none =>
    let len := (x.br bl).toNat
    need (!(decide (2 ^ 31 < len)
      || (mk.isSome && decide (96 * (s.sweep h).lanes < chunkCount len code.toNat)))) (.fault 0x05 (x.br bd))
    need (decide (x.slotsUsed < 16)) (.wait .copySlot s)
    let s1 := s.seal h
    .ok (s1.issueCopy h (s1.newCopy h (x.br bd) (x.br bs) len code.toNat cb.toNat sc) mk)

/-- cpy. -/
def execCpy (bd bs bl : BReg) (code : BitVec 3) (cb : BitVec 2) (sc : Scope) (mk : Option MReg) (s : State) :
    Host.Outcome State Fault Refusal :=
  endV s (s.cpy s.cur bd bs bl code cb sc mk)

/-- The stalled cpy of the current hart's context issues, if it can (R157). -/
def execCpyStallEnd (s : State) : Host.Outcome State Fault Refusal :=
  match s.vwaitingIn .copySlot with
  | some (.cpy bd bs bl code cb sc mk) => s.guardB (.cpy bd bs bl code cb sc mk) (execCpy bd bs bl code cb sc mk s)
  | _ => .next s

/-- The status of a cpyw: bit c mod 64 for each faulted chunk c of the held copies on the barrier (R162). -/
def copyStatus (l : List Copy) : Word :=
  (l.filter Copy.isHeld).foldl (fun w c =>
    c.chunks.foldl (fun v e => if e.2.faulted then putBit v (e.1 % 64) true else v) w) 0

/-- cpyw: the strip seals when it issues (R81, R162, R305). -/
def execCpyw (cb : BitVec 2) (bst : BReg) (s : State) : Host.Outcome State Fault Refusal :=
  let s1 := s.seal s.cur
  let l := s.ctx.onBarrier cb.toNat
  endV s (if l.any Copy.outstanding then .error (.wait .cpyw s1) else .ok (s1.bw bst (copyStatus l)))

/-- The waiting cpyw of the current hart's context returns, if no copy on its barrier is outstanding (R162). -/
def execCpywWake (s : State) : Host.Outcome State Fault Refusal :=
  match s.vwaitingIn .cpyw with
  | some (.cpyw cb bst) => execCpyw cb bst s
  | _ => .next s

/-- A held copy goes back to the engine: its faulted chunks are issued again, and read their sources as they are now (R162,
R305). -/
def Copy.replay (c : Copy) (s : State) : Copy :=
  { c with
    chunks := c.chunks.map fun e =>
      (e.1, if e.2.faulted then { e.2 with faulted := false, asked := false, arrived := false } else e.2)
    snap := c.snap.map fun _ => s.devMem, snapBad := if c.snap.isSome then s.part.poison else [] }

/-- cpyr. -/
def execCpyr (cb : BitVec 2) (s : State) : Host.Outcome State Fault Refusal :=
  let s1 := s.seal s.cur
  endV s (.ok (s1.modCtx s.cur fun x =>
    { x with copies := x.copies.map fun c =>
        if c.cb == cb.toNat && c.isHeld then c.replay s1 else c }))

/-- cpyq: the barrier as it stands at issue (R156, R305). -/
def execCpyq (cb : BitVec 2) (bst : BReg) (s : State) : Host.Outcome State Fault Refusal :=
  endV s (.ok ((s.seal s.cur).bw bst (Sparse.read 0 s.ctx.barriers cb.toNat)))

/-! ### Sectors (R154, R157, R158, R160) -/

/-- Under what a copy is translated (R157). -/
def Copy.view (c : Copy) (core : Nat) : View :=
  { katp := c.katp, mode := c.mode, sum := c.sum, kspb := c.window, core := core, vec := true }

/-- The subcode of a sector's fault (Table 8-6). A walk that meets poison counts as an access fault (log 20). -/
def sectorSub (a : Acc) : AccErr → Nat
  | .page => pageSub a
  | .access _ => 0x05
  | .table _ => 0x05
  | .poison _ => 0x05

/-- What became of a sector: written at a physical address, or its fault with the address of the side that faulted. -/
inductive SectorOut where
  | written (pa : Nat) (s : State)
  | failed (sub : Nat) (addr : Word)
  deriving DecidableEq, Repr

/-- The memory from before an overlapping copy, where the part takes a sector as it was then (R158; log 11). -/
def State.sectorSnap (s : State) (c : Copy) (slot : Nat) : Option (List Host.Cell) :=
  if Config.freeOverlap s.tick slot then c.snap else none

/-- The bytes of a source sector: as memory holds them, or as they were before the copy (R158). -/
def State.sectorBytes (s : State) (c : Copy) (slot pa : Nat) : List Byte :=
  match s.sectorSnap c slot with
  | some m => (List.range 256).map fun i => Sparse.read 0 m (s.cell pa + i)
  | none => s.devBytes (s.cell pa) 256

/-- The bytes of a source sector that hold poison, by offset (R158, R206). -/
def State.sectorBad (s : State) (c : Copy) (slot pa : Nat) : List Nat :=
  (List.range 256).filter fun j =>
    match s.sectorSnap c slot with
    | some _ => (Map.find c.snapBad (s.cell pa + j)).isSome
    | none => s.poisonAt (s.cell pa + j)

/-- A side of a sector that is known to be out of reach: over a host link that is down, or, when a transaction of the chunk
has become unreachable (`lost`), on another node or in the storage window (R219, R238). -/
def State.outOfReach (s : State) (lost : Bool) (pa : Nat) : Bool :=
  s.paKind pa == .hostLost || (lost && ((s.paKind pa).isRemote || s.inStorage pa))

/-- Sector i of chunk k of a copy of hart h. -/
def State.sector (s : State) (h : Nat) (c : Copy) (k : Nat) (lost : Bool) (i : Nat) : SectorOut :=
  let off := BitVec.ofNat 64 (k * c.chunkBytes + 256 * i)
  let v := c.view (coreOf h)
  match s.translate v .load (c.src + off) PaKind.isMem with
  | .error e => .failed (sectorSub .load e) (c.src + off)
  | .ok (x, s1) =>
    if s1.outOfReach lost x.pa then .failed 0x05 (c.src + off)
    else
      match s1.translate v .store (c.dst + off) PaKind.isMem with
      | .error e => .failed (sectorSub .store e) (c.dst + off)
      | .ok (y, s2) =>
        if s2.outOfReach lost y.pa then .failed 0x05 (c.dst + off)
        else
          let bad := s2.sectorBad c (128 * k + i) x.pa
          let s3 := s2.performAs h (.chunk c.id k) (c.dst + off) (s2.inStorage y.pa) y.pa
            (s2.sectorBytes c (128 * k + i) x.pa) fun _ => true
          .written y.pa (s3.modPart fun p => bad.foldl (fun q j => q.markPoison (s3.cell y.pa + j)) p)

/-- A chunk after its sectors: the state, the sectors still unwritten, the first fault, the addresses written. -/
structure ChunkRun where
  s         : State
  unwritten : BitVec 128
  fault     : Option (Nat × Word)
  pas       : List Nat
  deriving DecidableEq, Repr

/-- The unwritten sectors of a chunk, in ascending order (R160). -/
def State.runChunk (s : State) (h : Nat) (c : Copy) (k : Nat) (ch : Chunk) : ChunkRun :=
  (List.range 128).foldl (fun r i =>
    if tst ch.unwritten i then
      match r.s.sector h c k ch.lost i with
      | .written pa s1 => { r with s := s1, unwritten := putBit r.unwritten i false, pas := r.pas ++ [pa] }
      | .failed sub a => { r with fault := some (r.fault.getD (sub, a)) }
    else r) { s := s, unwritten := ch.unwritten, fault := none, pas := ch.pas }

/-- The copy of hart h with a chunk replaced. -/
def State.setChunk (s : State) (h id k : Nat) (ch : Chunk) : State :=
  s.modCtx h fun x =>
    { x with copies := x.copies.map fun c => if c.id == id then { c with chunks := Map.put c.chunks k ch } else c }

/-! ### Fault records (R161) -/

/-- The fault record of a chunk (Table 8-6), but for its last word. -/
def faultRecord (h : Nat) (c : Copy) (k : Nat) (sub : Nat) (addr : Word) (bitmap : BitVec 128) : List Byte :=
  bytesOf addr 8 ++ bytesOf (BitVec.ofNat 64 (k * 2 ^ 32 + h * 0x10000 + sub * 256 + c.cb)) 8
    ++ bytesOf bitmap 16 ++ bytesOf c.qpos 4 ++ List.replicate 20 0

/-- A record goes to the fault queue of hart h, or DROP rises by 1. -/
def State.recordFault (s : State) (h : Nat) (bs : List Byte) : State :=
  let v := s.hartAt h
  let pa := ringSlot (fld v.kcpfq 12 44 * 0x1000) (fld v.kcpfq 0 6) 64 v.cpfProd
  if !v.live then s
  else if tst v.kcpfq 63 && s.ringOk pa && !tst (ofBytes 64 (s.devBytes (s.cell (pa + 56)) 8) : Word) 63 then
    (s.perform h pa (bs ++ bytesOf (BitVec.ofNat 64 (2 ^ 63)) 8) fun _ => true).modHart h
      fun x => { x with cpfProd := x.cpfProd + 1 }
  else s.modHart h fun x => { x with kcpfq := bumpDrop x.kcpfq }

/-! ### Chunks complete or fault (R158, R160) -/

/-- A chunk completes: its mask bit, then DONE (R158). -/
def completeChunk (h : Nat) (c : Copy) (k : Nat) (r : ChunkRun) : State :=
  (r.s.setChunk h c.id k { unwritten := 0, complete := true, pas := r.pas }).modCtx h fun x =>
    VCtx.prune
      { x with
        m := (x.binds.filter fun b => b.2 == c.id).foldl (fun q b => putMbit q b.1 0 k true) x.m
        mpoison := (x.binds.filter fun b => b.2 == c.id).foldl (fun q b => Map.erase q (64 * k + b.1)) x.mpoison
        barriers := barrierAdd x.barriers c.cb 0 (c.bytesOf k) }

/-- A chunk faults: its record, and it waits for a cpyr (R160, R161). -/
def faultChunk (h : Nat) (c : Copy) (k : Nat) (r : ChunkRun) (f : Nat × Word) : State :=
  let s1 := r.s.setChunk h c.id k { unwritten := r.unwritten, faulted := true, pas := r.pas }
  (s1.recordFault h (faultRecord h c k f.1 f.2 r.unwritten)).modCtx h VCtx.prune

/-- A copy of a hart of core c that was issued before one numbered seq, and that the engine has not started. -/
def State.earlierCopy (s : State) (c seq : Nat) : Bool :=
  (List.range 4).any fun t => (s.hartAt (4 * c + t)).ctx.copies.any fun q =>
    decide (q.seq < seq) && q.outstanding && q.chunks.isEmpty

/-- A chunk that the engine can still run: of a copy of hart h, neither complete nor faulted. The engine starts the copies of
a helm in the order in which it was given them (R37). -/
def State.openChunk (s : State) (h id k : Nat) : Option (Copy × Chunk) :=
  match (s.hartAt h).ctx.copies.find? fun c => c.id == id with
  | some c =>
    let ch := c.chunkAt k
    if k < c.count && !ch.complete && !ch.faulted && !(c.chunks.isEmpty && s.earlierCopy (coreOf h) c.seq) then some (c, ch)
    else none
  | none => none

/-- The first source of an unwritten sector of a chunk that lies on another node (R217). -/
def State.remoteSource (s : State) (h : Nat) (c : Copy) (k : Nat) (ch : Chunk) : Option (Word × Nat) :=
  ((List.range 128).filter fun i => tst ch.unwritten i).findSome? fun i =>
    let a := c.src + BitVec.ofNat 64 (k * c.chunkBytes + 256 * i)
    match s.translate (c.view (coreOf h)) .load a PaKind.isMem with
    | .ok (x, _) => if (s.paKind x.pa).isRemote then some (a, x.pa) else none
    | .error _ => none

/-- The source that a chunk of hart h still waits for from another node; none when it may run (R217). -/
def State.awaitedSource (s : State) (h : Nat) (c : Copy) (k : Nat) (ch : Chunk) : Option (Word × Nat) :=
  if ch.arrived || ch.lost then none else s.remoteSource h c k ch

/-- The writes of a chunk that are not yet visible at its scope: on another node, or, at sys scope, not yet accepted as
persistent (R158, R217, R237). -/
def State.chunkPending (s : State) (h : Nat) (c : Copy) (k : Nat) : Bool :=
  s.part.trans.any fun t =>
    t.write && t.hart == h && t.asker == .chunk c.id k && (!t.storage || c.scope == .sys)

/-- A chunk of a copy of the current hart goes on: it asks for sources on another node, writes its sectors if every one can
be written, and completes when its writes are visible at its scope (R158, R217). -/
def execCopyChunkComplete (copy chunk : Nat) (s : State) : Host.Outcome State Fault Refusal :=
  let h := s.cur
  match s.openChunk h copy chunk with
  | none => .next s
  | some (c, ch) =>
    match s.awaitedSource h c chunk ch with
    | some a =>
      .next (if ch.asked then s
        else (s.ask h (.chunk copy chunk) a.1 a.2).setChunk h copy chunk { ch with asked := true })
    | none =>
      let r := s.runChunk h c chunk ch
      if r.fault.isSome then .next s
      else if r.s.chunkPending h c chunk then
        .next (r.s.setChunk h copy chunk { ch with unwritten := r.unwritten, pas := r.pas })
      else .next (completeChunk h c chunk r)

/-- A chunk of a copy of the current hart faults, if a sector of it does (R160). Records are written in ascending chunk
order: the chunks before it have completed or faulted (R266). -/
def execCopySectorFault (copy chunk : Nat) (s : State) : Host.Outcome State Fault Refusal :=
  let h := s.cur
  match s.openChunk h copy chunk with
  | none => .next s
  | some (c, ch) =>
    let r := s.runChunk h c chunk ch
    match s.awaitedSource h c chunk ch, r.fault with
    | none, some f =>
      if (List.range chunk).all fun j => (c.chunkAt j).complete || (c.chunkAt j).faulted
      then .next (faultChunk h c chunk r f) else .next s
    | _, _ => .next s

/-- A transaction of a chunk of hart h has become unreachable: a sector whose write it was is unwritten again, and the chunk
will fault (R219). -/
def State.loseChunk (s : State) (h : Nat) (id k : Nat) (t : Transaction) : State :=
  match (s.hartAt h).ctx.copies.find? fun c => c.id == id with
  | none => if t.write then s.writeLost h t.pa else s
  | some c =>
    let ch := c.chunkAt k
    if ch.complete then (if t.write then s.writeLost h t.pa else s)
    else
      let i := (t.addr - c.dst).toNat % c.chunkBytes / 256
      s.setChunk h id k { ch with lost := !ch.faulted, unwritten := if t.write then putBit ch.unwritten i true else ch.unwritten }

/-- The first chunk of a copy of hart h that the engine can run. -/
def State.nextChunk (s : State) (h : Nat) : Option (Nat × Nat) :=
  match (s.hartAt h).ctx.copies.find? Copy.outstanding with
  | some c =>
    ((List.range c.count).find? fun k => !(c.chunkAt k).complete && !(c.chunkAt k).faulted).map fun k => (c.id, k)
  | none => none

end Sys2Proof.Machine
end

