-- ==== Sys2Proof/Machine/Matrix.lean ====
section
/-! DEFINITION. The matrix array: matrix mode, tile grants, tiles, the tile product with its flush, term counters and
residue check, draining and filling (R102-R126, R262, R322-R326, R328, R330-R333, R336). -/

namespace Sys2Proof.Machine

/-! ### Tiles -/

/-- Tile tags (R120). -/
def tileF48 : Tag := 1
def tileINT48 : Tag := 2

/-- A tile tag operand (R120). -/
def tileTagOk (t : Tag) : Bool := t == tileF48 || t == tileINT48

/-- Tile z of the core of hart h. -/
def State.tile (s : State) (h : Nat) (z : ZReg) : Tile := Map.get {} (s.coreAt (coreOf h)).tiles z.toNat

/-- Tile z changed. -/
def State.modTile (s : State) (h : Nat) (z : ZReg) (f : Tile → Tile) : State :=
  s.modCore (coreOf h) fun k => { k with tiles := Map.modify {} k.tiles z.toNat f }

/-- A poisoned cell of tile z of hart h that `p` picks by its row and its tile column (R103, R206). -/
def State.tilePoison (s : State) (h : Nat) (z : ZReg) (p : Nat → Nat → Bool) : Bool :=
  (s.coreAt (coreOf h)).zpoison.any fun e =>
    e.1 % 32 == z.toNat && (regroup (s.clusterSet h) (List.range 16) (e.1 / 32 % 512)).any (p (e.1 / 32 / 512))

/-- New data in the cells of tile z that `p` picks takes their poison away (R206). -/
def State.cleanTile (s : State) (h : Nat) (z : ZReg) (p : Nat → Nat → Bool) : State :=
  s.modCore (coreOf h) fun k => { k with zpoison := k.zpoison.filter fun e =>
    !(e.1 % 32 == z.toNat && (regroup (s.clusterSet h) (List.range 16) (e.1 / 32 % 512)).any (p (e.1 / 32 / 512))) }

/-- The tile width of hart h (R106). -/
def State.mvl (s : State) (h : Nat) : Nat := 32 * (s.clusterSet h).length

/-- The physical column of tile column j in the cluster set S (R103). -/
def physCol (clusters : List Nat) (j : Nat) : Nat := 32 * clusters.getD (j / 32) 0 + j % 32

/-- Element (i, j) of a tile under a cluster set. -/
def Tile.at (t : Tile) (clusters : List Nat) (i j : Nat) : W48 :=
  Sparse.read t.fill t.cells (512 * i + physCol clusters j)

/-- Element (i, j) of a tile set. -/
def Tile.put (t : Tile) (clusters : List Nat) (i j : Nat) (v : W48) : Tile :=
  { t with cells := Sparse.write t.fill t.cells (512 * i + physCol clusters j) v }

/-- Event bits and check counters cleared, with a tag (R114, R125). -/
def Tile.retag (t : Tile) (tag : Tag) : Tile :=
  { t with tag := tag, nv := false, of_ := false, pass := 0, mismatch := 0, abstain := 0 }

/-- Step 3 of R324: the context owns the array and, under the shadow option, the tile is one of z0-z15. -/
def State.matrixOk (s : State) (h : Nat) (z : ZReg) : Bool :=
  s.ownsArray h && !((s.hartAt h).ctx.shadow && decide (16 ≤ z.toNat))

/-! ### Rows read and written (R122, R323) -/

/-- Rows lo … hi−1 of a tile. -/
def rowSet (lo hi : Nat) : BitVec 256 := BitVec.ofNat 256 (2 ^ hi - 2 ^ lo)

/-- The rows of a tile that a strip has not yet copied are copied to its shadow (R122). -/
def State.shadowRows (s : State) (h : Nat) (st : Strip) (z : Nat) (wr : BitVec 256) : State :=
  let done := Map.get 0 st.shadowed z
  let new := wr &&& ~~~done
  if new = 0 then s
  else
    let tag := ((st.ck.marks.find? fun k => k.z == z).map fun k => k.tag).getD 0
    let s1 := s.modCore (coreOf h) fun k =>
      { k with tiles := Map.modify {} (copyTileRows k.tiles z (z + 16) new) (z + 16) fun t => { t with tag := tag }
               zpoison := copyTileMarks k.zpoison z (z + 16) new }
    s1.modStrip h fun x => { x with shadowed := Map.put x.shadowed z (done ||| new) }

/-- A matrix instruction of hart h reads and writes rows of tile z: the strip seals, or the shadow copies (R81, R122,
R323). The shadow option governs a strip whose vsetl has marked the tiles (R330). -/
def State.touchRows (s : State) (h : Nat) (z : ZReg) (rd wr : BitVec 256) : State :=
  match (s.hartAt h).ctx.strip with
  | none => s
  | some st =>
    if (s.hartAt h).ctx.shadow && !st.ck.marks.isEmpty then s.shadowRows h st z.toNat wr
    else if st.isSealed then s
    else
      let w0 := Map.get 0 st.zw z.toNat
      let r1 := Map.get 0 st.zr z.toNat ||| (rd &&& ~~~w0)
      let s1 := s.modStrip h fun x =>
        { x with zr := Map.put x.zr z.toNat r1, zw := Map.put x.zw z.toNat (w0 ||| wr) }
      if wr &&& r1 = 0 then s1 else s1.seal h

/-! ### Matrix mode (R104, R330) -/

/-- The checks of an enter (R330 step 1). -/
def State.enterOk (s : State) (h : Nat) : Bool :=
  let c := coreOf h
  let t := ctxOf h
  s.minOf c t == s.maxOf c t && decide (1 ≤ s.maxOf c t) && decide (s.maxOf c t ≤ (s.held c t).length)

/-- The array is the context's: the shadow option, whose marks begin at the next vsetl. -/
def State.entered (s : State) (h : Nat) (shadow : Bool) : State :=
  (s.modStrip h fun st => { st with ck := { st.ck with marks := [] }, shadowed := [] }).modCtx h
    fun c => { c with shadow := shadow }

/-- mmode enter: an enter that has waited takes no check again. -/
def execMmodeEnter (shadow : Bool) (s : State) : Host.Outcome State Fault Refusal :=
  let h := s.cur
  let waited := s.ctx.waiting == some .array
  if !waited && (s.ownsArray h || !s.enterOk h) then endV s (.error matrixFault)
  else
    let s1 := if s.ownsArray h then s else s.modCore (coreOf h) fun k => k.queueArray h
    endV s (if s1.ownsArray h then .ok (s1.entered h shadow) else .error (.wait .array s1))

/-- mmode leave. -/
def execMmodeLeave (s : State) : Host.Outcome State Fault Refusal :=
  let h := s.cur
  endV s (if s.ownsArray h then
      .ok ((s.modCore (coreOf h) fun k => k.leaveArray h).modCtx h fun c => { c with shadow := false })
    else .error matrixFault)

/-- The first waiting context of the current hart's core takes a free array (R104). -/
def execMatrixArrayGrant (s : State) : Host.Outcome State Fault Refusal :=
  .next (s.modCore (coreOf s.cur) Core.grantArray)

/-! ### The tile grant (R107, R108, R332) -/

/-- M, N and K of a packed word (Table 6-3). -/
def packM (w : Word) : Nat := fld w 0 16
def packN (w : Word) : Nat := fld w 16 16
def packK (w : Word) : Nat := fld w 32 32

/-- A packed grant. -/
def packTile (m n k : Nat) : Word := BitVec.ofNat 64 (m % 2 ^ 16 + n % 2 ^ 16 * 2 ^ 16 + k % 2 ^ 32 * 2 ^ 32)

/-- The grant of R107 for capacities VA, VB and a tile width. -/
def tileGrant (req : Word) (va vb mvl : Nat) : Word :=
  let m := min (packM req) 256
  let n := min (packN req) mvl
  let k := if m = 0 ∨ n = 0 then 0 else min (packK req) (min (va / m) (8 * vb / n))
  packTile m n (k / 2 * 2)

/-- msettile. -/
def execMsettile (bd bs : BReg) (va vb : VReg) (s : State) : Host.Outcome State Fault Refusal :=
  let h := s.cur
  let x := s.ctx
  let w := s.sweep h
  let ta := x.tagAt va.toNat
  let tb := x.tagAt vb.toNat
  endV s (do
    need (vb.toNat % 8 == 0) illegalWord
    need (ta != tagNONE && tb != tagNONE) tagFault
    need (s.ownsArray h) matrixFault
    let g := tileGrant (x.br bs) (w.capacity ta) (w.capacity tb) (s.mvl h)
    .ok (s.modCtx h fun c => { c.bw bd g with kmtile := g }))

/-! ### Tiles zeroed, retagged, checked (R322, R333, R336) -/

/-- mzero. -/
def execMzero (z : ZReg) (tag : Tag) (s : State) : Host.Outcome State Fault Refusal :=
  let h := s.cur
  endV s (do
    need (tileTagOk tag) tagFault
    need (s.matrixOk h z) matrixFault
    let s1 := s.touchRows h z 0 (rowSet 0 256)
    let s2 := s1.modTile h z fun t => { t.retag tag with fill := 0, cells := [] }
    .ok (s2.modCore (coreOf h) fun k => { k with zpoison := k.zpoison.filter fun e => e.1 % 32 != z.toNat }))

/-- mtag. -/
def execMtag (z : ZReg) (tag : Tag) (s : State) : Host.Outcome State Fault Refusal :=
  let h := s.cur
  endV s (do
    need (tileTagOk tag) tagFault
    need (s.matrixOk h z) matrixFault
    let s1 := if (s.tile h z).tag = tag then s else s.touchRows h z (rowSet 0 256) (rowSet 0 256)
    .ok (s1.modTile h z fun t => t.retag tag))

/-- The counter that mchk reads. -/
def Tile.counter (t : Tile) : ChkSel → W32
  | .pass => t.pass
  | .mismatch => t.mismatch
  | .abstain => t.abstain

/-- mchk. -/
def execMchk (sel : ChkSel) (clr : Bool) (bd : BReg) (z : ZReg) (s : State) : Host.Outcome State Fault Refusal :=
  let h := s.cur
  endV s (do
    need (s.matrixOk h z) matrixFault
    let s1 := s.bw bd (zext ((s.tile h z).counter sel))
    .ok (if clr then s1.modTile h z fun t => { t with pass := 0, mismatch := 0, abstain := 0 } else s1))

/-! ### Loads and stores of tiles (R328) -/

/-- The elements of the region of mldz and mstz, by ascending row and column. -/
def tileElems (a st : Word) (m n : Nat) : List MemElem :=
  (List.range m).flatMap fun i => (List.range n).map fun j =>
    { r := i, c := j, va := a + BitVec.ofNat 64 i * st + BitVec.ofNat 64 (8 * j), n := 8, sh := 0 }

/-- The checks of mldz and mstz after the tile tag, and their pins (R328). -/
def State.tileRegion (s : State) (h : Nat) (b1 b2 : BReg) (acc : Acc) :
    Except VStop (List MemElem × Pins × State) := do
  let x := (s.hartAt h).ctx
  let n := packN x.kmtile
  need (decide (n ≤ s.mvl h)) matrixFault
  let a := x.br b1
  let st := x.br b2
  need (aligned a 8) (.fault 0x06 a)
  need (aligned st 8) (.fault 0x06 (a + st))
  let els := tileElems a st (packM x.kmtile) n
  let v := s.vecView h
  let (p, s1) ← s.probe v acc (pagesOf v.kspb els) []
  .ok (els, p, s1)

/-- The rows that mldz reads and writes (Table 21-1). -/
def mldzRows (m n mvl : Nat) (changed : Bool) : BitVec 256 × BitVec 256 :=
  let part := if n < mvl then rowSet 0 (min m 256) else 0
  let rest := if changed then rowSet (min m 256) 256 else 0
  (part ||| rest, rowSet 0 (min m 256) ||| rest)

/-- mldz. -/
def execMldz (z : ZReg) (b1 b2 : BReg) (tag : Tag) (s : State) : Host.Outcome State Fault Refusal :=
  let h := s.cur
  endV s (do
    need (tileTagOk tag) tagFault
    need (s.matrixOk h z) matrixFault
    let (els, p, s1) ← s.tileRegion h b1 b2 .load
    let v := s.vecView h
    s1.awaitData h v p false els
    let (rd, wr) := mldzRows (packM s.ctx.kmtile) (packN s.ctx.kmtile) (s.mvl h) ((s.tile h z).tag != tag)
    let s2 := s1.touchRows h z rd wr
    let vals ← s2.readElems h v.kspb p (fun e bs => ((e, ofBytes 48 bs) : MemElem × W48)) els
    let s3 := (s2.heat v .strided p els).cleanTile h z
      fun r c => decide (r < packM s.ctx.kmtile) && decide (c < packN s.ctx.kmtile)
    .ok (s3.modTile h z fun t =>
      (vals.foldl (fun q e => q.put (s.clusterSet h) e.1.r e.1.c e.2) t).retag tag))

/-- mstz: a poisoned element is written poisoned, unread (R206, R207). -/
def execMstz (z : ZReg) (b1 b2 : BReg) (s : State) : Host.Outcome State Fault Refusal :=
  let h := s.cur
  endV s (do
    need (s.matrixOk h z) matrixFault
    let t := s.tile h z
    need (t.tag != tagNONE) tagFault
    let (els, p, s1) ← s.tileRegion h b1 b2 .store
    let v := s.vecView h
    let s2 := ((s1.sealIO h p).touchRows h z (rowSet 0 (min (packM s.ctx.kmtile) 256)) 0).makeRoom h (8 * els.length)
    let s3 := els.foldl (fun u e =>
      u.vecStore h (pinnedPa v.kspb p e 0) (bytesOf ((t.at (s.clusterSet h) e.r e.c).setWidth 64) 8)
        (List.replicate 8 0xFF) (s.tilePoison h z fun r c => r == e.r && c == e.c)) s2
    .ok (s3.heat v .strided p els))

/-! ### Recoding (R102) -/

/-- Non-zero digits of the non-adjacent form of n. -/
def nafTerms (n : Nat) : Nat := onesCount (n.log2 + 3) (n ^^^ (3 * n))

/-- Terms of a B element. -/
def termsOf : Num → Nat
  | .nan _ => 1
  | .inf _ => 1
  | .fin _ n _ _ => nafTerms n

/-! ### mop (R109-R116, R123-R125, R331) -/

/-- The A tags and the B tags of the F48 row of Table 6-4. -/
def f48A (t : Tag) : Bool := t == tagFP32 || t == tagBF16 || t == tagFP16 || t == tagE4M3 || t == tagE5M2
def f48B (t : Tag) : Bool :=
  t == tagBF16 || t == tagFP16 || t == tagE4M3 || t == tagE5M2 || t == tagE3M2 || t == tagE2M3 || t == tagE2M1
    || (decide (0x20 ≤ t.toNat) && decide (t.toNat ≤ 0x27))

/-- The tile tag that a pairing takes (Table 6-4); none is a tag fault. -/
def mopPairing (ta tb : Tag) (scales : Bool) : Option Tag :=
  if f48A ta && f48B tb then some tileF48
  else if (isSint ta || isUint ta) && (isSint tb || isUint tb) && decide (elemBits ta + elemBits tb ≤ 32) && !scales
    then some tileINT48
  else none

/-- The operands of a mop: registers, tags, grant, block of the scales. -/
structure MopEnv where
  x  : VCtx
  w  : Sweep
  ta : Tag
  tb : Tag
  va : Nat
  vb : Nat
  sc : Option (VReg × VReg)
  m  : Nat
  n  : Nat
  k  : Nat
  bk : Nat
  deriving DecidableEq, Repr

/-- Blocks of scales along k. -/
def MopEnv.nb (e : MopEnv) : Nat := (e.k + e.bk - 1) / e.bk

/-- A(i, k). -/
def MopEnv.a (e : MopEnv) (i k : Nat) : Num := decodeElem e.ta (e.x.elem e.w.lanes e.ta e.va (i * e.k + k))

/-- B(k, j). -/
def MopEnv.b (e : MopEnv) (k j : Nat) : Num :=
  let cap := e.w.capacity e.tb
  let f := k * e.n + j
  decodeElem e.tb (e.x.elem e.w.lanes e.tb (e.vb + f / cap) (f % cap))

/-- A scale register's element, or 1. -/
def MopEnv.scale (e : MopEnv) (v : Option VReg) (col : Nat) : Num :=
  match v with
  | some r => decodeE8M0 (e.x.elem e.w.lanes tagE8M0 r.toNat col)
  | none => .fin false 1 1 0

/-- SA(i, b) and SB(b, j). -/
def MopEnv.sa (e : MopEnv) (i b : Nat) : Num := e.scale (e.sc.map fun p => p.1) (i * e.nb + b)
def MopEnv.sb (e : MopEnv) (b j : Nat) : Num := e.scale (e.sc.map fun p => p.2) (b * e.n + j)

/-- The products of element (i, j), in ascending k, exactly. -/
def MopEnv.products (e : MopEnv) (i j : Nat) : List Num :=
  (List.range e.k).map fun k =>
    ((((e.a i k).mul (e.sa i (k / e.bk))).1.mul (e.b k j)).1.mul (e.sb (k / e.bk) j)).1

/-- A product of an infinite factor and a zero one (R112). -/
def MopEnv.infZero (e : MopEnv) (i j : Nat) : Bool :=
  (List.range e.k).any fun k =>
    ((e.a i k).isInf && (e.b k j).isZero) || ((e.a i k).isZero && (e.b k j).isInf)

/-- A flushed element: its bits, the events, whether it overflowed or saturated. -/
structure Flushed where
  bits : W48
  nv   : Bool
  of_  : Bool
  deriving DecidableEq, Repr

/-- The F48 bits of a rounded value. -/
def f48Bits (r : FloatRes) : W48 := BitVec.ofNat 48 (encodeFloat fmtF48 r)

/-- A candidate meets the bound of R112 about an exact sum, with magnitudes summing to `mag`. -/
def withinBound (k : Nat) (cand exact mag : Num) : Bool :=
  match cand with
  | .fin _ _ _ _ =>
    let d := (Num.add false cand exact.negate).1.withSign false
    !((mag.mul (.ofInt (2 ^ 14 + k))).1.lt (d.mul (.ofInt (2 ^ 36))).1)
  | .nan _ => false
  | .inf _ => false

/-- Flush into an F48 tile (R112): specials and overflow are exact; else any value within the bound, chosen by the free
value `cand` (log 9). DESIGN CHOICE (log 136): NV is recorded for ∞ − ∞ and ∞ · 0 alone, as R112 names them, and not for a
signalling NaN in A, in B or in the tile (R97). -/
def flushF48 (k : Nat) (z : W48) (prods : List Num) (infZero : Bool) (cand : W48) : Flushed :=
  let zn := decodeFmt fmtF48 z.toNat
  let all := zn :: prods
  let clash := (all.any fun p => p.isInf && p.isNeg) && (all.any fun p => p.isInf && !p.isNeg)
  if (all.any Num.isNan) || clash then { bits := f48Bits .nan, nv := infZero || clash, of_ := false }
  else
    match all.find? Num.isInf with
    | some p => { bits := f48Bits (.inf p.isNeg), nv := false, of_ := false }
    | none =>
      let exact := prods.foldl (fun a p => (Num.add false a p).1) zn
      let mag := prods.foldl (fun a p => (Num.add false a (p.withSign false)).1) (zn.withSign false)
      let r := (roundFloat fmtF48 .rne 0 exact).1
      match r with
      | .inf _ => { bits := f48Bits r, nv := false, of_ := true }
      | _ =>
        if withinBound k (decodeFmt fmtF48 cand.toNat) exact mag then { bits := cand, nv := false, of_ := false }
        else { bits := f48Bits r, nv := false, of_ := false }

/-- An exact value that is an integer. -/
def Num.toInt : Num → Int
  | .fin s n d e => let (a, b) := scale2 n d e; if s then -((a / b : Nat) : Int) else ((a / b : Nat) : Int)
  | .nan _ => 0
  | .inf _ => 0

/-- Flush into an INT48 tile (R113). -/
def flushINT48 (z : W48) (prods : List Num) : Flushed :=
  let t := prods.foldl (fun a p => a + p.toInt) z.toInt
  let top : Int := 2 ^ 47 - 1
  if top < t then { bits := BitVec.ofInt 48 top, nv := false, of_ := true }
  else if t < -top then { bits := BitVec.ofInt 48 (-top), nv := false, of_ := true }
  else { bits := BitVec.ofInt 48 t, nv := false, of_ := false }

/-- How many times 2 divides n, as far as the fuel goes. -/
def twosIn : Nat → Nat → Nat
  | 0, _ => 0
  | f + 1, n => if n % 2 = 0 then twosIn f (n / 2) + 1 else 0

/-- The exponents between which the non-zero products lie, by their values: lowest bit that is 1, one beyond the highest
(R124). -/
def spanOf (l : List Num) : Option (Int × Int) :=
  l.foldl (fun o p =>
    match p with
    | .fin _ n _ e =>
      if n = 0 then o
      else
        let lo := e + (twosIn n.log2 n : Int)
        let hi := e + (n.log2 : Int) + 1
        match o with
        | some (a, b) => some (min a lo, max b hi)
        | none => some (lo, hi)
    | .nan _ => o
    | .inf _ => o) none

/-- The value is an infinity or a NaN. -/
def Num.special (x : Num) : Bool := x.isNan || x.isInf

/-- The columns j < N′ of group g. -/
def MopEnv.groupCols (e : MopEnv) (g : Nat) : List Nat :=
  (List.range (min 32 (e.n - 32 * g))).map fun i => 32 * g + i

/-- The B operands and scales of a group hold an infinity or NaN (R124). -/
def MopEnv.badGroup (e : MopEnv) (g : Nat) : Bool :=
  (e.groupCols g).any fun j =>
    ((List.range e.k).any fun k => (e.b k j).special) || ((List.range e.nb).any fun b => (e.sb b j).special)

/-- The A operands and scales of a row hold an infinity or NaN (R124). -/
def MopEnv.badRow (e : MopEnv) (i : Nat) : Bool :=
  ((List.range e.k).any fun k => (e.a i k).special) || ((List.range e.nb).any fun b => (e.sa i b).special)

/-- Element (i, j) of the tile after the mop. -/
def MopEnv.flush (e : MopEnv) (t : Tile) (tick i j : Nat) : Flushed :=
  let z := t.at e.w.clusters i j
  if t.tag = tileF48 then
    flushF48 e.k z (e.products i j) (e.infZero i j) (Config.freeF48 tick (512 * i + j))
  else flushINT48 z (e.products i j)

/-- The counter of a check raised, saturating (R125). -/
def countUp (n : W32) : W32 := BitVec.ofNat 32 (sat32 (n.toNat + 1))

/-- One (row, group) of a mop: the elements flushed, the events, and its comparison counted as passed, mismatched or
abstained (R123-R125). The exact comparison mismatches only where an upset is `pending`, which it then finds. -/
def MopEnv.rowGroup (e : MopEnv) (old : Tile) (tick i g : Nat) (z : Tile × Bool) : Tile × Bool :=
  let (t, pending) := z
  let cols := e.groupCols g
  let fl := cols.map fun j => (j, e.flush old tick i j)
  let t1 := fl.foldl (fun q f => { q.put e.w.clusters i f.1 f.2.bits with nv := q.nv || f.2.nv, of_ := q.of_ || f.2.of_ }) t
  let wide := match spanOf (cols.flatMap fun j => e.products i j) with
    | some (a, b) => decide (96 < b - a)
    | none => false
  let abstains := e.badRow i || e.badGroup g || (fl.any fun f => f.2.of_) || wide
  if abstains then ({ t1 with abstain := countUp t1.abstain }, pending)
  else if pending then ({ t1 with mismatch := countUp t1.mismatch }, false)
  else ({ t1 with pass := countUp t1.pass }, false)

/-- The groups that hold a column j < N′. -/
def MopEnv.groups (e : MopEnv) : List Nat := (List.range e.w.clusters.length).filter fun g => decide (32 * g < e.n)

/-- The tile after a mop, and whether an upset is still pending. -/
def MopEnv.run (e : MopEnv) (tick : Nat) (upset : Bool) (old : Tile) : Tile × Bool :=
  e.groups.foldl (fun t g => (List.range e.m).foldl (fun u i => e.rowGroup old tick i g u) t) (old, upset)

/-- Terms, term-cycles and idle cell-cycles of a group (R115, R116). -/
def MopEnv.counts (e : MopEnv) (g : Nat) : Nat × Nat × Nat :=
  let cols := e.groupCols g
  (List.range (e.k / 2)).foldl (fun z m =>
    let ts := cols.flatMap fun j => [termsOf (e.b (2 * m) j), termsOf (e.b (2 * m + 1) j)]
    let top := ts.foldl max 0
    let sum := ts.foldl (· + ·) 0
    (z.1 + sum, z.2.1 + top, z.2.2 + (2 * cols.length * top - sum))) (0, 0, 0)

/-- The counters of a cluster raised. -/
def TermCounters.add (t : TermCounters) (n : Nat × Nat × Nat) : TermCounters :=
  { terms := t.terms + BitVec.ofNat 56 n.1, tcycles := t.tcycles + BitVec.ofNat 56 n.2.1,
    idle := t.idle + BitVec.ofNat 56 n.2.2 }

/-- The counters of the clusters, and the counts of the open strip, after a mop (R116, R220). -/
def State.countTerms (s : State) (h : Nat) (e : MopEnv) : State :=
  e.groups.foldl (fun u g =>
    let n := e.counts g
    (u.modCore (coreOf h) fun k =>
      { k with counters := Map.modify {} k.counters (e.w.clusters.getD g 0) fun t => t.add n }).modStrip h fun st =>
      { st with cnt := { st.cnt with terms := st.cnt.terms + n.1, tcycles := st.cnt.tcycles + n.2.1,
                                     idle := st.cnt.idle + n.2.2 } }) s

/-- Step 5 of R324 for a mop: scales need BLK, and the operands fit their registers (R109, R331). -/
def MopEnv.shapeOk (e : MopEnv) (blk mvl : Nat) : Bool :=
  !(e.sc.isSome && blk == 0) && decide (e.n ≤ mvl) && decide (e.m * e.k ≤ e.w.capacity e.ta)
    && decide (e.k * e.n ≤ 8 * e.w.capacity e.tb)
    && (e.sc.isNone || (decide (e.m * e.nb ≤ e.w.capacity tagE8M0) && decide (e.nb * e.n ≤ e.w.capacity tagE8M0)))

/-- The scale registers of a mop. -/
def scaleRegs : Option (VReg × VReg) → List Nat
  | some (a, b) => [a.toNat, b.toNat]
  | none => []

/-- A register element that the mop reads is poisoned (R207). -/
def MopEnv.operandsBad (e : MopEnv) : Bool :=
  let bad := e.x.regBad e.w.lanes
  let cap := e.w.capacity e.tb
  bad e.va (e.m * e.k) || ((List.range 8).any fun i => bad (e.vb + i) (min cap (e.k * e.n - i * cap)))
    || (match e.sc with
        | some (a, b) => bad a.toNat (e.m * e.nb) || bad b.toNat (e.nb * e.n)
        | none => false)

/-- mop of hart h: the strip that it seals is sealed before it performs (R323). DEDUCED (log 53): one with K', M' or N' = 0
changes no element and counts no comparison of R125. -/
def State.mop (s : State) (h : Nat) (z : ZReg) (va vb : VReg) (sc : Option (VReg × VReg)) : Except VStop State := do
  let x := (s.hartAt h).ctx
  let w := s.sweep h
  need (vb.toNat % 8 == 0) illegalWord
  let ta := x.tagAt va.toNat
  let tb := x.tagAt vb.toNat
  need ((List.range 8).all fun i => x.tagAt (vb.toNat + i) == tb) tagFault
  need ((scaleRegs sc).all fun r => x.tagAt r == tagE8M0) tagFault
  let want ← (match mopPairing ta tb sc.isSome with
    | some t => .ok t
    | none => .error tagFault : Except VStop Tag)
  need (s.matrixOk h z) matrixFault
  need ((s.tile h z).tag == want) tagFault
  let blk := fld x.grant.vtype 8 4
  let e : MopEnv :=
    { x := x, w := w, ta := ta, tb := tb, va := va.toNat, vb := vb.toNat, sc := sc, m := packM x.kmtile
      n := packN x.kmtile, k := packK x.kmtile, bk := if blk = 0 then max 1 (packK x.kmtile) else 8 * 2 ^ blk }
  need (e.shapeOk blk (s.mvl h)) matrixFault
  let reads : Touch := { rv := va.toNat :: (List.range 8).map (fun i => vb.toNat + i) ++ scaleRegs sc }
  let rows := rowSet 0 (min e.m 256)
  let s1 := (s.touch h reads).touchRows h z rows rows
  if e.k = 0 ∨ e.m = 0 ∨ e.n = 0 then .ok s1
  else
    need (!e.operandsBad) (.poisoned s1 1 0)
    need (!s1.tilePoison h z fun r c => decide (r < e.m) && decide (c < e.n)) (.poisoned s1 3 0)
    let (t, pending) := e.run s.tick x.termUpset (s1.tile h z)
    let s2 := (s1.countTerms h e).modTile h z fun _ => t
    if x.termUpset && !pending then
      .error (.poisoned (s2.modCtx h fun c => { c with termUpset := false }) 4 0)
    else .ok s2

/-- mop. -/
def execMop (z : ZReg) (va vb : VReg) (sc : Option (VReg × VReg)) (s : State) : Host.Outcome State Fault Refusal :=
  endV s (s.mop s.cur z va vb sc)

/-! ### Draining and filling (R118, R120, R325, R326) -/

/-- The tags that mdrain takes (R325). -/
def drainTagOk (t : Tag) : Bool := tagListed t && t != tagNONE && t != tagZP

/-- Rows row0 … row0+vrows−1 of a tile. -/
def drainRows (row0 vrows : Nat) : BitVec 256 := rowSet row0 (row0 + vrows)

/-- mdrain of hart h. -/
def State.drainTile (s : State) (h : Nat) (vd : VReg) (z : ZReg) (bn : BReg) (tag : Tag) (rm : Rm) :
    Except VStop State := do
  let v := s.hartAt h
  let x := v.ctx
  let w := s.sweep h
  need (w.inRange vd) illegalWord
  need (drainTagOk tag && w.fits tag) tagFault
  need (s.matrixOk h z) matrixFault
  let t := s.tile h z
  need (t.tag != tagNONE) tagFault
  let row0 := fld (x.br bn) 0 8
  need (decide (row0 + w.vrows ≤ 256)) matrixFault
  if w.g = 0 then .ok s
  else
    let m := rmode v.kfrm rm
    let mvl := s.mvl h
    let rsto := m == .rsto && !(t.tag == tileINT48 && isInteger tag)
    let fate (r c : Nat) : Fate :=
      if w.flat r c < w.g ∧ c < mvl then .active else if w.ta then .ones else .keep
    let s1 ← (s.touchRows h z (drainRows row0 w.vrows) 0).sweepTouch h w { wv := w.written vd fate }
    need (!s1.tilePoison h z fun r c => decide (row0 ≤ r) && fate (r - row0) c == .active && decide (r < row0 + w.vrows)
      && decide (c < w.vl)) (.poisoned s1 3 0)
    (s1.raiseFlags h (evIf t.nv evNV ||| evIf t.of_ evOF)).sweepApply h w vd tag false fate rsto fun r c rnd =>
      let e := t.at w.clusters (row0 + r) c
      if t.tag = tileF48 then narrowNum tag m rnd (decodeFmt fmtF48 e.toNat) else narrowInt tag m rnd false e.toInt

/-- mdrain. -/
def execMdrain (vd : VReg) (z : ZReg) (bn : BReg) (tag : Tag) (rm : Rm) (s : State) :
    Host.Outcome State Fault Refusal :=
  endV s (s.drainTile s.cur vd z bn tag rm)

/-- The tile tag that a source of mfill goes to (Table 21-3). -/
def fillPairing (t : Tag) : Option Tag :=
  if t = tagFP32 ∨ t = tagBF16 ∨ t = tagFP16 then some tileF48
  else if t = tagINT32 ∨ t = tagUINT32 then some tileINT48
  else none

/-- One element converted exactly into a tile: its bits, and whether it was a signalling NaN. -/
def fillElem (t : Tag) (bits : Nat) : W48 × Bool :=
  if isInteger t then (BitVec.ofInt 48 (decodeInt t bits), false)
  else (f48Bits (roundFloat fmtF48 .rne 0 (decodeElem t bits)).1, (decodeElem t bits).isSnan)

/-- mfill of hart h. -/
def State.fillTile (s : State) (h : Nat) (z : ZReg) (va : VReg) (bn : BReg) : Except VStop State := do
  let x := (s.hartAt h).ctx
  let w := s.sweep h
  need (w.inRange va) illegalWord
  let ta ← sourceTag x w va
  let want ← (match fillPairing ta with
    | some t => .ok t
    | none => .error tagFault : Except VStop Tag)
  need (s.matrixOk h z) matrixFault
  need ((s.tile h z).tag == want) tagFault
  let row0 := fld (x.br bn) 0 8
  need (decide (row0 + w.vrows ≤ 256)) matrixFault
  if w.g = 0 then .ok s
  else
    let reads : Touch := { rv := w.group va }
    let cells := w.elements.filter fun e => decide (e.2 < s.mvl h)
    let whole (r : Nat) : Bool := decide (s.mvl h ≤ (cells.filter fun e => e.1 == r).length)
    let rd := (List.range w.vrows).foldl (fun b r => if whole r then b else b ||| rowSet (row0 + r) (row0 + r + 1)) 0
    let s1 := (s.touch h reads).touchRows h z rd (drainRows row0 w.vrows)
    need (!poisonedReads x w reads) (.poisoned s1 1 0)
    let s2 := s1.cleanTile h z fun r c => cells.any fun e => row0 + e.1 == r && e.2 == c
    .ok (s2.modTile h z fun t => cells.foldl (fun q e =>
      let (b, sig) := fillElem ta (x.elem w.lanes ta (va.toNat + e.1) e.2)
      { q.put w.clusters (row0 + e.1) e.2 b with nv := q.nv || sig }) t)

/-- mfill. -/
def execMfill (z : ZReg) (va : VReg) (bn : BReg) (s : State) : Host.Outcome State Fault Refusal :=
  endV s (s.fillTile s.cur z va bn)

end Sys2Proof.Machine
end

