-- ==== Sys2Proof/Machine/Terms.lean ====
section
/-! DEFINITION. Monomials, orders, coefficients and term records of the stream unit, without the machine (R128-R130,
R136, R139, R140, R143, R144, R269, R339, R343, R350, R351). -/

namespace Sys2Proof.Machine

/-! ### Monomials (R129, R130) -/

/-- Variables of a layout, and the bits of each (Table 7-1). -/
def layoutVars (layout : Nat) : Nat := if layout = 0 then 8 else if layout = 1 then 4 else 2

/-- Bits of a variable of a layout. -/
def layoutBits (layout : Nat) : Nat := 64 / layoutVars layout

/-- The exponents of a packed monomial, variable 0 first (R129). -/
def exponents (layout : Nat) (m : Word) : List Nat :=
  let b := layoutBits layout
  (List.range (layoutVars layout)).map fun i => fld m (64 - b * (i + 1)) b

/-- The packed monomial of exponents that fit. -/
def packMono (layout : Nat) (l : List Nat) : Word :=
  BitVec.ofNat 64 (l.foldl (fun a x => a * 2 ^ layoutBits layout + x) 0)

/-- Every exponent fits its field. -/
def fitsLayout (layout : Nat) (l : List Nat) : Bool := l.all fun x => decide (x < 2 ^ layoutBits layout)

/-- Total degree (R130). -/
def degree (l : List Nat) : Nat := l.foldl (· + ·) 0

/-- The first variable in which two lists differ decides: the first list is smaller. -/
def lexLt : List Nat → List Nat → Bool
  | a :: as, b :: bs => decide (a < b) || (a == b && lexLt as bs)
  | [], _ => false
  | _ :: _, [] => false

/-- Strictly below under an order (R130): 0 lex, 1 grlex, 2 grevlex, 3 index. -/
def monoLt (order : Nat) (a b : List Nat) : Bool :=
  if order = 1 then decide (degree a < degree b) || (degree a == degree b && lexLt a b)
  else if order = 2 then decide (degree a < degree b) || (degree a == degree b && lexLt b.reverse a.reverse)
  else lexLt a b

/-- The product of monomials, by its exact exponents. -/
def monoMul (a b : List Nat) : List Nat := List.zipWith (· + ·) a b

/-- The quotient of monomials. -/
def monoDiv (a b : List Nat) : List Nat := List.zipWith (· - ·) a b

/-- g divides t (R140). -/
def monoDivides (g t : List Nat) : Bool := (List.zipWith (fun x y => decide (x ≤ y)) g t).all id

/-! ### Coefficients (R128, R139, R269, R339) -/

/-- What the coefficients of an instruction are computed in: KIND, the prime table, the valid images. -/
structure Coeffs where
  k      : Nat
  primes : List Nat
  valid  : BitVec 8
  deriving DecidableEq, Repr

/-- A term: exact exponents and the coefficient words (one FP32 pattern, or k residues). -/
structure Term where
  mono : List Nat
  co   : List Nat
  deriving DecidableEq, Repr

/-- Prime i. -/
def Coeffs.p (r : Coeffs) (i : Nat) : Nat := r.primes.getD i 1

/-- The valid images below k. -/
def Coeffs.images (r : Coeffs) : List Nat := (List.range r.k).filter fun i => tst r.valid i

/-- One residue per image: f in the valid ones, 0 in the others (R269). -/
def Coeffs.each (r : Coeffs) (f : Nat → Nat) : List Nat := (List.range r.k).map fun i => if tst r.valid i then f i % r.p i else 0

/-- A coefficient that is not stored (R128, R339). -/
def Coeffs.isZero (r : Coeffs) (c : List Nat) : Bool :=
  if r.k = 0 then c.getD 0 0 % 2 ^ 31 == 0 else r.images.all fun i => c.getD i 0 == 0

/-- An FP32 result under rne (R139). -/
def fp32Result (y : Num × Events) : List Nat × Events :=
  let (bits, e) := narrowNum tagFP32 .rne 0 y.1
  ([bits], y.2 ||| e)

/-- The exact value of an FP32 coefficient. -/
def fp32Co (c : List Nat) : Num := decodeElem tagFP32 (c.getD 0 0)

/-- a + b. -/
def Coeffs.add (r : Coeffs) (a b : List Nat) : List Nat × Events :=
  if r.k = 0 then fp32Result (Num.add false (fp32Co a) (fp32Co b))
  else (r.each fun i => a.getD i 0 + b.getD i 0, 0)

/-- a − b. -/
def Coeffs.sub (r : Coeffs) (a b : List Nat) : List Nat × Events :=
  if r.k = 0 then fp32Result (Num.add false (fp32Co a) (fp32Co b).negate)
  else (r.each fun i => a.getD i 0 + (r.p i - b.getD i 0 % r.p i), 0)

/-- a × b. -/
def Coeffs.mul (r : Coeffs) (a b : List Nat) : List Nat × Events :=
  if r.k = 0 then fp32Result ((fp32Co a).mul (fp32Co b))
  else (r.each fun i => a.getD i 0 * b.getD i 0, 0)

/-- −a of a term without a partner (R343). -/
def Coeffs.neg (r : Coeffs) (a : List Nat) : List Nat × Events :=
  if r.k = 0 then
    let n := fp32Co a
    if n.isNan then ([0x7FC00000], evIf n.isSnan evNV) else ([(a.getD 0 0 + 2 ^ 31) % 2 ^ 32], 0)
  else (r.each fun i => r.p i - a.getD i 0 % r.p i, 0)

/-- A term that is moved, as it is stored: FP32 bit for bit (DEDUCED, log 41). -/
def Coeffs.keep (r : Coeffs) (a : List Nat) : List Nat := if r.k = 0 then a else r.each fun i => a.getD i 0

/-- The result of a sum that is a term without a partner: an FP32 NaN is canonical, and a signalling one sets NV (R97, R339). -/
def Coeffs.alone (r : Coeffs) (a : List Nat) : List Nat × Events :=
  if r.k = 0 ∧ (fp32Co a).isNan then ([0x7FC00000], evIf (fp32Co a).isSnan evNV) else (r.keep a, 0)

/-- Coefficients summed from the left, rounded after each addition (R139, R351). -/
def Coeffs.sum (r : Coeffs) : List (List Nat) → List Nat × Events
  | [] => ([], 0)
  | c :: cs => cs.foldl (fun q d => let (x, e) := r.add q.1 d; (x, q.2 ||| e)) (r.keep c, 0)

/-- The coefficient of a result monomial of a product: each product rounded, then added in order (R350). -/
def Coeffs.sumProducts (r : Coeffs) (l : List (List Nat × List Nat)) : List Nat × Events :=
  let ps := l.map fun p => r.mul p.1 p.2
  let (x, e) := r.sum (ps.map fun p => p.1)
  (x, ps.foldl (fun q p => q ||| p.2) e)

/-! ### Records (R128) -/

/-- Bytes of a record of a kind. -/
def recSize (k : Nat) : Nat := if k = 0 then 16 else 40

/-- The term that the bytes of a record hold; the words of invalid images are not read (R269). -/
def Coeffs.parse (r : Coeffs) (layout : Nat) (bs : List Byte) : Term :=
  let word (o : Nat) : Nat := natOfBytes ((bs.drop o).take 4)
  { mono := exponents layout (ofBytes 64 (bs.take 8))
    co := if r.k = 0 then [word 8] else r.each fun i => word (8 + 4 * i) }

/-- The bytes of a record. -/
def Coeffs.bytes (r : Coeffs) (m : Word) (c : List Nat) : List Byte :=
  bytesOf m 8 ++ (List.range (if r.k = 0 then 2 else 8)).flatMap fun i =>
    bytesOf (BitVec.ofNat 32 (c.getD i 0)) 4

/-! ### Terms by monomial (R139, R350, R351) -/

/-- Contributions by monomial, in descending order: one more at the end of its monomial's. -/
def addGroup {α : Type} (order : Nat) (m : List Nat) (x : α) : List (List Nat × List α) → List (List Nat × List α)
  | [] => [(m, [x])]
  | (n, l) :: gs =>
    if m = n then (n, l ++ [x]) :: gs
    else if monoLt order n m then (m, [x]) :: (n, l) :: gs
    else (n, l) :: addGroup order m x gs

/-- The products of two lists of terms by monomial, each in ascending (i, j) (R350). -/
def productGroups (order : Nat) (a b : List Term) : List (List Nat × List (List Nat × List Nat)) :=
  (a.flatMap fun t => b.map fun u => (t, u)).foldl
    (fun g p => addGroup order (monoMul p.1.mono p.2.mono) (p.1.co, p.2.co) g) []

/-- The terms of a list by monomial, each in ascending record order (R351). -/
def termGroups (order : Nat) (a : List Term) : List (List Nat × List (List Nat)) :=
  a.foldl (fun g t => addGroup order t.mono t.co g) []

/-- p − q on descending lists of terms of a residue kind: the zero terms drop (R140). -/
def subTerms (r : Coeffs) (order : Nat) (p q : List Term) : List Term :=
  let g := (p.map fun t => (t.mono, t.co)) ++ q.map fun t => (t.mono, (r.neg t.co).1)
  ((g.foldl (fun m t => addGroup order t.1 t.2 m) []).map fun e => ({ mono := e.1, co := (r.sum e.2).1 } : Term)).filter
    fun t => !r.isZero t.co

/-! ### Signature (R143) -/

/-- CRC-64 of bytes: polynomial 0x42F0_E1EB_A9EA_3693, initial value 0, no reflection, no final XOR. -/
def crc64 (bs : List Byte) : Word :=
  bs.foldl (fun c b =>
    (List.range 8).foldl (fun (x : Word) _ => if x.msb then (x <<< 1) ^^^ 0x42F0E1EBA9EA3693 else x <<< 1)
      (c ^^^ ((b.setWidth 64 : Word) <<< 56))) 0

/-! ### Reconstruction (R144) -/

/-- The residue u of a list of (residue, prime) modulo the product of the primes, and that product; none when the primes
are not pairwise coprime. -/
def chinese : List (Nat × Nat) → Option (Nat × Nat)
  | [] => some (0, 1)
  | (a, p) :: l =>
    match chinese l with
    | none => none
    | some (u, m) =>
      match inverseMod m p with
      | none => none
      | some i => some (u + m * ((a + p - u % p) % p * i % p), m * p)

/-- The extended Euclidean algorithm, bounded by fuel, from two remainders with their cofactors to the first remainder of
at most n. -/
def euclidTo (n : Nat) : Nat → Nat → Nat → Int → Int → Nat × Int
  | 0, _, r1, _, d1 => (r1, d1)
  | k + 1, r0, r1, d0, d1 =>
    if r1 ≤ n then (r1, d1) else euclidTo n k r1 (r0 % r1) d1 (d0 - ((r0 / r1 : Nat) : Int) * d1)

/-- Numerator and denominator that a residue u modulo m stands for (R144 steps 2-4). -/
def rational (u m : Nat) : Option (Int × Nat) :=
  if u = 0 then some (0, 1)
  else
    let b := isqrt ((m - 1) / 2)
    let (n, d) := euclidTo b 400 m u 0 1
    let num : Int := if d < 0 then -(n : Int) else n
    let den := d.natAbs
    if 0 < den ∧ den ≤ b ∧ Nat.gcd n den = 1 ∧ (num - (u : Int) * den) % (m : Int) = 0 then some (num, den) else none

/-- The 48 bytes of a reconstruction record (Table 7-5). -/
def rationalBytes (m : Word) (q : Option (Int × Nat)) : List Byte :=
  let (n, d) := q.getD (0, 0)
  bytesOf m 8 ++ bytesOf (BitVec.ofInt 128 n) 16 ++ bytesOf (BitVec.ofNat 128 d) 16
    ++ bytesOf (BitVec.ofNat 64 (natOf q.isNone)) 8

end Sys2Proof.Machine
end

