-- ==== Sys2Proof/Machine/Streams.lean ====
section
/-! DEFINITION. The stream unit: ownership, descriptors, the prime table, and the stream instructions (R127-R146, R269,
R339-R347, R349-R353, R355). -/

namespace Sys2Proof.Machine

/-! ### Descriptors (R127) -/

/-- Descriptor d of the stream unit of hart h's core. -/
def State.desc (s : State) (h : Nat) (d : SReg) : Descriptor := Map.get {} (s.coreAt (coreOf h)).descs d.toNat

/-- Descriptor d changed. -/
def State.modDesc (s : State) (h : Nat) (d : SReg) (f : Descriptor → Descriptor) : State :=
  s.modCore (coreOf h) fun k => { k with descs := Map.modify {} k.descs d.toNat f }

/-- Descriptor d written whole: it holds no poison any more. -/
def State.putDesc (s : State) (h : Nat) (d : SReg) (x : Descriptor) : State :=
  s.modCore (coreOf h) fun k =>
    { k with descs := Map.put k.descs d.toNat x, dpoison := Map.erase k.dpoison d.toNat }

/-- The eight words of a descriptor (Table 7-1). -/
def Descriptor.words (d : Descriptor) : List Word :=
  [d.base, BitVec.ofNat 64 (d.cap.toNat * 2 ^ 32 + d.count.toNat),
   BitVec.ofNat 64 (d.gen.toNat * 2 ^ 48 + d.valid.toNat * 2 ^ 40 + d.kind.toNat * 2 ^ 32 + d.order.toNat * 4 + d.layout.toNat),
   d.cursor, d.sig, BitVec.ofNat 64 (d.rfcnt.toNat * 2 ^ 32 + d.disc.toNat), BitVec.ofNat 64 (2 * natOf d.rf + natOf d.part), 0]

/-- The 64 bytes of a descriptor. -/
def Descriptor.bytes (d : Descriptor) : List Byte := d.words.flatMap fun w => bytesOf w 8

/-- The descriptor that 64 bytes hold; the VALID bits at k and above are cleared (R127). -/
def Descriptor.ofBytes (bs : List Byte) : Descriptor :=
  let w (i : Nat) : Word := wordAt 64 bs (8 * i) 8
  { base := w 0, cap := BitVec.ofNat 32 (fld (w 1) 32 32), count := BitVec.ofNat 32 (fld (w 1) 0 32)
    gen := BitVec.ofNat 16 (fld (w 2) 48 16), valid := BitVec.ofNat 8 (fld (w 2) 40 8 % 2 ^ fld (w 2) 32 4)
    kind := BitVec.ofNat 4 (fld (w 2) 32 4), order := BitVec.ofNat 2 (fld (w 2) 2 2)
    layout := BitVec.ofNat 2 (fld (w 2) 0 2), cursor := w 3, sig := w 4
    rfcnt := BitVec.ofNat 32 (fld (w 5) 32 32), disc := BitVec.ofNat 32 (fld (w 5) 0 32)
    rf := tst (w 6) 1, part := tst (w 6) 0 }

/-- A count saturated at 2^32 − 1, raised by 1. -/
def bump32 (n : W32) : W32 := if n = 0xFFFFFFFF then n else n + 1

/-- Address of record t of a descriptor (R128). -/
def Descriptor.record (d : Descriptor) (t : Nat) : Word := d.base + BitVec.ofNat 64 (t * recSize d.kind.toNat)

/-- What the coefficients of a descriptor are computed in. -/
def Descriptor.coeffs (d : Descriptor) (primes : List Nat) : Coeffs :=
  { k := d.kind.toNat, primes := primes, valid := d.valid }

/-- The prime table of hart h's core. -/
def State.primeTable (s : State) (h : Nat) : List Nat := (s.coreAt (coreOf h)).primes

/-! ### Ownership (R131, R339) -/

/-- A stop keeps what the word of hart h has done before it; a word that reads another node waits for the data with nothing
more done (R217). -/
def keepDone (s : State) (h : Nat) : Except VStop State → Except VStop State
  | .error (.far a pa) => .error (.wait (.remote false) (s.ask h .vector a pa))
  | .error (.fault sub t) => .error (.partly s sub t)
  | .error (.poison src pa) => .error (.poisoned s src pa)
  | r => r

/-- Steps 1 to 3 of R339: `early` are the checks that come before the unit is taken. -/
def State.withUnit (s : State) (h : Nat) (early : Except VStop Unit) (f : State → Except VStop State) :
    Except VStop State := do
  early
  need (!(s.clusterSet h).isEmpty) matrixFault
  let s1 := if s.ownsStream h then s else s.modCore (coreOf h) fun k => k.queueStream h
  if s1.ownsStream h then keepDone s1 h (f s1) else .error (.wait .unit s1)

/-! ### Checks (R135, R136, R138) -/

/-- Step 3: a destination is a source or another destination, or its area meets a source's. -/
def areasMeet (a : Word) (n : Nat) (b : Word) (m : Nat) : Bool :=
  decide (0 < n) && decide (0 < m) && (decide ((b - a).toNat < n) || decide ((a - b).toNat < m))

/-- A list names a descriptor twice. -/
def repeats : List SReg → Bool
  | [] => false
  | d :: l => (l.any fun e => e == d) || repeats l

/-- Stream aliasing of destinations, whose records will have kind k, against sources. -/
def State.aliased (s : State) (h : Nat) (dsts srcs : List SReg) (k : Nat) : Bool :=
  repeats dsts || dsts.any fun d => srcs.any fun q =>
    let x := s.desc h d
    let y := s.desc h q
    d == q || areasMeet x.base (x.cap.toNat * recSize k) y.base (y.count.toNat * recSize y.kind.toNat)

/-- Valid images of a mask. -/
def imageCount (v : BitVec 8) : Nat := onesCount 8 v.toNat

/-- Fewest valid images that an instruction of hart h may leave (R134). -/
def State.minImages (s : State) (h : Nat) : Nat := (s.hartAt h).kminimg.toNat

/-- Step 5 for residue sources: GEN of each, then N (R135). -/
def State.primesOk (s : State) (h : Nat) (l : List SReg) : Except VStop Unit := do
  let k := s.coreAt (coreOf h)
  let rs := l.filter fun d => (s.desc h d).kind != 0
  need (rs.all fun d => (s.desc h d).gen == k.pgen) (.fault 0x0F 0)
  need (rs.all fun d => decide ((s.desc h d).kind.toNat ≤ k.primes.length)) (.fault 0x0C 0)

/-- Enough valid images of a residue kind (R136). -/
def State.imagesOk (s : State) (h kind : Nat) (v : BitVec 8) : Bool := kind == 0 || decide (s.minImages h ≤ imageCount v)

/-- A descriptor that a word reads is poisoned (R207). -/
def State.descPoison (s : State) (h : Nat) (l : List SReg) : Bool :=
  l.any fun d => (Map.find (s.coreAt (coreOf h)).dpoison d.toNat).isSome

/-- Descriptors that a word reads are clean (SRC 3). -/
def State.descsClean (s : State) (h : Nat) (l : List SReg) : Except VStop Unit :=
  need (!s.descPoison h l) (.poison 3 0)

/-- The same of an instruction that seals its strip before it performs (R138, R341): after its checks, since one that faults
consumes nothing (R210). -/
def State.descsTaken (s : State) (h : Nat) (l : List SReg) : Except VStop Unit :=
  need (!s.descPoison h l) (.poisoned (s.seal h) 3 0)

/-- Steps 3 to 5 for an instruction with sources and destinations: they agree in LAYOUT, ORDER and KIND; `tagOk` is what
step 4 asks beyond that. -/
def State.streamChecks (s : State) (h : Nat) (dsts srcs : List SReg) (tagOk : Descriptor → Bool) : Except VStop Unit := do
  let x := s.desc h (srcs.headD 0)
  need (!s.aliased h dsts srcs x.kind.toNat) (.fault 0x10 0)
  need (srcs.all fun q =>
    let y := s.desc h q
    y.layout == x.layout && y.order == x.order && y.kind == x.kind) tagFault
  need (tagOk x) tagFault
  s.primesOk h srcs

/-! ### Records in memory (R141, R341) -/

/-- Why a stream instruction stops at a term boundary: a full descriptor, an access, another fault, poison, a pre-emption
stop, or a read of another node whose data have not come. -/
inductive SStop where
  | limit (d : SReg)
  | mem (sub : Nat) (tval : Word)
  | halt (sub : Nat)
  | poison (src pa : Nat)
  | cut
  | far (addr : Word) (pa : Nat)
  deriving DecidableEq, Repr

/-- The stop of a failed access. -/
def SStop.ofAccess : VStop → SStop
  | .fault sub t => .mem sub t
  | .poison src pa => .poison src pa
  | .partly _ sub t => .mem sub t
  | .segment _ sub t => .mem sub t
  | .poisoned _ src pa => .poison src pa
  | .wait _ _ => .halt 0
  | .far a pa => .far a pa

/-- A record as an access of one element. -/
def recElem (va : Word) (n : Nat) : MemElem := { r := 0, c := 0, va := va, n := n, sh := 0 }

/-- The bytes of elements under their pins. -/
def State.streamBytes (s : State) (h : Nat) (v : View) (p : Pins) (els : List MemElem) : Except SStop (List Byte × State) :=
  match els.mapM (s.readElem h v.kspb p) with
  | .error f => .error (SStop.ofAccess f)
  | .ok l => .ok (l.flatten, s)

/-- The bytes of elements read by the vector agent of hart h, all of them probed first. Bytes on another node wait for their
data; where these are lost, the read is an access fault and the word stops before it (R141, Table 11-4). -/
def State.streamElems (s : State) (h : Nat) (els : List MemElem) : Except SStop (List Byte × State) :=
  let v := s.vecView h
  match s.probe v .load (pagesOf v.kspb els) [] with
  | .error f => .error (SStop.ofAccess f)
  | .ok (p, s1) =>
    match s1.remoteByte v.kspb p els with
    | some b =>
      let c := (s1.hartAt h).ctx
      if !c.answered then .error (.far (v.faultAddr b.1 b.2) b.2)
      else if c.lost then .error (.mem 0x05 (v.faultAddr b.1 b.2))
      else s1.streamBytes h v p els
    | none => s1.streamBytes h v p els

/-- A record of n bytes at a virtual address read by the vector agent of hart h. -/
def State.streamRead (s : State) (h : Nat) (va : Word) (n : Nat) : Except SStop (List Byte × State) :=
  s.streamElems h [recElem va n]

/-- Bytes at a virtual address written by the vector agent of hart h. -/
def State.streamWrite (s : State) (h : Nat) (va : Word) (bs : List Byte) : Except SStop State :=
  let v := s.vecView h
  let e := recElem va bs.length
  match s.probe v .store (pagesOf v.kspb [e]) [] with
  | .error f => .error (SStop.ofAccess f)
  | .ok (p, s1) =>
    let pa := pinnedPa v.kspb p e
    if s.cell (pa (e.n - 1)) = s.cell (pa 0) + (e.n - 1) then .ok (s1.vecStore h (pa 0) bs [] false)
    else .ok ((List.range e.n).foldl (fun u i => u.vecStore h (pa i) [bs.getD i 0] [] false) s1)

/-- A term record written counts in the pennant (R220). -/
def State.countRecord (s : State) (h : Nat) : State :=
  s.modStrip h fun st => { st with cnt := { st.cnt with records := st.cnt.records + 1 } }

/-- Record t of descriptor q. -/
def State.readTerm (s : State) (h : Nat) (q : SReg) (f : Coeffs) (t : Nat) : Except SStop (Term × State) := do
  let x := s.desc h q
  let (bs, s1) ← s.streamRead h (x.record t) (recSize x.kind.toNat)
  .ok (f.parse x.layout.toNat bs, s1)

/-- Record t of descriptor q, checked to lie below the record before it (R340). -/
def State.readNext (s : State) (h : Nat) (q : SReg) (f : Coeffs) (t : Nat) (prev : Option (List Nat)) :
    Except SStop (Term × State) := do
  let (x, s1) ← s.readTerm h q f t
  match prev with
  | none => .ok (x, s1)
  | some m => if monoLt (s.desc h q).order.toNat x.mono m then .ok (x, s1) else .error (.halt 0x0D)

/-- n records of descriptor q from t on, with the check of R340 where `ordered`. -/
def State.readTerms (s : State) (h : Nat) (q : SReg) (f : Coeffs) (ordered : Bool) :
    Nat → Nat → Option (List Nat) → Except SStop (List Term × State)
  | 0, _, _ => .ok ([], s)
  | n + 1, t, prev => do
    let (x, s1) ← s.readNext h q f t (if ordered then prev else none)
    let (l, s2) ← State.readTerms s1 h q f ordered n (t + 1) (some x.mono)
    .ok (x :: l, s2)

/-- Every record of a descriptor. -/
def State.readAll (s : State) (h : Nat) (q : SReg) (f : Coeffs) (ordered : Bool) : Except SStop (List Term × State) :=
  s.readTerms h q f ordered (s.desc h q).count.toNat 0 none

/-- A term goes to the end of descriptor d, and COUNT advances (R339, R141). -/
def State.append (s : State) (h : Nat) (d : SReg) (f : Coeffs) (m : Word) (co : List Nat) : Except SStop State :=
  let x := s.desc h d
  if x.cap.toNat ≤ x.count.toNat then .error (.limit d)
  else
    match s.streamWrite h (x.base + BitVec.ofNat 64 (x.count.toNat * recSize f.k)) (f.bytes m co) with
    | .error e => .error e
    | .ok s1 => .ok ((s1.modDesc h d fun y => { y with count := y.count + 1 }).countRecord h)

/-- A term of a resumable instruction: a pre-emption stop may stand before it (R141). -/
def State.appendTerm (s : State) (h : Nat) (d : SReg) (f : Coeffs) (m : Word) (co : List Nat) : Except SStop State :=
  match (s.hartAt h).ctx.preempt with
  | none => s.append h d f m co
  | some 0 => .error .cut
  | some (n + 1) =>
    match s.append h d f m co with
    | .error e => .error e
    | .ok s1 => .ok (s1.modCtx h fun c => { c with preempt := some n })

/-! ### Starting and ending a resumable instruction (R139, R141, R143) -/

/-- The bytes that sign a source: its number, and its bytes 0-23 (R143). -/
def State.signSource (s : State) (h : Nat) (q : SReg) : List Byte :=
  BitVec.ofNat 8 q.toNat :: ((s.desc h q).words.take 3).flatMap fun w => bytesOf w 8

/-- SIG of an instruction: opcode, imm16, sources, block registers, and what scmp adds (R143). -/
def State.signature (s : State) (h op imm : Nat) (srcs : List SReg) (regs : List Word) (more : List Byte) : Word :=
  crc64 (bytesOf (BitVec.ofNat 24 (op + imm * 256)) 3 ++ srcs.flatMap (s.signSource h)
    ++ regs.flatMap (fun w => bytesOf w 8) ++ more)

/-- Descriptor d has progress to resume from. -/
def State.resumes (s : State) (h : Nat) (d : SReg) (sig : Word) : Bool :=
  (s.desc h d).part && (s.desc h d).sig == sig

/-- A destination at the start of an instruction that does not resume (R143). -/
def Descriptor.fresh (d : Descriptor) : Descriptor := { d with count := 0, disc := 0, rfcnt := 0, rf := false, part := false }

/-- LAYOUT, ORDER, KIND and GEN of a result from a source (R139). -/
def Descriptor.like (d x : Descriptor) (gen : BitVec 16) : Descriptor :=
  { d with layout := x.layout, order := x.order, kind := x.kind, gen := if x.kind = 0 then x.gen else gen }

/-- VALID of a result: what the sources share (R136). -/
def State.sharedValid (s : State) (h : Nat) (srcs : List SReg) : BitVec 8 :=
  srcs.foldl (fun v q => v &&& (s.desc h q).valid) 0xFF

/-- The destinations of an instruction as it begins or resumes, with their fields set like the first source's, `order`
replacing its ORDER; the first destination holds the progress. The strip is sealed. -/
def State.beginStream (s : State) (h : Nat) (dsts : List SReg) (x : Descriptor) (valid : BitVec 8) (resume : Bool) : State :=
  let gen := (s.coreAt (coreOf h)).pgen
  dsts.foldl (fun t d => t.modDesc h d fun y =>
    if resume then { y.like x gen with valid := valid } else { (y.like x gen).fresh with valid := valid }) (s.seal h)

/-- Where a resumable instruction stopped: the state, why, and what CURSOR keeps. -/
structure Cut where
  s   : State
  why : SStop
  cur : Word
  deriving DecidableEq, Repr

/-- An instruction that faults raises no flag: kflags of hart h as it was at issue (R101). -/
def State.keepFlags (s : State) (h : Nat) (flags : Word) : State := s.modHart h fun v => { v with kflags := flags }

/-- The end of a resumable instruction: PART and CURSOR cleared, or the stop with its progress (R141, R143); `flags` is
kflags at issue. -/
def endStream (h : Nat) (d : SReg) (sig flags : Word) : Except Cut State → Except VStop State
  | .ok s => .ok ((s.modDesc h d fun x => { x with part := false, cursor := 0 }).modCtx h fun c => { c with preempt := none })
  | .error c =>
    let hold := c.s.modDesc h d fun x => { x with part := true, cursor := c.cur, sig := sig }
    match c.why with
    | .limit q => .error (.partly (hold.keepFlags h flags) 0x0B (BitVec.ofNat 64 q.toNat))
    | .mem sub t => .error (.partly (hold.keepFlags h flags) sub t)
    | .halt sub => .error (.partly ((c.s.modDesc h d fun x => { x with part := false }).keepFlags h flags) sub 0)
    | .poison src pa => .error (.poisoned c.s src pa)
    | .cut => .error (.wait .cut (hold.modCtx h fun c => { c with preempt := none }))
    | .far a pa => .error (.far a pa)

/-- The end of an instruction that is not resumable and has kept the state s. -/
def endPlain (s : State) : SStop → VStop
  | .limit q => .partly s 0x0B (BitVec.ofNat 64 q.toNat)
  | .mem sub t => .partly s sub t
  | .halt sub => .partly s sub 0
  | .poison src pa => .poisoned s src pa
  | .cut => .wait .cut s
  | .far a pa => .far a pa

/-- Too few valid images at issue: an unlucky prime, with PART of the destination 0 (R136). -/
def State.needImages (s : State) (h kind : Nat) (v : BitVec 8) (d : SReg) : Except VStop Unit :=
  need (s.imagesOk h kind v) (.partly ((s.seal h).modDesc h d fun x => { x with part := false }) 0x0C 0)

/-- A read at the start of a resumable instruction, with the progress it would keep. -/
def orCut {α : Type} (s : State) (cur : Word) : Except SStop α → Except Cut α
  | .ok a => .ok a
  | .error e => .error { s := s, why := e, cur := cur }

/-! ### sadd and ssub (R343) -/

/-- The state of a merge: indices and the records at the heads of the sources. -/
structure Merge where
  i  : Nat
  j  : Nat
  ha : Option Term
  hb : Option Term
  deriving DecidableEq, Repr

/-- CURSOR of a merge. -/
def mergeCursor (i j : Nat) : Word := BitVec.ofNat 64 (i + j * 2 ^ 32)

/-- The head of a source at an index, or none at its end; `prev` is the record before it. -/
def State.headOf (s : State) (h : Nat) (q : SReg) (f : Coeffs) (t : Nat) (prev : Option (List Nat)) :
    Except SStop (Option Term × State) := do
  if (s.desc h q).count.toNat ≤ t then .ok (none, s)
  else
    let (x, s1) ← s.readNext h q f t prev
    .ok (some x, s1)

/-- What one step of the merge takes: the term and whether each source advances. -/
def mergePick (f : Coeffs) (order : Nat) (minus : Bool) (a b : Option Term) :
    Option (List Nat × (List Nat × Events) × Bool × Bool) :=
  let alone (t : Term) : List Nat × Events := if minus then f.neg t.co else f.alone t.co
  match a, b with
  | none, none => none
  | some t, none => some (t.mono, f.alone t.co, true, false)
  | none, some u => some (u.mono, alone u, false, true)
  | some t, some u =>
    if monoLt order u.mono t.mono then some (t.mono, f.alone t.co, true, false)
    else if monoLt order t.mono u.mono then some (u.mono, alone u, false, true)
    else some (t.mono, (if minus then f.sub t.co u.co else f.add t.co u.co), true, true)

/-- The merge, bounded by the records that are left. -/
def mergeLoop (h : Nat) (sd sa sb : SReg) (f : Coeffs) (minus : Bool) : Nat → State → Merge → Except Cut State
  | 0, s, _ => .ok s
  | n + 1, s, g =>
    let x := s.desc h sa
    match mergePick f x.order.toNat minus g.ha g.hb with
    | none => .ok s
    | some (m, (co, ev), da, db) => do
      let cur := mergeCursor g.i g.j
      let s1 ← if f.isZero co then .ok s else orCut s cur (s.appendTerm h sd f (packMono x.layout.toNat m) co)
      let s2 := s1.raiseFlags h ev
      let i := g.i + natOf da
      let j := g.j + natOf db
      let cur2 := mergeCursor i j
      let (ha, s3) ← if da then orCut s2 cur2 (s2.headOf h sa f i (some m)) else .ok (g.ha, s2)
      let (hb, s4) ← if db then orCut s3 cur2 (s3.headOf h sb f j (some m)) else .ok (g.hb, s3)
      mergeLoop h sd sa sb f minus n s4 { i := i, j := j, ha := ha, hb := hb }

/-- The record before an index, if there is one. -/
def State.monoBefore (s : State) (h : Nat) (q : SReg) (f : Coeffs) (t : Nat) : Except SStop (Option (List Nat) × State) := do
  if t = 0 then .ok (none, s)
  else
    let (x, s1) ← s.readTerm h q f (t - 1)
    .ok (some x.mono, s1)

/-- The head of a source at the index where a merge begins. -/
def State.startHead (s : State) (h : Nat) (q : SReg) (f : Coeffs) (t : Nat) : Except SStop (Option Term × State) := do
  let (p, s1) ← s.monoBefore h q f t
  s1.headOf h q f t p

/-- The merge from the start or from CURSOR. -/
def State.merge (s : State) (h : Nat) (sd sa sb : SReg) (f : Coeffs) (minus : Bool) (i j : Nat) : Except Cut State := do
  let cur := mergeCursor i j
  let (ha, s1) ← orCut s cur (s.startHead h sa f i)
  let (hb, s2) ← orCut s1 cur (s1.startHead h sb f j)
  mergeLoop h sd sa sb f minus ((s.desc h sa).count.toNat + (s.desc h sb).count.toNat + 1) s2
    { i := i, j := j, ha := ha, hb := hb }

/-- VALID of the result as an instruction finds it at issue: what the sources share, and, where it resumes, what its destination
still has of that (R136, R143, R269). -/
def State.issueValid (s : State) (h : Nat) (sd : SReg) (sig : Word) (srcs : List SReg) : BitVec 8 :=
  let valid := s.sharedValid h srcs
  if s.resumes h sd sig then (s.desc h sd).valid &&& valid else valid

/-- The ring of a result with a source's kind and a VALID mask. -/
def State.resultCoeffs (s : State) (h : Nat) (x : Descriptor) (valid : BitVec 8) : Coeffs :=
  { k := x.kind.toNat, primes := s.primeTable h, valid := valid }

/-- The shape of a resumable instruction on descriptors: its checks, its destinations, its run from the state at issue
with the progress to resume from, if any (R339). -/
def State.resumable (s : State) (h op imm : Nat) (dsts srcs : List SReg) (regs : List Word) (tagOk : Descriptor → Bool)
    (setup : Descriptor → Descriptor) (run : State → Coeffs → Option Word → Except Cut State) : Except VStop State :=
  s.withUnit h (.ok ()) fun s0 => do
    let sd := dsts.headD 0
    s0.streamChecks h dsts srcs tagOk
    let sig := s0.signature h op imm srcs regs []
    let x := s0.desc h (srcs.headD 0)
    let valid := s0.issueValid h sd sig srcs
    s0.needImages h x.kind.toNat valid sd
    s0.descsTaken h (dsts ++ srcs)
    let resume := s0.resumes h sd sig
    let cur := if resume then some (s0.desc h sd).cursor else none
    endStream h sd sig (s0.hartAt h).kflags (run (s0.beginStream h dsts (setup x) valid resume) (s0.resultCoeffs h x valid) cur)

/-- sadd and ssub. -/
def State.sumStreams (s : State) (h op : Nat) (minus : Bool) (sd sa sb : SReg) : Except VStop State :=
  s.resumable h op 0 [sd] [sa, sb] [] (fun _ => true) id fun s1 f cur =>
    let c := cur.getD 0
    s1.merge h sd sa sb f minus (fld c 0 32) (fld c 32 32)

/-- sadd (R343). -/
def execSadd (sd sa sb : SReg) (s : State) : Host.Outcome State Fault Refusal :=
  endV s (s.sumStreams s.cur 0xA6 false sd sa sb)

/-- ssub (R343). -/
def execSsub (sd sa sb : SReg) (s : State) : Host.Outcome State Fault Refusal :=
  endV s (s.sumStreams s.cur 0xA7 true sd sa sb)

/-! ### Results by monomial: sord, smul, smulm (R350, R351) -/

/-- The terms of groups in descending order, each appended unless it is zero. `last` is the last monomial written, which
CURSOR keeps. A monomial beyond its fields is an overflow at its place (R139). -/
def emitGroups {α : Type} (h : Nat) (sd : SReg) (f : Coeffs) (layout : Nat) (comb : List α → List Nat × Events) :
    List (List Nat × List α) → State → Word → Except Cut State
  | [], s, _ => .ok s
  | (m, l) :: gs, s, last =>
    if !fitsLayout layout m then .error { s := s, why := .halt 0x0E, cur := last }
    else
      let (co, ev) := comb l
      if f.isZero co then emitGroups h sd f layout comb gs (s.raiseFlags h ev) last
      else
        match s.appendTerm h sd f (packMono layout m) co with
        | .error e => .error { s := s, why := e, cur := last }
        | .ok s1 => emitGroups h sd f layout comb gs (s1.raiseFlags h ev) (packMono layout m)

/-- The groups that a resumed instruction has still to write: those below the last record written. -/
def leftGroups {α : Type} (order layout : Nat) (written : Bool) (cur : Option Word) (gs : List (List Nat × List α)) :
    List (List Nat × List α) :=
  match cur with
  | some c => if written then gs.filter fun g => monoLt order g.1 (exponents layout c) else gs
  | none => gs

/-- The groups of a result written from the start or from CURSOR. -/
def State.emit {α : Type} (s : State) (h : Nat) (sd : SReg) (f : Coeffs) (comb : List α → List Nat × Events)
    (cur : Option Word) (gs : List (List Nat × List α)) : Except Cut State :=
  let x := s.desc h sd
  emitGroups h sd f x.layout.toNat comb
    (leftGroups x.order.toNat x.layout.toNat (x.count != 0) cur gs) s (cur.getD 0)

/-- sord (R351). -/
def execSord (sd sa : SReg) (o : BitVec 2) (s : State) : Host.Outcome State Fault Refusal :=
  let h := s.cur
  endV s (s.resumable h 0xA0 o.toNat [sd] [sa] [] (fun _ => true) (fun x => { x with order := o }) fun s1 f cur => do
    let (l, s2) ← orCut s1 (cur.getD 0) (s1.readAll h sa f false)
    s2.emit h sd f f.sum cur (termGroups o.toNat l))

/-- smul (R350). -/
def execSmul (sd sa sb : SReg) (s : State) : Host.Outcome State Fault Refusal :=
  let h := s.cur
  endV s (s.resumable h 0xA8 0 [sd] [sa, sb] [] (fun x => x.order != 3) id fun s1 f cur => do
    let (a, s2) ← orCut s1 (cur.getD 0) (s1.readAll h sa f true)
    let (b, s3) ← orCut s2 (cur.getD 0) (s2.readAll h sb f true)
    s3.emit h sd f f.sumProducts cur (productGroups (s3.desc h sd).order.toNat a b))

/-- The coefficient that a block register gives smulm: signed and reduced per image, or FP32 (R350). -/
def bregCo (f : Coeffs) (w : Word) : List Nat :=
  if f.k = 0 then [fld w 0 32] else f.each fun i => (w.toInt % (f.p i : Int)).toNat

/-- smulm (R350). -/
def execSmulm (sd sa : SReg) (ba bb : BReg) (s : State) : Host.Outcome State Fault Refusal :=
  let h := s.cur
  let m := s.ctx.br ba
  let c := s.ctx.br bb
  endV s (s.resumable h 0xA9 0 [sd] [sa] [m, c] (fun x => x.order != 3) id fun s1 f cur => do
    let (a, s2) ← orCut s1 (cur.getD 0) (s1.readAll h sa f true)
    let x := s2.desc h sd
    let b : Term := { mono := exponents x.layout.toNat m, co := bregCo f c }
    s2.emit h sd f f.sumProducts cur (productGroups x.order.toNat a [b]))

/-! ### sdiv (R140, R345) -/

/-- A divisor: the terms of its stream, and the descriptor of its quotient. -/
structure Divisor where
  terms : List Term
  quot  : SReg
  deriving DecidableEq, Repr

/-- The lowest divisor whose leading monomial divides a monomial (R140). -/
def pickDivisor (l : List Divisor) (t : List Nat) : Option (Term × Divisor) :=
  (l.filterMap fun d => d.terms.head?.map fun g => (g, d)).find? fun e => monoDivides e.1.mono t

/-- The images in which a leading coefficient has no inverse (R136). -/
def deadImages (f : Coeffs) (g : Term) : List Nat :=
  f.images.filter fun i => (inverseMod (g.co.getD i 0) (f.p i)).isNone

/-- An image discarded from every destination (R136). -/
def State.discardImage (s : State) (h : Nat) (dsts : List SReg) (i : Nat) : State :=
  dsts.foldl (fun t d => t.modDesc h d fun x => { x with valid := putBit x.valid i false, disc := bump32 x.disc }) s

/-- The division from a remaining polynomial, bounded by fuel. Terms at or above `done` were processed before a stop:
they are computed again and not written again. `last` is the last leading monomial processed. -/
def divLoop (h : Nat) (sd : SReg) (dsts : List SReg) (divs : List Divisor) (done : Option (List Nat)) :
    Nat → State → Coeffs → List Term → Word → Except Cut State
  | 0, s, _, _, _ => .ok s
  | _ + 1, s, _, [], _ => .ok s
  | n + 1, s, f, t :: p, last =>
    let x := s.desc h sd
    let order := x.order.toNat
    let layout := x.layout.toNat
    let old := match done with
      | some m => !monoLt order t.mono m
      | none => false
    let put (u : State) (f1 : Coeffs) (d : SReg) (m : List Nat) (co : List Nat) : Except Cut State :=
      if old || f1.isZero co then .ok u else orCut u last (u.appendTerm h d f1 (packMono layout m) co)
    match pickDivisor divs t.mono with
    | none => do
      let s1 ← put s f sd t.mono t.co
      divLoop h sd dsts divs done n s1 f p (packMono layout t.mono)
    | some (g, d) => do
      let dead := deadImages f g
      let f1 : Coeffs := { f with valid := dead.foldl (fun v i => putBit v i false) f.valid }
      let s1 := dead.foldl (fun u i => u.discardImage h dsts i) s
      if !s1.imagesOk h f.k f1.valid then .error { s := s1, why := .halt 0x0C, cur := last }
      else
        let u : Term := { mono := monoDiv t.mono g.mono
                          co := f1.each fun i => t.co.getD i 0 * (inverseMod (g.co.getD i 0) (f1.p i)).getD 0 }
        let ug := d.terms.map fun e => ({ mono := monoMul u.mono e.mono, co := (f1.mul u.co e.co).1 } : Term)
        if ug.any fun e => !fitsLayout layout e.mono then .error { s := s1, why := .halt 0x0E, cur := last }
        else do
          let s2 ← put s1 f1 d.quot u.mono u.co
          divLoop h sd dsts divs done n s2 f1 (subTerms f1 order (t :: p) ug) (packMono layout t.mono)

/-- The divisors read whole, in order (R340). -/
def State.readDivisors (s : State) (h : Nat) (f : Coeffs) : List (SReg × SReg) → Except SStop (List Divisor × State)
  | [] => .ok ([], s)
  | (q, d) :: l => do
    let (ts, s1) ← s.readAll h q f true
    let (ds, s2) ← State.readDivisors s1 h f l
    .ok ({ terms := ts, quot := d } :: ds, s2)

/-- Descriptors d … d+n−1. -/
def descRun (d : SReg) (n : Nat) : List SReg := (List.range n).map fun i => BitVec.ofNat 4 (d.toNat + i)

/-- sdiv. The packed monomials bound the steps: each leading monomial is below the one before. -/
def execSdiv (sd sa sb q : SReg) (n : BitVec 4) (s : State) : Host.Outcome State Fault Refusal :=
  let h := s.cur
  let divs := descRun sb n.toNat
  let quots := descRun q n.toNat
  let dsts := sd :: quots
  endV s (s.resumable h 0xAA n.toNat dsts (sa :: divs) [] (fun x => x.kind != 0 && x.order != 3) id fun s1 f cur => do
    let c := cur.getD 0
    let (p, s2) ← orCut s1 c (s1.readAll h sa f true)
    let (ds, s3) ← orCut s2 c (s2.readDivisors h f (divs.zip quots))
    let written := dsts.any fun d => (s3.desc h d).count != 0
    let done := if cur.isSome && written then some (exponents (s3.desc h sd).layout.toNat c) else none
    divLoop h sd dsts ds done (2 ^ 64 + 1) s3 f (p.filter fun t => !f.isZero t.co) c)

/-! ### sdrop and slt (R346) -/

/-- The records of sa from t on, copied to sd. -/
def dropLoop (h : Nat) (sd sa : SReg) (f : Coeffs) : Nat → Nat → Option (List Nat) → State → Except Cut State
  | 0, _, _, s => .ok s
  | n + 1, t, prev, s => do
    let cur : Word := BitVec.ofNat 64 t
    let (x, s1) ← orCut s cur (s.readNext h sa f t prev)
    let co := f.keep x.co
    let s2 ← if f.isZero co then .ok s1
      else orCut s1 cur (s1.appendTerm h sd f (packMono (s1.desc h sa).layout.toNat x.mono) co)
    dropLoop h sd sa f n (t + 1) (some x.mono) s2

/-- sdrop (R346). -/
def execSdrop (sd sa : SReg) (s : State) : Host.Outcome State Fault Refusal :=
  let h := s.cur
  endV s (s.resumable h 0xAC 0 [sd] [sa] [] (fun _ => true) id fun s1 f cur => do
    let t := max 1 ((cur.getD 1).toNat)
    let n := (s1.desc h sa).count.toNat
    if n ≤ t then .ok s1
    else
      let (m, s2) ← orCut s1 (BitVec.ofNat 64 t) (s1.monoBefore h sa f t)
      dropLoop h sd sa f (n - t) t m s2)

/-- slt (R346): a fault leaves sd and b[ba] unchanged. A record that is 0 in every valid image is not stored (R128, R269, R339;
DEDUCED, log 70). -/
def execSlt (sd sa : SReg) (ba : BReg) (s : State) : Host.Outcome State Fault Refusal :=
  let h := s.cur
  endV s (s.withUnit h (.ok ()) fun s0 => do
    s0.streamChecks h [sd] [sa] (fun _ => true)
    let x := s0.desc h sa
    s0.needImages h x.kind.toNat x.valid sd
    s0.descsTaken h [sd, sa]
    let f := s0.resultCoeffs h x x.valid
    let s1 := s0.seal h
    let set (u : State) (n : W32) (b : Word) : State :=
      (u.modDesc h sd fun y =>
        { (y.like x (s0.coreAt (coreOf h)).pgen) with valid := x.valid, count := n }).modCtx h fun c => c.bw ba b
    if x.count = 0 then .ok (set s1 0 (BitVec.allOnes 64))
    else if (s1.desc h sd).cap = 0 then .error (endPlain s1 (.limit sd))
    else
      match s1.readTerm h sa f 0 with
      | .error e => .error (endPlain s1 e)
      | .ok (t, s2) =>
        let m := packMono x.layout.toNat t.mono
        if f.isZero t.co then .ok (set s2 0 m)
        else
        match s2.streamWrite h (s2.desc h sd).base (f.bytes m (f.keep t.co)) with
        | .error e => .error (endPlain s2 e)
        | .ok s3 => .ok (set (s3.countRecord h) 1 m))

/-! ### Descriptors and the prime table (R132, R349, R352, R347) -/

/-- snew (R349). -/
def execSnew (sd : SReg) (ba bb : BReg) (ctl : BitVec 8) (s : State) : Host.Outcome State Fault Refusal :=
  let h := s.cur
  let a := s.ctx.br ba
  let k := fld ctl 4 4
  endV s (s.withUnit h (.ok ()) fun s0 => do
    need (aligned a 8) (.fault 0x06 a)
    .ok ((s0.seal h).putDesc h sd
      { base := a, cap := (s.ctx.br bb).setWidth 32, gen := (s0.coreAt (coreOf h)).pgen
        valid := BitVec.ofNat 8 (2 ^ k - 1), kind := BitVec.ofNat 4 k
        order := BitVec.ofNat 2 (fld ctl 2 2), layout := BitVec.ofNat 2 (fld ctl 0 2) }))

/-- The stop of a vector access that has not performed. -/
def SStop.before : SStop → VStop
  | .limit q => .fault 0x0B (BitVec.ofNat 64 q.toNat)
  | .mem sub t => .fault sub t
  | .halt sub => .fault sub 0
  | .poison src pa => .poison src pa
  | .cut => illegalWord
  | .far a pa => .far a pa

/-- A step of a word that stops with nothing performed. -/
def orStop {α : Type} : Except SStop α → Except VStop α
  | .ok a => .ok a
  | .error e => .error e.before

/-- The same with the strip sealed before (R138). -/
def orSealed {α : Type} (s : State) : Except SStop α → Except VStop α
  | .ok a => .ok a
  | .error e =>
    match e.before with
    | .poison src pa => .error (.poisoned s src pa)
    | .fault sub t => .error (.partly s sub t)
    | e => .error e

/-- A descriptor that sld rejects (R127). -/
def Descriptor.badCode (d : Descriptor) : Bool := decide (9 ≤ d.kind.toNat) || d.layout == 3 || decide (d.cap.toNat < d.count.toNat)

/-- sld (R127, R349). DESIGN CHOICE (log 64): an sld or sst whose access faults has already sealed its strip, and what sld reads
is consumed before it is checked. -/
def execSld (sd : SReg) (ba : BReg) (s : State) : Host.Outcome State Fault Refusal :=
  let h := s.cur
  let a := s.ctx.br ba
  endV s (s.withUnit h (.ok ()) fun s0 => do
    need (aligned a 8) (.fault 0x06 a)
    let (bs, s1) ← orSealed (s0.seal h) ((s0.seal h).streamRead h a 64)
    let d := Descriptor.ofBytes bs
    need (!d.badCode) tagFault
    need (aligned d.base 8) (.fault 0x06 d.base)
    .ok (s1.putDesc h sd d))

/-- sst (R349). -/
def execSst (sa : SReg) (ba : BReg) (s : State) : Host.Outcome State Fault Refusal :=
  let h := s.cur
  let a := s.ctx.br ba
  endV s (s.withUnit h (.ok ()) fun s0 => do
    need (aligned a 8) (.fault 0x06 a)
    let s1 ← orSealed (s0.seal h) ((s0.seal h).streamWrite h a (s0.desc h sa).bytes)
    s0.descsTaken h [sa]
    .ok s1)

/-- A field of a descriptor (Table 22-8). -/
def Descriptor.stat (d : Descriptor) (sel : Nat) : Word :=
  match sel with
  | 0 => d.count.setWidth 64
  | 1 => d.cap.setWidth 64
  | 2 => d.valid.setWidth 64
  | 3 => d.disc.setWidth 64
  | 4 => d.rfcnt.setWidth 64
  | 5 => d.gen.setWidth 64
  | _ => boolWord d.part

/-- sstat (R349). -/
def execSstat (ba : BReg) (sa : SReg) (sel : BitVec 3) (s : State) : Host.Outcome State Fault Refusal :=
  let h := s.cur
  endV s (s.withUnit h (.ok ()) fun s0 => do
    s0.descsClean h [sa]
    .ok (s0.bw ba ((s0.desc h sa).stat sel.toNat)))

/-- The prime table of hart h's core written (R132). -/
def State.setPrimes (s : State) (h : Nat) (l : List Nat) : State :=
  s.modCore (coreOf h) fun k => { k with primes := l, pgen := k.pgen + 1 }

/-- Words of a prime table that are odd with 3 ≤ p < 2^31 (R132). -/
def primeWordOk (p : Nat) : Bool := p % 2 == 1 && decide (3 ≤ p) && decide (p < 2 ^ 31)

/-- sprm (R132, R352): its words are the elements of one vector load, so that a fault is that of the lowest failing word (R192,
R290). -/
def execSprm (ba : BReg) (n : BitVec 4) (s : State) : Host.Outcome State Fault Refusal :=
  let h := s.cur
  let a := s.ctx.br ba
  endV s (s.withUnit h (.ok ()) fun s0 => do
    need (aligned a 4) (.fault 0x06 a)
    let words := (List.range n.toNat).map fun i => recElem (a + BitVec.ofNat 64 (4 * i)) 4
    let (bs, s1) ← orStop (s0.streamElems h words)
    let l := (List.range n.toNat).map fun i => natOfBytes ((bs.drop (4 * i)).take 4)
    need (l.all primeWordOk) (.fault 0x0C 0)
    need (!s1.zpInFlight h) (.wait .primeDrain s1)
    .ok (s1.setPrimes h l))

/-- The drain for which the current hart's sprm stalls ends, if it has ended (R132). -/
def execSprmDrainEnd (s : State) : Host.Outcome State Fault Refusal :=
  match s.vwaitingIn .primeDrain with
  | some (.sprm ba n) => s.guardB (.sprm ba n) (execSprm ba n s)
  | _ => .next s

/-- Records copied from a descriptor's area to another base. -/
def growLoop (h : Nat) (sd : SReg) (dst : Word) : Nat → Nat → State → Except VStop State
  | 0, _, s => .ok s
  | n + 1, t, s =>
    let x := s.desc h sd
    let size := recSize x.kind.toNat
    match s.streamRead h (x.record t) size with
    | .error e => .error (endPlain s e)
    | .ok (bs, s1) =>
      match s1.streamWrite h (dst + BitVec.ofNat 64 (t * size)) bs with
      | .error e => .error (endPlain s1 e)
      | .ok s2 => growLoop h sd dst n (t + 1) (s2.countRecord h)

/-- sgrow (R142, R347). -/
def execSgrow (sd : SReg) (ba bb : BReg) (s : State) : Host.Outcome State Fault Refusal :=
  let h := s.cur
  let a := s.ctx.br ba
  let cap : W32 := (s.ctx.br bb).setWidth 32
  endV s (s.withUnit h (.ok ()) fun s0 => do
    let x := s0.desc h sd
    let size := recSize x.kind.toNat
    need (!areasMeet a (cap.toNat * size) x.base (x.count.toNat * size)) (.fault 0x10 0)
    need (aligned a 8) (.fault 0x06 a)
    need (decide (x.count.toNat ≤ cap.toNat)) (.fault 0x0B (BitVec.ofNat 64 sd.toNat))
    s0.descsTaken h [sd]
    let s1 ← growLoop h sd a x.count.toNat 0 (s0.seal h)
    .ok (s1.modDesc h sd fun y => { y with base := a, cap := cap }))

/-! ### sterm (R355) -/

/-- The coefficient of a sterm, its images with an inverse, and the discards (R136, R355). -/
def stermImages (f : Coeffs) (den : Word) : List Nat := f.images.filter fun i => (inverseMod (den.toNat % f.p i) (f.p i)).isNone

/-- sterm. -/
def execSterm (sd : SReg) (ba bb bc : BReg) (s : State) : Host.Outcome State Fault Refusal :=
  let h := s.cur
  let m := s.ctx.br ba
  let num := s.ctx.br bb
  let den := s.ctx.br bc
  endV s (s.withUnit h (.ok ()) fun s0 => do
    let x := s0.desc h sd
    let layout := x.layout.toNat
    need (x.kind != 0 || bc == 0) tagFault
    s0.primesOk h [sd]
    s0.needImages h x.kind.toNat x.valid sd
    s0.descsTaken h [sd]
    let f := x.coeffs (s0.primeTable h)
    let s1 := s0.seal h
    let (p, s2) ← (match s1.monoBefore h sd f x.count.toNat with
      | .error e => .error (endPlain s1 e)
      | .ok r => .ok r : Except VStop (Option (List Nat) × State))
    let above := match p with
      | some l => monoLt x.order.toNat (exponents layout m) l
      | none => true
    need above (.partly s2 0x0D 0)
    let dead := if x.kind = 0 then [] else stermImages f den
    let f1 : Coeffs := { f with valid := dead.foldl (fun v i => putBit v i false) f.valid }
    let s3 := dead.foldl (fun u i => u.discardImage h [sd] i) s2
    s3.needImages h x.kind.toNat f1.valid sd
    let co := if x.kind = 0 then [fld num 0 32]
      else f1.each fun i => (num.toInt % (f1.p i : Int)).toNat * (inverseMod (den.toNat % f1.p i) (f1.p i)).getD 0
    if f1.isZero co then .ok s3
    else
      match s3.append h sd f1 m co with
      | .error e => .error (endPlain s3 e)
      | .ok s4 => .ok s4)

/-! ### srat (R144, R353) -/

/-- The records of a reconstruction from t on. A stop leaves those before it. -/
def ratLoop (h : Nat) (sa : SReg) (f : Coeffs) (dst : Word) : Nat → Nat → State → Except VStop State
  | 0, _, s => .ok s
  | n + 1, t, s =>
    match s.readTerm h sa f t with
    | .error e => .error (endPlain s e)
    | .ok (x, s1) =>
      let q := if f.images.isEmpty then none
        else (chinese (f.images.map fun i => (x.co.getD i 0, f.p i))).bind fun um => rational um.1 um.2
      let m := packMono (s1.desc h sa).layout.toNat x.mono
      match s1.streamWrite h (dst + BitVec.ofNat 64 (48 * t)) (rationalBytes m q) with
      | .error e => .error (endPlain s1 e)
      | .ok s2 =>
        let s3 := if q.isNone then s2.modDesc h sa fun y => { y with rfcnt := bump32 y.rfcnt, rf := true } else s2
        ratLoop h sa f dst n (t + 1) s3

/-- srat. -/
def execSrat (sa : SReg) (ba : BReg) (s : State) : Host.Outcome State Fault Refusal :=
  let h := s.cur
  let a := s.ctx.br ba
  endV s (s.withUnit h (.ok ()) fun s0 => do
    let x := s0.desc h sa
    need (x.kind != 0) tagFault
    s0.primesOk h [sa]
    need (aligned a 8) (.fault 0x06 a)
    s0.descsTaken h [sa]
    ratLoop h sa (x.coeffs (s0.primeTable h)) a x.count.toNat 0
      ((s0.seal h).modDesc h sa fun y => { y with rf := false }))

/-! ### sexp and scmp (R145, R344) -/

/-- Records of a stream from t on, as far as they can be read. -/
def readSome (h : Nat) (q : SReg) (f : Coeffs) : Nat → Nat → State → List Term → List Term × State × Option SStop
  | 0, _, s, l => (l, s, none)
  | n + 1, t, s, l =>
    match s.readTerm h q f t with
    | .error e => (l, s, some e)
    | .ok (x, s1) => readSome h q f n (t + 1) s1 (l ++ [x])

/-- The bits that sexp gives flat element e: the coefficient of its monomial, or +0. -/
def expandBits (layout : Nat) (l : List Term) (base : Word) (e : Nat) : Nat :=
  if 2 ^ 64 ≤ base.toNat + e then 0
  else
    match l.find? fun t => packMono layout t.mono == base + BitVec.ofNat 64 e with
    | some t => t.co.getD 0 0
    | none => 0

/-- sexp. A stop at a record leaves the group partly written: which elements are is open (log 42). -/
def execSexp (vd : VReg) (sa : SReg) (ba : BReg) (s : State) : Host.Outcome State Fault Refusal :=
  let h := s.cur
  let base := s.ctx.br ba
  let w := s.sweep h
  let early : Except VStop Unit := do
    need (w.inRange vd) illegalWord
    need (w.fits tagFP32) tagFault
  endV s (s.withUnit h early fun s0 => do
    let x := s0.desc h sa
    need (x.kind == 0 && x.order == 3) tagFault
    s0.descsClean h [sa]
    if w.g = 0 then .ok s0
    else
      let (l, s1, stop) := readSome h sa (x.coeffs []) x.count.toNat 0 s0 []
      let val (r c _ : Nat) : Nat × Events := (expandBits x.layout.toNat l base (w.flat r c), 0)
      match stop with
      | none => s1.sweepWrite h w vd tagFP32 { unchecked := true } (w.fate (tailOnes w .vtype) fun _ _ => true) false val
      | some e =>
        let part (r c : Nat) : Fate :=
          if w.flat r c < w.g ∧ Config.freeBit s.tick (w.flat r c) then .active else .keep
        let p := w.cells.foldl (stepCell w vd tagFP32 part false val) { v := s1.ctx.v, rnd := s1.ctx.rnd, ev := 0 }
        let s2 := (s1.touch h { wv := w.written vd part }).modCtx h fun c => { c with v := p.v }
        .error (endPlain s2 e))

/-- The elements of a group from flat index e − 1 down to 0, appended as terms. -/
def compressLoop (h : Nat) (sd : SReg) (layout : Nat) (base : Word) (bits : Nat → Nat) : Nat → State → Except Cut State
  | 0, s => .ok s
  | e + 1, s => do
    let b := bits e
    let s1 ← if b % 2 ^ 31 = 0 then .ok s
      else orCut s (BitVec.ofNat 64 (e + 1)) (s.appendTerm h sd { k := 0, primes := [], valid := 0 }
        (packMono layout (exponents layout (base + BitVec.ofNat 64 e))) [b])
    compressLoop h sd layout base bits e s1

/-- scmp. CURSOR keeps how many elements are left. -/
def execScmp (sd : SReg) (vd : VReg) (ba : BReg) (s : State) : Host.Outcome State Fault Refusal :=
  let h := s.cur
  let base := s.ctx.br ba
  let x := s.ctx
  let w := s.sweep h
  let early : Except VStop Unit := do
    need (w.inRange vd) illegalWord
    need (groupTag x w vd == some tagFP32 && w.fits tagFP32) tagFault
  endV s (s.withUnit h early fun s0 => do
    need (decide (base.toNat + w.g ≤ 2 ^ 64)) (.fault 0x0E 0)
    s0.descsTaken h [sd]
    let sig := s0.signature h 0xAF 0 [] [base]
      (BitVec.ofNat 8 vd.toNat :: bytesOf (BitVec.ofNat 32 w.g) 4)
    let resume := s0.resumes h sd sig
    let d := s0.desc h sd
    let s1 := (s0.seal h).modDesc h sd fun y =>
      { (if resume then y else y.fresh) with kind := 0, order := 3, valid := 0, gen := (s0.coreAt (coreOf h)).pgen }
    let reads : Touch := { rv := if w.g = 0 then [] else w.group vd }
    need (!poisonedReads x w reads) (.poisoned s1 1 0)
    let bits (e : Nat) : Nat := x.elem w.lanes tagFP32 (vd.toNat + e / w.vl) (e % w.vl)
    let left := if resume then min w.g d.cursor.toNat else w.g
    endStream h sd sig (s0.hartAt h).kflags (compressLoop h sd d.layout.toNat base bits left (s1.touch h reads)))

/-! ### The grant -/

/-- The first waiting context of the current hart's core takes a free stream unit (R131). -/
def execStreamUnitGrant (s : State) : Host.Outcome State Fault Refusal :=
  .next (s.modCore (coreOf s.cur) Core.grantStream)

end Sys2Proof.Machine
end

