-- ==== Sys2Proof/Machine/Firmware.lean ====
section
/-! DEFINITION. What firmware does to a running part: the hoist map, gangs of slabs, retirement, row sparing, heat records,
errors in stored data (R10-R14, R42, R74, R126, R146, R165, R206, R213-R216, R232). -/

namespace Sys2Proof.Machine

/-! ### A running part -/

/-- Phase 4 is complete (Table 12-2). -/
def State.isDone (s : State) : Bool := tst s.part.kbist 63

/-- The part has power and has completed phase 4: firmware and the outside find it ready (R229). -/
def State.ready (s : State) : Bool := s.part.power && s.isDone

/-! ### Answers (log 30) -/

/-- The last answer of firmware, of the management controller or of the host link. -/
def State.answer (s : State) (bs : List Byte) : State := s.modPart fun p => { p with mailbox := bs }

/-- The answer of a firmware call that is done, and of one that is refused. -/
def callDone : List Byte := [0]
def callRefused : List Byte := [1]

/-! ### The hoist map (R10-R12) -/

/-- The bytes of a hoist map, an entry of 32 bits each, in tower order (R11). -/
def hoistBytes (l : List W32) : List Byte := l.flatMap fun e => bytesOf e 4

/-- The firmware call that returns the hoist map (R12). -/
def execHoistMapRead (s : State) : Host.Outcome State Fault Refusal :=
  .next (if s.ready then s.answer (hoistBytes s.part.hoist) else s)

/-- The hoist map with the entry at an index changed. -/
def State.modHoist (s : State) (i : Nat) (f : W32 → W32) : State :=
  s.modPart fun p => { p with hoist := p.hoist.set i (f (p.hoist.getD i 0)) }

/-- The offset codes of an entry, by the bit that they start at (Table 1-3). -/
def atL0 : Nat := 14
def atU0 : Nat := 12
def atL1 : Nat := 10
def atU1 : Nat := 8

/-- The slab that a code at a bit of the entry of index i names; 0b11 is not bound (R12). -/
def slabOf (i : Nat) (e : W32) (at_ : Nat) : Option Nat := if fld e at_ 2 = 3 then none else some (i % 17 + fld e at_ 2)

/-- The code of a slab from the helm of index i; 3 for none. -/
def codeOf (i : Nat) (slab : Option Nat) : Nat :=
  match slab with
  | some k => if i % 17 ≤ k ∧ k ≤ i % 17 + 2 then k - i % 17 else 3
  | none => 3

/-- A slab lies in the reach of the helm of index i (R10). -/
def inReach (i slab : Nat) : Bool := decide (i % 17 ≤ slab) && decide (slab ≤ i % 17 + 2) && decide (slab ≤ 17)

/-- The halves that a helm binds: lower and upper slab. -/
structure Pair where
  lo : Nat
  up : Nat
  deriving DecidableEq, Repr

/-- The pair of the enabled helm of index i: its own, or for a dark helm the second pair of its leader. -/
def State.pairOf (s : State) (i : Nat) : Option (List Nat × Pair) :=
  let e := s.hoistAt i
  let c := fld e 18 6
  let own := (List.range 18).filter (inReach i)
  let mk2 (cand : List Nat) (a b : Option Nat) : Option (List Nat × Pair) :=
    match a, b with
    | some x, some y => some (cand, { lo := x, up := y })
    | _, _ => none
  if tst e 29 then
    match (s.leaderOf c).bind s.slot with
    | some k => mk2 (own.filter (inReach k)) (slabOf k (s.hoistAt k) atL1) (slabOf k (s.hoistAt k) atU1)
    | none => none
  else mk2 own (slabOf i e atL0) (slabOf i e atU0)

/-! ### Idle helms (R14) -/

/-- The helm of core c is idle (R14). -/
def State.helmIdle (s : State) (c : Nat) : Bool :=
  let k := s.coreAt c
  k.array.owner.isNone && k.stream.owner.isNone &&
    (List.range 4).all fun t =>
      let x := (s.hartAt (4 * c + t)).ctx
      x.blk.isNone && !x.copies.any Copy.outstanding

/-- What a change does to a helm: every cluster released, registers all ones with their tags kept, tiles tagged NONE,
kmtile and the counters cleared, s0-s15 reset, the prime table kept (R14, R42, Tables 6-8 and 7-7). -/
def State.clearHelm (s : State) (c : Nat) : State :=
  let s1 := (List.range 4).foldl (fun u t => u.modCtx (4 * c + t) fun x => { x.setChanged with kmtile := 0 }) s
  s1.modCore c fun k => { k with clusters := [], tiles := [], zpoison := [], counters := [], descs := [], dpoison := [] }

/-- The harts that exist on a core. -/
def State.hartsOn (s : State) (c : Nat) : List Nat := ((List.range 4).map fun t => 4 * c + t).filter fun h => (s.hartAt h).live

/-! ### Gangs of slabs (R13, R14) -/

/-- A core leads a gang of slabs once the pending changes have taken effect. -/
def State.willLead (s : State) (c : Nat) : Bool :=
  match (s.part.gangs.filter fun g => g.leader == c).getLast? with
  | some g => g.form
  | none => s.ganged c

/-- A core is dark once the pending changes have taken effect. -/
def State.willBeDark (s : State) (c : Nat) : Bool :=
  match (s.part.gangs.filter fun g => g.dark == c).getLast? with
  | some g => g.form
  | none => s.dark c

/-- Hart h keeps helm h′ from going dark: a command outstanding, a copy outstanding or held, the array or the unit
(R14). -/
def State.holdsHelm (s : State) (h : Nat) : Bool :=
  let v := s.hartAt h
  v.head != v.next || v.ctx.copies.any (fun c => c.outstanding || c.isHeld) || s.ownsArray h || s.ownsStream h

/-- The pair of core d lies in the reach of the helm of core c (R13). -/
def State.pairReached (s : State) (c d : Nat) : Bool :=
  match s.slot c, (s.slot d).bind s.pairOf with
  | some i, some (_, p) => inReach i p.lo && inReach i p.up
  | _, _ => false

/-- The core that would go dark in a gang of slabs led by core c, if the gang may form (R13, R14): its pair is the one that
it has once the pending changes have taken effect. -/
def State.gangPartner (s : State) (c : Nat) : Option Nat :=
  match s.slot c, s.nextHelm c with
  | some _, some d =>
    if !s.willLead c && !s.willBeDark c && !s.willLead d && !s.willBeDark d && s.pairReached c d
        && !((List.range 4).any fun t => s.holdsHelm (4 * d + t))
    then some d else none
  | _, _ => none

/-- A gang of slabs led by a core is requested (R13, R14). -/
def execGangRequest (leader : Nat) (s : State) : Host.Outcome State Fault Refusal :=
  if !s.ready then .next s
  else
    match s.gangPartner leader with
    | none => .next (s.answer callRefused)
    | some d =>
      .next (s.modPart fun p =>
        { p with gangs := p.gangs ++ [{ form := true, leader := leader, dark := d, caller := s.cur }] })

/-- The dissolution of a gang of slabs is requested (R14). -/
def execUngangRequest (leader : Nat) (s : State) : Host.Outcome State Fault Refusal :=
  if !s.ready then .next s
  else
    match s.nextHelm leader with
    | some d =>
      if s.willLead leader then
        .next (s.modPart fun p =>
          { p with gangs := p.gangs ++ [{ form := false, leader := leader, dark := d, caller := s.cur }] })
      else .next (s.answer callRefused)
    | none => .next (s.answer callRefused)

/-- A hart whose helm goes dark: no vector context, HEAD = NEXT (R13). DESIGN CHOICE (log 118): replies that have arrived and
are not consumed, and the reservations of slots, go with the context. -/
def scalarHart (v : Hart) : Hart :=
  { v with scalar := true, ctx := v.ctx.emptied, queue := [], spilt := 0, sqCons := v.sqProd, replies := [], replyBad := []
           rsv := 0, head := v.next, kvfault := 0, kvrst := [], vfTval := 0, vfPend := false }

/-- A scalar hart with its fresh vector context (R13). -/
def vectorHart (v : Hart) : Hart := { scalarHart v with scalar := false }

/-- The harts of core c changed. -/
def State.modHarts (s : State) (c : Nat) (f : Hart → Hart) : State := (s.hartsOn c).foldl (fun u h => u.modHart h f) s

/-! Retired clusters and working lanes, by half-slab and place in it (R213): they follow the half-slab from helm to helm. -/

/-- The half-slab and the place in it of cluster x of core c. -/
def State.placeOf (s : State) (c x : Nat) : Option (Nat × Nat × Bool × Nat) :=
  (s.slot c).bind fun i =>
    (slabOf i (s.hoistAt i) (atL0 - 2 * (x / 4))).map fun k => (i / 17, k, x / 4 % 2 == 1, x % 4)

/-- The clusters of core c whose places are in a list. -/
def State.clustersAt (s : State) (l : List (Nat × Nat × Bool × Nat)) (c : Nat) : List Nat :=
  (List.range (if s.dark c then 0 else if s.ganged c then 16 else 8)).filter fun x =>
    match s.placeOf c x with
    | some e => l.any fun q => q == e
    | none => false

/-- The retirements of what core c has bound (R213). -/
def State.findRetired (s : State) (c : Nat) : State :=
  s.modCore c fun k =>
    { k with retired := s.clustersAt s.part.deadClusters c, lanesOut := s.clustersAt s.part.deadLanes c }

/-- Core c leads core d: the hoist map, the retired clusters under their new numbers, the scalar harts (R12, R13). No context of
core d is left that could wait for clusters. -/
def State.formGang (s : State) (c d : Nat) : State :=
  match s.slot c, s.slot d with
  | some i, some j =>
    let e := s.hoistAt j
    let s1 := (s.modHoist i fun x =>
      putFld (putFld (putBit x 30 true) atL1 2 (codeOf i (slabOf j e atL0))) atU1 2 (codeOf i (slabOf j e atU0))).modHoist j
        fun x => putFld (putFld (putBit x 29 true) atL0 2 3) atU0 2 3
    (((s1.findRetired c).findRetired d).modHarts d scalarHart).modCore d fun k => { k with stalled := [] }
  | _, _ => s

/-- The gang of slabs of core c with core d is dissolved (R12, R13). -/
def State.dissolveGang (s : State) (c d : Nat) : State :=
  match s.slot c, s.slot d with
  | some i, some j =>
    let e := s.hoistAt i
    let s1 := (s.modHoist i fun x => putFld (putFld (putBit x 30 false) atL1 2 3) atU1 2 3).modHoist j fun x =>
      putFld (putFld (putBit x 29 false) atL0 2 (codeOf j (slabOf i e atL1))) atU0 2 (codeOf j (slabOf i e atU1))
    ((s1.findRetired c).findRetired d).modHarts d vectorHart
  | _, _ => s

/-- A gang change on two idle helms (R14). -/
def State.changeGang (s : State) (g : GangChange) : State :=
  let s1 := (s.clearHelm g.leader).clearHelm g.dark
  let s2 := if g.form then s1.formGang g.leader g.dark else s1.dissolveGang g.leader g.dark
  (s2.settle g.leader).settle g.dark

/-- A pending gang change may take effect (R14): both helms are idle, and neither is becalmed (R224). -/
def State.gangReady (s : State) (g : GangChange) : Bool :=
  s.helmIdle g.leader && s.helmIdle g.dark && !s.isBecalmed g.leader && !s.isBecalmed g.dark

/-- A gang change still makes sense when it takes effect: a retirement since may have disabled a helm, or moved the pair of the
helm that goes dark out of reach (R13, R213). DESIGN CHOICE (log 124): a change that makes no sense any more changes nothing,
and its call is answered as refused. -/
def State.gangStands (s : State) (g : GangChange) : Bool :=
  s.enabled g.leader && s.enabled g.dark && s.nextHelm g.leader == some g.dark
    && if g.form then !s.ganged g.leader && !s.dark g.leader && !s.ganged g.dark && !s.dark g.dark
        && s.pairReached g.leader g.dark
      else s.ganged g.leader && s.dark g.dark

/-- Two gang changes name the same helm. -/
def GangChange.meets (g k : GangChange) : Bool :=
  g.leader == k.leader || g.leader == k.dark || g.dark == k.leader || g.dark == k.dark

/-- The first pending change that is ready and has no older one for either of its helms, and the others; the first list holds
the older ones. -/
def pickGang (ready : GangChange → Bool) : List GangChange → List GangChange → Option (GangChange × List GangChange)
  | _, [] => none
  | old, g :: rest =>
    if ready g && !old.any g.meets then some (g, old ++ rest) else pickGang ready (old ++ [g]) rest

/-- The pending gang change that takes effect now, if there is one. -/
def State.nextGangChange (s : State) : Option (GangChange × List GangChange) := pickGang s.gangReady [] s.part.gangs

/-- A pending gang change takes effect when both its helms are idle, changes of one helm in the order received (R14); the
call returns. -/
def execGangChangeEffect (s : State) : Host.Outcome State Fault Refusal :=
  match s.nextGangChange with
  | none => .next s
  | some (g, rest) =>
    let s1 := s.modPart fun p => { p with gangs := rest }
    .next (if s.gangStands g then (s1.changeGang g).answer callDone else s1.answer callRefused)

/-! ### klpr at a cluster retirement (R214) -/

/-- Context t of core c belongs to a hart-gang member. -/
def State.memberAt (s : State) (c t : Nat) : Bool := (s.hartAt (4 * c + t)).live && (s.hartAt (4 * c + t)).inGang

/-- The sum of MIN over the entries that are not stranded. -/
def minSum (k : Word) : Nat := ((List.range 4).map fun t => if lprStr k t then 0 else lprMin k t).foldl (· + ·) 0

/-- Step 1: the entry of a non-member brought within n. -/
def lowerEntry (n t : Nat) (k : Word) : Word := lprSet k t (min (lprMin k t) (min (lprMax k t) n)) (min (lprMax k t) n)

/-- An entry stranded. -/
def strandEntry (t : Nat) (k : Word) : Word := putBit k (16 * t + 13) true

/-- Step 3, bounded by fuel: the highest non-member entry with MIN > 0 loses 1 while the sum exceeds n. -/
def lowerMins (n : Nat) (member : Nat → Bool) : Nat → Word → Word
  | 0, k => k
  | f + 1, k =>
    if minSum k ≤ n then k
    else
      match [3, 2, 1, 0].find? fun t => !member t && decide (0 < lprMin k t) with
      | some t => lowerMins n member f (lprSet k t (lprMin k t - 1) (lprMax k t))
      | none => k

/-- klpr of core c brought within n clusters. -/
def State.boundLpr (s : State) (c n : Nat) : Word :=
  let member := s.memberAt c
  let k0 := (s.coreAt c).klpr
  let k1 := [0, 1, 2, 3].foldl (fun k t => if member t then k else lowerEntry n t k) k0
  let k2 := [0, 1, 2, 3].foldl (fun k t =>
    if member t && decide (n < (s.hartAt (4 * c + t)).gcl) then strandEntry t k else k) k1
  let k3 := lowerMins n member 128 k2
  [3, 2, 1, 0].foldl (fun k t => if n < minSum k ∧ member t then strandEntry t k else k) k3

/-! ### Retirement (R213-R215) -/

/-- No hart exists on a core any more. -/
def State.dropHarts (s : State) (c : Nat) : State :=
  (s.hartsOn c).foldl State.exitHart s

/-- A gang of slabs that core c takes part in is dissolved. -/
def State.breakGang (s : State) (c : Nat) : State :=
  if s.ganged c then
    match s.nextHelm c with
    | some d => (s.clearHelm d).dissolveGang c d
    | none => s
  else
    match s.leaderOf c with
    | some k => (s.clearHelm k).dissolveGang k c
    | none => s

/-- The helm of a core is disabled: its entry is unbound, its core holds no hart. -/
def State.disableHelm (s : State) (c : Nat) : State :=
  let s1 := (s.breakGang c).clearHelm c
  let s2 := s1.dropHarts c
  match s1.slot c with
  | some i => s2.modHoist i fun x => (putFld x 8 8 0xFF) &&& 0x1FFFFFFF
  | none => s2

/-! Remapping of half-slabs: the binding is firmware's choice within the reach of each helm (R10; log 50). -/

/-- What a remapping knows of one side: slabs gone (retired, or taken by a lower helm) and slabs that a higher helm still
binds. -/
structure Side where
  gone  : List Nat
  later : List Nat
  deriving DecidableEq, Repr

/-- The slab that replaces a half: an unbound one, else the lowest one. -/
def bestSlab (cand : List Nat) (x : Side) : Option Nat :=
  let free := cand.filter fun k => !hasNat x.gone k
  match free.find? fun k => !hasNat x.later k with
  | some k => some k
  | none => free.head?

/-- The pair of one helm after the lower ones: kept where it can be; pushed by a lower helm, it moves to a whole slab. -/
def remapOne (cand : List Nat) (p : Pair) (pushed : Bool) (l u : Side) : Option Pair :=
  let okL := !hasNat l.gone p.lo
  let okU := !hasNat u.gone p.up
  if okL && okU then some p
  else
    match (if pushed then cand.find? fun k => !hasNat l.gone k && !hasNat u.gone k else none) with
    | some k => some { lo := k, up := k }
    | none =>
      match (if okL then some p.lo else bestSlab cand l), (if okU then some p.up else bestSlab cand u) with
      | some a, some b => some { lo := a, up := b }
      | _, _ => none

/-- The helms of a tower, ascending, each with its candidate slabs and its pair, bound anew: the slabs lost in the part
and those that lower helms took. -/
def remapAll (deadL deadU : List Nat) : List (Nat × List Nat × Pair) → List Nat → List Nat → List (Nat × Option Pair)
  | [], _, _ => []
  | (i, cand, p) :: rest, takenL, takenU =>
    let r := remapOne cand p (hasNat takenL p.lo || hasNat takenU p.up)
      { gone := deadL ++ takenL, later := rest.map fun e => e.2.2.lo }
      { gone := deadU ++ takenU, later := rest.map fun e => e.2.2.up }
    let tl := match r with
      | some q => q.lo :: takenL
      | none => takenL
    let tu := match r with
      | some q => q.up :: takenU
      | none => takenU
    (i, r) :: remapAll deadL deadU rest tl tu

/-- The new pair of helm i written to the hoist map. -/
def State.bindPair (s : State) (i : Nat) (p : Pair) : State :=
  let e := s.hoistAt i
  if tst e 29 then
    match (s.leaderOf (fld e 18 6)).bind s.slot with
    | some k => s.modHoist k fun x => putFld (putFld x atL1 2 (codeOf k (some p.lo))) atU1 2 (codeOf k (some p.up))
    | none => s
  else s.modHoist i fun x => putFld (putFld x atL0 2 (codeOf i (some p.lo))) atU0 2 (codeOf i (some p.up))

/-- The new bindings of tower t with its lost half-slabs. -/
def State.remap (s : State) (t : Nat) : List (Nat × Option Pair) :=
  let dead (up : Bool) : List Nat := (s.part.dead.filter fun d => d.1 == t && d.2.2 == up).map fun d => d.2.1
  let l := (List.range 17).filterMap fun h =>
    let i := 17 * t + h
    if tst (s.hoistAt i) 31 then (s.pairOf i).map fun p => (i, p.1, p.2) else none
  remapAll (dead false) (dead true) l [] []

/-- A helm of tower t after a remapping: bound anew and cleared if its pair changed, with the retirements that the new pair
brings (R213, R214); disabled if it has none. -/
def State.applyRemap (s : State) (e : Nat × Option Pair) : State :=
  let c := fld (s.hoistAt e.1) 18 6
  match e.2 with
  | some p =>
    if (s.pairOf e.1).map (fun q => q.2) = some p then s
    else
      let k := if s.dark c then (s.leaderOf c).getD c else c
      let s1 := (((s.bindPair e.1 p).clearHelm c).clearHelm k).findRetired k
      s1.modCore k fun x => { x with klpr := s1.boundLpr k (s1.clusterCount k) }
  | none => s.disableHelm c

/-- kbist with a count of 8 bits raised (Table 12-2). -/
def State.bumpBist (s : State) (lo : Nat) : State :=
  s.modPart fun p => { p with kbist := putFld p.kbist lo 8 (min 255 (fld p.kbist lo 8 + 1)) }

/-- The half-slab retirement leaves the helm of core 0 a pair (R308; log 76). -/
def State.sparesCore0 (s : State) (t k : Nat) (up : Bool) : Bool :=
  ((s.modPart fun p => { p with dead := p.dead ++ [(t, k, up)] }).remap t).all fun e =>
    e.2.isSome || fld (s.hoistAt e.1) 18 6 != 0

/-- Whether a unit can be retired: it exists and is in service; hart 0 always exists (R308), so core 0 keeps its helm and
control core (log 76). -/
def State.canRetire (s : State) (u : RUnit) : Bool :=
  match u with
  | .workingLane c l =>
    s.enabled c && !s.dark c && decide (l < if s.ganged c then 128 else 64) && !hasNat (s.coreAt c).lanesOut (l / 8)
  | .cluster c k => s.enabled c && !s.dark c && decide (k < if s.ganged c then 16 else 8) && !hasNat (s.coreAt c).retired k
  | .halfSlab t k up =>
    decide (t < 4) && decide (k < 18) && !(s.part.dead.any fun d => d == (t, k, up)) && s.sparesCore0 t k up
  | .helm c => s.enabled c && decide (c ≠ 0)
  | .controlCore c => s.enabled c && decide (c ≠ 0) && !(s.coreAt c).ccOut

/-- Firmware retires a unit (R213): the retirement waits for its helms to be idle. -/
def execRetirement (u : RUnit) (s : State) : Host.Outcome State Fault Refusal :=
  if s.ready && s.canRetire u then .next (s.modPart fun p => { p with retiring := p.retiring ++ [u] }) else .next s

/-- The effect of a retirement on idle helms (Table 11-3, R214, R215). -/
def State.retire (s : State) (u : RUnit) : State :=
  match u with
  | .workingLane c l =>
    (s.modPart fun p => { p with deadLanes := p.deadLanes ++ (s.placeOf c (l / 8)).toList }).modCore c fun k =>
      { k with lanesOut := k.lanesOut ++ [l / 8] }
  | .cluster c x =>
    let s1 := ((s.clearHelm c).modPart fun p =>
      { p with deadClusters := p.deadClusters ++ (s.placeOf c x).toList }).modCore c fun k => { k with retired := k.retired ++ [x] }
    s1.modCore c fun k => { k with klpr := s1.boundLpr c (s1.clusterCount c) }
  | .halfSlab t x up =>
    let s1 := s.modPart fun p => { p with dead := p.dead ++ [(t, x, up)] }
    ((s1.remap t).foldl State.applyRemap s1).bumpBist 16
  | .helm c => ((s.modPart fun p => { p with deadHelms := p.deadHelms ++ (s.slot c).toList }).disableHelm c).bumpBist 24
  | .controlCore c =>
    (((s.modPart fun p => { p with deadControl := p.deadControl ++ [c] }).dropHarts c).modCore c fun k =>
      { k with ccOut := true }).bumpBist 8

/-- A retirement may take effect: the helms that it concerns are idle, and none is becalmed (R213, R224). -/
def State.retireReady (s : State) (u : RUnit) : Bool :=
  (List.range 64).all fun c => !s.concerned c u || (s.helmIdle c && !s.isBecalmed c)

/-- The oldest pending retirement that is ready, and the others; the first list holds those before it. -/
def pickUnit (ready : RUnit → Bool) : List RUnit → List RUnit → Option (RUnit × List RUnit)
  | _, [] => none
  | old, u :: rest => if ready u then some (u, old ++ rest) else pickUnit ready (old ++ [u]) rest

/-- The pending retirement that takes effect now, if there is one. -/
def State.nextRetirement (s : State) : Option (RUnit × List RUnit) := pickUnit s.retireReady [] s.part.retiring

/-- A pending retirement takes effect when its helms are idle: the hoist map and measurement 4 follow, and the supervisor is
told (R213, R232). One that can no more be made is dropped. -/
def execRetirementEffect (s : State) : Host.Outcome State Fault Refusal :=
  match s.nextRetirement with
  | none => .next s
  | some (u, rest) =>
    let s1 := s.modPart fun p => { p with retiring := rest }
    if s.canRetire u then
      let s2 := s1.retire u
      .next ((s2.modPart fun p => { p with measured := p.hoist }).postMev 1 0)
    else .next s1

/-! ### Row sparing (R216) -/

/-- The helm cycle by which corrected errors are dated (log 102). -/
def State.rowClock (s : State) : Nat := (s.coreAt 0).hcycle.toNat

/-- A row of HBM has reached the threshold: as many corrected errors within 2^32 helm cycles as firmware says, by default 16
(R216; log 102). -/
def State.rowWorn (s : State) (row : Nat) (limit : Option Nat) : Bool :=
  decide (max 1 (limit.getD 16) ≤ ((Map.get [] s.part.rowErrors row).filter fun t => decide (s.rowClock < t + 2 ^ 32)).length)

/-- The row of an HBM address that has reached the threshold is copied to one of the 8 spares of its bank: memory is
unchanged. Without a spare left, its page is named in a management event (R216, Table 12-2). -/
def execHbmRowSpare (addr : BitVec 44) (limit : Option Nat) (s : State) : Host.Outcome State Fault Refusal :=
  let row := Config.rowOf addr.toNat
  let bank := Config.bankOf addr.toNat
  if s.ready && decide (addr.toNat < 0xC000000000) && s.rowWorn row limit then
    let s1 := s.modPart fun p => { p with rowErrors := Map.erase p.rowErrors row }
    .next (if Map.get 0 s.part.rowsUsed bank < 8
      then (s1.modPart fun p => { p with rowsUsed := Map.put p.rowsUsed bank (Map.get 0 p.rowsUsed bank + 1) }).bumpBist 0
      else s1.postMev 2 (addr.toNat / 0x1000))
  else .next s

/-! ### Heat records (R165) -/

/-- Entry i of the L2 TLB of a tower is evicted, or, at the threshold, only recorded and cleared. -/
def execHeatRecordAppend (tower entry : Nat) (threshold : Bool) (s : State) : Host.Outcome State Fault Refusal :=
  match (s.towerAt tower).tlb[entry]? with
  | none => .next s
  | some e =>
    if threshold then
      if 2 ^ 24 ≤ e.unitCnt ∨ 2 ^ 24 ≤ e.strided ∨ 2 ^ 24 ≤ e.indexed then
        .next ((s.appendHeat tower e true).modTower tower fun x =>
          { x with tlb := x.tlb.set entry { e with unitCnt := 0, strided := 0, indexed := 0 } })
      else .next s
    else .next ((s.appendHeat tower e false).modTower tower fun x => { x with tlb := x.tlb.eraseIdx entry })

/-! ### Errors in stored data (R206) -/

/-- n bytes of memory from a cell on become poisoned. -/
def State.poisonCells (s : State) (k n : Nat) : State :=
  s.modPart fun p => (List.range n).foldl (fun q i => q.markPoison (k + i)) p

/-- The bytes of a map by cell in the 8 bytes that hold cell k, as poison marks. -/
def marksAbout {α : Type} (k : Nat) (l : Map α) (marks : Map Unit) : Map Unit :=
  l.foldl (fun q e => if e.1 / 8 = k / 8 then Map.put q e.1 () else q) marks

/-- A line with the 8 bytes about an offset poisoned, as far as it has them. -/
def JLine.strike (l : JLine) (o : Nat) : JLine := { l with bad := marksAbout o l.bytes l.bad }

/-- Commands with one bad. -/
def strikeCommand (l : List Command) (n : Nat) : List Command :=
  match l[n]? with
  | some c => l.set n { c with bad := true }
  | none => l

/-- An uncorrectable error: HBM delivers the line poisoned; SRAM, which holds the lines of host memory in the L2, the 64 bits
that its code protects. -/
def State.poison (s : State) (loc : EccLoc) : State :=
  let inCtx (h : Nat) (f : VCtx → VCtx) : State := if (s.hartAt h).live then s.modCtx h f else s
  match loc with
  | .mem pa =>
    match s.paKind pa.toNat with
    | .hbm => s.poisonCells (s.cell pa.toNat / 64 * 64) 64
    | .spad _ _ | .host => s.poisonCells (s.cell pa.toNat / 8 * 8) 8
    | _ => s
  | .vreg h v i => inCtx h fun c => { c with vpoison := Map.put c.vpoison (32 * i + v.toNat) () }
  | .mreg h m r p => inCtx h fun c => { c with mpoison := Map.put c.mpoison (64 * p + 8 * (r % 8) + m.toNat) () }
  | .breg h b => inCtx h fun c => { c with bpoison := Map.put c.bpoison b.toNat () }
  | .xreg h x =>
    if (s.hartAt h).live && decide (x ≠ 0) then s.modHart h fun v => { v with xpoison := Map.put v.xpoison x.toNat () } else s
  | .tile c z r j =>
    if s.enabled c then
      s.modCore c fun k => { k with zpoison := Map.put k.zpoison (32 * (512 * r + j % 512) + z.toNat) () }
    else s
  | .desc c d => if s.enabled c then s.modCore c fun k => { k with dpoison := Map.put k.dpoison d.toNat () } else s
  | .junction c pa =>
    let k := s.cell pa.toNat
    s.modCore c fun x =>
      { x with junction := x.junction.map fun l => if l.line = k / 64 then l.strike (k % 64) else l }
  | .strip h pa =>
    s.modStrip h fun st => { st with bufBad := marksAbout (s.cell pa.toNat) st.buf st.bufBad }
  | .queue h n => s.modHart h fun v => { v with queue := strikeCommand v.queue n }
  | .reply h n =>
    if n < (s.hartAt h).replies.length then s.modHart h fun v => { v with replyBad := Map.put v.replyBad n () } else s

/-- A single-bit error is corrected, unseen by any program, and counted: one in HBM against its row (R206, R216). -/
def State.countCorrected (s : State) (loc : EccLoc) : State :=
  s.modPart fun p =>
    { p with
      corrected := p.corrected + 1
      rowErrors := match loc with
        | .mem pa =>
          if s.inHbm pa.toNat 1 then
            Map.modify [] p.rowErrors (Config.rowOf (pa.toNat % 2 ^ 44)) fun l => l ++ [s.rowClock]
          else p.rowErrors
        | _ => p.rowErrors }

/-- An error in stored data. -/
def execEccError (loc : EccLoc) (uncorrectable : Bool) (s : State) : Host.Outcome State Fault Refusal :=
  .next (if uncorrectable then s.poison loc else s.countCorrected loc)

end Sys2Proof.Machine
end

