-- ==== Sys2Proof/Machine/Platform.lean ====
section
/-! DEFINITION. The outside edges of the part: Rencon, the host link, fabric peers, bring-up and power, management and
attestation, becalmed cores and dumps (R15, R151, R168, R217-R219, R224-R239). The bytes of answers are those of the
protocols named there (log 30). -/

namespace Sys2Proof.Machine

/-! ### The phases of bring-up (R226, R227) -/

/-- The phase reached (Table 12-2). -/
def Part.phase (p : Part) : Nat := fld p.kbist 59 3

/-- Bring-up stands at a phase and is not held. -/
def State.atPhase (s : State) (n : Nat) : Bool :=
  s.part.power && !s.isDone && !tst s.part.kbist 62 && s.part.phase == n

/-- kbist at a phase: DONE, FAIL and CODE 0, the counts kept. -/
def phaseBist (k : Word) (n : Nat) : Word := putFld (k &&& 0xFFFFFFFF) 59 3 n

/-- Bring-up moves on to a phase. -/
def State.toPhase (s : State) (n : Nat) : State := s.modPart fun p => { p with kbist := phaseBist p.kbist n }

/-- Bring-up is held with a code (R227): FAIL is set, PHASE stands. -/
def State.failBringup (s : State) (code : Nat) : State :=
  s.modPart fun p => { p with kbist := putFld (putBit p.kbist 62 true) 40 8 code }

/-- The part without power (R229): all state is gone but flash, the fuses and straps as last read, the retirements, and a cut
at 115 degrees that has not cooled (R239). -/
def State.powerDown (s : State) : State :=
  let p := s.part
  { part := { node := p.node, power := false, cut := p.cut, kbist := phaseBist p.kbist 0, hoist := p.hoist
              flash := p.flash, minSec := p.minSec, dead := p.dead, deadClusters := p.deadClusters
              deadLanes := p.deadLanes, deadHelms := p.deadHelms, deadControl := p.deadControl, rowsUsed := p.rowsUsed }
    harts := [], cores := [], towers := [], agenda := s.agenda, rr := 0, cur := 0, tick := s.tick }

/-- The part stands at phase 0 with power, nothing running; its ROM derives the device's identity (R229, R231, R239). -/
def State.fromPhase0 (s : State) : State :=
  { s.powerDown with part := { s.powerDown.part with power := true, cut := false, identity := Identity.ofRom } }

/-- Phase 0: power returns, and every rail is checked (R227). -/
def execPowerGood (ok : Bool) (s : State) : Host.Outcome State Fault Refusal :=
  if s.part.cut then .next s
  else if !s.part.power || s.atPhase 0 then
    let s1 := s.fromPhase0
    .next (if ok then s1.toPhase 1 else s1.failBringup 0x01)
  else .next s

/-- PORTST of a port as training leaves it (Table 12-5): UP, LANES and PEER are what the fabric gives. -/
def State.trainedPort (s : State) (p : Nat) : Word :=
  let w := Config.freeWord s.tick p
  putFld (putFld (putBit 0 63 (tst w 63)) 61 2 (fld w 61 2 % 3)) 48 12 (fld w 48 12)

/-- What the host link may train to: CXL only on a trained link, a width of 0 to 4, no reserved rate (R235, Table 12-5). -/
def linkOk (w : Word) : Bool := (tst w 63 || !tst w 62) && decide (fld w 59 3 ≤ 4) && decide (fld w 56 3 ≠ 7)

/-- The port sets of the routing tables: of each destination a primary set and at most 3 alternates (R219). -/
def routesOf (l : List (Nat × List (List Nat))) : Map (List (List Nat)) := l.foldl (fun m e => Map.put m e.1 (e.2.take 4)) []

/-- Phase 1 (R227): a failure of Table 12-3, or the strap, what the links trained to, and firmware's routing tables. A host
link that came up in no form of Table 12-5 has failed to train. -/
def execBringupPhase1 (code : Byte) (strap : BitVec 12) (links : LinkTraining) (s : State) : Host.Outcome State Fault Refusal :=
  if !s.atPhase 1 then .next s
  else if code = 2 ∨ code = 3 ∨ code = 4 then .next (s.failBringup code.toNat)
  else if strap = 0xFFF then .next (s.failBringup 0x05)
  else
    .next ((s.modPart fun p =>
      { p with node := strap, hlst := if linkOk links.hlst then links.hlst &&& 0xFF00000000000000 else 0
               routes := routesOf links.routes
               portst := (List.range 128).map fun i => (i, s.trainedPort i) }).toPhase 2)

/-- An entry of a hoist map as phase 2 applies it: its helm not retired, both halves bound in reach, to halves that are not
retired and that no lower helm binds (R10-R12, R213). -/
def Part.appliedEntry (p : Part) (i : Nat) (e : W32) (lower : List (Nat × W32)) : Bool :=
  let free (at_ : Nat) (up : Bool) : Bool :=
    match slabOf i e at_ with
    | some k => inReach i k && !(p.dead.any fun d => d == (i / 17, k, up))
        && !lower.any fun x => x.1 / 17 == i / 17 && tst x.2 31 && slabOf x.1 x.2 at_ == some k
    | none => false
  tst e 31 && !hasNat p.deadHelms i && free atL0 false && free atU0 true

/-- A hoist map as phase 2 applies it, from index i on: at most 16 helms of a tower (Table 1-1), core numbers in order (R11), no
gang (R12). -/
def Part.applyHoist (p : Part) : List W32 → Nat → Nat → List (Nat × W32) → List W32
  | [], _, _, _ => []
  | e :: rest, i, c, lower =>
    if p.appliedEntry i e lower && decide ((lower.filter fun x => x.1 / 17 == i / 17).length < 16) then
      let x : W32 := putFld (putFld (0x80000F00 : W32) 18 6 c) 12 4 (fld e 12 4)
      x :: p.applyHoist rest (i + 1) (c + 1) (lower ++ [(i, x)])
    else 0xFF00 :: p.applyHoist rest (i + 1) c lower

/-- The retirements inside a helm and of its control core are applied to core c (R213, R227): control core c pairs with core c,
whichever helm that is now (R11). -/
def State.applyRetired (s : State) (c : Nat) : State :=
  (s.findRetired c).modCore c fun k => { k with ccOut := hasNat s.part.deadControl c }

/-- Phase 2 (R227): the hoist map and the retirements applied; held when core 0 or its control core cannot be formed. -/
def execBringupPhase2 (hoist : List W32) (s : State) : Host.Outcome State Fault Refusal :=
  if !s.atPhase 2 then .next s
  else
    let l := s.part.applyHoist ((hoist.take 68) ++ List.replicate (68 - hoist.length) 0xFF00) 0 0 []
    let s1 := s.modPart fun p => { p with hoist := l, measured := l }
    let s2 := (List.range 64).foldl State.applyRetired s1
    .next (if !s2.enabled 0 || (s2.coreAt 0).ccOut then s.failBringup 0x06 else s2.toPhase 3)

/-- The RSA-3072 check of an image: its key has the fused hash, and the signature verifies over the digest (R230). -/
def rsaOk (f : Firmware) : Bool :=
  Config.sha384 f.rsaKey == Config.rsaKeyHash && Config.rsaVerifies f.rsaKey (fwMeasure f) f.rsaSig

/-- The SLH-DSA check of an image (R230). -/
def slhOk (f : Firmware) : Bool :=
  Config.sha384 f.slhKey == Config.slhKeyHash && Config.slhVerifies f.slhKey (fwMeasure f) f.slhSig

/-- Phase 3 (R230, R231): the image of the flash is verified, and the Alias identity derived from its measurement. -/
def execBringupPhase3 (serial validity nonce : List Byte) (s : State) : Host.Outcome State Fault Refusal :=
  let f := s.part.flash
  if !s.atPhase 3 then .next s
  else if !rsaOk f then .next (s.failBringup 0x08)
  else if !slhOk f then .next (s.failBringup 0x09)
  else if f.secVer < s.part.minSec then .next (s.failBringup 0x0A)
  else if f.malformed then .next (s.failBringup 0x0B)
  else .next ((s.modPart fun p => { p with identity := p.identity.withFirmware (fwMeasure f) (serial ++ validity) nonce }).toPhase 4)

/-- Hart 0 as phase 4 starts it (R228). -/
def startedHart0 (f : Firmware) : Hart :=
  { live := true, kstatus := 0x100, pc := f.supEntry, fw := { tvec := f.fwEntry } }

/-- PORTST of a port at the end of phase 4 (Table 12-5): no spare lane switched in and no flit corrected since. -/
def resetPort (w : Word) : Word := putFld (putBit w 60 false) 0 32 0

/-- Phase 4 (R228): the image copied to HBM, hart 0 started, every cycle counter at 0, no management event held and no request
of before. -/
def execBringupPhase4 (s : State) : Host.Outcome State Fault Refusal :=
  if !s.atPhase 4 then .next s
  else
    let f := s.part.flash
    .next
      { part := { (s.part.putBytes f.base.toNat f.bytes) with
                    kbist := putBit s.part.kbist 63 true, mev := 0, gangs := [], retiring := [], posted := [], spares := []
                    portst := s.part.portst.map fun e => (e.1, resetPort e.2) }
        harts := [(0, startedHart0 f)]
        cores := s.cores.map fun e => (e.1, { retired := e.2.retired, lanesOut := e.2.lanesOut, ccOut := e.2.ccOut })
        towers := [], agenda := s.agenda, rr := 0, cur := 0, tick := s.tick }

/-- A management reset restarts a held part (R229). -/
def execManagementReset (s : State) : Host.Outcome State Fault Refusal :=
  if s.part.power && tst s.part.kbist 62 then .next s.fromPhase0 else .next s

/-- Power is removed (R229). -/
def execPowerLoss (s : State) : Host.Outcome State Fault Refusal := .next s.powerDown

/-- At 115 °C the part cuts its power (R239). -/
def execThermalCutoff (s : State) : Host.Outcome State Fault Refusal :=
  if s.part.power then .next { s.powerDown with part := { s.powerDown.part with cut := true } } else .next s

/-- The cooled part restarts from phase 0 (R239). -/
def execCooledRestart (s : State) : Host.Outcome State Fault Refusal :=
  if s.part.cut then .next s.fromPhase0 else .next s

/-- Firmware changes the clock ratio (R239). -/
def execRatioChange (ratio : BitVec 4) (thr : Bool) (s : State) : Host.Outcome State Fault Refusal :=
  if s.ready && decide (1 ≤ ratio.toNat) && decide (ratio.toNat ≤ 8) && fld s.part.pwr 60 4 != ratio.toNat then
    .next ((s.modPart fun p => { p with pwr := putBit (putFld p.pwr 60 4 ratio.toNat) 59 thr }).postMev 4 0)
  else .next s

/-! ### Rencon (R15, R217-R219) -/

/-- A transaction of the current hart to another node crosses Rencon: its source retains it (R217). -/
def execRenconTransaction (write : Bool) (pa : BitVec 56) (data : Word) (s : State) : Host.Outcome State Fault Refusal :=
  match s.paKind pa.toNat with
  | .remote _ =>
    if write then .next (s.perform s.cur pa.toNat (bytesOf data 8) fun _ => true)
    else .next (s.modPart fun p => p.retain
      { id := 0, hart := s.cur, write := false, pa := pa.toNat, data := [], addr := BitVec.ofNat 64 pa.toNat })
  | _ => .next s

/-- The Rencon transaction with a number that its source retains; a write that waits for persistence is none (R237). -/
def State.trans (s : State) (id : Nat) : Option Transaction := s.part.trans.find? fun t => t.id == id && !t.storage

/-- A transaction is retained no more. -/
def State.dropTrans (s : State) (id : Nat) : State :=
  s.modPart fun p => { p with trans := p.trans.filter fun t => t.id != id }

/-- The word of hart h that waits for another node goes on at its next turn: its data, or the word itself, have come (R217). -/
def State.answerWord (s : State) (h : Nat) : State := s.modCtx h fun c => { c with answered := true, lost := false }

/-- The data that the word of hart h waits for are lost: at its next turn it meets the access fault at their first byte, at the
term boundary where it reads records (R141, Table 11-4). -/
def State.loseWord (s : State) (h : Nat) : State := s.modCtx h fun c => { c with answered := true, lost := true }

/-- The instruction of hart h that waits for another node goes on at its next turn. -/
def State.answerThread (s : State) (h : Nat) : State := s.modHart h fun v => { v with answered := true }

/-- The context of hart h waits for data of another node. -/
def VCtx.waitsRemote (c : VCtx) : Bool := c.waiting == some (.remote false) || c.waiting == some (.remote true)

/-- The read of a vamo becomes unreachable: a machine check of SRC 7, and the vamo goes on; that of another word: an access
fault at it (Table 11-4). -/
def State.vectorUnreachable (s : State) (h : Nat) (t : Transaction) : State :=
  match (s.hartAt h).ctx.issued with
  | some (.vamo _ _ _ _ _ _ _ _) => (s.writeLost h t.pa).answerWord h
  | _ => s.loseWord h

/-- A transaction that becomes unreachable (Table 11-4): a machine check for a write; an access fault, precise at the load, for
the data that a hart waits for, and likewise for the word that it waits for (DESIGN CHOICE, log 104); a fault record for a
chunk of a copy. -/
def State.unreachable (s : State) (t : Transaction) : State :=
  let s1 := s.dropTrans t.id
  let v := s.hartAt t.hart
  if !v.live then s1
  else
    match t.asker with
    | .chunk id k => s1.loseChunk t.hart id k t
    | .scalar =>
      if t.write then s1.writeLost t.hart t.pa
      else if v.wait = some .remote then s1.takeTrap t.hart 0x07 v.pc t.addr else s1
    | .vector =>
      if t.write then s1.writeLost t.hart t.pa
      else if v.ctx.waitsRemote then s1.vectorUnreachable t.hart t else s1
    | .fetch => if v.wait = some .fetch then s1.takeTrap t.hart 0x07 v.pc t.addr else s1
    | .vfetch =>
      if v.ctx.waiting = some .fetch then
        (s1.modCtx t.hart VCtx.unissue).stopWord t.hart (.fault 0x05 t.addr)
      else s1
    | .outside => s1

/-- What a read of another node comes to waits while its hart's core is becalmed (R224). -/
def State.frozen (s : State) (t : Transaction) : Bool :=
  !t.write && s.isBecalmed (coreOf t.hart) &&
    match t.asker with
    | .scalar | .vector | .fetch | .vfetch => true
    | .chunk _ _ | .outside => false

/-- A mismatch or a timeout: the transaction is sent again, up to three times, then ends unreachable (R217). -/
def execRenconRetransmit (id : Nat) (s : State) : Host.Outcome State Fault Refusal :=
  match s.trans id with
  | none => .next s
  | some t =>
    if t.tries < 3 then
      .next (s.modPart fun p =>
        { p with trans := p.trans.map fun x => if x.id == id then { x with tries := x.tries + 1 } else x })
    else .next (if s.frozen t then s else s.unreachable t)

/-- Two transactions write a cell in common. -/
def State.overlap (s : State) (t u : Transaction) : Bool :=
  t.write && u.write && decide (s.cell t.pa < s.cell u.pa + u.data.length)
    && decide (s.cell u.pa < s.cell t.pa + t.data.length)

/-- A write to the same bytes that left before transaction t is still on its way: writes of a location perform in their
order (R173). -/
def State.behind (s : State) (t : Transaction) : Bool := s.part.trans.any fun u => decide (u.id < t.id) && s.overlap u t

/-- A retained write performs at its destination. A poison mark stays with the data it came with (R206). -/
def State.land (s : State) (t : Transaction) : State :=
  s.modPart fun p => { p.putBytes (s.cell t.pa) t.data with poison := p.poison }

/-- The data of a read have come to what asked for them (R217). -/
def State.deliver (s : State) (t : Transaction) : State :=
  let v := s.hartAt t.hart
  match t.asker with
  | .scalar => if v.wait = some .remote then s.answerThread t.hart else s
  | .fetch => if v.wait = some .fetch then s.answerThread t.hart else s
  | .vector => if v.ctx.waitsRemote then s.answerWord t.hart else s
  | .vfetch => if v.ctx.waiting = some .fetch then s.answerWord t.hart else s
  | .chunk id k =>
    match v.ctx.copies.find? fun c => c.id == id with
    | some c => s.setChunk t.hart id k { c.chunkAt k with arrived := true }
    | none => s
  | .outside => s

/-- The destination has performed a transaction and acknowledges it: the source frees its copy (R217). -/
def execRenconAcknowledgement (id : Nat) (s : State) : Host.Outcome State Fault Refusal :=
  match s.trans id with
  | none => .next s
  | some t =>
    if s.behind t || s.frozen t then .next s
    else if t.write then .next ((s.land t).dropTrans id)
    else .next ((s.dropTrans id).deliver t)

/-- The host accepts the oldest storage write as persistent (R237). DESIGN CHOICE (log 121): the order among writes to different
locations, which no rule gives, is that in which they were made. -/
def State.persist (s : State) : State :=
  match s.part.trans.find? fun t => t.storage with
  | some t => (s.land t).dropTrans t.id
  | none => s

/-- PORTST of a port changed. -/
def State.modPort (s : State) (p : Nat) (f : Word → Word) : State :=
  s.modPart fun q => { q with portst := Map.put q.portst p (f (Map.get 0 q.portst p)) }

/-- FEC corrects a flit of a port: FECCNT saturates (Table 12-5). -/
def State.flitCorrected (s : State) (port : Nat) : State :=
  if port < 128 then s.modPort port fun w => putFld w 0 32 (min (2 ^ 32 - 1) (fld w 0 32 + 1)) else s

/-- A lane of a port fails: a spare lane of the group of 8 ports serves it, or, with both spares in use, the port leaves the
routing tables (R218). -/
def execSpareLaneSwitch (port : Nat) (s : State) : Host.Outcome State Fault Refusal :=
  if 128 ≤ port then .next s
  else if Map.get 0 s.part.spares (port / 8) < 2 then
    .next ((s.modPart fun p => { p with spares := Map.put p.spares (port / 8) (Map.get 0 p.spares (port / 8) + 1) }).modPort
      port fun w => putBit w 60 true)
  else
    .next ((s.modPort port fun w => putFld (putBit w 63 false) 61 2 (fld w 61 2 - 1)).postMev 6 0)

/-- A port rejoins the routing tables (R218, Table 12-6). -/
def execRenconPortRejoin (port : Nat) (s : State) : Host.Outcome State Fault Refusal :=
  if port < 128 ∧ !tst (Map.get 0 s.part.portst port) 63 then
    .next ((s.modPort port fun w => putBit w 63 true).postMev 6 0)
  else .next s

/-! ### The host link (R229, R235-R238) -/

/-- A cell of the host window (Table 1-5). -/
def inHostWindow (k : Nat) : Bool := decide (0xC0000000000 ≤ k) && decide (k < 2 ^ 44)

/-- Cells of the host window to which hart h has stores under way: those of its lines in the junction buffer, then those
that its strip buffers. -/
def State.hostStores (s : State) (h : Nat) : List Nat :=
  (((s.junction (coreOf h)).filter fun l => l.hart == h).map fun l => 64 * l.line).filter inHostWindow
    ++ ((s.hartAt h).ctx.strip.elim [] fun st => (st.buf.map fun e => e.1).filter inHostWindow)

/-- Stores under way to the host window are lost, with a machine check of SRC 7 for the hart that made them (R238,
Table 11-4). -/
def State.loseHostStores (s : State) : State :=
  { s with
    harts := s.harts.map fun e =>
      let x := e.2.ctx
      let v : Hart := { e.2 with ctx := { x with strip := x.strip.map fun st =>
        { st with
            buf := st.buf.filter fun b => !inHostWindow b.1
            bits := st.bits.filter fun b => !inHostWindow b.1
            bufBad := st.bufBad.filter fun b => !inHostWindow b.1
            storage := st.storage.filter fun b => !inHostWindow b.1 } } }
      (e.1, match (s.hostStores e.1).getLast? with
        | some k => if v.live then { v with kmcheck := mcheckRecord 7 0 false (s.paOfCell k), mcPend := some 0 } else v
        | none => v)
    cores := s.cores.map fun c => (c.1, { c.2 with junction := c.2.junction.filter fun l => !inHostWindow (64 * l.line) }) }

/-- A storage write that the host has not accepted is lost with the link: a fault record of its chunk, or a machine check
of its hart (R238, Table 11-4); that of a fabric peer is no hart's of this part. -/
def State.loseStorage (s : State) (t : Transaction) : State :=
  let s1 := s.dropTrans t.id
  match t.asker with
  | .chunk id k => s1.loseChunk t.hart id k t
  | .scalar | .vector | .fetch | .vfetch => s1.writeLost t.hart t.pa
  | .outside => s1

/-- The link goes down: stores under way to the host window and storage writes not yet accepted are lost (R238). -/
def State.linkDown (s : State) : State :=
  if tst s.part.hlst 63 then
    let s1 := (s.part.trans.filter fun t => t.storage).foldl State.loseStorage s.loseHostStores
    (s1.modPart fun p => { p with hlst := putBit p.hlst 63 false, hostLost := true }).postMev 3 0
  else s

/-- The host link goes down (R238). -/
def execHostLinkDown (s : State) : Host.Outcome State Fault Refusal := .next s.linkDown

/-- The host loses power (R237): its end of the link is gone, and storage writes that it has not accepted are lost as R238 says
(DEDUCED, log 125). -/
def State.hostPowerFail (s : State) : State := s.linkDown

/-- The link trains again (R235, R238, Table 12-5). -/
def execHostLinkTrain (cxl : Bool) (width rate : BitVec 3) (s : State) : Host.Outcome State Fault Refusal :=
  if s.ready && decide (width.toNat ≤ 4) && rate != 7 then
    .next ((s.modPart fun p =>
      { p with hlst := putFld (putFld (putBit (putBit 0 63 true) 62 cxl) 59 3 width.toNat) 56 3 rate.toNat
               hostLost := false }).postMev 3 0)
  else .next s

/-! ### Accesses from outside -/

/-- 8 bytes of memory at an address of this node, as an agent of dev scope sees them. -/
def State.outsideRead (s : State) (a : Nat) : List Byte := s.devBytes a 8

/-- A write to a k-register from outside, as a kwrite of that hart's register (R17), which a failing one leaves unchanged. One
that waits, as a kwrite does (R94, R101, R203), is kept and tried again. A hart that has gone takes none. -/
def State.post (s : State) (p : Posted) : State :=
  if !(s.hartAt p.hart).live then s
  else
    match s.kwrite p.hart 1 p.sender p.stalled p.reg p.data with
    | .ok s1 => s1
    | .poison s1 => s1
    | .illegal | .exc _ _ => s
    | .wait w s1 => s1.modPart fun q => { q with posted := q.posted ++ [{ p with stalled := p.stalled || w == .kctxr }] }

/-- The k-register writes from outside that wait go on, the oldest first, where they can. -/
def State.runPosted (s : State) : State :=
  s.part.posted.foldl State.post (s.modPart fun p => { p with posted := [] })

/-- An access from outside to offset `off` of the k-register window of hart h (R17). DESIGN CHOICE (log 119): the host and a
fabric peer are judged at sup privilege, and the sender that kipi names is a free value. -/
def State.outsideKreg (s : State) (write : Bool) (h off : Nat) (data : Word) : State :=
  if off % 8 != 0 || !hasNat kregNumbers (off / 8) then s
  else if write then
    s.post { hart := h, reg := off / 8, data := data, sender := (Config.freeWord s.tick 46).toNat % 256 }
  else s.answer (bytesOf (s.kread h 1 (off / 8)) 8)

/-- A fabric peer's transaction arrives (R17, R151, R229, R234): to memory, or to a register window; before phase 4 it gets no
acknowledgement. -/
def execFabricPeerAccess (write : Bool) (addr : BitVec 44) (data : Word) (s : State) : Host.Outcome State Fault Refusal :=
  let pa := 0xFFF * 2 ^ 44 + addr.toNat
  if !s.ready then .next s
  else
    match s.paKind pa with
    | .kwin h off => .next (s.outsideKreg write h off data)
    | .engine off =>
      .next (if off % 8 != 0 then s else if write then s.engineWrite 1 off data else s.answer (bytesOf (s.engineRead off) 8))
    | k =>
      if k.isMem then
        .next (if write then s.performAs s.cur .outside 0 (s.inStorage pa) pa (bytesOf data 8) fun _ => true
          else s.answer (s.outsideRead addr.toNat))
      else .next s

/-- A request of the host over CXL (R17, R236): to the part's HBM, served by the home L2 slice, or an aligned one of 8 bytes to
a k-register window. -/
def execHostCxlMemRequest (write : Bool) (addr : BitVec 44) (data : Word) (s : State) : Host.Outcome State Fault Refusal :=
  let pa := 0xFFF * 2 ^ 44 + addr.toNat
  if s.ready && s.hostUp then
    if s.inHbm pa 8 then
      .next (if write then s.perform s.cur pa (bytesOf data 8) fun _ => true else s.answer (s.outsideRead addr.toNat))
    else
      match s.paKind pa with
      | .kwin h off => .next (s.outsideKreg write h off data)
      | _ => .next s
  else .next s

/-- A host read of BAR 0 over a trained link (R229). Past the status page of a ready part no rule states the value. -/
def execHostStatusRead (off : Nat) (s : State) : Host.Outcome State Fault Refusal :=
  if !(s.part.power && tst s.part.hlst 63) then .next s
  else
    let w : Word :=
      if off = 0 then s.kid
      else if off = 8 then s.part.kbist
      else if s.isDone then Config.freeWord s.tick off
      else BitVec.allOnes 64
    .next (s.answer (bytesOf w 8))

/-- A host write of a BAR offset (R229): dropped before phase 4; no rule gives it an effect after. -/
def execHostBarWrite (_off : Nat) (_v : Word) (s : State) : Host.Outcome State Fault Refusal := .next s

/-! ### Management and attestation (R229-R233) -/

/-- An answer of the management controller, which needs power. -/
def State.manage (s : State) (bs : List Byte) : Host.Outcome State Fault Refusal :=
  .next (if s.part.power then s.answer bs else s)

/-- PLDM completion codes: SUCCESS and ERROR_NOT_READY (R229). -/
def pldmSuccess : Byte := 0x00
def pldmNotReady : Byte := 0x04

/-- PLDM GetStatus, answered also before phase 4 (R229). -/
def execPldmGetStatus (s : State) : Host.Outcome State Fault Refusal := s.manage (pldmSuccess :: bytesOf s.part.kbist 8)

/-- PLDM Type 2 (R233): the fields of Table 12-7. -/
def execPldmMonitoring (s : State) : Host.Outcome State Fault Refusal :=
  s.manage (if s.isDone then pldmSuccess :: bytesOf s.pwrRead 8 else [pldmNotReady])

/-- PLDM Type 5 (R230): the new image goes to flash; a running part does not change. -/
def execPldmFirmwareUpdate (img : Firmware) (s : State) : Host.Outcome State Fault Refusal :=
  if s.ready then .next ((s.modPart fun p => { p with flash := img }).answer [pldmSuccess])
  else s.manage [pldmNotReady]

/-- SPDM ERROR with code Busy (R229). -/
def spdmBusy : List Byte := [0x7F, 0x03]

/-- The answer to an SPDM request (R229, R232): its response code, then a payload whose contents no rule states. -/
def State.spdm (s : State) (code : Byte) (payload : List Byte) : Host.Outcome State Fault Refusal :=
  s.manage (if s.isDone then code :: payload else spdmBusy)

/-- Bytes of a payload that no rule states. -/
def State.freePayload (s : State) (k : Nat) : List Byte := bytesOf (Config.freeWord s.tick k) 8

/-- The certificate chain: the DeviceID certificate, signed in manufacture, and the Alias certificate of this bring-up
(R231). -/
def State.certChain (s : State) : List Byte := Config.deviceCert ++ s.part.identity.aliasCert

/-- SPDM GET_VERSION: the part speaks SPDM 1.3 (R232). -/
def execGetVersion (s : State) : Host.Outcome State Fault Refusal := s.spdm 0x04 [0x13]
/-- SPDM GET_CAPABILITIES (R232). -/
def execGetCapabilities (s : State) : Host.Outcome State Fault Refusal := s.spdm 0x61 (s.freePayload 0)
/-- SPDM NEGOTIATE_ALGORITHMS: ECDSA P-384 with SHA-384 (R232; the codes: log 30). -/
def execNegotiateAlgorithms (s : State) : Host.Outcome State Fault Refusal :=
  s.spdm 0x63 (bytesOf (0x80 : W32) 4 ++ bytesOf (0x02 : W32) 4)
/-- SPDM GET_DIGESTS: the digest of the certificate chain (R232). -/
def execGetDigests (s : State) : Host.Outcome State Fault Refusal := s.spdm 0x01 (Config.sha384 s.certChain)
/-- SPDM GET_CERTIFICATE (R231, R232). -/
def execGetCertificate (s : State) : Host.Outcome State Fault Refusal := s.spdm 0x02 s.certChain
/-- SPDM CHALLENGE: the digest of the chain and a nonce, signed with the Alias key that firmware holds (R231, R232). -/
def execChallenge (s : State) : Host.Outcome State Fault Refusal :=
  let body := Config.sha384 s.certChain ++ s.freePayload 0
  s.spdm 0x03 (body ++ Config.sign s.part.identity.aliasKey body (s.freePayload 1))

/-- The measurement of the fuses: the minimum security version and the hashes of the two keys (R230, R232). -/
def Part.fuses (p : Part) : List Byte := numBytes p.minSec 8 ++ Config.rsaKeyHash ++ Config.slhKeyHash

/-- SPDM GET_MEASUREMENTS (R232): index 1 the ROM, 2 the firmware image, 3 the fused version and key hashes, 4 the hoist map
as the last phase 2 or retirement left it. -/
def execGetMeasurements (s : State) : Host.Outcome State Fault Refusal :=
  s.spdm 0x60 ((1 : Byte) :: Config.romDigest ++ (2 : Byte) :: s.part.identity.fwDigest ++ (3 : Byte) :: s.part.fuses
    ++ (4 : Byte) :: hoistBytes s.part.measured)

/-! ### Becalmed cores and dumps (R224, R225) -/

/-- The management interface holds a core (R224). -/
def execBecalmHold (core : Nat) (s : State) : Host.Outcome State Fault Refusal :=
  if s.ready && s.enabled core && !s.isBecalmed core then .next (s.becalm core 0) else .next s

/-- A debugger attaches to a becalmed core: LIMIT does not run (R224). -/
def execDebuggerAttach (core : Nat) (s : State) : Host.Outcome State Fault Refusal :=
  if s.ready && s.isBecalmed core then .next (s.modCore core fun k => { k with kbecalm := putBit k.kbecalm 61 true }) else .next s

/-- A core returns to service: clusters change hands again (R224). -/
def State.unbecalm (s : State) (core : Nat) : State :=
  (s.modCore core fun k => { k with kbecalm := putBit (putBit k.kbecalm 63 false) 61 false }).settle core

/-- The attached debugger releases the core (R224). -/
def execDebuggerRelease (core : Nat) (s : State) : Host.Outcome State Fault Refusal :=
  if s.ready && s.isBecalmed core && tst (s.coreAt core).kbecalm 61 then .next (s.unbecalm core) else .next s

/-- The words of one control thread in the header of a dump: x0-x31, and the trap registers of sup and fw (R225; log 51). -/
def Hart.dumpWords (v : Hart) : List Word :=
  ((List.range 32).map fun i => v.xr (BitVec.ofNat 5 i))
    ++ [v.sup.cause, v.sup.tval, v.sup.epc, v.sup.tvec, v.sup.scratch, v.fw.cause, v.fw.tval, v.fw.epc, v.fw.tvec, v.fw.scratch]

/-- The header of a dump of core c with n images, cut or whole (R225; offsets but the version: log 51). -/
def State.dumpHeader (s : State) (c n : Nat) (cut : Bool) : List Byte :=
  let body := bytesOf (BitVec.ofNat 64 (1 + 0x10000 * c + 2 ^ 32 * (s.coreAt c).holdWhy)) 8
    ++ bytesOf (BitVec.ofNat 64 (n + 2 ^ 32 * natOf cut)) 8
    ++ (List.range 4).flatMap fun t => (s.hartAt (4 * c + t)).dumpWords.flatMap fun w => bytesOf w 8
  body ++ List.replicate (0x1000 - body.length) 0

/-- The images of a dump from an address on, as long as they fit below `last`: how many were written. -/
def State.dumpImages (s : State) (last : Nat) : List Nat → Nat → Nat → State × Nat
  | [], _, n => (s, n)
  | h :: hs, pa, n =>
    if pa + s.imageSize h ≤ last then
      let s1 := s.perform h pa (s.imageBytes h) fun _ => true
      State.dumpImages (s1.keepImage h (s.imageOf h)) last hs (pa + s.imageSize h) (n + 1)
    else (s, n)

/-- The bytes of the header of a dump of core c that hold poisoned x registers (R206). -/
def State.dumpBad (s : State) (c : Nat) : List Nat :=
  (List.range 4).flatMap fun t => (s.hartAt (4 * c + t)).xpoison.flatMap fun e =>
    (List.range 8).map fun i => 16 + 8 * (42 * t + e.1) + i

/-- The state of core c written to its dump area (R225), the poison of x registers with them (R206). -/
def State.dump (s : State) (c : Nat) : State :=
  let k := (s.coreAt c).kdump
  let log2 := fld k 0 6
  let base := fld k 12 44 * 0x1000 / 2 ^ log2 * 2 ^ log2
  let hs := s.hartsOn c
  let (s1, n) := s.dumpImages (base + 2 ^ log2) hs (base + 0x1000) 0
  (s1.perform (4 * c) base (s.dumpHeader c n (decide (n < hs.length))) fun _ => true).modPart fun p =>
    (s.dumpBad c).foldl (fun q o => q.markPoison (s.cell base + o)) p

/-- LIMIT helm cycles pass from the hold without a debugger: the core is dumped, or its state discarded, the loss or the
dump named in a management event, and the core returns to service (R224, R225). -/
def execDumpLimitExpiry (core : Nat) (s : State) : Host.Outcome State Fault Refusal :=
  let k := s.coreAt core
  if s.ready && tst k.kbecalm 63 && !tst k.kbecalm 61 then
    let due := k.becalmed + fld k.kbecalm 0 48
    let s1 := s.modCore core fun x => { x with hcycle := BitVec.ofNat 64 (max x.hcycle.toNat due) }
    let s2 := if tst k.kdump 63 then s1.dump core else s1
    .next ((s2.unbecalm core).postMev 5 0)
  else .next s

end Sys2Proof.Machine
end

