-- ==== Sys2Proof/Machine/Dispatch.lean ====
section
/-! DEFINITION. The meaning of each instruction and event: one arm per constructor. -/

namespace Sys2Proof.Machine

/-- What an instruction or event does in a state. -/
def exec (i : Instr) (s : State) : Host.Outcome State Fault Refusal :=
  match i with
  | .iadd d a b => Sys2Proof.Machine.execIadd d a b s
  | .isub d a b => Sys2Proof.Machine.execIsub d a b s
  | .iand d a b => Sys2Proof.Machine.execIand d a b s
  | .ior d a b => Sys2Proof.Machine.execIor d a b s
  | .ixor d a b => Sys2Proof.Machine.execIxor d a b s
  | .ishl d a b => Sys2Proof.Machine.execIshl d a b s
  | .ishr d a b => Sys2Proof.Machine.execIshr d a b s
  | .isar d a b => Sys2Proof.Machine.execIsar d a b s
  | .imul d a b => Sys2Proof.Machine.execImul d a b s
  | .imulh d a b u => Sys2Proof.Machine.execImulh d a b u s
  | .idiv d a b u => Sys2Proof.Machine.execIdiv d a b u s
  | .irem d a b u => Sys2Proof.Machine.execIrem d a b u s
  | .imin d a b u => Sys2Proof.Machine.execImin d a b u s
  | .imax d a b u => Sys2Proof.Machine.execImax d a b u s
  | .iclz d a => Sys2Proof.Machine.execIclz d a s
  | .ipop d a => Sys2Proof.Machine.execIpop d a s
  | .iset d a b c => Sys2Proof.Machine.execIset d a b c s
  | .iaddImm d a i1 => Sys2Proof.Machine.execIaddImm d a i1 s
  | .iandImm d a i1 => Sys2Proof.Machine.execIandImm d a i1 s
  | .iorImm d a i1 => Sys2Proof.Machine.execIorImm d a i1 s
  | .ixorImm d a i1 => Sys2Proof.Machine.execIxorImm d a i1 s
  | .ishlImm d a n => Sys2Proof.Machine.execIshlImm d a n s
  | .ishrImm d a n => Sys2Proof.Machine.execIshrImm d a n s
  | .isarImm d a n => Sys2Proof.Machine.execIsarImm d a n s
  | .isetImm d a c i1 => Sys2Proof.Machine.execIsetImm d a c i1 s
  | .imovz d p i1 => Sys2Proof.Machine.execImovz d p i1 s
  | .imovk d p i1 => Sys2Proof.Machine.execImovk d p i1 s
  | .ipcrel d o => Sys2Proof.Machine.execIpcrel d o s
  | .ld d a wd o => Sys2Proof.Machine.execLd d a wd o s
  | .st d a wd o => Sys2Proof.Machine.execSt d a wd o s
  | .amo d a b dbl o s1 p => Sys2Proof.Machine.execAmo d a b dbl o s1 p s
  | .acas d a b dbl o s1 => Sys2Proof.Machine.execAcas d a b dbl o s1 s
  | .ldacq d a dbl s1 => Sys2Proof.Machine.execLdacq d a dbl s1 s
  | .strel a b dbl s1 => Sys2Proof.Machine.execStrel a b dbl s1 s
  | .fall s1 => Sys2Proof.Machine.execFall s1 s
  | .mwatch d a => Sys2Proof.Machine.execMwatch d a s
  | .jmp o => Sys2Proof.Machine.execJmp o s
  | .call o => Sys2Proof.Machine.execCall o s
  | .jr a => Sys2Proof.Machine.execJr a s
  | .callr a => Sys2Proof.Machine.execCallr a s
  | .bcc a b c o => Sys2Proof.Machine.execBcc a b c o s
  | .vdisp a n => Sys2Proof.Machine.execVdisp a n s
  | .rqget d => Sys2Proof.Machine.execRqget d s
  | .rqpoll d => Sys2Proof.Machine.execRqpoll d s
  | .vqpos d => Sys2Proof.Machine.execVqpos d s
  | .hspawn d a b => Sys2Proof.Machine.execHspawn d a b s
  | .gbar d => Sys2Proof.Machine.execGbar d s
  | .garr d => Sys2Proof.Machine.execGarr d s
  | .gwait a => Sys2Proof.Machine.execGwait a s
  | .trap c => Sys2Proof.Machine.execTrap c s
  | .kread d k => Sys2Proof.Machine.execKread d k s
  | .kwrite a k => Sys2Proof.Machine.execKwrite a k s
  | .kset d a k => Sys2Proof.Machine.execKset d a k s
  | .kclr d a k => Sys2Proof.Machine.execKclr d a k s
  | .sinval a b => Sys2Proof.Machine.execSinval a b s
  | .junctionLineDrain core line => Sys2Proof.Machine.execJunctionLineDrain core line s
  | .kctxSave a => Sys2Proof.Machine.execKctxSave a s
  | .kctxrRestore a => Sys2Proof.Machine.execKctxrRestore a s
  | .kvqDiscard a => Sys2Proof.Machine.execKvqDiscard a s
  | .kfrmWrite a => Sys2Proof.Machine.execKfrmWrite a s
  | .kflagsWrite a => Sys2Proof.Machine.execKflagsWrite a s
  | .klprWrite a => Sys2Proof.Machine.execKlprWrite a s
  | .kgangWrite a => Sys2Proof.Machine.execKgangWrite a s
  | .ksqbWrite a => Sys2Proof.Machine.execKsqbWrite a s
  | .kcpfqWrite a => Sys2Proof.Machine.execKcpfqWrite a s
  | .kheatWrite a => Sys2Proof.Machine.execKheatWrite a s
  | .kpenWrite a => Sys2Proof.Machine.execKpenWrite a s
  | .kdeadlineWrite a => Sys2Proof.Machine.execKdeadlineWrite a s
  | .kpreqPre target => Sys2Proof.Machine.execKpreqPre target s
  | .kpreqIhi target => Sys2Proof.Machine.execKpreqIhi target s
  | .breakpointHit vs => Sys2Proof.Machine.execBreakpointHit vs s
  | .bli bd imm => Sys2Proof.Machine.execBli bd imm s
  | .badd bd ba s1 => Sys2Proof.Machine.execBadd bd ba s1 s
  | .bsub bd ba s1 => Sys2Proof.Machine.execBsub bd ba s1 s
  | .bmul bd ba s1 => Sys2Proof.Machine.execBmul bd ba s1 s
  | .band bd ba s1 => Sys2Proof.Machine.execBand bd ba s1 s
  | .bor bd ba s1 => Sys2Proof.Machine.execBor bd ba s1 s
  | .bxor bd ba s1 => Sys2Proof.Machine.execBxor bd ba s1 s
  | .bshl bd ba s1 => Sys2Proof.Machine.execBshl bd ba s1 s
  | .bshr bd ba s1 => Sys2Proof.Machine.execBshr bd ba s1 s
  | .bset c bd ba s1 => Sys2Proof.Machine.execBset c bd ba s1 s
  | .bloop n ba off => Sys2Proof.Machine.execBloop n ba off s
  | .bbr c ba bb off => Sys2Proof.Machine.execBbr c ba bb off s
  | .bjmp off => Sys2Proof.Machine.execBjmp off s
  | .vreply n => Sys2Proof.Machine.execVreply n s
  | .vreplyAny m => Sys2Proof.Machine.execVreplyAny m s
  | .vreplyNone m => Sys2Proof.Machine.execVreplyNone m s
  | .vreplyPop m => Sys2Proof.Machine.execVreplyPop m s
  | .bkrd bd k => Sys2Proof.Machine.execBkrd bd k s
  | .vmark imm => Sys2Proof.Machine.execVmark imm s
  | .vsetl bd ba cap vt => Sys2Proof.Machine.execVsetl bd ba cap vt s
  | .vtag vd tag => Sys2Proof.Machine.execVtag vd tag s
  | .vrseed s1 => Sys2Proof.Machine.execVrseed s1 s
  | .vadd vd va b rm sat c => Sys2Proof.Machine.execVadd vd va b rm sat c s
  | .vsub vd va b rm sat c => Sys2Proof.Machine.execVsub vd va b rm sat c s
  | .vmul vd va b rm sat c => Sys2Proof.Machine.execVmul vd va b rm sat c s
  | .vmadd vd va b vc rm c => Sys2Proof.Machine.execVmadd vd va b vc rm c s
  | .vmsub vd va b vc rm c => Sys2Proof.Machine.execVmsub vd va b vc rm c s
  | .vdiv vd va b rm c => Sys2Proof.Machine.execVdiv vd va b rm c s
  | .vmin vd va b rm p c => Sys2Proof.Machine.execVmin vd va b rm p c s
  | .vmax vd va b rm p c => Sys2Proof.Machine.execVmax vd va b rm p c s
  | .vabs vd va rm c => Sys2Proof.Machine.execVabs vd va rm c s
  | .vneg vd va rm c => Sys2Proof.Machine.execVneg vd va rm c s
  | .vand vd va b c => Sys2Proof.Machine.execVand vd va b c s
  | .vor vd va b c => Sys2Proof.Machine.execVor vd va b c s
  | .vxor vd va b c => Sys2Proof.Machine.execVxor vd va b c s
  | .vshl vd va b sat c => Sys2Proof.Machine.execVshl vd va b sat c s
  | .vshr vd va b c => Sys2Proof.Machine.execVshr vd va b c s
  | .vsar vd va b c => Sys2Proof.Machine.execVsar vd va b c s
  | .vcmp cc md va b c => Sys2Proof.Machine.execVcmp cc md va b c s
  | .vsel vd va b c => Sys2Proof.Machine.execVsel vd va b c s
  | .vmov vd va c => Sys2Proof.Machine.execVmov vd va c s
  | .vbcast vd b c => Sys2Proof.Machine.execVbcast vd b c s
  | .vid vd c => Sys2Proof.Machine.execVid vd c s
  | .vcvt vd va rm c => Sys2Proof.Machine.execVcvt vd va rm c s
  | .vsqrt vd va rm c => Sys2Proof.Machine.execVsqrt vd va rm c s
  | .vrsqrt vd va rm c => Sys2Proof.Machine.execVrsqrt vd va rm c s
  | .vrcp vd va rm c => Sys2Proof.Machine.execVrcp vd va rm c s
  | .vexp2 vd va rm c => Sys2Proof.Machine.execVexp2 vd va rm c s
  | .vlog2 vd va rm c => Sys2Proof.Machine.execVlog2 vd va rm c s
  | .vtanh vd va rm c => Sys2Proof.Machine.execVtanh vd va rm c s
  | .vclass vd va c => Sys2Proof.Machine.execVclass vd va c s
  | .vscale vd va b rm c => Sys2Proof.Machine.execVscale vd va b rm c s
  | .vrsum vd va rm tree c => Sys2Proof.Machine.execVrsum vd va rm tree c s
  | .vrmax vd va rm tree c => Sys2Proof.Machine.execVrmax vd va rm tree c s
  | .vrmin vd va rm tree c => Sys2Proof.Machine.execVrmin vd va rm tree c s
  | .vrbit vd va tree c => Sys2Proof.Machine.execVrbit vd va tree c s
  | .vslide vd va b c => Sys2Proof.Machine.execVslide vd va b c s
  | .vgath vd va vb c => Sys2Proof.Machine.execVgath vd va vb c s
  | .vcomp vd va c => Sys2Proof.Machine.execVcomp vd va c s
  | .vexpd vd va c => Sys2Proof.Machine.execVexpd vd va c s
  | .vbsl vd va b t => Sys2Proof.Machine.execVbsl vd va b t s
  | .vbsr vd va b t => Sys2Proof.Machine.execVbsr vd va b t s
  | .vfunl vd va vb n t => Sys2Proof.Machine.execVfunl vd va vb n t s
  | .vfunr vd va vb n t => Sys2Proof.Machine.execVfunr vd va vb n t s
  | .vbext vd va bn t => Sys2Proof.Machine.execVbext vd va bn t s
  | .vbins vd va bn t => Sys2Proof.Machine.execVbins vd va bn t s
  | .mlog op md ma mb => Sys2Proof.Machine.execMlog op md ma mb s
  | .mpop bd ma => Sys2Proof.Machine.execMpop bd ma s
  | .mfirst bd ma => Sys2Proof.Machine.execMfirst bd ma s
  | .mbef md ma => Sys2Proof.Machine.execMbef md ma s
  | .minc md ma => Sys2Proof.Machine.execMinc md ma s
  | .monly md ma => Sys2Proof.Machine.execMonly md ma s
  | .mtest none1 bd ma => Sys2Proof.Machine.execMtest none1 bd ma s
  | .vld vd base off t o c => Sys2Proof.Machine.execVld vd base off t o c s
  | .vlds vd base off bs t o c => Sys2Proof.Machine.execVlds vd base off bs t o c s
  | .vldx vd base off vi t o c => Sys2Proof.Machine.execVldx vd base off vi t o c s
  | .vldff vd base off t o c => Sys2Proof.Machine.execVldff vd base off t o c s
  | .vst vd base off t o c => Sys2Proof.Machine.execVst vd base off t o c s
  | .vsts vd base off bs t o c => Sys2Proof.Machine.execVsts vd base off bs t o c s
  | .vstx vd base off vi t o c => Sys2Proof.Machine.execVstx vd base off vi t o c s
  | .vtld vd vi t c => Sys2Proof.Machine.execVtld vd vi t c s
  | .vtst vs vi t c => Sys2Proof.Machine.execVtst vs vi t c s
  | .vamo op vd base off vi t o c => Sys2Proof.Machine.execVamo op vd base off vi t o c s
  | .mmodeEnter shadow => Sys2Proof.Machine.execMmodeEnter shadow s
  | .msettile bd bs va vb => Sys2Proof.Machine.execMsettile bd bs va vb s
  | .mzero z tag => Sys2Proof.Machine.execMzero z tag s
  | .mldz z b1 b2 tag => Sys2Proof.Machine.execMldz z b1 b2 tag s
  | .mstz z b1 b2 => Sys2Proof.Machine.execMstz z b1 b2 s
  | .mop z va vb sc => Sys2Proof.Machine.execMop z va vb sc s
  | .mdrain vd z bn tag rm => Sys2Proof.Machine.execMdrain vd z bn tag rm s
  | .mfill z va bn => Sys2Proof.Machine.execMfill z va bn s
  | .mtag z tag => Sys2Proof.Machine.execMtag z tag s
  | .mchk sel clr bd z => Sys2Proof.Machine.execMchk sel clr bd z s
  | .cpy bd bs bl code cb s1 mk => Sys2Proof.Machine.execCpy bd bs bl code cb s1 mk s
  | .cpyw cb bst => Sys2Proof.Machine.execCpyw cb bst s
  | .cpyr cb => Sys2Proof.Machine.execCpyr cb s
  | .cpyq cb bst => Sys2Proof.Machine.execCpyq cb bst s
  | .copyChunkComplete copy chunk => Sys2Proof.Machine.execCopyChunkComplete copy chunk s
  | .copySectorFault copy chunk => Sys2Proof.Machine.execCopySectorFault copy chunk s
  | .sord sd sa o => Sys2Proof.Machine.execSord sd sa o s
  | .sprm ba n => Sys2Proof.Machine.execSprm ba n s
  | .snew sd ba bb ctl => Sys2Proof.Machine.execSnew sd ba bb ctl s
  | .sld sd ba => Sys2Proof.Machine.execSld sd ba s
  | .sst sa ba => Sys2Proof.Machine.execSst sa ba s
  | .sterm sd ba bb bc => Sys2Proof.Machine.execSterm sd ba bb bc s
  | .sadd sd sa sb => Sys2Proof.Machine.execSadd sd sa sb s
  | .ssub sd sa sb => Sys2Proof.Machine.execSsub sd sa sb s
  | .smul sd sa sb => Sys2Proof.Machine.execSmul sd sa sb s
  | .smulm sd sa ba bb => Sys2Proof.Machine.execSmulm sd sa ba bb s
  | .sdiv sd sa sb q n => Sys2Proof.Machine.execSdiv sd sa sb q n s
  | .slt sd sa ba => Sys2Proof.Machine.execSlt sd sa ba s
  | .sdrop sd sa => Sys2Proof.Machine.execSdrop sd sa s
  | .srat sa ba => Sys2Proof.Machine.execSrat sa ba s
  | .sexp vd sa ba => Sys2Proof.Machine.execSexp vd sa ba s
  | .scmp sd vd ba => Sys2Proof.Machine.execScmp sd vd ba s
  | .sstat ba sa sel => Sys2Proof.Machine.execSstat ba sa sel s
  | .sgrow sd ba bb => Sys2Proof.Machine.execSgrow sd ba bb s
  | .heatRecordAppend tower entry threshold => Sys2Proof.Machine.execHeatRecordAppend tower entry threshold s
  | .gangRequest leader => Sys2Proof.Machine.execGangRequest leader s
  | .ungangRequest leader => Sys2Proof.Machine.execUngangRequest leader s
  | .retirement u => Sys2Proof.Machine.execRetirement u s
  | .hbmRowSpare addr limit => Sys2Proof.Machine.execHbmRowSpare addr limit s
  | .renconTransaction write pa data => Sys2Proof.Machine.execRenconTransaction write pa data s
  | .renconRetransmit id => Sys2Proof.Machine.execRenconRetransmit id s
  | .spareLaneSwitch port => Sys2Proof.Machine.execSpareLaneSwitch port s
  | .hostLinkTrain cxl width rate => Sys2Proof.Machine.execHostLinkTrain cxl width rate s
  | .hostCxlMemRequest write addr data => Sys2Proof.Machine.execHostCxlMemRequest write addr data s
  | .hostStatusRead off => Sys2Proof.Machine.execHostStatusRead off s
  | .engineWindowWrite off v => Sys2Proof.Machine.execEngineWindowWrite off v s
  | .powerGood ok => Sys2Proof.Machine.execPowerGood ok s
  | .bringupPhase1 code strap links => Sys2Proof.Machine.execBringupPhase1 code strap links s
  | .bringupPhase2 hoist => Sys2Proof.Machine.execBringupPhase2 hoist s
  | .bringupPhase3 serial validity nonce => Sys2Proof.Machine.execBringupPhase3 serial validity nonce s
  | .ratioChange ratio thr => Sys2Proof.Machine.execRatioChange ratio thr s
  | .pldmFirmwareUpdate img => Sys2Proof.Machine.execPldmFirmwareUpdate img s
  | .becalmHold core => Sys2Proof.Machine.execBecalmHold core s
  | .debuggerAttach core => Sys2Proof.Machine.execDebuggerAttach core s
  | .debuggerRelease core => Sys2Proof.Machine.execDebuggerRelease core s
  | .dumpLimitExpiry core => Sys2Proof.Machine.execDumpLimitExpiry core s
  | .illegalInstruction w => Sys2Proof.Machine.execIllegalInstruction w s
  | .cStreamFetchFault f => Sys2Proof.Machine.execCStreamFetchFault f s
  | .blockWordFetchFault f => Sys2Proof.Machine.execBlockWordFetchFault f s
  | .katpWrite a => Sys2Proof.Machine.execKatpWrite a s
  | .ktermWrite a => Sys2Proof.Machine.execKtermWrite a s
  | .kminimgWrite a => Sys2Proof.Machine.execKminimgWrite a s
  | .kdumpWrite a => Sys2Proof.Machine.execKdumpWrite a s
  | .krasbWrite a => Sys2Proof.Machine.execKrasbWrite a s
  | .eccError loc uncorrectable => Sys2Proof.Machine.execEccError loc uncorrectable s
  | .renconAcknowledgement id => Sys2Proof.Machine.execRenconAcknowledgement id s
  | .fabricPeerAccess write addr data => Sys2Proof.Machine.execFabricPeerAccess write addr data s
  | .hostBarWrite off v => Sys2Proof.Machine.execHostBarWrite off v s
  | .renconPortRejoin port => Sys2Proof.Machine.execRenconPortRejoin port s
  | .fsv => Sys2Proof.Machine.execFsv s
  | .fvs => Sys2Proof.Machine.execFvs s
  | .fvv => Sys2Proof.Machine.execFvv s
  | .fenceStallEnd => Sys2Proof.Machine.execFenceStallEnd s
  | .mwait => Sys2Proof.Machine.execMwait s
  | .mwaitWake => Sys2Proof.Machine.execMwaitWake s
  | .ret => Sys2Proof.Machine.execRet s
  | .vdispStallEnd => Sys2Proof.Machine.execVdispStallEnd s
  | .squallRefill => Sys2Proof.Machine.execSquallRefill s
  | .rqgetWake => Sys2Proof.Machine.execRqgetWake s
  | .vsync => Sys2Proof.Machine.execVsync s
  | .vsyncWake => Sys2Proof.Machine.execVsyncWake s
  | .hexit => Sys2Proof.Machine.execHexit s
  | .hexitComplete => Sys2Proof.Machine.execHexitComplete s
  | .hyield => Sys2Proof.Machine.execHyield s
  | .hyieldEnd => Sys2Proof.Machine.execHyieldEnd s
  | .gwaitWake => Sys2Proof.Machine.execGwaitWake s
  | .tret => Sys2Proof.Machine.execTret s
  | .wfi => Sys2Proof.Machine.execWfi s
  | .brk => Sys2Proof.Machine.execBrk s
  | .storeStallEnd => Sys2Proof.Machine.execStoreStallEnd s
  | .kvfaultResume => Sys2Proof.Machine.execKvfaultResume s
  | .krasFlush => Sys2Proof.Machine.execKrasFlush s
  | .deadlineExpiry => Sys2Proof.Machine.execDeadlineExpiry s
  | .asyncEventTaken => Sys2Proof.Machine.execAsyncEventTaken s
  | .vectorFaultDelivery => Sys2Proof.Machine.execVectorFaultDelivery s
  | .machineCheckTaken => Sys2Proof.Machine.execMachineCheckTaken s
  | .blockStart => Sys2Proof.Machine.execBlockStart s
  | .clusterStallRelease => Sys2Proof.Machine.execClusterStallRelease s
  | .vend => Sys2Proof.Machine.execVend s
  | .vbrk => Sys2Proof.Machine.execVbrk s
  | .fvvV => Sys2Proof.Machine.execFvvV s
  | .mmodeLeave => Sys2Proof.Machine.execMmodeLeave s
  | .matrixArrayGrant => Sys2Proof.Machine.execMatrixArrayGrant s
  | .cpyStallEnd => Sys2Proof.Machine.execCpyStallEnd s
  | .cpywWake => Sys2Proof.Machine.execCpywWake s
  | .sprmDrainEnd => Sys2Proof.Machine.execSprmDrainEnd s
  | .streamUnitGrant => Sys2Proof.Machine.execStreamUnitGrant s
  | .hoistMapRead => Sys2Proof.Machine.execHoistMapRead s
  | .gangChangeEffect => Sys2Proof.Machine.execGangChangeEffect s
  | .retirementEffect => Sys2Proof.Machine.execRetirementEffect s
  | .hostLinkDown => Sys2Proof.Machine.execHostLinkDown s
  | .bringupPhase4 => Sys2Proof.Machine.execBringupPhase4 s
  | .managementReset => Sys2Proof.Machine.execManagementReset s
  | .thermalCutoff => Sys2Proof.Machine.execThermalCutoff s
  | .pldmGetStatus => Sys2Proof.Machine.execPldmGetStatus s
  | .pldmMonitoring => Sys2Proof.Machine.execPldmMonitoring s
  | .getVersion => Sys2Proof.Machine.execGetVersion s
  | .getCapabilities => Sys2Proof.Machine.execGetCapabilities s
  | .negotiateAlgorithms => Sys2Proof.Machine.execNegotiateAlgorithms s
  | .getDigests => Sys2Proof.Machine.execGetDigests s
  | .getCertificate => Sys2Proof.Machine.execGetCertificate s
  | .challenge => Sys2Proof.Machine.execChallenge s
  | .getMeasurements => Sys2Proof.Machine.execGetMeasurements s
  | .illegalWord => Sys2Proof.Machine.execIllegalWord s
  | .powerLoss => Sys2Proof.Machine.execPowerLoss s
  | .cooledRestart => Sys2Proof.Machine.execCooledRestart s

end Sys2Proof.Machine
end

