-- ==== Sys2Proof/Machine/Turn.lean ====
section
/-! DEFINITION. What surrounds an instruction in a step: whose turn it is, the clocks, what a control thread or a vector
context does before it fetches, the fetch and the decoder, and the placing of a word (R18, R37, R52, R55, R187, R198,
R202, R223, R224). -/

namespace Sys2Proof.Machine

/-! ### Whose turn it is (log 1) -/

/-- The clocks of a core advance (log 7). -/
def State.clock (s : State) (c : Nat) : State :=
  s.modCore c fun k =>
    { k with kcycle := k.kcycle + 1 + BitVec.ofNat 64 (Config.freeCycles s.tick 0)
             hcycle := k.hcycle + 1 + BitVec.ofNat 64 (Config.freeCycles s.tick 1) }

/-- Time passes for no hart. -/
def State.pass (s : State) : State := { s with tick := s.tick + 1 }

/-- The turn of hart h begins. -/
def State.turn (s : State) (h : Nat) : State := ({ s with cur := h }.pass).clock (coreOf h)

/-- The moves of a hart: its threads, and the next chunk of its copies. -/
def State.hartMoves (s : State) (h : Nat) : List Move :=
  let chunk (c : Nat × Nat) : Move :=
    match s.openChunk h c.1 c.2 with
    | some (cp, ch) =>
      if (s.runChunk h cp c.2 ch).fault.isNone then .event h (.copyChunkComplete c.1 c.2)
      else .event h (.copySectorFault c.1 c.2)
    | none => .vec h
  [.ctl h, .vec h] ++ ((s.nextChunk h).map chunk).toList

/-- The moves of a core: its junction buffer drains, its dump limit passes. -/
def State.coreMoves (s : State) (c : Nat) : List Move :=
  let k := s.coreAt c
  (if k.junction.isEmpty then [] else [.event s.cur (.junctionLineDrain c 0)])
    ++ (if tst k.kbecalm 63 && !tst k.kbecalm 61 && decide (k.becalmed + fld k.kbecalm 0 48 ≤ k.hcycle.toNat)
        then [.event s.cur (.dumpLimitExpiry c)] else [])

/-- The moves of the part: a gang change or a retirement that has become possible, an acknowledgement over Rencon, the host's
acceptance of a storage write, a k-register write from outside that waits. -/
def State.partMoves (s : State) : List Move :=
  (if s.nextGangChange.isSome then [Move.event s.cur .gangChangeEffect] else [])
    ++ (if s.nextRetirement.isSome then [Move.event s.cur .retirementEffect] else [])
    ++ (((s.part.trans.find? fun t => !t.storage && !s.behind t).map fun t =>
      Move.event s.cur (.renconAcknowledgement t.id)).toList)
    ++ (if s.part.trans.any fun t => t.storage then [.persist] else [])
    ++ (if s.part.posted.isEmpty then [] else [.posted])

/-- Every move that the state offers. -/
def State.moves (s : State) : List Move :=
  s.harts.flatMap (fun e => s.hartMoves e.1) ++ s.cores.flatMap (fun e => s.coreMoves e.1) ++ s.partMoves

/-- The next move, and the state without it. -/
def State.nextMove (s : State) : Option (Move × State) :=
  match s.agenda with
  | m :: rest => some (m, { s with agenda := rest })
  | [] =>
    let l := s.moves
    (l[s.rr % l.length]?).map fun m => (m, { s with rr := s.rr + 1 })

/-- An event that gives a part without power its power, or that waits for it (R227, R229, R239). -/
def Move.powers : Move → Bool
  | .event _ (.powerGood _) => true
  | .event _ .cooledRestart => true
  | .event _ _ => false
  | .ctl _ => false
  | .vec _ => false
  | .upset _ _ => false
  | .preempt _ _ => false
  | .persist => false
  | .hostPowerFail => false
  | .flitCorrected _ => false
  | .posted => false

/-- A part without power, with no such event next. -/
def State.isDead (s : State) : Bool :=
  !s.part.power && match s.agenda with
    | m :: _ => !m.powers
    | [] => true

/-! ### The control thread -/

/-- The control thread of the current hart stands still (R18, R213, R224). -/
def State.ctlStands (s : State) : Bool :=
  !s.hart.live || s.isBecalmed (coreOf s.cur) || (s.coreAt (coreOf s.cur)).ccOut

/-- What the control thread does instead of fetching: nothing, as while it yields, an exit that completes, an asynchronous
event (R24, R25, R202), a breakpoint (R223). -/
def State.beforeFetch (s : State) : Option State :=
  let v := s.hart
  if s.ctlStands then some s
  else if s.yields s.cur then some s
  else if v.wait = some .hexit ∧ s.exitReady s.cur then some (s.exitHart s.cur)
  else
    match s.boundary s.cur with
    | some s1 => some s1
    | none => if v.wait.isNone && v.hitsC then some s.hitC else none

/-- What a fetch comes to: an instruction to run, or a state in which the turn is over. -/
inductive Fetched where
  | run (i : Instr) (s : State)
  | done (s : State)
  deriving DecidableEq, Repr

/-- The word at the pc of the current hart, decoded: an exception of the fetch, a wait for it, an illegal instruction, or the
instruction (R189, R198, R207, R217, R278). -/
def State.fetched (s : State) : Fetched :=
  match s.fetchC s.cur with
  | .exc e => .done (s.endSuppression.raise e)
  | .poison s1 => .done s1.again
  | .wait s1 => .done s1
  | .word w s1 =>
    match decodeC w with
    | .ok i => .run i s1
    | .error _ => .done (s1.endSuppression.raise { cause := 0x01, tval := zext w })

/-- Instruction i of the current hart issues: it is not compared with kbrk again (R223), and yields end (R25). -/
def State.issue (s : State) (i : Instr) : State :=
  (s.endSuppression.endYields s.cur).mod fun v =>
    { v with yielding := false, issued := some i, wait := none, answered := false }

/-- An instruction that waits has not completed: its suppression stays (R223). -/
def State.keepSuppression (s : State) (csup : Bool) : State :=
  if csup && s.hart.wait.isSome then s.mod fun v => { v with csup := true } else s

/-! ### The vector context -/

/-- The vector context of the current hart stands still (R13, R213, R224). -/
def State.vecStands (s : State) : Bool :=
  let v := s.hart
  !v.live || v.scalar || s.isBecalmed (coreOf s.cur) || (s.coreAt (coreOf s.cur)).ccOut

/-- What the vector context does instead of fetching a word: nothing, a kill that has waited for copies (R167), a refill
(R48), the start of a block (R52), a breakpoint (R223). DESIGN CHOICE (log 109): a ring entry that could not be read is read
again by a refill event of the agenda, not by the context's own turn. -/
def State.beforeWord (s : State) : Option State :=
  let h := s.cur
  let c := s.ctx
  if s.vecStands then some s
  else
    match c.dying with
    | some (src, pa) => some (if c.copying then s else s.killNow h src pa)
    | none =>
      if s.hart.spilt != 0 && decide (s.hart.queue.length < 256) && !c.refillBad then some (s.refill h)
      else if c.stopped then some s
      else if c.blk.isNone then some (if s.canStart h then s.beginBlock h else s)
      else if c.waiting.isNone && s.hitsV h then some (s.hitV h)
      else none

/-- A V-stream word of the current hart issues; no word, where the one at the block pc cannot be fetched or is illegal. -/
def State.issueV (s : State) (i : Option Instr) : State :=
  s.modCtx s.cur fun c => { c.issue i with waiting := none, answered := false }

/-- The word at the block pc of the current hart, decoded: a vector fault of the fetch, a wait for it, an illegal word, or the
instruction (R55, R207, R217, R285). -/
def State.fetchedV (s : State) : Fetched :=
  match s.fetchV s.cur with
  | .fault sub t => .done ((s.issueV none).stopWord s.cur (.fault sub t))
  | .poison src pa => .done (s.consume s.cur src pa)
  | .wait s1 => .done s1
  | .word w s1 =>
    match decodeV w with
    | .ok i => .run i s1
    | .error _ => .done ((s1.issueV none).stopWord s1.cur illegalWord)

/-! ### Registers that hold poison (R206, R207; log 120) -/

/-- The x registers that a C-stream instruction takes into its computation; `pend` is kgang.PEND, with which a gbar reads its
own. -/
def xReads (pend : Bool) (i : Instr) : List XReg :=
  match i with
  | .iadd _ a b | .isub _ a b | .iand _ a b | .ior _ a b | .ixor _ a b | .ishl _ a b | .ishr _ a b | .isar _ a b
  | .imul _ a b | .imulh _ a b _ | .idiv _ a b _ | .irem _ a b _ | .imin _ a b _ | .imax _ a b _ | .iset _ a b _
  | .bcc a b _ _ | .hspawn _ a b | .sinval a b | .strel a b _ _ | .amo _ a b _ _ _ _ => [a, b]
  | .iclz _ a | .ipop _ a | .iaddImm _ a _ | .iandImm _ a _ | .iorImm _ a _ | .ixorImm _ a _ | .ishlImm _ a _
  | .ishrImm _ a _ | .isarImm _ a _ | .isetImm _ a _ _ | .ld _ a _ _ | .ldacq _ a _ _ | .mwatch _ a | .jr a | .callr a
  | .gwait a | .kwrite a _ | .kset _ a _ | .kclr _ a _ => [a]
  | .st d a _ _ => [d, a]
  | .acas d a b _ _ _ => [d, a, b]
  | .imovk d _ _ => [d]
  | .vdisp a _ => a :: (List.range 8).map fun k => BitVec.ofNat 5 (10 + k)
  | .gbar d => if pend then [d] else []
  | _ => []

/-- The instruction reads an x register of the current hart that holds poison. -/
def State.xBad (s : State) (i : Instr) : Bool :=
  !s.hart.xpoison.isEmpty && (xReads s.hart.pendBit i).any fun r => (Map.find s.hart.xpoison r.toNat).isSome

/-! ### Events -/

/-- A row without a word that is an act of the current hart: of its thread or its context. -/
def actOfHart (i : Instr) : Bool :=
  match i with
  | .kctxSave _ | .kctxrRestore _ | .kvqDiscard _ | .kfrmWrite _ | .kflagsWrite _ | .klprWrite _ | .kgangWrite _
  | .ksqbWrite _ | .kcpfqWrite _ | .kheatWrite _ | .kpenWrite _ | .kdeadlineWrite _ | .katpWrite _ | .ktermWrite _
  | .kminimgWrite _ | .kdumpWrite _ | .krasbWrite _ | .kvfaultResume | .krasFlush | .kpreqPre _ | .kpreqIhi _
  | .engineWindowWrite _ _ | .breakpointHit _ | .illegalInstruction _ | .cStreamFetchFault _ | .blockWordFetchFault _
  | .illegalWord | .fenceStallEnd | .mwaitWake | .vdispStallEnd | .squallRefill | .rqgetWake | .vsyncWake | .hexitComplete
  | .hyieldEnd | .gwaitWake | .storeStallEnd | .asyncEventTaken | .vectorFaultDelivery | .machineCheckTaken | .blockStart
  | .clusterStallRelease | .matrixArrayGrant | .cpyStallEnd | .cpywWake | .sprmDrainEnd | .streamUnitGrant
  | .renconTransaction _ _ _ => true
  | _ => false

/-- An act of the current hart that may not happen now: the hart does not exist, its core is becalmed, or its control core is
retired (R213, R224). -/
def State.eventHeld (s : State) (i : Instr) : Bool := actOfHart i && s.ctlStands

/-! ### Placing a word -/

/-- Bytes of memory as every agent sees them from now on. -/
def State.place (s : State) (pa : Nat) (bs : List Byte) : State :=
  let k := s.cell pa
  (s.modPart fun p => p.putBytes k bs).modCore (coreOf s.cur) fun c =>
    { c with junction := match c.junction.find? fun l => l.line == k / 64 with
               | some l => junctionPut c.junction l.hart k bs (Map.find l.storage (k % 64)).isSome
               | none => c.junction }

/-- The physical address that the current hart's control thread fetches from. -/
def State.pcPa (s : State) : Nat :=
  match s.translate (s.scalarView s.cur) .fetch s.pc PaKind.isMem with
  | .ok (x, _) => x.pa
  | .error _ => fld s.pc 0 56

/-- A C-stream word at the pc of the current hart, which waits in nothing and moves next. -/
def State.placeC (s : State) (w : W32) : State :=
  { (s.place s.pcPa (bytesOf w 4)).again with agenda := .ctl s.cur :: s.agenda }

/-- The command of a block at address 0 of the current hart, as a vdisp now would build it (R43, R45). -/
def Hart.placedCommand (v : Hart) (h : Nat) : Command := { v.command h 0 0 with pos := v.head }

/-- A V-stream word at address 0, as the word that runs next of a block of the current hart, whose context moves next. -/
def State.placeV (s : State) (w : Word) : State :=
  let s1 := s.mod fun v =>
    let c := v.placedCommand s.cur
    { v with next := v.head + 1, queue := [c]
             ctx := { v.ctx with blk := some { cmd := c, pc := 0, sent := 0 }, waiting := none, answered := false } }
  { (s1.place 0 (bytesOf w 8)) with agenda := .vec s.cur :: s.agenda }

end Sys2Proof.Machine
end

