-- ==== Sys2Proof/Machine/Step.lean ====
section
/-! DEFINITION. One step of the part, and the placing of an instruction where the next step fetches it. -/

namespace Sys2Proof.Machine

/-- What a stopped word comes to: a C-stream instruction that waits keeps its suppression of kbrk (R223). -/
def afterC (csup : Bool) : Host.Outcome State Fault Refusal → Host.Outcome State Fault Refusal
  | .next s => .next (s.keepSuppression csup)
  | o => o

/-- A C-stream instruction of the current hart executes. One that reads a register with poison consumes it and does not execute
(R207; log 120). -/
def runC (i : Instr) (csup : Bool) (s : State) : Host.Outcome State Fault Refusal :=
  if s.xBad i then .next (s.scalarPoisoned s.cur 0).again else afterC csup (exec i s)

/-- A V-stream word of the current hart executes. One that reads a block register with poison consumes it (R207; log 120). -/
def runV (i : Instr) (s : State) : Host.Outcome State Fault Refusal := s.guardB i (exec i s)

/-- A turn of the control thread of hart h (R18, R202). An instruction that waits goes on, and is not fetched again. -/
def stepCtl (s : State) : Host.Outcome State Fault Refusal :=
  match s.beforeFetch with
  | some s1 => .next s1
  | none =>
    match s.heldC with
    | some i => runC i s.hart.csup s.endSuppression
    | none =>
      match s.fetched with
      | .run i s1 => runC i s1.hart.csup (s1.issue i)
      | .done s1 => .next s1

/-- A turn of the vector context of hart h (R52, R55). A word that waits goes on, and is not fetched again. -/
def stepVec (s : State) : Host.Outcome State Fault Refusal :=
  match s.beforeWord with
  | some s1 => .next s1
  | none =>
    match s.heldV with
    | some i => runV i s
    | none =>
      match s.fetchedV with
      | .run i s1 => runV i (s1.issueV (some i))
      | .done s1 => .next s1

/-- An event of the part. An instruction that a word encodes runs only when its word is fetched (log 19). -/
def stepEvent (i : Instr) (s : State) : Host.Outcome State Fault Refusal :=
  if (encodeC i).isSome || (encodeV i).isSome || s.eventHeld i then .next s else exec i s

/-- A physical upset strikes the clusters of hart h; the next comparison that covers it finds it (R123, R211; log 60). -/
def State.upset (s : State) (h : Nat) (term : Bool) : State :=
  s.modCtx h fun c => if term then { c with termUpset := true } else { c with laneUpset := true }

/-- One move: the hart's turn begins, and it acts. -/
def stepMove (m : Move) (s : State) : Host.Outcome State Fault Refusal :=
  match m with
  | .ctl h => stepCtl (s.turn h)
  | .vec h => stepVec (s.turn h)
  | .event h i => stepEvent i (s.turn h)
  | .upset h term => .next ((s.turn h).upset h term)
  | .preempt h n => .next ((s.turn h).modCtx h fun c => { c with preempt := some n })
  | .persist => .next s.pass.persist
  | .hostPowerFail => .next s.pass.hostPowerFail
  | .flitCorrected p => .next (s.pass.flitCorrected p)
  | .posted => .next s.pass.runPosted

/-- One step: the next move of the agenda, or of the round robin (log 1). A part without power does nothing but what
powers it. -/
def step (s : State) : Host.Outcome State Fault Refusal :=
  if s.isDead then .fault .noPower
  else
    match s.nextMove with
    | some (m, s1) => stepMove m s1
    | none => .next s.pass

/-! ### Placing an instruction -/

/-- An instruction of nbits bits with word w where the next step fetches it: a C-stream word at the pc of the current hart,
whose control thread moves next; a V-stream word at address 0 as the only word of a running block of that hart, whose
vector context moves next. -/
def State.withFetchWord (s : State) (nbits w : Nat) : State :=
  if nbits ≤ 32 then s.placeC (BitVec.ofNat 32 w) else s.placeV (BitVec.ofNat 64 w)

end Sys2Proof.Machine
end

