-- ==== Sys2Proof/Safety.lean ====
section
/-! DEFINITION. What counts as a sound state, and the terms that the statements use: what is left unchanged, how an
instruction of either stream ends, how a trap is entered. -/

namespace Sys2Proof.Machine

/-- Memory holds its one canonical form: strictly rising cells, and no byte listed that equals what an unlisted cell
reads as, 0 (log 4). -/
def Memory.wf (m : List Host.Cell) : Bool := Sparse.wf (0 : Byte) m

/-- The invariant of every step: memory is canonical. -/
def State.Inv (s : State) : Prop := Memory.wf s.part.mem = true

end Sys2Proof.Machine

namespace Sys2Proof.Claims
open Sys2Proof.Machine

/-- An outcome of the model. -/
abbrev Out := Host.Outcome State Fault Refusal

/-! ### What is left unchanged -/

/-- Every byte of memory reads as before: to the agents of the node, and to the scalar threads of each core, which see
its junction buffer. -/
def SameMemory (s t : State) : Prop :=
  (∀ k, t.byteAt k = s.byteAt k) ∧ ∀ c k, t.scalarByte c k = s.scalarByte c k

/-- Nothing outside the harts changes. -/
def SameRest (s t : State) : Prop :=
  t.part = s.part ∧ t.cores = s.cores ∧ t.towers = s.towers ∧ t.agenda = s.agenda ∧ t.rr = s.rr ∧ t.cur = s.cur
    ∧ t.tick = s.tick ∧ SameMemory s t

/-- Only the current hart changes. -/
def OnlyHart (s t : State) : Prop := SameRest s t ∧ ∀ h, h ≠ s.cur → t.hartAt h = s.hartAt h

/-- Of the machine, only x registers, the pc and the wait of the current hart change: every k-register, the vector
context and memory are as before. -/
def OnlyX (s t : State) : Prop :=
  OnlyHart s t ∧ { t.hart with x := s.hart.x, xpoison := s.hart.xpoison, pc := s.hart.pc, wait := s.hart.wait,
                               answered := s.hart.answered } = s.hart

/-- x[r] of the current hart holds poison (R206). -/
def XPoisoned (s : State) (r : XReg) : Prop := (Map.find s.hart.xpoison r.toNat).isSome = true

/-- The x registers of the current hart but d are unchanged, and so is the poison in them. -/
def OtherX (s t : State) (d : XReg) : Prop := ∀ r, r ≠ d → t.xr r = s.xr r ∧ (XPoisoned t r ↔ XPoisoned s r)

/-- Every x register of the current hart is unchanged, and so is the poison in it. -/
def SameX (s t : State) : Prop := (∀ r, t.xr r = s.xr r) ∧ t.hart.xpoison = s.hart.xpoison

/-! ### How a C-stream instruction ends -/

/-- The instruction completes: x[d] takes v (a write to x0 is ignored, and x0 reads 0), which new data frees of poison, the
next word follows, and nothing else changes. -/
def WritesX (s : State) (d : XReg) (v : Word) (o : Out) : Prop :=
  ∃ t, o = .next t ∧ t.xr d = (if d = 0 then 0 else v) ∧ (d ≠ 0 → ¬ XPoisoned t d) ∧ OtherX s t d ∧ t.pc = s.pc + 4
    ∧ t.hart.wait = none ∧ OnlyX s t

/-- The instruction completes: the pc goes to `target`, and nothing else changes. -/
def GoesTo (s : State) (target : Word) (o : Out) : Prop :=
  ∃ t, o = .next t ∧ SameX s t ∧ t.pc = target ∧ t.hart.wait = none ∧ OnlyX s t

/-- The instruction waits: the thread sleeps or stalls in w at its word, and nothing else changes. -/
def WaitsIn (s : State) (w : Wait) (o : Out) : Prop :=
  ∃ t, o = .next t ∧ SameX s t ∧ t.pc = s.pc ∧ t.hart.wait = some w ∧ OnlyX s t

/-! ### Trap entry (R197) -/

/-- The mode that a trap from `mode` enters (R197, R201). -/
def entersMode (mode cause : Nat) (tval : Word) : Nat :=
  if mode = 2 ∨ cause = 0x43 ∨ (cause = 0x0A ∧ 0x8000 ≤ tval.toNat ∧ mode = 1) then 2 else 1

/-- Hart v has become u by a trap (R197): the target mode's kepc, kcause and ktval, the saved mode and IE, IE = 0, the new
mode, the pc at the target's ktvec, the monitor disarmed, no sleep and no yield; all else is as before, the other bits of
kstatus and the other mode's trap registers among it, but that the bookkeeping of kbrk follows the trap (R223). -/
def TrapOf (v u : Hart) (cause : Nat) (epc tval : Word) : Prop :=
  let m := entersMode v.pm cause tval
  u.pc = (v.trapRegs m).tvec
    ∧ u.trapRegs m = { v.trapRegs m with cause := BitVec.ofNat 64 cause, epc := epc &&& ~~~3, tval := tval }
    ∧ u.trapRegs (3 - m) = v.trapRegs (3 - m)
    ∧ u.pm = m ∧ u.ie = false
    ∧ (if m = 2 then fld u.kstatus 12 2 = v.pm ∧ tst u.kstatus 4 = v.ie ∧ fld u.kstatus 10 2 = fld v.kstatus 10 2
          ∧ tst u.kstatus 1 = tst v.kstatus 1
        else fld u.kstatus 10 2 = v.pm ∧ tst u.kstatus 1 = v.ie ∧ fld u.kstatus 12 2 = fld v.kstatus 12 2
          ∧ tst u.kstatus 4 = tst v.kstatus 4)
    ∧ (∀ i, i = 2 ∨ i = 3 ∨ 5 ≤ i ∧ i ≤ 7 ∨ 14 ≤ i → tst u.kstatus i = tst v.kstatus i)
    ∧ u.monitor = none ∧ u.monHit = false ∧ u.wait = none ∧ u.yielding = false ∧ u.csup = false
    ∧ { u with pc := v.pc, kstatus := v.kstatus, sup := v.sup, fw := v.fw, monitor := v.monitor, monHit := v.monHit,
               wait := v.wait, yielding := v.yielding, answered := v.answered, csup := v.csup, supPend := v.supPend } = v

/-- The current hart takes a trap, and nothing else changes. -/
def Traps (s : State) (cause : Nat) (epc tval : Word) (o : Out) : Prop :=
  ∃ t, o = .next t ∧ OnlyHart s t ∧ TrapOf s.hart t.hart cause epc tval

/-! ### Accesses to memory -/

/-- The machine t differs from s in x registers, the pc, the wait and the wake-ups of monitors at most, as far as harts go;
the current hart and the agenda are the same. -/
def HartsKept (s t : State) : Prop :=
  (∀ h, h ≠ s.cur → { t.hartAt h with monHit := (s.hartAt h).monHit } = s.hartAt h)
    ∧ { t.hart with x := s.hart.x, xpoison := s.hart.xpoison, pc := s.hart.pc, wait := s.hart.wait,
                    answered := s.hart.answered, monHit := s.hart.monHit } = s.hart
    ∧ t.agenda = s.agenda ∧ t.rr = s.rr ∧ t.cur = s.cur ∧ t.tick = s.tick

/-- Bytes are stored from cell k on in the junction buffer of the current core (R148): its threads read them there, and
every other byte, to every agent, reads as before; nothing else outside the harts changes. -/
def StoresScalar (s t : State) (k : Nat) (bs : List Byte) : Prop :=
  (∀ j, t.byteAt j = s.byteAt j)
    ∧ (∀ c j, t.scalarByte c j =
        if c = coreOf s.cur ∧ k ≤ j ∧ j < k + bs.length then bs.getD (j - k) 0 else s.scalarByte c j)
    ∧ t.part = s.part ∧ t.towers = s.towers
    ∧ ∀ c, { t.coreAt c with junction := (s.coreAt c).junction } = s.coreAt c

/-- Bytes are performed at a physical address: local ones in memory, every other byte unchanged; those of another node, and
those of the storage window or behind a storage write, leave as a transaction that the source retains until the other node
has them (R217) or the host has accepted them as persistent (R237), and memory keeps its bytes. With the host link lost, those
of the host window are lost (R238). -/
def Performs (s t : State) (h pa : Nat) (bs : List Byte) : Prop :=
  if s.paKind pa = .hostLost then t.part = s.part
  else if s.isLocal pa = true ∧ s.inStorage pa = false ∧ s.awaited (s.cell pa) bs.length = false then
    (∀ j, t.byteAt j = if s.cell pa ≤ j ∧ j < s.cell pa + bs.length then bs.getD (j - s.cell pa) 0 else s.byteAt j)
      ∧ t.part.trans = s.part.trans
  else
    (∀ j, t.byteAt j = s.byteAt j)
      ∧ t.part.trans = s.part.trans
        ++ [{ id := s.part.nextTid, hart := h, write := true, pa := pa, data := bs,
               storage := s.inStorage pa || s.awaited (s.cell pa) bs.length }]

/-- The host link has not been lost (R238): no write of this state is lost on the way. -/
def Linked (s : State) : Prop := s.part.hostLost = false

/-- A machine check of SRC src for data at a physical address waits to be taken by hart v, which has become u (R208, R209);
nothing else of it changes. -/
def Checked (v u : Hart) (src pa : Nat) (tval : Word) : Prop :=
  u.mcPend = some tval ∧ tst u.kmcheck 63 = true ∧ fld u.kmcheck 59 4 = src ∧ tst u.kmcheck 56 = false
    ∧ fld u.kmcheck 0 56 = pa % 2 ^ 56 ∧ { u with mcPend := v.mcPend, kmcheck := v.kmcheck } = v

/-! ### Pennants -/

/-- What the 64 bytes of the pennant of strip st say (R220, Table 11-5), when the current hart of s closes it, cut by kctx or
not, killed or not, with no discard. The busy cycles of offset 32 are free values (log 10). -/
def IsPennant (s : State) (st : Strip) (cut killed : Bool) (bs : List Byte) : Prop :=
  let w (i : Nat) : Word := ofBytes 64 ((bs.drop (8 * i)).take 8)
  let n := st.cnt
  let g := s.ctx.grant
  let flag (k : Nat) (p : Prop) : Prop := tst (w 0) (24 + k) = true ↔ p
  bs.length = 64 ∧ fld (w 0) 0 16 = s.cur ∧ fld (w 0) 16 8 = (s.clusterSet s.cur).length
    ∧ flag 0 (st.isSealed = true) ∧ flag 1 (n.rewound = true) ∧ flag 2 (tst g.vtype 14 = true) ∧ flag 3 (cut = true)
    ∧ flag 4 (killed = true) ∧ flag 5 (g.trim = true) ∧ flag 6 False ∧ flag 7 False
    ∧ (∀ b, s.ctx.blk = some b → fld (w 0) 32 32 = b.cmd.pos.toNat ∧ w 1 = b.cmd.addr)
    ∧ fld (w 2) 0 32 = n.woff.toNat ∧ fld (w 2) 32 32 = g.g.toNat ∧ w 3 = (s.coreAt (coreOf s.cur)).hcycle - n.start
    ∧ fld (w 5) 0 32 = min n.tcycles 0xFFFFFFFF ∧ fld (w 5) 32 32 = min n.terms 0xFFFFFFFF ∧ w 6 = BitVec.ofNat 64 n.idle
    ∧ fld (w 7) 0 32 = min n.records 0xFFFFFFFF ∧ fld (w 7) 32 32 = min n.skipped 0xFFFFFFFF

/-- Strip st of the current hart closes (R220-R222): with kpenc.EN and room in its ring, the pennant performs at record PROD,
and PROD counts it; without room DROP counts it, up to 127, as it does where the ring lies outside memory, which is the model's
choice (log 12); without EN nothing is written. The rest of kpenc stays. -/
def ClosesPennant (s t : State) (st : Strip) (cut killed : Bool) : Prop :=
  let k := s.hart.kpenc
  let prod := fld k 0 24
  let size := fld s.hart.kpen 0 6
  let pa := fld s.hart.kpen 12 44 * 0x1000 / 2 ^ size * 2 ^ size + 64 * (prod % (2 ^ size / 64))
  let room := (prod + 2 ^ 24 - fld k 24 24) % 2 ^ 24 < 2 ^ (size - 6)
  (tst k 63 = false → t.hart.kpenc = k ∧ SameMemory s t)
    ∧ (tst k 63 = true → room → (s.paKind pa).isMem = true → s.cur < 2 ^ 16 → (s.clusterSet s.cur).length < 256 →
      t.hart.kpenc = (k &&& 0xFFFFFFFFFF000000) ||| BitVec.ofNat 64 ((prod + 1) % 2 ^ 24)
        ∧ ∃ bs, IsPennant s st cut killed bs ∧ Performs s t s.cur pa bs)
    ∧ (tst k 63 = true → ¬ room ∨ (s.paKind pa).isMem = false →
      t.hart.kpenc = (k &&& 0x80FFFFFFFFFFFFFF) ||| BitVec.ofNat 64 (min 127 (fld k 56 7 + 1) * 2 ^ 56) ∧ SameMemory s t)

/-! ### How a word of a block ends -/

/-- The state with the next block word due (R301). -/
def passed (s : State) : State := s.passWord s.cur

/-- The same for a vector, matrix, copy or stream word, which ICNT counts (R211). -/
def counted (s : State) : State := passed (s.modCtx s.cur fun c => { c with icnt := (c.icnt + 1) % 8 })

/-- The word completes: the machine comes to t but for the block pc and its loops. -/
def Completes (o : Out) (t : State) : Prop := o = .next (counted t)

/-! ### What a word of a block changes -/

/-- What the Sv57 walk of va comes to from a table on whose level is one less than n (R189): a page table entry outside the HBM
of this node and the host window, a poisoned one, a malformed one, or a leaf with its level and address. -/
def WalkEnds (s : State) (va : Word) : Nat → Nat → Except AccErr (Word × Nat × Nat) → Prop
  | 0, _, r => r = .error .page
  | n + 1, table, r =>
    let addr := table * 0x1000 + 8 * (va.toNat / 2 ^ (12 + 9 * n) % 512)
    let pte : Word := ofBytes 64 (s.devBytes (s.cell addr) 8)
    let bit (i : Nat) : Prop := pte.getLsbD i = true
    let leaf := bit 1 ∨ bit 2 ∨ bit 3
    if s.paKind addr ≠ .hbm ∧ s.paKind addr ≠ .host then r = .error (.table va)
    else if s.anyPoison (s.cell addr) 8 = true then r = .error (.poison addr)
    else if ¬ bit 0 ∨ (bit 2 ∧ ¬ bit 1) ∨ fld pte 54 7 ≠ 0 ∨ bit 63 ∨ (bit 61 ∧ bit 62) ∨ (n = 0 ∧ ¬ leaf)
        ∨ (leaf ∧ fld pte 10 44 % 512 ^ n ≠ 0) then r = .error .page
    else if leaf then r = .ok (pte, n, addr)
    else WalkEnds s va n (fld pte 10 44) r

/-- Cell k is not among the stores that the current context's strip buffers, and these are cells of this node. -/
def Unbuffered (s : State) (k : Nat) : Prop :=
  ∀ st, s.ctx.strip = some st → Map.find st.buf k = none ∧ ∀ e, e ∈ st.buf → e.1 < 2 ^ 44

/-- A word of the current context changes no memory but by releasing the stores that its strip buffers (R81), and of the
harts only its own vector context, its kflags, and the wake-ups of monitors; with the host link lost, a released store to
the host window makes a machine check pending (R238). -/
def VecFrame (s t : State) : Prop :=
  (∀ k, Unbuffered s k → t.byteAt k = s.byteAt k ∧ ∀ c, t.scalarByte c k = s.scalarByte c k)
    ∧ (∀ h, h ≠ s.cur → { t.hartAt h with monHit := (s.hartAt h).monHit } = s.hartAt h)
    ∧ ({ t.hart with ctx := s.hart.ctx, kflags := s.hart.kflags, monHit := s.hart.monHit, kmcheck := s.hart.kmcheck,
                     mcPend := s.hart.mcPend } = s.hart)
    ∧ (Linked s → t.hart.kmcheck = s.hart.kmcheck ∧ t.hart.mcPend = s.hart.mcPend)
    ∧ t.agenda = s.agenda ∧ t.rr = s.rr ∧ t.cur = s.cur ∧ t.tick = s.tick

/-- The block goes on at its next word: the block pc and the loops as `passed` leaves them (R301), no wait, no restart
step. -/
def NextWord (s t : State) : Prop :=
  t.ctx.blk = (passed s).ctx.blk ∧ t.ctx.lc = (passed s).ctx.lc ∧ t.ctx.loops = (passed s).ctx.loops
    ∧ t.ctx.waiting = none ∧ t.ctx.step = 0 ∧ t.ctx.vsup = false ∧ t.ctx.answered = false

/-- The context x with what places a word (R301) as y has it: every field that a completed word changes as such. -/
def atWord (x y : VCtx) : VCtx :=
  { x with blk := y.blk, lc := y.lc, loops := y.loops, waiting := y.waiting, step := y.step, vsup := y.vsup
           answered := y.answered, acqM := y.acqM }

/-- b[r] of the current context holds poison (R206). -/
def BPoisoned (s : State) (r : BReg) : Prop := (Map.find s.ctx.bpoison r.toNat).isSome = true

/-- A block instruction completes: b[bd] takes v, which new data frees of poison, the next word follows, and nothing else
changes. -/
def WritesB (s : State) (bd : BReg) (v : Word) (o : Out) : Prop :=
  ∃ t, o = .next t ∧ t.ctx.br bd = v ∧ ¬ BPoisoned t bd ∧ (∀ r, r ≠ bd → t.ctx.br r = s.ctx.br r ∧ (BPoisoned t r ↔ BPoisoned s r))
    ∧ NextWord s t ∧ OnlyHart s t ∧ { t.hart with ctx := s.hart.ctx } = s.hart
    ∧ { atWord t.ctx s.ctx with b := s.ctx.b, bpoison := s.ctx.bpoison } = s.ctx

/-- How often the lane of element (r, c) has drawn when the element takes its value: the active elements of the lane in
flat order, its own among them (R95). -/
def draws (w : Sweep) (tg : Tag) (fate : Nat → Nat → Fate) (r c : Nat) : Nat :=
  (w.cells.filter fun e => decide (w.flat e.1 e.2 ≤ w.flat r c) && fate e.1 e.2 == .active
    && posOf tg e.2 % w.lanes == posOf tg c % w.lanes).length

/-- What element (r, c) rounds with under rsto: the top half of its lane's state (R95, R96). -/
def drawOf (s : State) (w : Sweep) (tg : Tag) (fate : Nat → Nat → Fate) (rsto : Bool) (r c : Nat) : Nat :=
  fld (Nat.repeat advanceRnd (if rsto then draws w tg fate r c else 0) (laneRnd s.ctx.rnd (posOf tg c % w.lanes))) 16 16

/-- The group vd is written under tag tg (R65, R71, R72): an active element takes its value, one whose policy is agnostic
all ones, and every other container of every register keeps its bits; the group takes the tag; kflags takes the events of
the active elements; the lanes' states advance once for each active element under rsto; the next word follows. -/
def Sweeps (s t : State) (vd : VReg) (tg : Tag) (fate : Nat → Nat → Fate) (rsto : Bool)
    (val : Nat → Nat → Nat → Nat × Events) : Prop :=
  let w := s.sweep s.cur
  VecFrame s t ∧ t.cores = s.cores ∧ t.towers = s.towers ∧ NextWord s t ∧ t.ctx.icnt = (s.ctx.icnt + 1) % 8
    ∧ (∀ n, t.ctx.tagAt n = if vd.toNat ≤ n ∧ n < vd.toNat + w.vrows then tg else s.ctx.tagAt n)
    ∧ (∀ r c, r < w.vrows → c < w.vl → t.ctx.elem w.lanes tg (vd.toNat + r) c =
        match fate r c with
        | .active => (val r c (drawOf s w tg fate rsto r c)).1 % 2 ^ elemBits tg
        | .ones => 2 ^ elemBits tg - 1
        | .keep => s.ctx.elem w.lanes tg (vd.toNat + r) c)
    ∧ (∀ n c, n < 32 → (n < vd.toNat ∨ vd.toNat + w.vrows ≤ n ∨ w.vl ≤ c) →
        t.ctx.elem w.lanes tg n c = s.ctx.elem w.lanes tg n c)
    ∧ t.hart.kflags = s.hart.kflags ||| (w.cells.foldl (fun (e : Events) rc => match fate rc.1 rc.2 with
        | .active => e ||| (val rc.1 rc.2 (drawOf s w tg fate rsto rc.1 rc.2)).2
        | .ones => e
        | .keep => e) 0).setWidth 64
    ∧ (∀ q, laneRnd t.ctx.rnd q = Nat.repeat advanceRnd (if rsto then (w.cells.filter fun e =>
        fate e.1 e.2 == .active && posOf tg e.2 % w.lanes == q).length else 0) (laneRnd s.ctx.rnd q))
    ∧ (s.ctx.strip = none → t.ctx.strip = none)
    ∧ (∀ n c, t.ctx.elemBad w.lanes tg n c = true → s.ctx.elemBad w.lanes tg n c = true)
    ∧ { atWord t.ctx s.ctx with v := s.ctx.v, vtags := s.ctx.vtags, rnd := s.ctx.rnd, vpoison := s.ctx.vpoison,
                                icnt := s.ctx.icnt, strip := s.ctx.strip } = s.ctx

/-- Mask md is written (R319): an active position takes its bit, or keeps it where `val` gives none; an inactive one reads
1 under TA; every other bit of every mask is as before, and md is bound to no copy any more. -/
def WritesMask (s t : State) (md : MReg) (ev : Events) (val : Nat → Nat → Option Bool) : Prop :=
  let w := s.sweep s.cur
  VecFrame s t ∧ t.cores = s.cores ∧ t.towers = s.towers ∧ NextWord s t ∧ t.ctx.icnt = (s.ctx.icnt + 1) % 8
    ∧ (∀ r p, r < w.vrows → p < w.positions → t.ctx.mbit md.toNat r p =
        if w.maskActive r p then (val r p).getD (s.ctx.mbit md.toNat r p) else w.ta || s.ctx.mbit md.toNat r p)
    ∧ (∀ n r p, n < 8 → r < 8 → (n ≠ md.toNat ∨ w.vrows ≤ r ∨ w.positions ≤ p) → t.ctx.mbit n r p = s.ctx.mbit n r p)
    ∧ t.hart.kflags = s.hart.kflags ||| ev.setWidth 64
    ∧ Map.find t.ctx.binds md.toNat = none ∧ (s.ctx.strip = none → t.ctx.strip = none)
    ∧ { atWord t.ctx s.ctx with m := s.ctx.m, binds := s.ctx.binds, mpoison := s.ctx.mpoison, icnt := s.ctx.icnt,
                                strip := s.ctx.strip } = s.ctx

/-- No bit of a mask register of the current context holds poison (R206). -/
def MaskClean (s : State) (m : MReg) : Prop := ∀ e ∈ s.ctx.mpoison, e.1 % 8 ≠ m.toNat

/-- No container of v[n] of the current context holds poison (R206). -/
def RegClean (s : State) (n : Nat) : Prop := ∀ e ∈ s.ctx.vpoison, e.1 % 32 ≠ n

/-- A vector word may perform: its groups lie within v0-v31 (R64), a chunk acquire names a bound mask (R163), G is not 0,
what it reads holds no poison (R207), and no upset strikes a lane (R212). -/
def VecReady (s : State) (groups : List VReg) (mask : Option MReg) (aq : Bool) (reads : List Nat) : Prop :=
  let x := s.ctx
  (∀ v, v ∈ groups → v.toNat + (s.sweep s.cur).vrows ≤ 32)
    ∧ (∀ m, mask = some m → (aq = true → (Map.find x.binds m.toNat).isSome = true) ∧ MaskClean s m)
    ∧ x.grant.g ≠ 0 ∧ x.laneUpset = false ∧ ∀ n, n ∈ reads → RegClean s n

/-- Source va of the current context with its tag (R65, R91). -/
def IsVec (s : State) (v : VReg) (o : Source) : Prop :=
  ∃ t, sourceTag s.ctx (s.sweep s.cur) v = .ok t ∧ o = vecSource s.ctx (s.sweep s.cur) v t

/-- Source b beside a source of tag t (R280). -/
def IsB (s : State) (b : VSrc) (t : Tag) (o : Source) : Prop :=
  srcInRange (s.sweep s.cur) b = true ∧ sourceB s.ctx (s.sweep s.cur) b t = .ok o

/-- The machine t after an element-wise word as R359 says: in the computation type ct of its sources (R90), into the format tg
of its destination (R91), rounded once; `op` is the operation, on exact values, integers and residues. An integer result that
the operation calls all ones has every bit that the format keeps set (R372). -/
def ElementResult (s t : State) (vd : VReg) (ctl : VCtl) (rm : Rm) (sat : Bool) (a b c : Source) (ct : CType) (tg : Tag)
    (op : EOp) : Prop :=
  let w := s.sweep s.cur
  let m := rmode s.hart.kfrm rm
  Sweeps s t vd tg (w.fateOf s.ctx ctl tg) (m == .rsto && (ct == .fp || ct != .zp && !isInteger tg)) fun r col rnd =>
    match ct with
    | .fp =>
      let y := op.fp (m == .rdn) (a.num r col) (b.num r col) (c.num r col)
      let z := narrowNum tg m rnd y.1
      (z.1, y.2 ||| z.2)
    | .zp =>
      let p := primeOf (s.coreAt (coreOf s.cur)).primes w (posOf tg col)
      op.zp p (a.res p r col) (b.res p r col) (c.res p r col)
    | .int32 | .uint32 =>
      let y := op.int tg (a.int r col) (b.int r col) (c.int r col)
      if op.ones (a.int r col) (b.int r col) = true then (keptBits tg (2 ^ elemBits tg - 1), y.2)
      else
        let z := narrowInt tg m rnd sat y.1
        (z.1, y.2 ||| z.2)

/-- The word does not complete: the context stops with a vector fault at it (R60, R199, R290), of a subcode and with a
ktval, which waits for delivery; nothing else changes. -/
def FaultsWord (s : State) (sub : Nat) (tval : Word) (o : Out) : Prop :=
  ∃ t, o = .next t ∧ OnlyHart s t ∧ t.ctx.stopped = true ∧ t.hart.vfPend = true ∧ t.hart.vfTval = tval
    ∧ fld t.hart.kvfault 0 8 = sub
    ∧ fld t.hart.kvfault 32 32 = ((s.ctx.blk.map fun (b : Block) => b.cmd.pos).getD 0).toNat
    ∧ { t.hart with ctx := s.hart.ctx, kvfault := s.hart.kvfault, kvrst := s.hart.kvrst, vfTval := s.hart.vfTval,
                    vfPend := s.hart.vfPend } = s.hart
    ∧ { t.ctx with stopped := s.ctx.stopped, waiting := s.ctx.waiting, vsup := s.ctx.vsup, answered := s.ctx.answered,
                   issued := s.ctx.issued, recent := s.ctx.recent, acqM := s.ctx.acqM } = s.ctx

/-- The C-stream instruction completes with `f` as its one effect on its hart, and none outside it. -/
def HartBecomes (s : State) (f : Hart → Hart) (o : Out) : Prop :=
  ∃ t, o = .next t ∧ OnlyHart s t ∧ t.hart = { f s.hart with pc := s.pc + 4, wait := none, answered := false }

/-- A block instruction completes with `f` as its one effect on its context, and none outside it. -/
def CtxBecomes (s : State) (f : VCtx → VCtx) (o : Out) : Prop :=
  ∃ t, o = .next t ∧ OnlyHart s t ∧ NextWord s t ∧ { t.hart with ctx := s.hart.ctx } = s.hart
    ∧ { atWord t.ctx s.ctx with icnt := s.ctx.icnt } = f s.ctx

/-- The bytes of an element in memory as the vector agent of the current hart sees them under its pins. -/
def elemBytes (s : State) (kspb : Word) (p : Pins) (e : MemElem) : List Byte :=
  (List.range e.n).flatMap fun i => s.vecBytes s.cur (s.cell (pinnedPa kspb p e i)) 1

/-- An element can be read: none of its bytes is poisoned. -/
def Readable (s : State) (kspb : Word) (p : Pins) (e : MemElem) : Prop :=
  ∀ i, i < e.n → s.vecPoison s.cur (s.cell (pinnedPa kspb p e i)) 1 = false

/-- Bytes after stores in order: each gives its cells, and the bytes that they hold after it from those before. -/
def putAll (old : Nat → Byte) : List (List Nat × (List Byte → List Byte)) → Nat → Byte
  | [], k => old k
  | (cells, f) :: l, k =>
    putAll (fun j => match cells.findIdx? fun i => i == j with
      | some i => (f (cells.map old)).getD i 0
      | none => old j) l k

/-- What a vector word that stores leaves as it is: of the harts only its own context changes, and of the context no
register, mask, tag or b-register. -/
def StoreFrame (s t : State) : Prop :=
  NextWord s t ∧ t.ctx.icnt = (s.ctx.icnt + 1) % 8 ∧ t.ctx.v = s.ctx.v ∧ t.ctx.vtags = s.ctx.vtags ∧ t.ctx.m = s.ctx.m
    ∧ t.ctx.b = s.ctx.b ∧ t.ctx.grant = s.ctx.grant
    ∧ (∀ h, h ≠ s.cur → { t.hartAt h with monHit := (s.hartAt h).monHit } = s.hartAt h)
    ∧ { t.hart with ctx := s.hart.ctx, monHit := s.hart.monHit, kmcheck := s.hart.kmcheck, mcPend := s.hart.mcPend } = s.hart
    ∧ (Linked s → t.hart.kmcheck = s.hart.kmcheck ∧ t.hart.mcPend = s.hart.mcPend)
    ∧ ∀ c, t.junction c = s.junction c

end Sys2Proof.Claims
end

