-- ==== Sys2Proof/Certificates/Slice0/Obligations.lean ====
section
/-! DEFINITION. The statements for the provers, each from the rules that its docstring cites. -/

open Sys2Proof Sys2Proof.Machine Sys2Proof.Claims

/-! ### Words and instructions -/

/-- Words of the spec's own examples decode to the instructions they stand for, one or more of each family (R46, R68, R121,
R137, R155, R274-R284, R286). -/
def Obligations.DecodeWords : Prop :=
  decodeC 0x24A14567 = .ok (.imovk 5 1 0x4567) ∧ decodeC 0x410B6000 = .ok (.ld 8 11 .d 0)
    ∧ decodeC 0x44225FFC = .ok (.st 1 2 .w 0x1FFC) ∧ decodeC 0x6CC03FFE = .ok (.bcc 6 0 .ne 0x1FFE)
    ∧ decodeC 0x64000003 = .ok (.call 3) ∧ decodeC 0xC0008001 = .ok (.trap 0x8001) ∧ decodeC 0xC4000000 = .ok .tret
    ∧ decodeC 0x80A00800 = .ok (.vdisp 5 2) ∧ decodeC 0xCC090042 = .ok (.kwrite 9 0x042)
    ∧ decodeC 0x48642F40 = .ok (.amo 3 4 5 true .acqrel .dev .add) ∧ decodeC 0x8AB45002 = .ok (.hspawn 21 20 10)
    ∧ decodeV 0x0281010000000080 = .ok (.badd 8 1 (.imm 128)) ∧ decodeV 0x0E00000000000000 = .ok .vend
    ∧ decodeV 0x2023400000013081 = .ok (.vsetl 2 3 (some 4) 0x3081)
    ∧ decodeV 0x30210A0000020000 = .ok (.vadd 4 4 (.vec 5) .rne true { mask := none, aq := false, tail := .vtype })
    ∧ decodeV 0x40104A0040000000 = .ok (.vcmp .lt 2 1 (.vec 5) { mask := none, aq := false })
    ∧ decodeV 0x5A18800900000000 = .ok (.vcomp 3 2 { mask := some 1, aq := false, tail := .vtype })
    ∧ decodeV 0x7021000B14800000 = .ok (.vld 4 2 0 5 none { mask := some 3, aq := true, tail := .vtype })
    ∧ decodeV 0x6818440000020000 = .ok (.mlog .xor 3 1 2) ∧ decodeV 0x8500101140000000 = .ok (.mop 0 0 8 (some (1, 2)))
    ∧ decodeV 0x9023470300000001 = .ok (.cpy 2 3 4 3 0 .dev (some 3)) ∧ decodeV 0xAA61240000000002 = .ok (.sdiv 6 1 2 4 2)
    ∧ decodeV 0x7A00000000000000 = .ok .fvvV

/-- Decoding the word that the encoder gives a well-formed instruction gives the instruction back, in the C-stream
(R274-R277) and in the V-stream (R279-R284, R121, R137, R155): every operand, at every value that its encoding admits. -/
def Obligations.DecodeOfEncode : Prop :=
  (∀ (i : Instr) (w : W32), i.wf = true → encodeC i = some w → decodeC w = .ok i)
    ∧ ∀ (i : Instr) (w : Word), i.wf = true → encodeV i = some w → decodeV w = .ok i

/-- A word has one reading: the decoder gives a well-formed instruction, whose encoding is that very word, and which has no
word of the other stream. No bit of a word that decodes is ignored (R277, R282-R284). -/
def Obligations.EncodeOfDecode : Prop :=
  (∀ (w : W32) (i : Instr), decodeC w = .ok i → i.wf = true ∧ encodeC i = some w ∧ encodeV i = none)
    ∧ ∀ (w : Word) (i : Instr), decodeV w = .ok i → i.wf = true ∧ encodeV i = some w ∧ encodeC i = none

/-! ### Steps -/

/-- A turn of a control thread runs the instruction that the word at its pc decodes to (R18, R278). The hart is not held by
an event, a sleep or a breakpoint (`beforeFetch`, R202) and waits in nothing; the pc is aligned and translates for a fetch
(R189), and the four bytes there, the lowest first, are the word; one on another node must have come, until when the thread
waits for it (R217; log 104). A wait of the instruction keeps the suppression of kbrk (R223). An instruction
that reads an x register with poison does not execute (R207): a machine check is pending, and the pc and every x register
stay as they are; that its record has SRC 0 and PA 0 is the model's choice (log 120). A thread that waits goes on with the
instruction that it has issued, whatever stands at its pc by now (R37, R59). -/
def Obligations.StepRunsC : Prop :=
  (∀ (s s0 s1 : State) (h : Nat) (x : Xlat) (w : W32) (i : Instr),
    s.isDead = false → s.nextMove = some (.ctl h, s0) → (s0.turn h).beforeFetch = none → (s0.turn h).heldC = none →
    (s0.turn h).pc.toNat % 4 = 0 →
    (s0.turn h).translate ((s0.turn h).scalarView h) .fetch (s0.turn h).pc PaKind.isMem = .ok (x, s1) →
    ((s1.paKind x.pa).isRemote = true → (s0.turn h).hart.answered = false →
      ∃ t, step s = .next t ∧ t.pc = s1.pc ∧ SameX s1 t ∧ t.hart.wait = some .fetch ∧ t.asking h .fetch x.pa = true)
    ∧ (((s1.paKind x.pa).isRemote = false ∨ (s0.turn h).hart.answered = true) →
      s1.scalarPoison (coreOf h) (s1.cell x.pa) 4 = false →
      w = ofBytes 32 (s1.scalarBytes (coreOf h) (s1.cell x.pa) 4) →
      decodeC w = .ok i →
      ((∀ r ∈ xReads s1.hart.pendBit i, ¬ XPoisoned s1 r) →
        (∀ t, exec i (s1.issue i) = .next t → step s = .next (t.keepSuppression s1.hart.csup))
          ∧ (∀ f, exec i (s1.issue i) = .fault f → step s = .fault f))
        ∧ ∀ r ∈ xReads s1.hart.pendBit i, XPoisoned s1 r →
          ∃ t, step s = .next t ∧ t.pc = s1.pc ∧ SameX s1 t ∧ t.hart.mcPend = some (s1.hart.next.setWidth 64)
            ∧ fld t.hart.kmcheck 59 4 = 0 ∧ fld t.hart.kmcheck 0 56 = 0))
  ∧ ∀ (s s0 t : State) (h : Nat) (w : Wait) (i : Instr),
    s.isDead = false → s.nextMove = some (.ctl h, s0) → (s0.turn h).beforeFetch = none →
    (s0.turn h).hart.wait = some w → w ≠ .fetch → (s0.turn h).hart.issued = some i →
    (∀ r ∈ xReads (s0.turn h).hart.pendBit i, ¬ XPoisoned (s0.turn h) r) →
    exec i (s0.turn h).endSuppression = .next t → step s = .next (t.keepSuppression (s0.turn h).hart.csup)

/-- A turn of a vector context runs the instruction that the word at its block pc decodes to (R52, R55, R285); a word on
another node must have come, until when the context waits for it (R217; log 104). A word that reads a block register with
poison consumes it (R207) where it would perform, in the strip as the word would have sealed it (R81), and ICNT counts it
(R211); one that waits with nothing performed, or whose fault finds nothing performed, consumes nothing (R210): a vsetl that
waits for clusters has used its request, an access in segments that waits at a later one has performed the earlier ones, and a
stream instruction at a term boundary its records. That its machine check has SRC 1 and PA 0 is the model's choice (log 120). A
context that waits goes on with the word that it has issued. -/
def Obligations.StepRunsV : Prop :=
  (∀ (s s0 s1 : State) (h : Nat) (x : Xlat) (w : Word) (i : Instr),
    s.isDead = false → s.nextMove = some (.vec h, s0) → (s0.turn h).beforeWord = none → (s0.turn h).heldV = none →
    (s0.turn h).translate ((s0.turn h).vecView h) .fetch ((s0.turn h).bpc h) PaKind.isMem = .ok (x, s1) →
    ((s1.paKind x.pa).isRemote = true → (s0.turn h).ctx.answered = false →
      ∃ t, step s = .next t ∧ t.ctx.blk = s1.ctx.blk ∧ t.ctx.waiting = some .fetch ∧ t.asking h .vfetch x.pa = true)
    ∧ (((s1.paKind x.pa).isRemote = false ∨ (s0.turn h).ctx.answered = true) →
      s1.vecPoison h (s1.cell x.pa) 8 = false →
      w = ofBytes 64 (s1.vecBytes h (s1.cell x.pa) 8) →
      decodeV w = .ok i →
      let u := s1.issueV (some i)
      ((∀ r ∈ bReads i, ¬ BPoisoned s1 r) → step s = exec i u)
        ∧ ∀ r ∈ bReads i, BPoisoned s1 r → ∀ t, exec i u = .next t →
          let begun : Prop := t.ctx.waiting = some .clusters ∨ t.ctx.step ≠ u.ctx.step
            ∨ (t.coreAt (coreOf h)).descs ≠ (u.coreAt (coreOf h)).descs
          let shut (y : State) : Prop := ∃ st, y.ctx.strip = some st ∧ st.isSealed = true
          let consumes (k : State) : Prop := step s = .next ((if counts i = true then k.countIssue h else k).consume h 1 0)
          ((u.faultsBare t = true ∨ (t.ctx.waiting ≠ none ∧ ¬ begun)) → step s = .next t)
            ∧ (u.faultsBare t = false → t.ctx.waiting = none ∨ begun →
              (shut t → ¬ shut u → consumes (u.seal h)) ∧ (¬ shut t ∨ shut u → consumes u))))
  ∧ ∀ (s s0 : State) (h : Nat) (w : VWait) (i : Instr),
    s.isDead = false → s.nextMove = some (.vec h, s0) → (s0.turn h).beforeWord = none →
    (s0.turn h).ctx.waiting = some w → w ≠ .fetch → (s0.turn h).ctx.issued = some i →
    (∀ r ∈ bReads i, ¬ BPoisoned (s0.turn h) r) → step s = exec i (s0.turn h)

/-- An event of the part in the agenda happens at its turn (log 1). An instruction that a word encodes does not happen as an
event, and its turn then changes nothing more: that is the model's choice (log 19). An act of a hart that does not exist, of
a becalmed core or of a retired control core does not happen either (R213, R224). A word at the pc that no instruction has
raises illegal instruction with the word as ktval (R198, R278): the step answers the trap. -/
def Obligations.StepRunsEventsAndTraps : Prop :=
  (∀ (s s0 : State) (h : Nat) (i : Instr), s.isDead = false → s.nextMove = some (.event h i, s0) →
    step s = if (encodeC i).isSome || (encodeV i).isSome || (s0.turn h).eventHeld i then .next (s0.turn h)
      else exec i (s0.turn h))
  ∧ (∀ (s s0 s1 : State) (h : Nat) (x : Xlat) (w : W32) (e : DecodeError),
    s.isDead = false → s.nextMove = some (.ctl h, s0) → (s0.turn h).beforeFetch = none → (s0.turn h).heldC = none →
    (s0.turn h).pc.toNat % 4 = 0 →
    (s0.turn h).translate ((s0.turn h).scalarView h) .fetch (s0.turn h).pc PaKind.isMem = .ok (x, s1) →
    ((s1.paKind x.pa).isRemote = false ∨ (s0.turn h).hart.answered = true) →
    s1.scalarPoison (coreOf h) (s1.cell x.pa) 4 = false →
    w = ofBytes 32 (s1.scalarBytes (coreOf h) (s1.cell x.pa) 4) →
    decodeC w = .error e →
    Traps s1 0x01 s1.pc (w.setWidth 64) (step s))

/-! ### Invariants and reset -/

/-- Every step that answers a next state keeps memory in its one canonical form, whatever moved: a thread, a vector context,
an event of the part or an upset. -/
def Obligations.StepKeepsMemory : Prop := ∀ s t : State, s.Inv → step s = .next t → t.Inv

/-- The state after reset has the canonical form. -/
def Obligations.ResetMemory : Prop := State.reset.Inv

/-- What bring-up leaves (R4, R226, R228): one hart, hart 0, in sup mode under katp bare; the registers of hart 0, of its
core and of the part at the reset values that the field maps give. The x registers, which no rule states, are 0 in the
model (log 6); so are pc and the fw handler's ktvec (log 3). -/
def Obligations.ResetValues : Prop :=
  let s := State.reset
  (∀ h, (s.hartAt h).live = decide (h = 0))
    ∧ s.kread 0 1 0x000 = 0x100 ∧ s.hart.pm = 1
    ∧ (∀ n, n ∈ [0x001, 0x002, 0x003, 0x004, 0x005, 0x006, 0x007, 0x008, 0x009, 0x00A, 0x00B, 0x00C, 0x00D, 0x021, 0x022,
        0x024, 0x025, 0x030, 0x031, 0x032, 0x035, 0x041, 0x042, 0x050, 0x051, 0x055, 0x056, 0x060, 0x080, 0x083] →
        s.kread 0 1 n = 0)
    ∧ s.kread 0 1 0x011 = 0x00000000FFFFFFFF ∧ s.kread 0 1 0x020 = 0x0800080008000800
    ∧ s.kread 0 1 0x023 = 12 ∧ s.kread 0 1 0x040 = 12 ∧ s.kread 0 1 0x070 = 12 ∧ s.kread 0 1 0x071 = 12
    ∧ s.kread 0 1 0x052 = 1 ∧ s.kread 0 1 0x053 = 0x6000000000 ∧ s.kread 0 1 0x061 = 1
    ∧ s.kread 0 1 0x081 = 0x1000000000 ∧ s.kread 0 1 0x082 = 25
    ∧ (∀ r, s.xr r = 0)
    ∧ (∀ n c, (s.ctx.tagAt n = 0) ∧ s.ctx.elem 64 0 n c = 0xFFFFFFFF) ∧ (∀ m r p, s.ctx.mbit m r p = true)

/-! ### Traps -/

/-- Taking an exception is one act (R197, R198): the target mode's kepc, kcause and ktval, the saved mode and IE, IE = 0, the
new mode, the pc at the target's ktvec, the monitor disarmed; nothing else changes. tret returns from the current mode's copies
(R358): in sup mode to PPM with IE from PIE, in fw mode to FPPM with IE from FPIE, the pc at kepc; nothing else changes but the
kbrk suppression of R223. It raises privilege in app mode, from sup to fw, and to the reserved mode 3; so does trap with a code
from 0x8000 on in app mode. -/
def Obligations.TrapEntryAndReturn : Prop :=
  (∀ (s : State) (h cause : Nat) (epc tval : Word), cause < 256 →
    TrapOf (s.hartAt h) ((s.takeTrap h cause epc tval).hartAt h) cause epc tval
      ∧ (∀ j, j ≠ h → (s.takeTrap h cause epc tval).hartAt j = s.hartAt j) ∧ SameRest s (s.takeTrap h cause epc tval))
  ∧ ((∀ s : State, s.hart.pm = 1 → fld s.hart.kstatus 10 2 < 2 → ∃ t, exec .tret s = .next t ∧ OnlyHart s t
    ∧ t.pc = s.hart.sup.epc ∧ t.hart.pm = fld s.hart.kstatus 10 2 ∧ t.hart.ie = tst s.hart.kstatus 1
    ∧ tst t.hart.kstatus 1 = true ∧ fld t.hart.kstatus 10 2 = 0
    ∧ (∀ i, (2 ≤ i ∧ i ≤ 7 ∨ 12 ≤ i) → tst t.hart.kstatus i = tst s.hart.kstatus i)
    ∧ { t.hart with pc := s.hart.pc, kstatus := s.hart.kstatus, wait := s.hart.wait, answered := s.hart.answered,
                    csup := s.hart.csup, supPend := s.hart.supPend } = s.hart)
  ∧ (∀ s : State, s.hart.pm = 2 → fld s.hart.kstatus 12 2 < 3 → ∃ t, exec .tret s = .next t ∧ OnlyHart s t
    ∧ t.pc = s.hart.fw.epc ∧ t.hart.pm = fld s.hart.kstatus 12 2 ∧ t.hart.ie = tst s.hart.kstatus 4
    ∧ tst t.hart.kstatus 4 = true ∧ fld t.hart.kstatus 12 2 = 0
    ∧ (∀ i, (1 ≤ i ∧ i ≤ 3 ∨ 5 ≤ i ∧ i ≤ 7 ∨ 10 ≤ i ∧ i ≤ 11 ∨ 14 ≤ i) → tst t.hart.kstatus i = tst s.hart.kstatus i)
    ∧ { t.hart with pc := s.hart.pc, kstatus := s.hart.kstatus, wait := s.hart.wait, answered := s.hart.answered,
                    csup := s.hart.csup, supPend := s.hart.supPend } = s.hart)
  ∧ (∀ s : State, s.hart.pm = 0 ∨ (s.hart.pm = 1 ∧ 2 ≤ fld s.hart.kstatus 10 2) ∨ (s.hart.pm = 2 ∧ fld s.hart.kstatus 12 2 = 3) →
    Traps s 0x0C s.pc 0xC4000000 (exec .tret s))
  ∧ ∀ (s : State) (c : BitVec 16), s.hart.pm = 0 → 0x8000 ≤ c.toNat → Traps s 0x0C s.pc (cword (.trap c)) (exec (.trap c) s))

/-- A misaligned address raises misaligned with the address as ktval and does nothing else (R198, R303, R317, R318,
R334, R354, R356; R46 for a vdisp whose block address is not a multiple of 64). -/
def Obligations.MisalignedTraps : Prop :=
  ∀ (s : State) (d a b : XReg) (o : BitVec 13),
    (∀ wd, (s.xr a + o.signExtend 64).toNat % ldBytes wd ≠ 0 →
      Traps s 0x03 s.pc (s.xr a + o.signExtend 64) (exec (.ld d a wd o) s))
    ∧ (∀ wd, (s.xr a + o.signExtend 64).toNat % stBytes wd ≠ 0 →
      Traps s 0x03 s.pc (s.xr a + o.signExtend 64) (exec (.st d a wd o) s))
    ∧ (∀ dbl, (s.xr a).toNat % (if dbl then 8 else 4) ≠ 0 → ∀ sc,
      Traps s 0x03 s.pc (s.xr a) (exec (.ldacq d a dbl sc) s) ∧ Traps s 0x03 s.pc (s.xr a) (exec (.strel a b dbl sc) s))
    ∧ ((s.xr a).toNat % 8 ≠ 0 → Traps s 0x03 s.pc (s.xr a) (exec (.mwatch d a) s))
    ∧ ((s.xr a).toNat % 4 ≠ 0 →
      Traps s 0x03 s.pc (s.xr a) (exec (.jr a) s) ∧ Traps s 0x03 s.pc (s.xr a) (exec (.callr a) s))
    ∧ (s.noContext = false → (s.xr a).toNat % 64 ≠ 0 → ∀ n, Traps s 0x03 s.pc (s.xr a) (exec (.vdisp a n) s))

/-- App mode may not use the privileged instructions: privilege with the word as ktval (R198, R278, R286, R348); a kset or
kclr of a register that it may read and not write is one. A write of kvq by app mode raises illegal instruction (R51), and so
does a k-register number of no register in every mode. -/
def Obligations.PrivilegeTraps : Prop :=
  ∀ (s : State) (d a b : XReg) (k : KNum),
    (s.hart.pm = 0 → Traps s 0x0C s.pc (cword (.sinval a b)) (exec (.sinval a b) s))
    ∧ (s.hart.pm = 0 → hasNat kregNumbers k.toNat = true → hasNat appReads k.toNat = false →
      Traps s 0x0C s.pc (cword (.kread d k)) (exec (.kread d k) s)
        ∧ Traps s 0x0C s.pc (cword (.kset d a k)) (exec (.kset d a k) s)
        ∧ Traps s 0x0C s.pc (cword (.kclr d a k)) (exec (.kclr d a k) s))
    ∧ (s.hart.pm = 0 → hasNat kregNumbers k.toNat = true → hasNat appWrites k.toNat = false → k ≠ 0x022 →
      Traps s 0x0C s.pc (cword (.kwrite a k)) (exec (.kwrite a k) s))
    ∧ (s.hart.pm = 0 → hasNat appReads k.toNat = true → hasNat appWrites k.toNat = false → k ≠ 0x022 →
      Traps s 0x0C s.pc (cword (.kset d a k)) (exec (.kset d a k) s)
        ∧ Traps s 0x0C s.pc (cword (.kclr d a k)) (exec (.kclr d a k) s))
    ∧ (s.hart.pm = 0 →
      Traps s 0x01 s.pc (cword (.kwrite a 0x022)) (exec (.kwrite a 0x022) s)
        ∧ Traps s 0x01 s.pc (cword (.kset d a 0x022)) (exec (.kset d a 0x022) s)
        ∧ Traps s 0x01 s.pc (cword (.kclr d a 0x022)) (exec (.kclr d a 0x022) s))
    ∧ (hasNat kregNumbers k.toNat = false →
      Traps s 0x01 s.pc (cword (.kread d k)) (exec (.kread d k) s)
        ∧ Traps s 0x01 s.pc (cword (.kwrite a k)) (exec (.kwrite a k) s)
        ∧ Traps s 0x01 s.pc (cword (.kset d a k)) (exec (.kset d a k) s)
        ∧ Traps s 0x01 s.pc (cword (.kclr d a k)) (exec (.kclr d a k) s))

/-! ### The integer family -/

/-- Every integer form writes its result to x[d] and changes nothing else but the pc (R274, R309-R313): a write to x0 is
ignored. Shift amounts are bits [5:0]; a zero divisor gives all ones and the dividend; no form raises an exception. iclz
counts the zero bits above the highest one bit, 64 for 0; ipop counts the one bits. With an immediate iadd sign-extends, the
bitwise forms zero-extend, a shift takes six bits; imovk replaces one chunk and keeps the other bits. -/
def Obligations.IntegerForms : Prop :=
  (∀ (s : State) (d a b : XReg),
    WritesX s d (s.xr a + s.xr b) (exec (.iadd d a b) s)
    ∧ WritesX s d (s.xr a - s.xr b) (exec (.isub d a b) s)
    ∧ WritesX s d (s.xr a &&& s.xr b) (exec (.iand d a b) s)
    ∧ WritesX s d (s.xr a ||| s.xr b) (exec (.ior d a b) s)
    ∧ WritesX s d (s.xr a ^^^ s.xr b) (exec (.ixor d a b) s)
    ∧ WritesX s d (s.xr a <<< ((s.xr b).toNat % 64)) (exec (.ishl d a b) s)
    ∧ WritesX s d (s.xr a >>> ((s.xr b).toNat % 64)) (exec (.ishr d a b) s)
    ∧ WritesX s d ((s.xr a).sshiftRight ((s.xr b).toNat % 64)) (exec (.isar d a b) s)
    ∧ WritesX s d (s.xr a * s.xr b) (exec (.imul d a b) s)
    ∧ WritesX s d (BitVec.ofInt 64 ((s.xr a).toInt * (s.xr b).toInt / 2 ^ 64)) (exec (.imulh d a b false) s)
    ∧ WritesX s d (BitVec.ofNat 64 ((s.xr a).toNat * (s.xr b).toNat / 2 ^ 64)) (exec (.imulh d a b true) s)
    ∧ WritesX s d (if s.xr b = 0 then 0xFFFFFFFFFFFFFFFF else BitVec.ofInt 64 (Int.tdiv (s.xr a).toInt (s.xr b).toInt))
        (exec (.idiv d a b false) s)
    ∧ WritesX s d (if s.xr b = 0 then 0xFFFFFFFFFFFFFFFF else BitVec.ofNat 64 ((s.xr a).toNat / (s.xr b).toNat))
        (exec (.idiv d a b true) s)
    ∧ WritesX s d (if s.xr b = 0 then s.xr a else BitVec.ofInt 64 (Int.tmod (s.xr a).toInt (s.xr b).toInt))
        (exec (.irem d a b false) s)
    ∧ WritesX s d (if s.xr b = 0 then s.xr a else BitVec.ofNat 64 ((s.xr a).toNat % (s.xr b).toNat))
        (exec (.irem d a b true) s)
    ∧ WritesX s d (if (s.xr b).toInt < (s.xr a).toInt then s.xr b else s.xr a) (exec (.imin d a b false) s)
    ∧ WritesX s d (if (s.xr b).toNat < (s.xr a).toNat then s.xr b else s.xr a) (exec (.imin d a b true) s)
    ∧ WritesX s d (if (s.xr a).toInt < (s.xr b).toInt then s.xr b else s.xr a) (exec (.imax d a b false) s)
    ∧ WritesX s d (if (s.xr a).toNat < (s.xr b).toNat then s.xr b else s.xr a) (exec (.imax d a b true) s)
    ∧ (∃ n : Nat, n ≤ 64 ∧ (∀ i, 64 - n ≤ i → (s.xr a).getLsbD i = false) ∧ (n < 64 → (s.xr a).getLsbD (63 - n) = true)
      ∧ WritesX s d (BitVec.ofNat 64 n) (exec (.iclz d a) s))
    ∧ WritesX s d (BitVec.ofNat 64 ((List.range 64).filter fun i => (s.xr a).getLsbD i).length) (exec (.ipop d a) s))
  ∧ (∀ (s : State) (d a : XReg) (i : BitVec 16) (n : BitVec 6) (p : BitVec 2) (o : BitVec 21),
    WritesX s d (s.xr a + i.signExtend 64) (exec (.iaddImm d a i) s)
    ∧ WritesX s d (s.xr a &&& i.setWidth 64) (exec (.iandImm d a i) s)
    ∧ WritesX s d (s.xr a ||| i.setWidth 64) (exec (.iorImm d a i) s)
    ∧ WritesX s d (s.xr a ^^^ i.setWidth 64) (exec (.ixorImm d a i) s)
    ∧ WritesX s d (s.xr a <<< n.toNat) (exec (.ishlImm d a n) s)
    ∧ WritesX s d (s.xr a >>> n.toNat) (exec (.ishrImm d a n) s)
    ∧ WritesX s d ((s.xr a).sshiftRight n.toNat) (exec (.isarImm d a n) s)
    ∧ WritesX s d (i.setWidth 64 <<< (16 * p.toNat)) (exec (.imovz d p i) s)
    ∧ (∃ v, WritesX s d v (exec (.imovk d p i) s) ∧
        ∀ k, k < 64 → v.getLsbD k = if k / 16 = p.toNat then i.getLsbD (k % 16) else (s.xr d).getLsbD k)
    ∧ WritesX s d (s.pc + 4 * o.signExtend 64) (exec (.ipcrel d o) s))
  ∧ decodeC 0x054A3801 = .ok (.isub 10 10 7) ∧ decodeC 0x04221909 = .ok (.imulh 1 2 3 true)
  ∧ decodeC 0x04853410 = .ok (.iset 4 5 6 .ltu)

/-- iset and bcc test Cond (Table 20-1, R299, R309, R311): iset writes 1 or 0, bcc goes to pc + 4 × Sext(offset, 13) or to
the next word. With an immediate the sign-extended value is compared, as unsigned for ltu and geu. jmp and jr (R303) go to
their target. -/
def Obligations.ConditionsAndJumps : Prop :=
  ∀ (s : State) (d a b : XReg) (c : Cond) (i : BitVec 13) (o : BitVec 26),
    let cond (u v : Word) : Prop := match c with
      | .eq => u = v
      | .ne => u ≠ v
      | .lt => u.toInt < v.toInt
      | .ge => v.toInt ≤ u.toInt
      | .ltu => u.toNat < v.toNat
      | .geu => v.toNat ≤ u.toNat
    (cond (s.xr a) (s.xr b) → WritesX s d 1 (exec (.iset d a b c) s)
      ∧ GoesTo s (s.pc + 4 * i.signExtend 64) (exec (.bcc a b c i) s))
    ∧ (¬ cond (s.xr a) (s.xr b) → WritesX s d 0 (exec (.iset d a b c) s)
      ∧ GoesTo s (s.pc + 4) (exec (.bcc a b c i) s))
    ∧ (cond (s.xr a) (i.signExtend 64) → WritesX s d 1 (exec (.isetImm d a c i) s))
    ∧ (¬ cond (s.xr a) (i.signExtend 64) → WritesX s d 0 (exec (.isetImm d a c i) s))
    ∧ GoesTo s (s.pc + 4 * o.signExtend 64) (exec (.jmp o) s)
    ∧ ((s.xr a).toNat % 4 = 0 → GoesTo s (s.xr a) (exec (.jr a) s))

/-! ### Memory and translation -/

/-- A word and its bytes, the lowest byte first (R1). Bytes that perform are read back where they went and nowhere else, lose
their poison there (R206), and wake the armed monitors on the lines they touch, of the harts that `woken` names (R184): a byte
of another node, or of the storage window, leaves as a transaction (R217, R237). Over a host link that has been lost nothing is
written, and the hart has a machine check of SRC 7 pending (R238). That bytes behind a storage write which has not been
accepted leave as a transaction too is the model's choice (log 121). -/
def Obligations.BytesPerformed : Prop :=
  ((∀ (v : Word) (n i : Nat), n ≤ 8 → (ofBytes 64 (bytesOf v n)).getLsbD i = (decide (i < 8 * n) && v.getLsbD i))
    ∧ ∀ (bs : List Byte) (i : Nat), i < 64 → (ofBytes 64 bs).getLsbD i = (bs.getD (i / 8) 0).getLsbD (i % 8))
  ∧ (∀ (s : State) (h pa : Nat) (bs : List Byte) (woken : Nat → Bool), bs ≠ [] →
    let t := s.perform h pa bs woken
    Performs s t h pa bs
      ∧ (s.paKind pa ≠ .hostLost →
        (∀ j, t.poisonAt j = (s.poisonAt j && !decide (s.cell pa ≤ j ∧ j < s.cell pa + bs.length)))
          ∧ (∀ j, { t.hartAt j with monHit := (s.hartAt j).monHit } = s.hartAt j)
          ∧ (∀ j line, (Map.find s.harts j).isSome = true → (s.hartAt j).monitor = some line → woken j = true →
              s.cell pa / 64 ≤ line → line ≤ (s.cell pa + bs.length - 1) / 64 → (t.hartAt j).monHit = true))
      ∧ (s.paKind pa = .hostLost → (s.hartAt h).live = true →
        Checked (s.hartAt h) (t.hartAt h) 7 pa 0 ∧ ∀ j, j ≠ h → t.hartAt j = s.hartAt j)
      ∧ t.cores = s.cores ∧ t.towers = s.towers ∧ t.cur = s.cur ∧ t.tick = s.tick)

/-- What a translation may come to (R15-R17, R154, R188, R189): the offset in the 4 KiB page is kept; an address in the
scratchpad window reaches the scratchpad of the core and one beyond its 3 MiB is an access fault, which names the virtual
address, but the physical one with katp.MODE = 0 and for a vector access (Table 10-4, R290); with katp.MODE = 0 sup and fw
reach the physical address itself and app page-faults. With MODE 10 an address that is not canonical page-faults, and where no
TLB entry serves, the walk ends in its fault, or in a leaf: one that does not permit the access page-faults; one that does
gives its page and PBMT, A and D having been set (R190), and an address that nothing decodes is an access fault. A store over a
host link that has been lost is no fault, and a scalar atomic over one is an access fault (R238): for the atomic that is the
model's choice (log 83). A translation changes no register: harts are as before but for the wake-ups of monitors, and of the
cores only the first-level TLBs change (R189-R191). -/
def Obligations.Translation : Prop :=
  ((∀ (s s1 : State) (v : View) (a : Acc) (va : Word) (ok : PaKind → Bool) (x : Xlat),
      s.translate v a va ok = .ok (x, s1) → x.pa % 0x1000 = va.toNat % 0x1000)
    ∧ (∀ (s : State) (v : View) (a : Acc) (va : Word) (ok : PaKind → Bool) (o : Nat),
        windowOff v.kspb va = some o →
        let pa := 0xFFF * 2 ^ 44 + 0x80000000000 + v.core * 0x400000 + o
        s.translate v a va ok =
          if s.enabled v.core = true ∧ o < 0x300000 then .ok ({ pa := pa, pbmt := 0, page := none }, s)
          else .error (.access (if v.vec = true ∨ fld v.katp 60 4 = 0 then BitVec.ofNat 64 pa else va)))
    ∧ (∀ (s : State) (v : View) (a : Acc) (va : Word) (ok : PaKind → Bool),
        windowOff v.kspb va = none → fld v.katp 60 4 = 0 → v.mode ≠ 0 → ok (s.paKind (va.toNat % 2 ^ 56)) = true →
        s.translate v a va ok = .ok ({ pa := va.toNat % 2 ^ 56, pbmt := 0, page := none }, s))
    ∧ (∀ (s : State) (v : View) (a : Acc) (va : Word) (ok : PaKind → Bool),
        windowOff v.kspb va = none → fld v.katp 60 4 = 0 → v.mode ≠ 0 → ok (s.paKind (va.toNat % 2 ^ 56)) = false →
        (s.paKind (va.toNat % 2 ^ 56) = .hostLost → ok .host = false ∨ a = .load ∨ a = .fetch ∨ (a = .amo ∧ v.vec = false)) →
        s.translate v a va ok = .error (.access (BitVec.ofNat 64 (va.toNat % 2 ^ 56))))
    ∧ (∀ (s : State) (v : View) (va : Word) (ok : PaKind → Bool),
        windowOff v.kspb va = none → fld v.katp 60 4 = 0 → v.mode ≠ 0 → ok .host = true →
        s.paKind (va.toNat % 2 ^ 56) = .hostLost →
        s.translate v .store va ok = .ok ({ pa := va.toNat % 2 ^ 56, pbmt := 0, page := none }, s))
    ∧ (∀ (s : State) (v : View) (a : Acc) (va : Word) (ok : PaKind → Bool),
        windowOff v.kspb va = none → fld v.katp 60 4 = 0 → v.mode = 0 → s.translate v a va ok = .error .page)
    ∧ (∀ (s : State) (v : View) (a : Acc) (va : Word) (ok : PaKind → Bool),
        windowOff v.kspb va = none → fld v.katp 60 4 ≠ 0 → (∃ i, 57 ≤ i ∧ i < 64 ∧ va.getLsbD i ≠ va.getLsbD 56) →
        s.translate v a va ok = .error .page)
    ∧ ∀ (s : State) (v : View) (a : Acc) (va : Word) (ok : PaKind → Bool) (r : Except AccErr (Word × Nat × Nat)),
        let writes := a = .store ∨ a = .amo
        let tower := s.towerAt (s.towerOf v.core)
        windowOff v.kspb va = none → fld v.katp 60 4 ≠ 0 → (∀ i, 57 ≤ i → i < 64 → va.getLsbD i = va.getLsbD 56) →
        (∀ e ∈ s.l1Tlb v a ++ tower.tlb, e.hits va (BitVec.ofNat 16 (fld v.katp 44 16)) = true →
          writes ∧ e.pte.getLsbD 7 = false) →
        WalkEnds s va 5 (fld v.katp 0 44) r →
        (∀ f, r = .error f → s.translate v a va ok = .error f)
        ∧ ∀ pte level addr, r = .ok (pte, level, addr) →
          let bit (i : Nat) : Prop := pte.getLsbD i = true
          let may := (match a with
            | .fetch => bit 3
            | .load => bit 1
            | .store => bit 2
            | .amo => bit 1 ∧ bit 2) ∧ if v.mode = 0 then bit 4 else ¬ bit 4 ∨ (v.sum = true ∧ a ≠ .fetch)
          let pa := fld pte 10 44 * 0x1000 + va.toNat % (0x1000 * 512 ^ level)
          let marked := bit 6 ∧ (writes → bit 7)
          (¬ may → s.translate v a va ok = .error .page)
          ∧ (may → ok (s.paKind pa) = false → s.paKind pa ≠ .hostLost → s.translate v a va ok = .error (.access va))
          ∧ (may → ok (s.paKind pa) = true → tst tower.kheat 63 = false →
            ∃ x u, s.translate v a va ok = .ok (x, u) ∧ x.pa = pa ∧ x.pbmt = fld pte 61 2
              ∧ (marked → u.part = s.part)
              ∧ (¬ marked → Performs s u s.cur addr (bytesOf (pte ||| if writes then 0xC0 else 0x40) 8))))
  ∧ (∀ (s s1 : State) (v : View) (a : Acc) (va : Word) (ok : PaKind → Bool) (x : Xlat),
    s.translate v a va ok = .ok (x, s1) →
    HartsKept s s1 ∧ (∀ h, (s1.hartAt h).x = (s.hartAt h).x ∧ (s1.hartAt h).pc = (s.hartAt h).pc)
      ∧ ∀ c, { s1.coreAt c with itlb := (s.coreAt c).itlb, dtlb := (s.coreAt c).dtlb, helmTlb := (s.coreAt c).helmTlb }
          = s.coreAt c)

/-! ### Loads and stores of the C-stream -/

/-- ld and ldacq from memory (R317, R318): an aligned access that translates and meets no poison writes the bytes read, the
lowest first, to x[d], sign- or zero-extended by its width, and goes on; every byte of memory is unchanged. With d = x0 the
access still performs. An ld whose translation fails raises load page fault with its address, or access fault (R189, R198).
Poison leaves x[d] as it is: the next word follows, and a machine check is pending with NEXT as its ktval (R207, R208, Table
11-1). A load from another node waits while its read transaction is under way, the thread's only one (R217). A load of eight
bytes reaches a k-register window, where it reads what kread does and an unknown register is an illegal instruction (R17), and
an engine window (R234): the port states, the host link, the storage ranges, the management event, and the power register,
whose TJ and WATTS are measured within their bounds (R239; log 15). What a register of another node reads is free (log 105). -/
def Obligations.LoadsRead : Prop :=
  ∀ (s s1 : State) (d a : XReg) (x : Xlat),
    (∀ (wd : LdWidth) (o : BitVec 13),
      let va := s.xr a + o.signExtend 64
      let v : Word := ofBytes 64 (s1.scalarBytes (coreOf s.cur) (s1.cell x.pa) (ldBytes wd))
      va.toNat % ldBytes wd = 0 →
      s.translate (s.scalarView s.cur) .load va (scalarOk s.hart.pm (ldBytes wd)) = .ok (x, s1) →
      (s1.paKind x.pa).isMem = true → ((s1.paKind x.pa).isRemote = false ∨ s.hart.answered = true) →
      s1.scalarPoison (coreOf s.cur) (s1.cell x.pa) (ldBytes wd) = false →
      WritesX s1 d (match wd with
        | .b => (v.setWidth 8).signExtend 64
        | .h => (v.setWidth 16).signExtend 64
        | .w => (v.setWidth 32).signExtend 64
        | .d => v
        | .bu => (v.setWidth 8).setWidth 64
        | .hu => (v.setWidth 16).setWidth 64
        | .wu => (v.setWidth 32).setWidth 64) (exec (.ld d a wd o) s))
    ∧ (∀ (dbl : Bool) (sc : Scope),
      let n := if dbl then 8 else 4
      let v : Word := ofBytes 64 (s1.scalarBytes (coreOf s.cur) (s1.cell x.pa) n)
      (s.xr a).toNat % n = 0 →
      s.translate (s.scalarView s.cur) .load (s.xr a) PaKind.isMem = .ok (x, s1) →
      (s1.paKind x.pa).isMem = true → ((s1.paKind x.pa).isRemote = false ∨ s.hart.answered = true) →
      s1.scalarPoison (coreOf s.cur) (s1.cell x.pa) n = false →
      WritesX s1 d (if dbl then v else (v.setWidth 32).signExtend 64) (exec (.ldacq d a dbl sc) s))
    ∧ (∀ (wd : LdWidth) (o : BitVec 13),
      let va := s.xr a + o.signExtend 64
      va.toNat % ldBytes wd = 0 →
      (s.translate (s.scalarView s.cur) .load va (scalarOk s.hart.pm (ldBytes wd)) = .error .page →
        Traps s 0x04 s.pc va (exec (.ld d a wd o) s))
      ∧ ∀ tval, s.translate (s.scalarView s.cur) .load va (scalarOk s.hart.pm (ldBytes wd)) = .error (.access tval) →
        Traps s 0x07 s.pc tval (exec (.ld d a wd o) s))
    ∧ (∀ (wd : LdWidth) (o : BitVec 13),
      let va := s.xr a + o.signExtend 64
      va.toNat % ldBytes wd = 0 →
      s.translate (s.scalarView s.cur) .load va (scalarOk s.hart.pm (ldBytes wd)) = .ok (x, s1) →
      ((s1.paKind x.pa).isMem = true → ((s1.paKind x.pa).isRemote = false ∨ s.hart.answered = true) →
        s1.scalarPoison (coreOf s.cur) (s1.cell x.pa) (ldBytes wd) = true →
        ∃ t, exec (.ld d a wd o) s = .next t ∧ OnlyHart s1 t
          ∧ Checked { s1.hart with pc := s.pc + 4, wait := none, answered := false } t.hart 0 x.pa (s.hart.next.setWidth 64))
      ∧ ((s1.paKind x.pa).isRemote = true → s.hart.answered = false →
        ∃ t, exec (.ld d a wd o) s = .next t ∧ t.pc = s.pc ∧ SameX s1 t ∧ t.hart.wait = some .remote
          ∧ t.part.trans = if s1.asking s.cur .scalar x.pa = true then s1.part.trans
              else s1.part.trans.filter (fun u => !u.reads s.cur .scalar)
                ++ [{ id := s1.part.nextTid, hart := s.cur, write := false, pa := x.pa, data := []
                      addr := if fld s.hart.katp 60 4 = 0 then BitVec.ofNat 64 x.pa else va }]))
    ∧ ∀ o : BitVec 13,
      let va := s.xr a + o.signExtend 64
      va.toNat % 8 = 0 →
      s.translate (s.scalarView s.cur) .load va (scalarOk s.hart.pm 8) = .ok (x, s1) →
      (∀ h off, s1.paKind x.pa = .kwin h off →
        (hasNat kregNumbers (off / 8) = true → WritesX s1 d (s1.kread h s.hart.pm (off / 8)) (exec (.ld d a .d o) s))
        ∧ (hasNat kregNumbers (off / 8) = false → Traps s 0x01 s.pc (cword (.ld d a .d o)) (exec (.ld d a .d o) s)))
      ∧ (∀ off, s1.paKind x.pa = .engine off → ∃ v, WritesX s1 d v (exec (.ld d a .d o) s)
        ∧ (off < 0x400 → v = Map.get 0 s1.part.portst (off / 8)) ∧ (off = 0x1000 → v = s1.part.hlst)
        ∧ (0x1100 ≤ off → off < 0x1180 → v = Map.get 0 (if off % 16 = 0 then s1.part.srb else s1.part.srl)
            ((off - 0x1100) / 16))
        ∧ (off = 0x1200 → fld v 40 8 ≤ 100 ∧ fld v 16 16 ≤ fld s1.part.pwr 0 16
          ∧ ∀ i, i < 16 ∨ 32 ≤ i ∧ i < 40 ∨ 48 ≤ i → tst v i = tst s1.part.pwr i)
        ∧ (off = 0x1300 → v = s1.part.mev))
      ∧ (∀ n, s1.paKind x.pa = .remoteReg n → s.hart.answered = true →
        s1.scalarPoison (coreOf s.cur) (s1.cell x.pa) 8 = false → ∃ v, WritesX s1 d v (exec (.ld d a .d o) s))

/-- st, and strel at core scope, to memory (R148, R354, R356): the low bytes of the register go to the junction buffer of the
core at the address translated, where the core's threads read them; every byte outside them reads as before. On an IO page
their line drains at once, after the oldest of a full buffer (R148, R152). With a junction buffer full of other lines the
instruction stalls. strel at dev or sys scope first drains the junction buffer of its core, then performs at memory (R182); at
sys it waits while an earlier write is kept for another node or for the storage of the host (R217, R237), whoever wrote it (log
28). A store over a host link that is down is lost, and its hart has a machine check of SRC 7 pending (R238): at once, and with
that PA, by the model's choice (log 83). -/
def Obligations.StoresWrite : Prop :=
  ∀ (s s1 : State) (a b : XReg) (x : Xlat),
    let plain := (∀ h off, s1.paKind x.pa ≠ .kwin h off) ∧ (∀ off, s1.paKind x.pa ≠ .engine off) ∧ s1.paKind x.pa ≠ .hostLost
    let lost (o : Out) : Prop := ∃ t, o = .next t ∧ OnlyHart s1 t
      ∧ Checked { s1.hart with pc := s.pc + 4, wait := none, answered := false } t.hart 7 x.pa 0
    let stored (bs : List Byte) (t : State) : Prop :=
      if x.pbmt = 2 then ∃ u, HartsKept s1 u ∧ SameX s1 u ∧ u.pc = s.pc ∧ StoresScalar s1 u (s1.cell x.pa) bs
        ∧ t = (u.drainOwn (coreOf s.cur) (s1.cell x.pa / 64)).advance
      else HartsKept s1 t ∧ SameX s1 t ∧ t.pc = s.pc + 4 ∧ StoresScalar s1 t (s1.cell x.pa) bs
    (∀ (wd : StWidth) (o : BitVec 13),
      let va := s.xr a + o.signExtend 64
      va.toNat % stBytes wd = 0 →
      s.translate (s.scalarView s.cur) .store va (scalarOk s.hart.pm (stBytes wd)) = .ok (x, s1) →
      (s1.paKind x.pa = .hostLost → s1.hart.live = true → lost (exec (.st b a wd o) s))
      ∧ (plain → junctionFull (s1.junction (coreOf s.cur)) (s1.cell x.pa / 64) = false →
        ∃ t, exec (.st b a wd o) s = .next t ∧ stored (bytesOf (s.xr b) (stBytes wd)) t)
      ∧ (plain → junctionFull (s1.junction (coreOf s.cur)) (s1.cell x.pa / 64) = true →
        WaitsIn s1 .store (exec (.st b a wd o) s)))
    ∧ (∀ dbl : Bool,
      let n := if dbl then 8 else 4
      (s.xr a).toNat % n = 0 →
      s.translate (s.scalarView s.cur) .store (s.xr a) PaKind.isMem = .ok (x, s1) →
      (s1.paKind x.pa = .hostLost → s1.hart.live = true → lost (exec (.strel a b dbl .core) s))
      ∧ (plain → junctionFull (s1.junction (coreOf s.cur)) (s1.cell x.pa / 64) = false →
        ∃ t, exec (.strel a b dbl .core) s = .next t ∧ stored (bytesOf (s.xr b) n) t)
      ∧ (plain → junctionFull (s1.junction (coreOf s.cur)) (s1.cell x.pa / 64) = true →
        WaitsIn s1 .store (exec (.strel a b dbl .core) s)))
    ∧ (∀ (dbl : Bool) (sc : Scope),
      let n := if dbl then 8 else 4
      sc ≠ .core → (s.xr a).toNat % n = 0 →
      s.translate (s.scalarView s.cur) .store (s.xr a) PaKind.isMem = .ok (x, s1) →
      let s2 := s1.drainAll (coreOf s.cur)
      ((sc = .dev ∨ ∀ tr ∈ s2.part.trans, tr.write = false) →
        ∃ t, exec (.strel a b dbl sc) s = .next t ∧ t.pc = s.pc + 4 ∧ SameX s1 t ∧ (Linked s1 → HartsKept s1 t)
          ∧ t.junction (coreOf s.cur) = [] ∧ Performs s2 t s.cur x.pa (bytesOf (s.xr b) n))
      ∧ ((sc = .sys ∧ ∃ tr ∈ s2.part.trans, tr.write = true) →
        ∃ t, exec (.strel a b dbl sc) s = .next t ∧ t.pc = s.pc ∧ SameX s1 t ∧ t.hart.wait = some .release
          ∧ t.part = s2.part ∧ t.cores = s2.cores))

/-- A line of a junction buffer drains to its home slice (R148, R170): its bytes are in memory, every other byte of memory is
unchanged, and the other lines stay. The entry is a local one, with each offset listed once; of a full buffer it is the oldest
line that drains. Its bytes that were storage writes when they were stored are kept until the host has accepted them, and every
agent reads them from then on (R234, R237). The fences of the C-stream (R179-R181, R306). fsv and fvv do not stall, and fsv
drains the junction buffer, line after line; fvs and fall complete once the blocks dispatched have ended, and stall until then;
fall at dev and sys drains the junction buffer, and at sys waits for the earlier writes to other nodes and to the storage of
the host, whoever wrote them (log 28). fall at core scope leaves the lines in the junction buffer, and the hart's next block
waits for them to drain: the model's choice (log 123). A stalled fence completes once what it waits for has come. -/
def Obligations.DrainsAndFences : Prop :=
  (∀ (s : State) (core n : Nat) (l : JLine),
    (s.junction core)[if 64 ≤ (s.junction core).length then 0 else n]? = some l →
    (s.junction core).find? (fun m => m.line == l.line) = some l →
    l.line < 2 ^ 38 → (l.bytes.map fun e => e.1).Nodup → (∀ e, e ∈ l.bytes → e.1 < 64) → Linked s →
    ∃ t, exec (.junctionLineDrain core n) s = .next t
      ∧ ((∀ e, e ∈ l.bytes → Map.find l.storage e.1 = none) → (∀ u, u ∈ s.part.trans → u.storage = false) → ∀ j,
          t.byteAt j = if j / 64 = l.line then (Map.find l.bytes (j % 64)).getD (s.byteAt j) else s.byteAt j)
      ∧ ((∀ e, e ∈ l.bytes → Map.find l.storage e.1 ≠ none) → 0xC0000000000 / 64 ≤ l.line → ∀ j, t.byteAt j = s.byteAt j
          ∧ t.devByte j = if j / 64 = l.line then (Map.find l.bytes (j % 64)).getD (s.devByte j) else s.devByte j)
      ∧ ((∀ u, u ∈ s.part.trans → u.write = false ∧ u.storage = false) → 0xC0000000000 / 64 ≤ l.line → ∀ j,
          (t.byteAt j = if j / 64 = l.line ∧ Map.find l.storage (j % 64) = none
            then (Map.find l.bytes (j % 64)).getD (s.byteAt j) else s.byteAt j)
          ∧ t.devByte j = if j / 64 = l.line then (Map.find l.bytes (j % 64)).getD (s.devByte j) else s.devByte j)
      ∧ t.junction core = (s.junction core).filter (fun m => m.line != l.line)
      ∧ (∀ c, c ≠ core → t.coreAt c = s.coreAt c) ∧ ∀ h, (t.hartAt h).x = (s.hartAt h).x ∧ (t.hartAt h).pc = (s.hartAt h).pc)
  ∧ (∀ s : State,
    let drained (t : State) : Prop :=
      t.junction (coreOf s.cur) = [] ∧ t.part = (s.drainAll (coreOf s.cur)).part ∧ t.cores = (s.drainAll (coreOf s.cur)).cores
    GoesTo s (s.pc + 4) (exec .fvv s)
    ∧ (∃ t, exec .fsv s = .next t ∧ t.pc = s.pc + 4 ∧ SameX s t ∧ drained t ∧ (Linked s → HartsKept s t))
    ∧ (s.hart.head = s.hart.next → GoesTo s (s.pc + 4) (exec .fvs s)
        ∧ HartBecomes s (fun v => { v with owed := (s.junction (coreOf s.cur)).map fun l => l.line }) (exec (.fall .core) s))
    ∧ (∀ l, l ∈ s.junction (coreOf s.cur) → l.line ∈ s.hart.owed → s.canStart s.cur = false)
    ∧ (s.hart.head = s.hart.next → ∃ t, exec (.fall .dev) s = .next t ∧ t.pc = s.pc + 4 ∧ SameX s t ∧ drained t
        ∧ (Linked s → HartsKept s t))
    ∧ (s.hart.head = s.hart.next → (∀ tr ∈ (s.drainAll (coreOf s.cur)).part.trans, tr.write = false) →
        ∃ t, exec (.fall .sys) s = .next t ∧ t.pc = s.pc + 4 ∧ SameX s t ∧ drained t ∧ (Linked s → HartsKept s t))
    ∧ (s.hart.head = s.hart.next → (∃ tr ∈ (s.drainAll (coreOf s.cur)).part.trans, tr.write = true) →
        ∃ t, exec (.fall .sys) s = .next t ∧ t.pc = s.pc ∧ SameX s t ∧ drained t ∧ t.hart.wait = some .fence)
    ∧ (s.hart.head ≠ s.hart.next → WaitsIn s .fence (exec .fvs s) ∧ ∀ sc, WaitsIn s .fence (exec (.fall sc) s))
    ∧ (s.waitingIn .fence = some .fvs → s.hart.head = s.hart.next → GoesTo s (s.pc + 4) (exec .fenceStallEnd s))
    ∧ (∀ sc, s.waitingIn .fence = some (.fall sc) → ∃ t, exec .fenceStallEnd s = .next t ∧ exec (.fall sc) s = .next t))

/-- The operations of amo (R294). amo and acas (R294, R295): x[d] takes the old value, sign-extended; the new value is stored in
the same act, in the junction buffer for HBM at core scope and else, after a release order's drain or that of its own line
(R148), at memory. On a PMA page
of the host window the scope is sys (R295). A release order at sys waits while an earlier write is kept (R182, R217, R237;
log 28). A failed acas stores nothing. A misaligned address raises misaligned. Poison is consumed as by a load (Table 11-1); an
atomic of another node waits for its data first (R217; log 104). -/
def Obligations.Atomics : Prop :=
  (∀ (w : Nat) (old src : BitVec w),
    amoOp .add old src = old + src ∧ amoOp .and old src = old &&& src ∧ amoOp .or old src = old ||| src
      ∧ amoOp .xor old src = old ^^^ src ∧ amoOp .swap old src = src
      ∧ (amoOp .min old src).toInt = min old.toInt src.toInt ∧ (amoOp .max old src).toInt = max old.toInt src.toInt
      ∧ (amoOp .minu old src).toNat = min old.toNat src.toNat ∧ (amoOp .maxu old src).toNat = max old.toNat src.toNat)
  ∧ (∀ (s s1 : State) (d a b : XReg) (dbl : Bool) (o : MemOrd) (sc : Scope) (x : Xlat),
    let n := if dbl then 8 else 4
    let k := s1.cell x.pa
    let old : Word := ofBytes 64 (s1.scalarBytes (coreOf s.cur) k n)
    let sx (v : Word) : Word := if dbl then v else (v.setWidth 32).signExtend 64
    let src := s.xr b
    let scope := if x.pbmt = 0 ∧ s1.paKind x.pa = .host then .sys else sc
    let s2 := if (o = .rel ∨ o = .acqrel) ∧ scope ≠ .core then s1.drainAll (coreOf s.cur) else s1
    let clear := ¬ ((o = .rel ∨ o = .acqrel) ∧ scope = .sys ∧ ∃ tr ∈ s2.part.trans, tr.write = true)
    let here := (s1.paKind x.pa).isRemote = false ∨ s.hart.answered = true
    let ends (t : State) : Prop :=
      t.xr d = (if d = 0 then 0 else sx old) ∧ OtherX s1 t d ∧ t.pc = s.pc + 4 ∧ (Linked s1 → HartsKept s1 t)
    let inBuffer := sc = .core ∧ x.pbmt = 0 ∧ s1.paKind x.pa = .hbm
    let full := junctionFull (s1.junction (coreOf s.cur)) (k / 64) = true
    let ready := (inBuffer → ¬ full) ∧ (¬ inBuffer → clear)
    let writes (new : Word) (t : State) : Prop := ends t
      ∧ (inBuffer → StoresScalar s1 t k (bytesOf new n))
      ∧ (¬ inBuffer → Performs (s2.drainOwn (coreOf s.cur) (k / 64)) t s.cur x.pa (bytesOf new n))
    let blocked (i : Instr) : Prop :=
      (inBuffer → full → WaitsIn s1 .store (exec i s))
      ∧ (¬ inBuffer → ¬ clear → ∃ t, exec i s = .next t ∧ t.pc = s.pc ∧ SameX s1 t ∧ t.hart.wait = some .release
        ∧ t.part = s2.part ∧ t.cores = s2.cores)
    let stops (i : Instr) : Prop :=
      (here → s1.scalarPoison (coreOf s.cur) k n = true → ∃ t, exec i s = .next t ∧ OnlyHart s1 t
        ∧ Checked { s1.hart with pc := s.pc + 4, wait := none, answered := false } t.hart 0 x.pa (s.hart.next.setWidth 64))
      ∧ (¬ here → ∃ t, exec i s = .next t ∧ t.pc = s.pc ∧ SameX s1 t ∧ t.hart.wait = some .remote)
    ((s.xr a).toNat % n ≠ 0 → ∀ p, Traps s 0x03 s.pc (s.xr a) (exec (.amo d a b dbl o sc p) s)
      ∧ Traps s 0x03 s.pc (s.xr a) (exec (.acas d a b dbl o sc) s))
    ∧ ((s.xr a).toNat % n = 0 →
    s.translate (s.scalarView s.cur) .amo (s.xr a) PaKind.isMem = .ok (x, s1) →
    (∀ p, stops (.amo d a b dbl o sc p)) ∧ stops (.acas d a b dbl o sc)
    ∧ (here → s1.scalarPoison (coreOf s.cur) k n = false →
    (ready → ∀ p, ∃ t, exec (.amo d a b dbl o sc p) s = .next t ∧ writes
        (if dbl then amoOp p old src else (amoOp p (old.setWidth 32) (src.setWidth 32) : W32).setWidth 64) t)
    ∧ (ready → sx old = sx (s.xr d) → ∃ t, exec (.acas d a b dbl o sc) s = .next t ∧ writes src t)
    ∧ (∀ p, blocked (.amo d a b dbl o sc p)) ∧ (sx old = sx (s.xr d) → blocked (.acas d a b dbl o sc))
    ∧ (sx old ≠ sx (s.xr d) → WritesX s1 d (sx old) (exec (.acas d a b dbl o sc) s)))))

/-- mwatch reads eight bytes of HBM, the host window or another node and arms the monitor on their line, as one act; a
scratchpad of another node is an access fault, as its own is; mwait completes at once with no armed monitor, after a wake-up,
and with IE = 0 when an event is pending, and disarms it, and sleeps otherwise; a write to the line ends the sleep (R184, R334,
R335). -/
def Obligations.MonitorActs : Prop :=
  (∀ (s s1 : State) (d a : XReg) (x : Xlat), (s.xr a).toNat % 8 = 0 →
      s.translate (s.scalarView s.cur) .load (s.xr a) watchable = .ok (x, s1) → watchable (s1.paKind x.pa) = true →
      let o := x.pa % 2 ^ 44
      let spad := 0x80000000000 ≤ o ∧ o < 0x80010000000 ∧ o % 0x400000 < 0x300000
      (spad → Traps s 0x07 s.pc (if fld s.hart.katp 60 4 = 0 then BitVec.ofNat 64 x.pa else s.xr a) (exec (.mwatch d a) s))
      ∧ (¬ spad → ((s1.paKind x.pa).isRemote = false ∨ s.hart.answered = true) →
        s1.scalarPoison (coreOf s.cur) (s1.cell x.pa) 8 = false →
      ∃ t, exec (.mwatch d a) s = .next t
        ∧ t.xr d = (if d = 0 then 0 else ofBytes 64 (s1.scalarBytes (coreOf s.cur) (s1.cell x.pa) 8))
        ∧ OtherX s1 t d ∧ t.pc = s.pc + 4 ∧ t.hart.monitor = some (s1.cell x.pa / 64) ∧ t.hart.monHit = false
        ∧ OnlyHart s1 t))
  ∧ (∀ s : State, s.hart.monitor = none ∨ s.hart.monHit = true ∨ (s.hart.ie = false ∧ s.firstEvent s.cur ≠ none) →
      ∃ t, exec .mwait s = .next t ∧ t.pc = s.pc + 4 ∧ (∀ r, t.xr r = s.xr r) ∧ t.hart.monitor = none
        ∧ t.hart.monHit = false ∧ t.hart.wait = none ∧ OnlyHart s t)
  ∧ (∀ s : State, s.hart.monitor ≠ none → s.hart.monHit = false → ¬ (s.hart.ie = false ∧ s.firstEvent s.cur ≠ none) →
      WaitsIn s .mwait (exec .mwait s))
  ∧ (∀ s : State, s.hart.wait = some .mwait → s.hart.monHit = true →
      ∃ t, exec .mwaitWake s = .next t ∧ t.pc = s.pc + 4 ∧ (∀ r, t.xr r = s.xr r) ∧ t.hart.monitor = none
        ∧ t.hart.wait = none ∧ OnlyHart s t)

/-! ### Calls and returns -/

/-- call and callr push the address of the next word (R195, R303): onto the 32 on-chip entries, or, when these are full, after
the oldest has spilled to krasb − 8 (on an IO page its line drains at once, R152). A spill below krasl raises return overflow,
and nothing changes; one that fails to translate raises the fault of a store, with krasb as the ktval of an access fault at a
window or a hole of the address map (R16), and the address itself at a node that is not reached, beyond the scratchpad in its
window and at the scratchpad of a core that is not enabled (R15, R17, R154, R198). A spill whose walk meets poison has a
machine check pending, and the next word follows: its SRC 0 (log 97) and that (log 131) are the model's choice. ret (R195,
R337) goes to the newest on-chip entry; with none on chip, to the entry at krasb, which krasb then passes and SPILL loses; with
none at all it raises return underflow. A misaligned entry in memory leaves krasb and SPILL, as does a page or an access fault,
whose ktval is krasb. -/
def Obligations.ReturnStack : Prop :=
  let hole (s : State) (a tv : Word) : Word :=
    match s.translate (s.scalarView s.cur) .store a (fun _ => true) with
    | .ok (y, _) =>
      let o := y.pa % 2 ^ 44
      if (s.isLocal y.pa = true ∨ s.reaches (y.pa / 2 ^ 44) = true)
        ∧ ¬ (0x80000000000 ≤ o ∧ o < 0x80010000000 ∧ o % 0x400000 < 0x300000) then s.hart.krasb else tv
    | .error _ => tv
  (∀ (s : State) (a : XReg) (o : BitVec 26),
    let rel := s.pc + 4 * o.signExtend 64
    let pushed (target : Word) (out : Out) : Prop :=
      (s.hart.ras.length < 32 → ∃ t, out = .next t ∧ t.pc = target ∧ t.hart.ras = (s.pc + 4) :: s.hart.ras
          ∧ OnlyHart s t
          ∧ { t.hart with pc := s.hart.pc, ras := s.hart.ras, wait := s.hart.wait, answered := s.hart.answered } = s.hart)
      ∧ (32 ≤ s.hart.ras.length → s.hart.krasb.toNat < 8 + s.hart.krasl.toNat → Traps s 0x09 s.pc s.hart.krasb out)
      ∧ (∀ x s1, 32 ≤ s.hart.ras.length → 8 + s.hart.krasl.toNat ≤ s.hart.krasb.toNat → s.hart.krasb.toNat % 8 = 0 →
          s.translate (s.scalarView s.cur) .store (s.hart.krasb - 8) PaKind.isMem = .ok (x, s1) →
          s1.paKind x.pa ≠ .hostLost → junctionFull (s1.junction (coreOf s.cur)) (s1.cell x.pa / 64) = false →
          ∃ u t, out = .next t ∧ StoresScalar s1 u (s1.cell x.pa) (bytesOf (s.hart.ras.getLast?.getD 0) 8)
            ∧ t.part = (if x.pbmt = 2 then u.drainOwn (coreOf s.cur) (s1.cell x.pa / 64) else u).part
            ∧ t.cores = (if x.pbmt = 2 then u.drainOwn (coreOf s.cur) (s1.cell x.pa / 64) else u).cores
            ∧ t.pc = target ∧ t.hart.ras = (s.pc + 4) :: s.hart.ras.dropLast
            ∧ t.hart.krasb = s.hart.krasb - 8 ∧ t.hart.spill = s.hart.spill + 1 ∧ SameX s t)
      ∧ (∀ e, 32 ≤ s.hart.ras.length → 8 + s.hart.krasl.toNat ≤ s.hart.krasb.toNat →
          s.translate (s.scalarView s.cur) .store (s.hart.krasb - 8) PaKind.isMem = .error e →
          match e with
          | .page => Traps s 0x05 s.pc (s.hart.krasb - 8) out
          | .access tv => Traps s 0x07 s.pc (hole s (s.hart.krasb - 8) tv) out
          | .table tval => Traps s 0x07 s.pc tval out
          | .poison pa => ∃ t, out = .next t ∧ OnlyHart s t
            ∧ Checked { s.hart with pc := s.pc + 4, wait := none, answered := false } t.hart 0 pa (s.hart.next.setWidth 64))
    pushed rel (exec (.call o) s) ∧ ((s.xr a).toNat % 4 = 0 → pushed (s.xr a) (exec (.callr a) s)))
  ∧ ((∀ (s : State) (target : Word) (rest : List Word), s.hart.ras = target :: rest →
      ∃ t, exec .ret s = .next t ∧ t.pc = target ∧ t.hart.ras = rest ∧ OnlyHart s t
        ∧ { t.hart with pc := s.hart.pc, ras := s.hart.ras, wait := s.hart.wait, answered := s.hart.answered } = s.hart)
  ∧ (∀ s : State, s.hart.ras = [] → s.hart.spill = 0 → Traps s 0x08 s.pc 0 (exec .ret s))
  ∧ (∀ (s s1 : State) (x : Xlat), s.hart.ras = [] → s.hart.spill ≠ 0 →
      s.translate (s.scalarView s.cur) .load s.hart.krasb PaKind.isMem = .ok (x, s1) →
      ((s1.paKind x.pa).isRemote = false ∨ s.hart.answered = true) →
      s1.scalarPoison (coreOf s.cur) (s1.cell x.pa) 8 = false →
      let target : Word := ofBytes 64 (s1.scalarBytes (coreOf s.cur) (s1.cell x.pa) 8)
      (target.toNat % 4 = 0 → ∃ t, exec .ret s = .next t ∧ t.pc = target ∧ t.hart.krasb = s.hart.krasb + 8
          ∧ t.hart.spill = s.hart.spill - 1 ∧ t.hart.ras = [] ∧ SameX s t ∧ OnlyHart s1 t)
      ∧ (target.toNat % 4 ≠ 0 → Traps s1 0x03 s.pc target (exec .ret s)))
  ∧ (∀ s : State, s.hart.ras = [] → s.hart.spill ≠ 0 →
      s.translate (s.scalarView s.cur) .load s.hart.krasb PaKind.isMem = .error .page →
      Traps s 0x04 s.pc s.hart.krasb (exec .ret s))
  ∧ (∀ (s : State) (tval : Word), s.hart.ras = [] → s.hart.spill ≠ 0 →
      (s.translate (s.scalarView s.cur) .load s.hart.krasb PaKind.isMem = .error (.access tval)
        ∨ s.translate (s.scalarView s.cur) .load s.hart.krasb PaKind.isMem = .error (.table tval)) →
      Traps s 0x07 s.pc s.hart.krasb (exec .ret s)))

/-! ### Fences -/

/-- A stalled instruction executes again once what it waited for has come, and does what its own statement says: a store
once a line has drained (R148), vdisp (R46), rqget (R59), gwait and gbar (R27), cpy (R157), cpyw (R162), sprm (R132). A cpy or
sprm with poison in a block register that it reads consumes it then (R207), as it would at a turn of its context: how is the
model's choice (log 120). -/
def Obligations.StallEnds : Prop :=
  ∀ s : State,
    let again (i j : Instr) : Prop := ∃ t, exec i s = .next t ∧ exec j s = .next t
    let goesOn (i j : Instr) : Prop := ((∀ r ∈ bReads j, ¬ BPoisoned s r) → again i j) ∧ exec i s = s.guardB j (exec j s)
    (∀ i, s.waitingIn .store = some i →
      (match i with
        | .st _ _ _ _ | .strel _ _ _ _ | .amo _ _ _ _ _ _ _ | .acas _ _ _ _ _ _ | .call _ | .callr _ | .kwrite _ _
        | .kset _ _ _ | .kclr _ _ _ => True
        | _ => False) → again .storeStallEnd i)
    ∧ (∀ a n, s.waitingIn .vdisp = some (.vdisp a n) → again .vdispStallEnd (.vdisp a n))
    ∧ (∀ d, s.waitingIn .rqget = some (.rqget d) → again .rqgetWake (.rqget d))
    ∧ (∀ a, s.waitingIn .gwait = some (.gwait a) → again .gwaitWake (.gwait a))
    ∧ (∀ d, s.waitingIn .gbar = some (.gbar d) → again .gwaitWake (.gbar d))
    ∧ (∀ bd bs bl code cb sc mk, s.vwaitingIn .copySlot = some (.cpy bd bs bl code cb sc mk) →
        goesOn .cpyStallEnd (.cpy bd bs bl code cb sc mk))
    ∧ (∀ cb bst, s.vwaitingIn .cpyw = some (.cpyw cb bst) → again .cpywWake (.cpyw cb bst))
    ∧ (∀ ba n, s.vwaitingIn .primeDrain = some (.sprm ba n) → goesOn .sprmDrainEnd (.sprm ba n))

/-! ### Commands and replies -/

/-- vdisp (R43-R46): with slots, quota and room it enqueues the command of its operands and the hart's state, as one act, and
NEXT advances; a quota reached raises quota trap 0x0B, no slot or room stalls it, and a hart with no vector context raises
illegal instruction. The next block starts with b0-b7 from the command (R52), once no line that a fall.core has left is in the
junction buffer (log 123). A command whose on-chip entry holds an
uncorrectable error is consumed as its block starts, which kills the context: the model's choice (log 110). -/
def Obligations.VdispEnqueues : Prop :=
  (∀ (s : State) (a : XReg) (n : BitVec 6),
    let v := s.hart
    let c : Command :=
      { pos := v.next, nrep := n.toNat, mode := v.pm, spilt := false, sum := v.sumBit, hart := s.cur, addr := s.xr a
        args := [s.xr 10, s.xr 11, s.xr 12, s.xr 13, s.xr 14, s.xr 15, s.xr 16, s.xr 17], katp := v.katp }
    let within := v.quota = 0 ∨ (v.next - v.head).toNat + 1 ≤ v.quota.toNat
    let slots := n.toNat + v.replies.length + v.rsv ≤ 64
    (s.noContext = true → Traps s 0x01 s.pc (cword (.vdisp a n)) (exec (.vdisp a n) s))
    ∧ (s.noContext = false → (s.xr a).toNat % 64 = 0 →
      (¬ within → Traps s 0x0B s.pc (v.quota.setWidth 64) (exec (.vdisp a n) s))
      ∧ (within → slots → v.queue.length < 256 → v.spilt = 0 →
        HartBecomes s (fun y => { y with next := y.next + 1, rsv := y.rsv + n.toNat, queue := y.queue ++ [c] })
          (exec (.vdisp a n) s))
      ∧ (within → slots → (256 ≤ v.queue.length ∨ v.spilt ≠ 0) → tst v.ksqb 63 = true →
          v.spilt.toNat < 2 ^ (fld v.ksqb 0 6 - 7) →
        ∃ t, exec (.vdisp a n) s = .next t ∧ t.pc = s.pc + 4 ∧ t.hart.next = v.next + 1 ∧ t.hart.rsv = v.rsv + n.toNat
          ∧ t.hart.spilt = v.spilt + 1 ∧ t.hart.sqProd = v.sqProd + 1 ∧ t.hart.queue = v.queue
          ∧ Performs s t s.cur (squallSlot v.ksqb v.sqProd) ({ c with spilt := true } : Command).bytes)
      ∧ (within → ((64 < n.toNat + v.replies.length + v.rsv ∧ n ≠ 0)
          ∨ ((256 ≤ v.queue.length ∨ v.spilt ≠ 0)
            ∧ (tst v.ksqb 63 = false ∨ 2 ^ (fld v.ksqb 0 6 - 7) ≤ v.spilt.toNat))) → WaitsIn s .vdisp (exec (.vdisp a n) s))))
  ∧ (∀ (s : State) (c : Command) (rest : List Command), s.hart.queue = c :: rest → s.ctx.blk = none →
      s.ctx.stopped = false → s.hart.scalar = false → s.gangPending (coreOf s.cur) = false →
      s.retirePending (coreOf s.cur) = false → (s.coreAt (coreOf s.cur)).ccOut = false →
      (∀ l, l ∈ s.junction (coreOf s.cur) → l.line ∉ s.hart.owed) →
      (c.bad = false →
        ∃ t, exec .blockStart s = .next t ∧ OnlyHart s t ∧ { t.hart with ctx := s.hart.ctx, owed := s.hart.owed } = s.hart
        ∧ t.ctx.blk = some { cmd := c, pc := c.addr, sent := 0 } ∧ t.ctx.lc = [0, 0, 0, 0] ∧ t.ctx.loops = []
        ∧ (∀ r : BReg, t.ctx.br r = if r.toNat < 8 then c.args.getD r.toNat 0 else s.ctx.br r)
        ∧ (∀ r : BReg, BPoisoned t r ↔ 8 ≤ r.toNat ∧ BPoisoned s r)
        ∧ { t.ctx with blk := s.ctx.blk, b := s.ctx.b, bpoison := s.ctx.bpoison, lc := s.ctx.lc, loops := s.ctx.loops
                       step := s.ctx.step, issued := s.ctx.issued, recent := s.ctx.recent, acqM := s.ctx.acqM } = s.ctx)
      ∧ (c.bad = true → s.ctx.strip = none → (∀ q ∈ s.ctx.copies, q.outstanding = false) →
        ∃ t, exec .blockStart s = .next t ∧ t.hart.mcPend = some (c.pos.setWidth 64) ∧ fld t.hart.kmcheck 59 4 = 1
          ∧ tst t.hart.kmcheck 56 = true ∧ t.ctx.blk = none ∧ t.hart.queue = [] ∧ t.pc = s.pc ∧ SameX s t))

/-- A command that spilled comes back as it was (R48, Table 3-1): its 128 bytes hold every field, and the refill takes the
oldest ring entry to the end of the on-chip queue. An uncorrectable error in that entry raises a machine check of SRC 6 that
kills nothing, with the position of the command as its ktval, and every command stays (R49); a read that meets it again
raises no second one: the model's choice (log 109). -/
def Obligations.CommandsReturn : Prop :=
  (∀ c : Command, c.nrep < 64 → c.mode < 4 → c.hart < 65536 → c.args.length = 8 →
      c.bytes.length = 128 ∧ Command.ofBytes c.bytes c.bad = c)
  ∧ ∀ s : State, s.hart.spilt ≠ 0 → s.hart.queue.length < 256 →
      let pa := squallSlot s.hart.ksqb s.hart.sqCons
      (s.anyPoison (s.cell pa) 128 = false →
        ∃ t, exec .squallRefill s = .next t ∧ OnlyHart s t
          ∧ t.hart.queue = s.hart.queue ++ [Command.ofBytes (s.devBytes (s.cell pa) 128) false]
          ∧ t.hart.sqCons = s.hart.sqCons + 1 ∧ t.hart.spilt = s.hart.spilt - 1 ∧ t.pc = s.pc ∧ SameX s t)
      ∧ (s.anyPoison (s.cell pa) 128 = true → s.ctx.refillBad = false →
        ∃ t, exec .squallRefill s = .next t ∧ OnlyHart s t
          ∧ Checked { s.hart with ctx := { s.ctx with refillBad := true } } t.hart 6 pa
              ((s.hart.head + BitVec.ofNat 32 s.hart.queue.length).setWidth 64))
      ∧ (s.anyPoison (s.cell pa) 128 = true → s.ctx.refillBad = true → exec .squallRefill s = .next s)

/-- rqget takes the oldest reply, rqpoll counts the replies that wait, vsync waits for HEAD = NEXT, vqpos reads the queue
position (R58, R59, R338, R384): that it is HEAD at the very moment is the model's choice (log 95). A vsync that sleeps ends
once HEAD = NEXT. A reply with poison leaves the queue and x[d] unwritten, and a machine check becomes pending (R206, R207,
R208): the model's choice (log 31). -/
def Obligations.RepliesAndSync : Prop :=
  ∀ (s : State) (d : XReg),
    (∀ w rest, s.hart.replies = w :: rest →
      let left (t : State) : Prop := t.hart.replies = rest
        ∧ (∀ k, (Map.find t.hart.replyBad k).isSome = (Map.find s.hart.replyBad (k + 1)).isSome) ∧ t.pc = s.pc + 4 ∧ OnlyHart s t
      ((Map.find s.hart.replyBad 0).isSome = false →
        ∃ t, exec (.rqget d) s = .next t ∧ t.xr d = (if d = 0 then 0 else w) ∧ OtherX s t d ∧ left t
          ∧ { t.hart with x := s.hart.x, xpoison := s.hart.xpoison, pc := s.hart.pc, wait := s.hart.wait
                          answered := s.hart.answered, replies := s.hart.replies, replyBad := s.hart.replyBad } = s.hart)
      ∧ ((Map.find s.hart.replyBad 0).isSome = true →
        ∃ t, exec (.rqget d) s = .next t ∧ SameX s t ∧ left t ∧ t.hart.mcPend = some (s.hart.next.setWidth 64)
          ∧ fld t.hart.kmcheck 59 4 = 0 ∧ tst t.hart.kmcheck 56 = false))
    ∧ (s.hart.replies = [] → WaitsIn s .rqget (exec (.rqget d) s))
    ∧ WritesX s d (BitVec.ofNat 64 s.hart.replies.length) (exec (.rqpoll d) s)
    ∧ WritesX s d (BitVec.ofNat 64 (s.hart.next.toNat * 2 ^ 32 + s.hart.head.toNat)) (exec (.vqpos d) s)
    ∧ (s.hart.head = s.hart.next → GoesTo s (s.pc + 4) (exec .vsync s)
      ∧ (s.hart.wait = some .vsync → GoesTo s (s.pc + 4) (exec .vsyncWake s)))
    ∧ (s.hart.head ≠ s.hart.next → WaitsIn s .vsync (exec .vsync s))

/-! ### Harts and gangs -/

/-- hspawn (R22, R308): the lowest free context that qualifies becomes a hart in app mode at x[a] with x10 = x[b] and x[d]
takes its number; with none x[d] takes all ones. A gang's founder and its first member carry ING, NMEM 1 and the founder's GID,
and both entries of klpr pin GCL clusters (R23, R261). A further member joins its caller's gang: every member's NMEM rises to
the number of members, and the new one is pinned (R22). A context qualifies as R22 says: its core enabled, with a control core
that has not been retired (R213), not dark, not becalmed (R224) and allowed by SMASK, the context free, and for a gang its core
without a member and with room for GCL clusters beside the minimums of its other harts, as the founder's own core must have. A
hart outside any gang takes GCL, SMASK and kgbar of its caller, its JOIN, ING, NMEM, GID and PEND being 0. -/
def Obligations.HspawnStarts : Prop :=
  ∀ (s : State) (d a b : XReg), s.hart.live = true →
    let gang := tst s.hart.kgang 63 = true ∧ s.hart.gcl ≠ 0
    let room (c t : Nat) : Prop := s.hart.gcl ≤ s.clusterCount c
      ∧ (((List.range 4).filter fun u => u != t && (s.hartAt (4 * c + u)).live).map fun u =>
          fld (s.coreAt c).klpr (16 * u) 5).sum + s.hart.gcl ≤ s.clusterCount c
    (s.spawnsGang = true ↔ gang)
    ∧ (∀ h, h < 256 → (s.qualifies h = true ↔
        s.enabled (coreOf h) = true ∧ (s.coreAt (coreOf h)).ccOut = false ∧ s.dark (coreOf h) = false
        ∧ tst (s.coreAt (coreOf h)).kbecalm 63 = false ∧ tst s.hart.kgang (coreOf h / 2) = true ∧ (s.hartAt h).live = false
        ∧ (gang → room (coreOf h) (ctxOf h)
          ∧ (s.hart.inGang = true → ∀ j, j ∈ s.gangOf s.cur → coreOf j ≠ coreOf h)
          ∧ (s.hart.inGang = false → coreOf s.cur ≠ coreOf h ∧ room (coreOf s.cur) (ctxOf s.cur)))))
    ∧ ((∀ h, h < 256 → s.qualifies h = false) → WritesX s d (BitVec.allOnes 64) (exec (.hspawn d a b) s))
    ∧ ∀ h, h < 256 → s.qualifies h = true → (∀ j, j < h → s.qualifies j = false) →
      ∃ t, exec (.hspawn d a b) s = .next t ∧ t.xr d = (if d = 0 then 0 else BitVec.ofNat 64 h) ∧ OtherX s t d
        ∧ t.pc = s.pc + 4 ∧ (t.hartAt h).live = true ∧ (t.hartAt h).pm = 0 ∧ (t.hartAt h).pc = s.xr a
        ∧ (∀ r, (t.hartAt h).xr r = if r = 10 then s.xr b else 0) ∧ (t.hartAt h).katp = s.hart.katp
        ∧ (t.hartAt h).next = 0 ∧ (t.hartAt h).head = 0 ∧ (t.hartAt h).kgbar = s.hart.kgbar
        ∧ t.part = { s.part with nextGang := if s.spawnsGang = true ∧ s.hart.inGang = false then s.part.nextGang + 1
            else s.part.nextGang }
        ∧ (s.spawnsGang = false → t.cores = s.cores ∧ (∀ j, j ≠ h → j ≠ s.cur → t.hartAt j = s.hartAt j)
          ∧ (t.hartAt h).inGang = false ∧ tst (t.hartAt h).kgang 63 = false ∧ fld (t.hartAt h).kgang 56 6 = 0
          ∧ (t.hartAt h).gid = 0 ∧ (t.hartAt h).pendBit = false ∧ (t.hartAt h).gcl = s.hart.gcl
          ∧ fld (t.hartAt h).kgang 0 32 = fld s.hart.kgang 0 32)
        ∧ (s.spawnsGang = true → s.hart.inGang = false →
          (∀ j, j = h ∨ j = s.cur → (t.hartAt j).inGang = true ∧ (t.hartAt j).members = 2
            ∧ (t.hartAt j).gid = s.cur % 256 ∧ (t.hartAt j).gang = s.part.nextGang
            ∧ t.minOf (coreOf j) (ctxOf j) = s.hart.gcl ∧ t.maxOf (coreOf j) (ctxOf j) = s.hart.gcl))
        ∧ (s.spawnsGang = true → s.hart.inGang = true → (s.gangOf s.cur).length < 64 →
          (∀ j, j = h ∨ j ∈ s.gangOf s.cur → (t.hartAt j).members = (s.gangOf s.cur).length + 1)
          ∧ (t.hartAt h).inGang = true ∧ (t.hartAt h).gid = s.hart.gid ∧ (t.hartAt h).gang = s.hart.gang
          ∧ t.minOf (coreOf h) (ctxOf h) = s.hart.gcl ∧ t.maxOf (coreOf h) (ctxOf h) = s.hart.gcl)

/-- hexit completes once its blocks have ended and its copies are done (R24, R167, R308): the context is free, its monitor is
disarmed, and no register of another hart changes but by clusters that it gives away; until then it waits, and hart 0 raises
illegal instruction. That the x registers, the queue positions, the masks, the copy barriers and the bindings of a free context
stay until an hspawn is the model's choice (log 84). A member of a gang departs: NMEM of the others falls, and the barrier word
loses the member's own arrival and opens a new generation when all others have arrived (R24).
hyield gives up the thread's turns, and changes nothing else (R25): it resumes when an instruction of another thread of its
core issues, or after 64 cycles of kcycle. -/
def Obligations.HartsLeave : Prop :=
  ∀ s : State,
    let ready := s.hart.head = s.hart.next ∧ ∀ c, c ∈ s.ctx.copies → c.outstanding = false
    let leaves (o : Out) (p : State → Prop) : Prop := ∃ t, o = .next t ∧ (t.hartAt s.cur).live = false
      ∧ t.held (coreOf s.cur) (ctxOf s.cur) = [] ∧ SameX s t ∧ t.hart.next = s.hart.next ∧ t.hart.head = s.hart.next
      ∧ t.hart.monitor = none ∧ t.hart.monHit = false ∧ t.ctx.m = s.ctx.m ∧ t.ctx.barriers = s.ctx.barriers
      ∧ t.ctx.binds = s.ctx.binds ∧ p t
    let exits (o : Out) : Prop := leaves o fun t => SameMemory s t
      ∧ ∀ j, j ≠ s.cur → { t.hartAt j with ctx := (s.hartAt j).ctx } = s.hartAt j
    let rest := (s.gangOf s.cur).filter fun j => j != s.cur
    let pa := s.hart.kgbar.toNat
    let s1 := s.drainAll (coreOf s.cur)
    let old : Word := ofBytes 64 (s1.devBytes (s1.cell pa) 8)
    let own := if s.hart.pendBit = true then 1 else 0
    let opens := own < fld old 0 32 ∧ rest.length ≤ fld old 0 32 - own
    let departs (o : Out) : Prop := leaves o fun t => (∀ j, j ∈ rest → (t.hartAt j).members = rest.length)
      ∧ (s.scalarPoison (coreOf s.cur) (s.cell pa) 8 = false → ∃ new : Word, Performs s1 t s.cur pa (bytesOf new 8)
        ∧ fld new 0 32 = (if opens then 0 else (fld old 0 32 + 2 ^ 32 - own) % 2 ^ 32)
        ∧ fld new 32 32 = (if opens then (fld old 32 32 + 1) % 2 ^ 32 else fld old 32 32))
    (s.cur = 0 → Traps s 0x01 s.pc (cword .hexit) (exec .hexit s))
    ∧ (s.cur ≠ 0 → s.hart.inGang = false → ready → exits (exec .hexit s))
    ∧ (s.cur ≠ 0 → s.hart.inGang = true → ready → rest ≠ [] → rest.length ≤ 64 → pa < 2 ^ 56 → s.inHbm pa 8 = true →
        departs (exec .hexit s))
    ∧ (s.cur ≠ 0 → ¬ ready → WaitsIn s .hexit (exec .hexit s))
    ∧ (s.hart.wait = some .hexit → s.hart.inGang = false → ready → exits (exec .hexitComplete s))
    ∧ HartBecomes s (fun v => { v with yielding := true, yieldAt := (s.coreAt (coreOf s.cur)).kcycle.toNat }) (exec .hyield s)
    ∧ ((s.coreAt (coreOf s.cur)).kcycle.toNat < s.hart.yieldAt + 64 → s.hart.yielding = true →
        exec .hyieldEnd s = .next s)
    ∧ (s.hart.yieldAt + 64 ≤ (s.coreAt (coreOf s.cur)).kcycle.toNat →
        ∃ t, exec .hyieldEnd s = .next t ∧ OnlyHart s t ∧ t.hart = { s.hart with yielding := false })
    ∧ ∀ i j, coreOf j = coreOf s.cur → ((s.issue i).hartAt j).yielding = false

/-- The gang barrier (R27, R307). garr adds one arrival to the barrier word after a release, as one act, and returns the old
generation; the last arrival of the gang opens a new generation. gwait ends once the generation differs. gbar is both; it keeps
PEND while it sleeps and then makes no second arrival. Outside a gang they raise illegal instruction; a kgbar outside HBM is an
access fault. A barrier word with poison, as the thread reads it, takes no arrival and ends no wait: x[d] and PEND stay, the
next word follows, or for a thread that slept in the wait the same word, and a machine check becomes pending (R207, R208). Two
points are the model's choice: that its record has SRC 0 (log 97), and that a gbar of x0 waits while the generation is 0 (log
85). -/
def Obligations.GangBarrier : Prop :=
  ∀ (s : State) (d : XReg),
    let pa := s.hart.kgbar.toNat
    let s1 := s.drainAll (coreOf s.cur)
    let old : Word := ofBytes 64 (s1.devBytes (s1.cell pa) 8)
    let last := s.hart.members ≤ fld old 0 32 + 1
    let arrives (t : State) : Prop := ∃ new : Word, Performs s1 t s.cur pa (bytesOf new 8)
      ∧ fld new 0 32 = (if last then 0 else fld old 0 32 + 1)
      ∧ fld new 32 32 = (if last then (fld old 32 32 + 1) % 2 ^ 32 else fld old 32 32)
    let now : Word := ofBytes 64 (s.scalarBytes (coreOf s.cur) (s.cell pa) 8)
    (s.hart.inGang = false → Traps s 0x01 s.pc (cword (.garr d)) (exec (.garr d) s)
      ∧ Traps s 0x01 s.pc (cword (.gwait d)) (exec (.gwait d) s)
      ∧ Traps s 0x01 s.pc (cword (.gbar d)) (exec (.gbar d) s))
    ∧ (s.hart.inGang = true → (¬ (pa < 2 ^ 56 ∧ s.inHbm pa 8 = true)) → Traps s 0x07 s.pc s.hart.kgbar (exec (.garr d) s)
      ∧ Traps s 0x07 s.pc s.hart.kgbar (exec (.gwait d) s) ∧ Traps s 0x07 s.pc s.hart.kgbar (exec (.gbar d) s))
    ∧ (s.hart.inGang = true → pa < 2 ^ 56 → s.inHbm pa 8 = true → s.scalarPoison (coreOf s.cur) (s.cell pa) 8 = true →
      let consumes (i : Instr) (pc : Word) : Prop := ∃ t, exec i s = .next t ∧ OnlyHart s t
        ∧ Checked { s.hart with pc := pc, wait := none, answered := false } t.hart 0 pa (s.hart.next.setWidth 64)
      consumes (.garr d) (s.pc + 4) ∧ consumes (.gwait d) (if s.hart.wait = some .gwait then s.pc else s.pc + 4)
        ∧ consumes (.gbar d) (if s.hart.pendBit = true ∧ s.hart.wait = some .gbar then s.pc else s.pc + 4))
    ∧ (s.hart.inGang = true → pa < 2 ^ 56 → s.inHbm pa 8 = true → s.scalarPoison (coreOf s.cur) (s.cell pa) 8 = false →
      (∃ t, exec (.garr d) s = .next t ∧ t.xr d = (if d = 0 then 0 else BitVec.ofNat 64 (fld old 32 32)) ∧ OtherX s t d
        ∧ t.pc = s.pc + 4 ∧ arrives t ∧ (Linked s → HartsKept s t))
      ∧ (fld now 32 32 ≠ fld (s.xr d) 0 32 → GoesTo s (s.pc + 4) (exec (.gwait d) s))
      ∧ (fld now 32 32 = fld (s.xr d) 0 32 → WaitsIn s .gwait (exec (.gwait d) s))
      ∧ (s.hart.pendBit = false → last → d ≠ 0 → ∃ t, exec (.gbar d) s = .next t
        ∧ t.xr d = BitVec.ofNat 64 (fld old 32 32) ∧ OtherX s t d ∧ t.pc = s.pc + 4 ∧ t.hart.pendBit = false
        ∧ t.hart.wait = none ∧ arrives t)
      ∧ (s.hart.pendBit = false → ¬ last → d ≠ 0 → ∃ t, exec (.gbar d) s = .next t
        ∧ t.xr d = BitVec.ofNat 64 (fld old 32 32) ∧ t.pc = s.pc ∧ t.hart.pendBit = true ∧ t.hart.wait = some .gbar
        ∧ arrives t)
      ∧ (s.hart.pendBit = false → d = 0 → ∃ t, exec (.gbar d) s = .next t ∧ SameX s t ∧ arrives t
        ∧ if last ∧ (fld old 32 32 + 1) % 2 ^ 32 ≠ 0 ∨ ¬ last ∧ fld old 32 32 ≠ 0
          then t.pc = s.pc + 4 ∧ t.hart.pendBit = false ∧ t.hart.wait = none
          else t.pc = s.pc ∧ t.hart.pendBit = true ∧ t.hart.wait = some .gbar)
      ∧ (s.hart.pendBit = true → fld now 32 32 ≠ fld (s.xr d) 0 32 → ∃ t, exec (.gbar d) s = .next t
        ∧ t.hart.pendBit = false ∧ t.pc = s.pc + 4 ∧ t.hart.wait = none ∧ SameX s t ∧ OnlyHart s t))

/-! ### System instructions -/

/-- trap takes environment call with the code as ktval and the next word as kepc (R357); wfi ends when an event is pending,
whether or not IE enables it (R400); brk takes breakpoint, or with kbrk.HOLD becalms the core (R302): that the thread then goes
on at the next word is the model's choice (log 16). sinval releases, removes the matching translations of every TLB of the node
and no other (R194, R348), and completes when no chunk of a copy under way uses one that it removed; until each of those has
completed or faulted it waits. -/
def Obligations.SystemInstructions : Prop :=
  ∀ (s : State) (a b : XReg) (c : BitVec 16),
    let va := if a = 0 then none else some (s.xr a)
    let asid : Option (BitVec 16) := if b = 0 then none else some ((s.xr b).setWidth 16)
    let hit (e : TlbEntry) : Bool := e.matches va asid
    let s1 := s.release .dev
    let pins := s1.chunksUsing (s1.removedEntries va asid)
    (s.hart.pm ≠ 0 ∨ c.toNat < 0x8000 → Traps s 0x0A (s.pc + 4) (c.setWidth 64) (exec (.trap c) s))
    ∧ (s.eventPending s.cur = true → GoesTo s (s.pc + 4) (exec .wfi s))
    ∧ (s.eventPending s.cur = false → WaitsIn s .wfi (exec .wfi s))
    ∧ (tst s.hart.kbrk 61 = false → Traps s 0x02 s.pc 0 (exec .brk s))
    ∧ (tst s.hart.kbrk 61 = true → ∃ t, exec .brk s = .next t ∧ t.pc = s.pc + 4 ∧ (∀ r, t.xr r = s.xr r)
      ∧ t.isBecalmed (coreOf s.cur) = true ∧ SameMemory s t ∧ ∀ h, h ≠ s.cur → t.hartAt h = s.hartAt h)
    ∧ (s.hart.pm ≠ 0 → s.hart.wait = some .sinval →
      ((∃ p ∈ s.hart.pins, s.chunkOpen p = true) → exec (.sinval a b) s = .next s)
      ∧ ((∀ p ∈ s.hart.pins, s.chunkOpen p = false) → GoesTo s (s.pc + 4) (exec (.sinval a b) s)))
    ∧ (s.hart.pm ≠ 0 → s.hart.wait ≠ some .sinval → ∃ t, exec (.sinval a b) s = .next t ∧ (∀ r, t.xr r = s.xr r)
      ∧ (pins = [] → t.pc = s.pc + 4 ∧ t.hart.wait = none)
      ∧ (pins ≠ [] → t.pc = s.pc ∧ t.hart.wait = some .sinval ∧ t.hart.pins = pins)
      ∧ t.junction (coreOf s.cur) = []
      ∧ ((∀ k, (t.coreAt k).itlb = (s.coreAt k).itlb.filter (fun e => !hit e)
          ∧ (t.coreAt k).dtlb = (s.coreAt k).dtlb.filter (fun e => !hit e)
          ∧ (t.coreAt k).helmTlb = (s.coreAt k).helmTlb.filter (fun e => !hit e))
        ∧ ∀ k, k < 4 → (t.towerAt k).tlb = (s.towerAt k).tlb.filter (fun e => !hit e)))

/-! ### k-registers -/

/-- kread returns the register (R315), to app mode where the table of k-registers allows. kwrite, kset and kclr of a register
whose fields are all RW replace them, set them or clear them, and leave the rest; kset and kclr return the old value
(R3, R288, R315). -/
def Obligations.KregAccess : Prop :=
  ∀ (s : State) (d a : XReg) (k : KNum),
    (hasNat kregNumbers k.toNat = true → (s.hart.pm ≠ 0 ∨ hasNat appReads k.toNat = true) →
      WritesX s d (s.kread s.cur s.hart.pm k.toNat) (exec (.kread d k) s))
    ∧ ∀ rw : Word,
      (k.toNat, rw) ∈ [(0x001, 0xFF), (0x002, 0xFFFFFFFFFFFFFFFF), (0x003, 0xFFFFFFFFFFFFFFFC), (0x004, 0xFFFFFFFFFFFFFFFC),
        (0x005, 0xFFFFFFFFFFFFFFFF), (0x00B, 0xFFFFFFFFFFFFFFF8), (0x00C, 0xFFFFFFFFFFFFFFFF), (0x012, 0xFFFFFFFFFFFFFFF8),
        (0x050, 0x81FFFFFFFFC00000), (0x083, 0xE1FFFFFFFFFFFFFC)] →
      s.hart.pm ≠ 0 →
      let old := s.kread s.cur s.hart.pm k.toNat
      let takes (v : Word) (o : Out) (e : XReg) (r : Word) : Prop :=
        ∃ t, o = .next t ∧ OnlyHart s t ∧ t.kread s.cur s.hart.pm k.toNat = v ∧ t.xr e = (if e = 0 then 0 else r)
          ∧ OtherX s t e ∧ t.pc = s.pc + 4 ∧ t.hart.pm = s.hart.pm ∧ t.hart.ctx = s.hart.ctx
      takes (s.xr a &&& rw) (exec (.kwrite a k) s) 0 0
        ∧ takes ((old ||| s.xr a) &&& rw) (exec (.kset d a k) s) d old
        ∧ takes (old &&& ~~~(s.xr a) &&& rw) (exec (.kclr d a k) s) d old

/-- The writes of the registers that the table names one by one, each with its own refusals (illegal instruction), waits and
side effects: katp (R188), kterm (R117), kminimg (R134), krasb (R196), kgang (R21), ksqb (R50), kcpfq (R161), kpen (R221),
kdeadline (R201), kfrm (R94), kflags (R101), kvfault (R60, R199). That kvfault, written before the delivery of its fault, takes
the delivery back is the model's choice (log 127). -/
def Obligations.KregWrites : Prop :=
  ∀ (s : State) (a : XReg),
    let v := s.xr a
    let sets (i : Instr) (f : Hart → Hart) : Prop := HartBecomes s f (exec i s)
    let refused (i : Instr) (n : KNum) : Prop := Traps s 0x01 s.pc (cword (.kwrite a n)) (exec i s)
    let size := fld v 0 6
    let ring := fld v 12 44 * 0x1000 / 2 ^ size * 2 ^ size
    let ringInHbm := s.isLocal ring = true ∧ ring % 2 ^ 44 + 2 ^ size ≤ 0xC000000000
    (s.hart.pm ≠ 0 →
      (fld v 60 4 = 0 ∨ fld v 60 4 = 10 → sets (.katpWrite a) fun y => { y with katp := v })
      ∧ (fld v 60 4 ≠ 0 → fld v 60 4 ≠ 10 → refused (.katpWrite a) 0x006)
      ∧ (s.hart.ras = [] ∨ v &&& ~~~7 = s.hart.krasb → sets (.krasbWrite a) fun y => { y with krasb := v &&& ~~~7 })
      ∧ (s.hart.ras ≠ [] → v &&& ~~~7 ≠ s.hart.krasb → refused (.krasbWrite a) 0x00A)
      ∧ (fld v 43 5 ≤ 16 → (s.hart.inGang = true → fld v 43 5 = s.hart.gcl) → sets (.kgangWrite a) fun y =>
          { y with kgang := (y.kgang &&& 0x7FFF07FF00000000) ||| (v &&& 0x8000F800FFFFFFFF) })
      ∧ (16 < fld v 43 5 ∨ (s.hart.inGang = true ∧ fld v 43 5 ≠ s.hart.gcl) → refused (.kgangWrite a) 0x011)
      ∧ (s.hart.spilt = 0 → (tst v 63 = false ∨ (12 ≤ size ∧ size ≤ 28 ∧ ringInHbm)) → sets (.ksqbWrite a) fun y =>
          { y with ksqb := (y.ksqb &&& 0x7F00000000000FC0) ||| (v &&& 0x80FFFFFFFFFFF03F), sqProd := 0, sqCons := 0 })
      ∧ (s.hart.spilt ≠ 0 ∨ (tst v 63 = true ∧ (size < 12 ∨ 28 < size ∨ ¬ ringInHbm)) → refused (.ksqbWrite a) 0x023)
      ∧ (tst v 63 = false ∨ (12 ≤ size ∧ size ≤ 28) → sets (.kcpfqWrite a) fun y =>
          { y with kcpfq := v &&& 0xFFFFFFFFFFFFF03F, cpfProd := 0 })
      ∧ (tst v 63 = true → (size < 12 ∨ 28 < size) → refused (.kcpfqWrite a) 0x070)
      ∧ (12 ≤ size ∧ size ≤ 22 → sets (.kpenWrite a) fun y =>
          { y with kpen := v &&& 0x00FFFFFFFFFFF03F, kpenc := y.kpenc &&& 0xFFFF000000000000 })
      ∧ (size < 12 ∨ 22 < size → refused (.kpenWrite a) 0x040)
      ∧ sets (.kdeadlineWrite a) (fun y => { y with kdeadline := v })
      ∧ (s.ctx.stopped = true → sets .kvfaultResume fun y =>
          { y with kvfault := 0, kvrst := [], vfTval := 0, vfPend := false, ctx := { y.ctx with stopped := false } })
      ∧ (s.ctx.stopped = false → Traps s 0x01 s.pc (cword (.kwrite 0 0x030)) (exec .kvfaultResume s))
      ∧ (s.ctx.stopped = false ∨ v ≠ 0 → refused (.kwrite a 0x030) 0x030))
    ∧ (fld v 62 2 ≠ 3 → sets (.ktermWrite a) fun y => { y with kterm := BitVec.ofNat 6 (fld v 58 6) })
    ∧ (fld v 62 2 = 3 → refused (.ktermWrite a) 0x042)
    ∧ (1 ≤ fld v 0 4 ∧ fld v 0 4 ≤ 8 → sets (.kminimgWrite a) fun y => { y with kminimg := BitVec.ofNat 4 (fld v 0 4) })
    ∧ (fld v 0 4 = 0 ∨ 8 < fld v 0 4 → refused (.kminimgWrite a) 0x061)
    ∧ (s.hart.head = s.hart.next → sets (.kflagsWrite a) fun y => { y with kflags := v &&& 0x1F })
    ∧ (s.hart.head ≠ s.hart.next → WaitsIn s .kreg (exec (.kflagsWrite a) s))
    ∧ (6 ≤ fld v 0 3 → refused (.kfrmWrite a) 0x008)
    ∧ (fld v 0 3 < 6 → s.hart.head = s.hart.next → sets (.kfrmWrite a) fun y => { y with kfrm := v &&& 7 })

/-- The writes that reach beyond the hart's own registers: klpr, in force at once (R28, R29), and refused when, of the
entries that are not stranded, a MIN is above its MAX, a MAX above the cluster count, or the sum of MIN above it, when it
changes MIN or MAX of a gang member (R23), or the entry of the owner of the array (R105); kdump (R225); kheat of the tower
(R166); kvq, which discards commands, and gives up the stream unit (R51, R270); FLUSH, which spills every on-chip return
address, oldest first (R196). Two clauses are the model's choice: the cluster count of a dark helm, 8 less the retired
clusters (log 27), and that the ring entry beyond the discarded commands counts as not read (log 109). -/
def Obligations.KregSideEffects : Prop :=
  ∀ (s : State) (a : XReg), s.hart.pm ≠ 0 →
    let v := s.xr a
    let c := coreOf s.cur
    let new := ((s.coreAt c).klpr &&& 0x20E020E020E020E0) ||| (v &&& 0xDF1FDF1FDF1FDF1F)
    let gone := ((v.setWidth 32 : W32) - s.hart.head).toNat
    let n := s.hart.ras.length
    let goes (i : Instr) (p : State → Prop) : Prop :=
      ∃ t, exec i s = .next t ∧ t.pc = s.pc + 4 ∧ (∀ r, t.xr r = s.xr r) ∧ p t
    let old := (s.coreAt c).klpr
    let counted (t : Nat) : Bool := !tst new (16 * t + 13)
    let count := if s.dark c = true then 8 - (s.coreAt c).retired.length else s.clusterCount c
    let refused : Prop :=
      (∃ t, t < 4 ∧ counted t = true ∧ (fld new (16 * t + 8) 5 < fld new (16 * t) 5 ∨ count < fld new (16 * t + 8) 5))
      ∨ count < ((List.range 4).map fun t => if counted t then fld new (16 * t) 5 else 0).sum
      ∨ (∃ t, t < 4 ∧ (s.hartAt (4 * c + t)).live = true ∧ (s.hartAt (4 * c + t)).inGang = true
        ∧ (fld old (16 * t) 5 ≠ fld new (16 * t) 5 ∨ fld old (16 * t + 8) 5 ≠ fld new (16 * t + 8) 5))
      ∨ (∃ t, t < 4 ∧ (s.coreAt c).array.owner = some (4 * c + t) ∧ fld old (16 * t) 16 ≠ fld new (16 * t) 16)
    (¬ refused → goes (.klprWrite a) fun t => (t.coreAt c).klpr = new ∧ SameMemory s t)
    ∧ (refused →
      Traps s 0x01 s.pc (cword (.kwrite a 0x020)) (exec (.klprWrite a) s))
    ∧ (16 ≤ fld v 0 6 ∧ fld v 0 6 ≤ 30 → goes (.kdumpWrite a) fun t =>
        t.coreAt c = { s.coreAt c with kdump := v &&& 0x80FFFFFFFFFFF03F } ∧ t.part = s.part ∧ t.towers = s.towers)
    ∧ (tst v 63 = false ∨ (12 ≤ fld v 0 6 ∧ fld v 0 6 ≤ 28) → goes (.kheatWrite a) fun t =>
        t.towerAt (s.towerOf c) = { s.towerAt (s.towerOf c) with kheat := v &&& 0xFFFFFFFFFFFFF03F, heatProd := 0 }
          ∧ t.part = s.part ∧ t.cores = s.cores)
    ∧ (s.ctx.stopped = true → gone ≤ (s.hart.next - s.hart.head).toNat → s.ctx.strip = none →
      goes (.kvqDiscard a) fun t => t.hart.head = v.setWidth 32 ∧ t.hart.next = s.hart.next
        ∧ t.hart.queue = s.hart.queue.drop gone ∧ (gone ≠ 0 → t.ctx.blk = none ∧ (t.coreAt c).stream.owner ≠ some s.cur
          ∧ (s.hart.queue.length < gone → t.ctx.refillBad = false)) ∧ SameMemory s t)
    ∧ (s.ctx.stopped = false ∨ (s.hart.next - s.hart.head).toNat < gone →
      Traps s 0x01 s.pc (cword (.kwrite a 0x022)) (exec (.kvqDiscard a) s))
    ∧ (fld s.hart.katp 60 4 = 0 → tst s.hart.kspb 63 = false → s.hart.krasb.toNat % 8 = 0 →
      8 * n + s.hart.krasl.toNat ≤ s.hart.krasb.toNat → s.hart.krasb.toNat ≤ 0xC000000000 → s.isLocal 0 = true →
      (s.junction c).length + n < 64 →
      goes .krasFlush fun t => t.hart.ras = [] ∧ t.hart.spill = s.hart.spill + BitVec.ofNat 32 n
        ∧ t.hart.krasb = s.hart.krasb - BitVec.ofNat 64 (8 * n)
        ∧ ∀ i, i < n → (ofBytes 64 (t.scalarBytes c (t.hart.krasb.toNat + 8 * i) 8) : Word) = s.hart.ras.getD i 0)

/-- kctx saves the context and leaves it empty, HEAD = NEXT, once its copies have ended (R167, R203, R204); the image of a
scalar hart is its header alone (R13). kctxr of an image brings back its registers, its queue position and its replies
(R203, R205). A save writes the header of Table 10-10, and closes an open strip first, sealed, with a pennant cut by kctx (R204,
R220). A context that holds anything, and an image that R205 refuses, make kctxr an illegal instruction; an address that
is no multiple of 4,096 is misaligned, and an image outside HBM an access fault, at its first 4,096 bytes before the image's own
checks, which they hold, and at the rest after them (R202). Four points are the model's choice: what an image holds from offset
4,096 on, and the handle at which it is found (log 14); that the queue comes back from there (log 24); that a scalar hart, which
has no vector context, restores nothing (log 118); and that an image with an uncorrectable error is consumed as by a load, and
nothing is restored (log 111). -/
def Obligations.ContextImages : Prop :=
  ∀ (s : State) (a : XReg), s.hart.pm ≠ 0 →
    let v := s.xr a
    let c := coreOf s.cur
    let size := (s.headerWord v.toNat 8).toNat
    let holdsNothing := s.ctx.blk = none ∧ s.ctx.stopped = false ∧ s.hart.queue = [] ∧ s.hart.spilt = 0 ∧ s.hart.replies = []
      ∧ s.clusterSet s.cur = [] ∧ s.ctx.copies = [] ∧ (s.coreAt c).array.owner ≠ some s.cur
      ∧ (s.coreAt c).stream.owner ≠ some s.cur
    let again := s.hart.wait = some .kctxr ∧ s.hart.scalar = false
    let mayRestore := holdsNothing ∨ again
    let w0 := s.headerWord v.toNat 0
    let held := fld (s.headerWord v.toNat 16) 0 8
    let refused := fld w0 0 16 ≠ 1 ∨ (tst w0 35 = true ∧ s.ganged c = false) ∨ s.clusterCount c < held
      ∨ fld (s.coreAt c).klpr (16 * ctxOf s.cur + 8) 5 < held ∨ (s.hart.scalar = true ∧ held ≠ 0)
    (fld v 0 12 ≠ 0 → Traps s 0x03 s.pc v (exec (.kctxSave a) s) ∧ (mayRestore → Traps s 0x03 s.pc v (exec (.kctxrRestore a) s)))
    ∧ (¬ mayRestore → Traps s 0x01 s.pc (cword (.kwrite a 0x034)) (exec (.kctxrRestore a) s))
    ∧ (fld v 0 12 = 0 →
      (s.inHbm v.toNat (s.imageSize s.cur) = false → Traps s 0x07 s.pc v (exec (.kctxSave a) s))
      ∧ (mayRestore → s.inHbm v.toNat 0x1000 = false → Traps s 0x07 s.pc v (exec (.kctxrRestore a) s))
      ∧ (holdsNothing → ¬ again → s.inHbm v.toNat 0x1000 = true → refused →
        Traps s 0x01 s.pc (cword (.kwrite a 0x034)) (exec (.kctxrRestore a) s))
      ∧ (mayRestore → again ∨ ¬ refused → s.inHbm v.toNat 0x1000 = true →
        s.inHbm v.toNat size = false → Traps s 0x07 s.pc v (exec (.kctxrRestore a) s)))
    ∧ (fld v 0 12 = 0 → s.inHbm v.toNat (s.imageSize s.cur) = true →
      ((∃ q ∈ s.ctx.copies, q.outstanding = true) → WaitsIn s .kctx (exec (.kctxSave a) s))
      ∧ ((∀ q ∈ s.ctx.copies, q.outstanding = false) → s.ctx.dying = none →
        let s1 := (s.drainAll c).seal s.cur
        ∃ t u, exec (.kctxSave a) s = .next t ∧ t.pc = s.pc + 4 ∧ SameX s t ∧ t.hart.head = t.hart.next
          ∧ t.hart.next = s.hart.next ∧ t.hart.queue = [] ∧ t.hart.replies = [] ∧ t.ctx.blk = none
          ∧ t.held c (ctxOf s.cur) = [] ∧ t.ownsArray s.cur = false ∧ t.ownsStream s.cur = false ∧ t.junction c = []
          ∧ (s.hart.scalar = true → s.imageSize s.cur = 0x1000 ∧ t.part.images = s.part.images)
          ∧ (s.hart.scalar = false → ∃ img, t.part.images = s.part.images ++ [img] ∧ img.ctx.v = s.ctx.v
            ∧ img.ctx.vtags = s.ctx.vtags ∧ img.ctx.m = s.ctx.m ∧ img.ctx.b = s.ctx.b ∧ img.ctx.grant = s.ctx.grant
            ∧ img.next = s.hart.next ∧ img.head = s.hart.head ∧ img.replies = s.hart.replies ∧ img.replyBad = s.hart.replyBad
            ∧ img.kflags = s.hart.kflags)
          ∧ (s1.ctx.strip = none → u = s1) ∧ (∀ st, s1.ctx.strip = some st → ClosesPennant s1 u st true false)
          ∧ t.hart.kpenc = u.hart.kpenc
          ∧ (s.hart.queue = [] ∨ tst s.hart.ksqb 63 = false → ∀ j, j < s.cell v.toNat ∨ s.cell v.toNat + 0x1008 ≤ j →
              t.byteAt j = u.byteAt j)
          ∧ (s.cur < 0x10000 →
            let at_ (o : Nat) : Word := ofBytes 64 ((List.range 8).map fun k => t.byteAt (s.cell v.toNat + o + k))
            let flag (k : Nat) (p : Prop) : Prop := tst (at_ 0) (32 + k) = true ↔ p
            fld (at_ 0) 0 16 = 1 ∧ fld (at_ 0) 16 16 = s.cur ∧ fld (at_ 0) 38 26 = 0
            ∧ flag 0 (s.ownsArray s.cur = true ∧ s.ctx.waiting ≠ some .array)
            ∧ flag 1 (s.ownsStream s.cur = true ∧ s.ctx.waiting ≠ some .unit) ∧ flag 2 (s.hart.inGang = true)
            ∧ flag 3 (s.ganged c = true) ∧ flag 4 (s.ctx.shadow = true) ∧ flag 5 (s.ctx.stopped = true)
            ∧ (at_ 8).toNat = s.imageSize s.cur ∧ at_ 16 = BitVec.ofNat 64 (s.clusterSet s.cur).length
            ∧ (s.ctx.stopped = true → at_ 24 = s.hart.kvfault) ∧ (s.ctx.stopped = false → s.ctx.blk = none → at_ 24 = 0)
            ∧ (∀ b, s.ctx.stopped = false → s.ctx.blk = some b → fld (at_ 24) 0 8 = 0x15
              ∧ fld (at_ 24) 8 24 = wordOffset b.cmd.addr b.pc ∧ fld (at_ 24) 32 32 = b.cmd.pos.toNat)
            ∧ at_ 32 = (if s.hart.vfPend = true then s.hart.vfTval else 0)
            ∧ ∀ i, 40 ≤ i → i < 0x1000 → t.byteAt (s.cell v.toNat + i) = 0)))
    ∧ (fld v 0 12 = 0 → s.inHbm v.toNat 0x1000 = true → s.inHbm v.toNat size = true → holdsNothing →
        ¬ refused →
      (s.imagePoison v.toNat (max 0x1000 size) = true → ∃ t, exec (.kctxrRestore a) s = .next t ∧ OnlyHart s t
        ∧ Checked { s.hart with pc := s.pc + 4, wait := none, answered := false } t.hart 0 v.toNat
            (s.hart.next.setWidth 64))
      ∧ (s.imagePoison v.toNat (max 0x1000 size) = false → s.hart.scalar = true → fld (s.headerWord v.toNat 16) 0 8 = 0 →
        GoesTo s (s.pc + 4) (exec (.kctxrRestore a) s))
      ∧ (s.imagePoison v.toNat (max 0x1000 size) = false → s.hart.scalar = false → 0x1000 < size →
        fld (s.headerWord v.toNat 16) 0 8 = 0 →
        s.isStalled c (ctxOf s.cur) = false →
        ∀ img, s.part.images[(s.headerWord v.toNat 0x1000).toNat]? = some img → img.tiles = none → img.streams = none →
          img.cmds.length ≤ 256 →
        ∃ t, exec (.kctxrRestore a) s = .next t ∧ t.pc = s.pc + 4 ∧ SameX s t ∧ SameMemory s t
          ∧ t.ctx.v = img.ctx.v ∧ t.ctx.vtags = img.ctx.vtags ∧ t.ctx.m = img.ctx.m ∧ t.ctx.b = img.ctx.b
          ∧ t.ctx.grant = img.ctx.grant ∧ t.hart.next = img.next ∧ t.hart.head = img.head ∧ t.hart.replies = img.replies
          ∧ t.hart.replyBad = img.replyBad ∧ t.hart.kflags = img.kflags ∧ t.hart.queue = img.cmds))

/-- Stores to kpreq of a live hart set PRE or IHI there, for every mode but app (R17, R200). A store to an engine window
register changes what its field map lets that mode change (R234): the storage ranges from fw mode alone, PCAP within its
range, and V of the management event. App mode does not reach the windows: a page fault under MODE 0, with the physical
address, which is its own virtual one, and else an access fault; with which address is free, because the row does not say
through which virtual address the store went (log 113). Two more points are the model's choice: a PCAP outside its range is
stored as 2400 (log 29), and the sender of an IHI is the last one that wrote it (log 96). -/
def Obligations.WindowWrites : Prop :=
  ∀ (s : State) (target off : Nat) (v : Word),
    let live := (s.hartAt target).live = true
    let bare := fld s.hart.katp 60 4 = 0
    let setsBit (t : State) (bit : BitVec 2) : Prop :=
      t.pc = s.pc + 4 ∧ SameX s t ∧ t.part = s.part ∧ t.cores = s.cores
        ∧ (t.hartAt target).kpreq = (s.hartAt target).kpreq ||| bit ∧ ∀ j, j ≠ target → j ≠ s.cur → t.hartAt j = s.hartAt j
    (s.hart.pm ≠ 0 → live → ∃ t, exec (.kpreqPre target) s = .next t ∧ setsBit t 1
      ∧ (t.hartAt target).ihiFrom = (s.hartAt target).ihiFrom)
    ∧ (s.hart.pm ≠ 0 → live → ∃ t, exec (.kpreqIhi target) s = .next t ∧ setsBit t 2 ∧ (t.hartAt target).ihiFrom = s.cur)
    ∧ (bare → s.hart.pm ≠ 0 → ¬ live →
      Traps s 0x07 s.pc (BitVec.ofNat 64 (0xFFFA0000000000 + 0x8000 * target + 0x1A8)) (exec (.kpreqPre target) s))
    ∧ (s.hart.pm ≠ 0 → engineOk off = true →
      ∃ t, exec (.engineWindowWrite off v) s = .next t ∧ t.pc = s.pc + 4 ∧ SameX s t ∧ SameMemory s t
        ∧ (off < 0x1100 ∨ (off < 0x1180 ∧ s.hart.pm ≠ 2) → t.part = s.part)
        ∧ (0x1100 ≤ off → off < 0x1180 → s.hart.pm = 2 → t.part =
            if off % 16 = 0 then { s.part with srb := Map.put s.part.srb ((off - 0x1100) / 16) (v &&& 0x80000FFFFFFFF000) }
            else { s.part with srl := Map.put s.part.srl ((off - 0x1100) / 16) (v &&& 0x00000FFFFFFFF000) })
        ∧ (off = 0x1200 → (fld t.part.pwr 0 16 = if 600 ≤ fld v 0 16 ∧ fld v 0 16 ≤ 2400 then fld v 0 16 else 2400)
          ∧ (∀ i, 16 ≤ i → tst t.part.pwr i = tst s.part.pwr i) ∧ t.part = { s.part with pwr := t.part.pwr })
        ∧ (off = 0x1300 → t.part =
            { s.part with mev := if tst v 63 then s.part.mev &&& 0x7FFFFFFFFFFFFFFF else s.part.mev }))
    ∧ (s.hart.pm = 0 →
      let pa : Word := BitVec.ofNat 64 (0xFFFA0000800000 + off)
      (bare → Traps s 0x05 s.pc pa (exec (.engineWindowWrite off v) s))
      ∧ (¬ bare → ∃ tval, Traps s 0x07 s.pc tval (exec (.engineWindowWrite off v) s)))

/-! ### Events of a control thread -/

/-- The asynchronous events (R197-R202): the first pending one in order is taken at the boundary, when IE enables it; a
machine check is taken whatever IE is; each clears its pending bit as it is taken. The deadline comes when kcycle reaches
WHEN: its row moves kcycle there, which is the model's choice (log 7). A breakpoint hit takes breakpoint before the word
(R223). A word or a fetch that faults raises its exception. -/
def Obligations.EventsTaken : Prop :=
  ∀ s : State,
    let takes (o : Out) (v : Hart) (cause : Nat) (tval : Word) : Prop :=
      ∃ t, o = .next t ∧ OnlyHart s t ∧ TrapOf v t.hart cause s.pc tval
    let v := s.hart
    let due := tst v.kdeadline 63 = true ∧ fld v.kdeadline 0 63 ≤ (s.coreAt (coreOf s.cur)).kcycle.toNat
    (v.wait = none → v.ie = true → v.mcPend = none →
      (v.vfPend = true → s.ctx.strip = none → takes (exec .vectorFaultDelivery s) { v with vfPend := false } 0x10 v.vfTval)
      ∧ (v.vfPend = false → v.mgmtPend = true → takes (exec .asyncEventTaken s) { v with mgmtPend := false } 0x43 0)
      ∧ (v.vfPend = false → v.mgmtPend = false → tst v.kpreq 0 = true →
        takes (exec .asyncEventTaken s) { v with kpreq := v.kpreq &&& 2 } 0x40 0)
      ∧ (v.vfPend = false → v.mgmtPend = false → tst v.kpreq 0 = false → due → takes (exec .asyncEventTaken s) v 0x42 0)
      ∧ (v.vfPend = false → v.mgmtPend = false → tst v.kpreq 0 = false → ¬ due → tst v.kpreq 1 = true →
        takes (exec .asyncEventTaken s) { v with kpreq := v.kpreq &&& 1 } 0x41 (BitVec.ofNat 64 v.ihiFrom)))
    ∧ (∀ w, v.wait = none → v.mcPend = some w → takes (exec .machineCheckTaken s) { v with mcPend := none } 0x20 w)
    ∧ (∃ t, exec .deadlineExpiry s = .next t ∧ (∀ h, t.hartAt h = s.hartAt h) ∧ SameMemory s t
      ∧ (t.coreAt (coreOf s.cur)).kcycle = BitVec.ofNat 64 (max (s.coreAt (coreOf s.cur)).kcycle.toNat (fld v.kdeadline 0 63)))
    ∧ (tst v.kbrk 63 = true → tst v.kbrk 62 = false → tst v.kbrk 61 = false → v.csup = false →
        fld v.kbrk 2 55 = fld v.pc 2 55 →
      ∃ t, exec (.breakpointHit false) s = .next t ∧ OnlyHart s t ∧ TrapOf v t.hart 0x02 s.pc 0
        ∧ t.hart.supPend.head? = some (entersMode v.pm 0x02 0, 0))
    ∧ (∀ w, Traps s 0x01 s.pc (w.setWidth 64) (exec (.illegalInstruction w) s))
    ∧ Traps s 0x06 s.pc s.pc (exec (.cStreamFetchFault .page) s)
    ∧ Traps s 0x07 s.pc (if fld v.katp 60 4 = 0 then s.pc &&& 0x00FFFFFFFFFFFFFF else s.pc)
        (exec (.cStreamFetchFault .access) s)

/-- Free clusters go to a context that waits for them, the lowest first, and it leaves the list once it holds what it waits
for (R31); its registers and masks then read all ones (R74). While the core is becalmed nothing moves (R224). -/
def Obligations.ClustersSettle : Prop :=
  ∀ (s : State) (r : Stalled),
    let c := coreOf s.cur
    let free := s.freeClusters c
    let want := s.wantOf c r
    (s.coreAt c).stalled = [r] → r.ctx < 4 →
    (s.isBecalmed c = true → exec .clusterStallRelease s = .next s)
    ∧ (s.isBecalmed c = false → (s.stranded c r.ctx = false ∨ r.need.isSome = true) → want ≠ 0 → want ≤ free.length →
      ∃ t, exec .clusterStallRelease s = .next t ∧ (t.coreAt c).stalled = [] ∧ t.freeClusters c = free.drop want
        ∧ (∀ k, k ∈ free.take want → Map.find (t.coreAt c).clusters k = some r.ctx)
        ∧ (∀ k, k ∈ s.held c r.ctx → Map.find (t.coreAt c).clusters k = some r.ctx)
        ∧ (t.hartAt (4 * c + r.ctx)).ctx.v = [] ∧ (t.hartAt (4 * c + r.ctx)).ctx.m = [] ∧ SameMemory s t
        ∧ ∀ h, { t.hartAt h with ctx := (s.hartAt h).ctx } = s.hartAt h)

/-! ### Block instructions -/

/-- Block arithmetic (R281, R297, R300, R380): b[bd] takes the result and nothing else changes but the block pc and its
loops. The second source is a b-register or a sign-extended immediate; shifts take the low six bits. bkrd reads the
registers of R300, 0x00D as the helm's own count, and is an illegal word for any other number. -/
def Obligations.BlockArithmetic : Prop :=
  ∀ (s : State) (bd ba : BReg) (src : BSrc) (c : Cond) (i : W32) (k : KNum),
    let a := s.ctx.br ba
    let b : Word := match src with
      | .reg r => s.ctx.br r
      | .imm n => n.signExtend 64
    let holds : Prop := match c with
      | .eq => a = b
      | .ne => a ≠ b
      | .lt => a.toInt < b.toInt
      | .ge => b.toInt ≤ a.toInt
      | .ltu => a.toNat < b.toNat
      | .geu => b.toNat ≤ a.toNat
    WritesB s bd (i.signExtend 64) (exec (.bli bd i) s)
    ∧ WritesB s bd (a + b) (exec (.badd bd ba src) s)
    ∧ WritesB s bd (a - b) (exec (.bsub bd ba src) s)
    ∧ WritesB s bd (a * b) (exec (.bmul bd ba src) s)
    ∧ WritesB s bd (a &&& b) (exec (.band bd ba src) s)
    ∧ WritesB s bd (a ||| b) (exec (.bor bd ba src) s)
    ∧ WritesB s bd (a ^^^ b) (exec (.bxor bd ba src) s)
    ∧ WritesB s bd (a <<< (b.toNat % 64)) (exec (.bshl bd ba src) s)
    ∧ WritesB s bd (a >>> (b.toNat % 64)) (exec (.bshr bd ba src) s)
    ∧ (holds → WritesB s bd 1 (exec (.bset c bd ba src) s))
    ∧ (¬ holds → WritesB s bd 0 (exec (.bset c bd ba src) s))
    ∧ WritesB s bd (s.coreAt (coreOf s.cur)).hcycle (exec (.bkrd bd 0x00D) s)
    ∧ (hasNat bkrdReads k.toNat = true → k ≠ 0x00D → WritesB s bd (s.kread s.cur 0 k.toNat) (exec (.bkrd bd k) s))
    ∧ (hasNat bkrdReads k.toNat = false → FaultsWord s 0x01 0 (exec (.bkrd bd k) s))
    ∧ CtxBecomes s (fun x => { x with mark := i }) (exec (.vmark i) s)

/-- The loop step (R301), which every word that completes without a taken branch makes: outside a loop end the next word
follows; at the end of the innermost loop its counter drops by one, and the loop goes back to its first word while the counter
is not 0; a loop that ends passes the step on to the loop around it. Branches and loops of a block (R298, R301, R54): a branch
at the end of a loop body, a bloop at one, with an offset of 0 or less, a fifth one, one that ends beyond the loop around it,
or of a loop number in use is an illegal word. A taken branch goes to its target and ends, with counter 0, the loops whose body
does not hold it and those inside them; bloop opens a loop, or with count 0 passes over the body. -/
def Obligations.LoopsAndBranches : Prop :=
  (∀ (s : State) (b : Block), s.ctx.blk = some b →
    ((∀ l ls, s.ctx.loops = l :: ls → l.last ≠ b.pc) →
      (passed s).ctx.blk = some { b with pc := b.pc + 8 } ∧ (passed s).ctx.lc = s.ctx.lc
        ∧ (passed s).ctx.loops = s.ctx.loops)
    ∧ ∀ l ls, s.ctx.loops = l :: ls → l.last = b.pc →
      let k := s.ctx.lc.getD l.n 0 - 1
      let u := s.modCtx s.cur fun x => { x with lc := x.lc.set l.n k, loops := ls }
      (k ≠ 0 → (passed s).ctx.blk = some { b with pc := l.first } ∧ (passed s).ctx.lc = s.ctx.lc.set l.n k
        ∧ (passed s).ctx.loops = s.ctx.loops)
      ∧ (k = 0 → (passed s).ctx.blk = (passed u).ctx.blk ∧ (passed s).ctx.lc = (passed u).ctx.lc
        ∧ (passed s).ctx.loops = (passed u).ctx.loops))
  ∧ (∀ (s : State) (b : Block) (c : Cond) (ba bb : BReg) (n : BitVec 2) (off : W32), s.ctx.blk = some b →
    let atEnd := ∃ l ∈ s.ctx.loops, l.last = b.pc
    let target : Word := b.pc + 8 * off.signExtend 64
    let count : W32 := (s.ctx.br ba).setWidth 32
    let inBody (l : Loop) : Prop := l.first.toNat ≤ target.toNat ∧ target.toNat ≤ l.last.toNat
    let branches (o : Out) : Prop := ∃ t gone, o = .next t ∧ OnlyHart s t ∧ { t.hart with ctx := s.hart.ctx } = s.hart
      ∧ t.ctx.blk = some { b with pc := target } ∧ s.ctx.loops = gone ++ t.ctx.loops ∧ (∀ l ∈ t.ctx.loops, inBody l)
      ∧ (∀ l, gone.getLast? = some l → ¬ inBody l)
      ∧ (∀ i, t.ctx.lc.getD i 0 = if gone.any (fun l => l.n == i) then 0 else s.ctx.lc.getD i 0)
      ∧ { t.ctx with blk := s.ctx.blk, lc := s.ctx.lc, loops := s.ctx.loops, waiting := s.ctx.waiting, step := s.ctx.step,
                     vsup := s.ctx.vsup } = s.ctx
    let opens (pc : Word) (f : List Loop) (k : List W32) (o : Out) : Prop := ∃ t, o = .next t ∧ OnlyHart s t
      ∧ { t.hart with ctx := s.hart.ctx } = s.hart ∧ t.ctx.blk = some { b with pc := pc } ∧ t.ctx.loops = f ∧ t.ctx.lc = k
      ∧ { t.ctx with blk := s.ctx.blk, lc := s.ctx.lc, loops := s.ctx.loops, waiting := s.ctx.waiting, step := s.ctx.step,
                     vsup := s.ctx.vsup } = s.ctx
    (atEnd → FaultsWord s 0x01 0 (exec (.bbr c ba bb off) s) ∧ FaultsWord s 0x01 0 (exec (.bjmp off) s)
      ∧ FaultsWord s 0x01 0 (exec (.bloop n ba off) s))
    ∧ (off.toInt ≤ 0 ∨ (∃ l ∈ s.ctx.loops, l.n = n.toNat) → FaultsWord s 0x01 0 (exec (.bloop n ba off) s))
    ∧ (4 ≤ s.ctx.loops.length → count ≠ 0 → FaultsWord s 0x01 0 (exec (.bloop n ba off) s))
    ∧ (∀ l ls, s.ctx.loops = l :: ls → l.last.toNat < target.toNat → FaultsWord s 0x01 0 (exec (.bloop n ba off) s))
    ∧ (¬ atEnd → condHolds c (s.ctx.br ba) (s.ctx.br bb) = true → branches (exec (.bbr c ba bb off) s))
    ∧ (¬ atEnd → condHolds c (s.ctx.br ba) (s.ctx.br bb) = false → CtxBecomes s id (exec (.bbr c ba bb off) s))
    ∧ (¬ atEnd → branches (exec (.bjmp off) s))
    ∧ (¬ atEnd → 0 < off.toInt → (∀ l ∈ s.ctx.loops, l.n ≠ n.toNat) →
        (∀ l ls, s.ctx.loops = l :: ls → target.toNat ≤ l.last.toNat) →
      (count ≠ 0 → s.ctx.loops.length < 4 →
        opens (b.pc + 8) ({ n := n.toNat, first := b.pc + 8, last := target } :: s.ctx.loops)
          (s.ctx.lc.set n.toNat count) (exec (.bloop n ba off) s))
      ∧ (count = 0 → opens (target + 8) s.ctx.loops s.ctx.lc (exec (.bloop n ba off) s))))

/-- The end of a block (R53): HEAD and the queue advance, the reply slots that it did not fill are given back, its strip is
closed, with its pennant in the ring or counted as dropped, after the buffered stores (R220-R222), the stream unit is released
(R131). A ring outside
memory drops: the model's choice (log 12). vreply and its mask forms (R56, R57, R388) seal the strip and fill the next
slot; without one they fault. vbrk counts as executed (R367). Words that cannot be read or are no instruction fault
(R55, R281), and a word that kbrk names stops before it runs (R223). -/
def Obligations.BlockEnds : Prop :=
  ∀ (s : State) (b : Block) (r : BReg) (m : MReg), s.ctx.blk = some b →
    let w := s.sweep s.cur
    let trues := (w.maskCells.filter fun e => w.maskActive e.1 e.2 && s.ctx.mbit m.toNat e.1 e.2).length
    let replies (v : Word) (o : Out) : Prop := ∃ t, o = .next t ∧ t.hart.replies = s.hart.replies ++ [v]
      ∧ t.hart.rsv = s.hart.rsv - 1
      ∧ t.ctx.blk = (passed s).ctx.blk.map (fun (y : Block) => { y with sent := b.sent + 1 })
      ∧ t.ctx.lc = (passed s).ctx.lc ∧ t.ctx.loops = (passed s).ctx.loops
      ∧ (∀ st, t.ctx.strip = some st → st.isSealed = true) ∧ (s.ctx.strip = none → t.ctx.strip = none)
      ∧ { t.hart with ctx := s.hart.ctx, replies := s.hart.replies, rsv := s.hart.rsv, monHit := s.hart.monHit
                      kmcheck := s.hart.kmcheck, mcPend := s.hart.mcPend } = s.hart
      ∧ (Linked s → t.hart.kmcheck = s.hart.kmcheck ∧ t.hart.mcPend = s.hart.mcPend)
      ∧ { atWord t.ctx s.ctx with strip := s.ctx.strip } = s.ctx
      ∧ (∀ k, Unbuffered s k → t.byteAt k = s.byteAt k)
      ∧ ∀ h, h ≠ s.cur → { t.hartAt h with monHit := (s.hartAt h).monHit } = s.hartAt h
    let readable := s.ctx.grant.g = 0 ∨ MaskClean s m
    (∃ t, exec .vend s = .next t ∧ t.ctx.blk = none ∧ t.ctx.strip = none ∧ t.hart.head = s.hart.head + 1
      ∧ t.hart.queue = s.hart.queue.drop 1 ∧ t.hart.rsv = s.hart.rsv - (b.cmd.nrep - b.sent)
      ∧ { t.hart with ctx := s.hart.ctx, head := s.hart.head, queue := s.hart.queue, rsv := s.hart.rsv,
                      kpenc := s.hart.kpenc, monHit := s.hart.monHit, kmcheck := s.hart.kmcheck
                      mcPend := s.hart.mcPend } = s.hart
      ∧ (Linked s → t.hart.kmcheck = s.hart.kmcheck ∧ t.hart.mcPend = s.hart.mcPend) ∧ (∀ r, t.ctx.br r = s.ctx.br r) ∧ (t.coreAt (coreOf s.cur)).stream.owner ≠ some s.cur
      ∧ (∀ h, h ≠ s.cur → { t.hartAt h with ctx := (s.hartAt h).ctx, monHit := (s.hartAt h).monHit } = s.hartAt h)
      ∧ (s.ctx.strip = none → SameMemory s t ∧ t.hart.kpenc = s.hart.kpenc)
      ∧ ∀ st, s.ctx.strip = some st → ClosesPennant (s.releaseBuf s.cur st) t st false false)
    ∧ (b.sent < b.cmd.nrep → replies (s.ctx.br r) (exec (.vreply r) s)
      ∧ (readable → replies (if trues = 0 then 0 else 1) (exec (.vreplyAny m) s)
        ∧ replies (if trues = 0 then 1 else 0) (exec (.vreplyNone m) s)
        ∧ replies (BitVec.ofNat 64 trues) (exec (.vreplyPop m) s)))
    ∧ (b.cmd.nrep ≤ b.sent → FaultsWord s 0x09 0 (exec (.vreply r) s) ∧ FaultsWord s 0x09 0 (exec (.vreplyAny m) s)
      ∧ FaultsWord s 0x09 0 (exec (.vreplyNone m) s) ∧ FaultsWord s 0x09 0 (exec (.vreplyPop m) s))
    ∧ (tst s.hart.kbrk 61 = false → ∃ t, exec .vbrk s = .next t ∧ OnlyHart s t ∧ t.ctx.stopped = true
      ∧ t.hart.vfPend = true ∧ fld t.hart.kvfault 0 8 = 0x14 ∧ t.ctx.blk = (passed s).ctx.blk
      ∧ t.ctx.lc = (passed s).ctx.lc ∧ t.ctx.loops = (passed s).ctx.loops)
    ∧ (tst s.hart.kbrk 61 = true → ∃ t, exec .vbrk s = .next t ∧ NextWord s t ∧ t.isBecalmed (coreOf s.cur) = true
      ∧ SameMemory s t ∧ t.ctx.stopped = s.ctx.stopped)
    ∧ FaultsWord s 0x01 0 (exec .illegalWord s)
    ∧ (s.ctx.stopped = false → FaultsWord s 0x02 b.pc (exec (.blockWordFetchFault .page) s)
      ∧ FaultsWord s 0x05 (if fld (s.vecView s.cur).katp 60 4 = 0 then BitVec.ofNat 64 (fld b.pc 0 56) else b.pc)
          (exec (.blockWordFetchFault .access) s))
    ∧ (tst s.hart.kbrk 63 = true → tst s.hart.kbrk 62 = true → tst s.hart.kbrk 61 = false → s.ctx.vsup = false →
        fld s.hart.kbrk 3 54 = fld b.pc 3 54 → FaultsWord s 0x14 0 (exec (.breakpointHit true) s))

/-! ### Strips -/

/-- vsetl (R31, R66, R68-R70, R80, R393). With the context's clusters at MAX and none stalled, G is the request, at most
what the clusters, rows, depth cap and tag hold, rounded down to whole blocks; b[bd] and the strip registers take it, the open
strip closes (R83, R220: its stores perform, then its pennant; a ring outside memory drops, the model's choice, log 12), and one
opens unsealed with its checkpoint. A request of 0 releases every cluster (R31, R394); whether that of the matrix array's owner
does is left open, and its set does not change otherwise (R105; log 117). It is the model's choice that the checkpoint is taken
after the loop step of the word (log 32). An uncorrectable error consumed in an unsealed strip rewinds it, up to three times, to
its checkpoint: the word after the vsetl is next, the buffered stores are gone, and registers and clusters stay (R82); in a
sealed strip, at a fourth rewind and outside a strip it kills the hart's vector side with a machine check (R208, R209), once its
copies have ended (R167). vtag names the tag and keeps the bits; vrseed seeds each lane by its number (R95). -/
def Obligations.StripsOpen : Prop :=
  ∀ (s : State) (bd ba : BReg) (cap : Option BReg) (vt : BitVec 16),
    let t : Tag := vt.setWidth 6
    let x := s.ctx
    let c := coreOf s.cur
    let blk := fld vt 8 4
    let request := (x.br ba).toNat
    let n := if tst vt 14 then s.hart.gcl else (s.clusterSet s.cur).length
    let d := match cap with
      | none => 96
      | some b => if (x.br b).toNat < 1 ∨ 96 < (x.br b).toNat then 96 else (x.br b).toNat
    let most := match sliceWidth t with
      | none => 2 ^ fld vt 6 2 * (8 * n) * d
      | some k => 2 ^ fld vt 6 2 * (8 * n) * min d (96 / k) * 32
    let g0 := min request most
    let g := if blk ≠ 0 ∧ 8 * 2 ^ blk ≤ g0 then g0 - g0 % (8 * 2 ^ blk) else g0
    let bad := tst vt 15 = true ∨ 4 ≤ blk ∨ (tst vt 14 = true ∧ s.hart.inGang = false)
    let quiet := x.waiting ≠ some .clusters ∧ s.stranded c (ctxOf s.cur) = false ∧ (s.coreAt c).stalled = []
    let owner := (s.coreAt c).array.owner = some s.cur
    let opened (o : Out) (count : Nat) (kept : List Nat) : Prop := ∃ u, o = .next u
      ∧ u.ctx.br bd = BitVec.ofNat 64 count ∧ (∀ r, r ≠ bd → u.ctx.br r = x.br r) ∧ u.clusterSet s.cur = kept
      ∧ u.ctx.grant = { vl := BitVec.ofNat 32 ((count + 2 ^ fld vt 6 2 - 1) / 2 ^ fld vt 6 2), vtype := vt, depth := d,
                        g := BitVec.ofNat 32 count, trim := false, f := BitVec.ofNat 32 count }
      ∧ NextWord s u ∧ { u.hart with ctx := s.hart.ctx, kpenc := s.hart.kpenc, monHit := s.hart.monHit
                                     kmcheck := s.hart.kmcheck, mcPend := s.hart.mcPend } = s.hart
      ∧ (Linked s → u.hart.kmcheck = s.hart.kmcheck ∧ u.hart.mcPend = s.hart.mcPend)
      ∧ (x.strip = none → SameMemory s u ∧ u.hart.kpenc = s.hart.kpenc)
      ∧ (∀ st, x.strip = some st → ClosesPennant (s.releaseBuf s.cur st) u st false false)
      ∧ ∃ st, u.ctx.strip = some st ∧ st.isSealed = false ∧ st.buf = [] ∧ st.rewinds = 0 ∧ st.ck.b = u.ctx.b
        ∧ st.ck.bad = u.ctx.bpoison ∧ st.ck.lc = u.ctx.lc ∧ st.ck.loops = u.ctx.loops ∧ st.ck.grant = u.ctx.grant ∧ st.ck.pc = u.bpc s.cur
        ∧ st.ck.rnd = u.ctx.rnd
    (bad → FaultsWord s 0x01 0 (exec (.vsetl bd ba cap vt) s))
    ∧ (¬ bad → t = 0 ∨ tagListed t = false → FaultsWord s 0x07 0 (exec (.vsetl bd ba cap vt) s))
    ∧ (¬ bad → t ≠ 0 → tagListed t = true → quiet → request ≠ 0 →
        (s.clusterSet s.cur).length = s.maxOf c (ctxOf s.cur) → s.minOf c (ctxOf s.cur) ≤ s.maxOf c (ctxOf s.cur) →
        opened (exec (.vsetl bd ba cap vt) s) g (s.clusterSet s.cur))
    ∧ (¬ bad → t ≠ 0 → tagListed t = true → quiet → request = 0 → (owner → Config.ownerReleases = true) →
        opened (exec (.vsetl bd ba cap vt) s) 0 [])
    ∧ (¬ bad → t ≠ 0 → tagListed t = true → quiet → owner → (request = 0 → Config.ownerReleases = false) →
        opened (exec (.vsetl bd ba cap vt) s) g (s.clusterSet s.cur))
    ∧ (∀ src pa : Nat,
      let u := s.consume s.cur src pa
      let rewinds (st : Strip) : Prop := st.isSealed = false ∧ st.rewinds < 3
      (∀ st, x.strip = some st → rewinds st →
        u.ctx.b = st.ck.b ∧ u.ctx.bpoison = st.ck.bad ∧ u.ctx.lc = st.ck.lc ∧ u.ctx.loops = st.ck.loops
          ∧ u.ctx.grant = st.ck.grant ∧ u.ctx.rnd = st.ck.rnd
          ∧ u.ctx.blk = x.blk.map (fun (b : Block) => { b with pc := st.ck.pc })
          ∧ u.ctx.v = x.v ∧ u.ctx.vtags = x.vtags ∧ u.ctx.m = x.m ∧ u.clusterSet s.cur = s.clusterSet s.cur
          ∧ (∃ r, u.ctx.strip = some r ∧ r.isSealed = false ∧ r.buf = [] ∧ r.rewinds = st.rewinds + 1 ∧ r.ck = st.ck
            ∧ r.cnt = { st.cnt with rewound := true })
          ∧ SameMemory s u ∧ { u.hart with ctx := s.hart.ctx } = s.hart ∧ (∀ h, h ≠ s.cur → u.hartAt h = s.hartAt h)
          ∧ (x.shadow = false → u.cores = s.cores))
      ∧ ((∀ st, x.strip = some st → ¬ rewinds st) → x.copying = true →
        OnlyHart s u ∧ u.ctx = { x with dying := some (src, pa), waiting := none })
      ∧ ((∀ st, x.strip = some st → ¬ rewinds st) → x.copying = false →
        u.ctx = { nextCopy := x.nextCopy } ∧ u.hart.queue = [] ∧ u.hart.replies = [] ∧ u.hart.head = s.hart.next
          ∧ u.hart.next = s.hart.next ∧ u.clusterSet s.cur = [] ∧ (u.coreAt c).array.owner ≠ some s.cur
          ∧ (u.coreAt c).stream.owner ≠ some s.cur ∧ u.pc = s.pc ∧ SameX s u
          ∧ (∀ b, x.blk = some b → u.hart.mcPend = some (b.cmd.pos.setWidth 64))
          ∧ tst u.hart.kmcheck 63 = true ∧ fld u.hart.kmcheck 59 4 = src % 16 ∧ tst u.hart.kmcheck 56 = true
          ∧ fld u.hart.kmcheck 57 2 = ((x.strip.map fun st => st.rewinds).getD 0) % 4
          ∧ fld u.hart.kmcheck 0 56 = pa % 2 ^ 56
          ∧ (tst (s.coreAt c).kbecalm 62 = true → u.isBecalmed c = true)
          ∧ (x.strip = none → SameMemory s u ∧ u.hart.kpenc = s.hart.kpenc)
          ∧ ∀ st, x.strip = some st → ClosesPennant s u st false true))
    ∧ (∀ (vd : VReg) (tag : Tag), vd.toNat + (s.sweep s.cur).vrows ≤ 32 → tagListed tag = true →
        ∃ u, exec (.vtag vd tag) s = .next u ∧ VecFrame s u ∧ NextWord s u ∧ u.ctx.v = x.v ∧ u.ctx.m = x.m ∧ u.ctx.b = x.b
          ∧ u.ctx.grant = x.grant ∧ u.ctx.vpoison = x.vpoison ∧ u.hart.kflags = s.hart.kflags
          ∧ ∀ k, u.ctx.tagAt k = if vd.toNat ≤ k ∧ k < vd.toNat + (s.sweep s.cur).vrows then tag else x.tagAt k)
    ∧ (∀ (vd : VReg) (tag : Tag), 32 < vd.toNat + (s.sweep s.cur).vrows → FaultsWord s 0x01 0 (exec (.vtag vd tag) s))
    ∧ ∀ src : BSrc,
      let seed : W32 := match src with
        | .reg r => (x.br r).setWidth 32
        | .imm i => i
      let lane (l : Nat) : W32 :=
        if seed ^^^ BitVec.ofNat 32 (l * 0x9E3779B9) = 0 then 1 else seed ^^^ BitVec.ofNat 32 (l * 0x9E3779B9)
      ∃ u, exec (.vrseed src) s = .next u ∧ OnlyHart s u ∧ NextWord s u ∧ { u.hart with ctx := s.hart.ctx } = s.hart
        ∧ (∀ q, q < 8 * (s.clusterSet s.cur).length →
            laneRnd u.ctx.rnd q = lane (8 * (s.clusterSet s.cur).getD (q / 8) 0 + q % 8))
        ∧ { atWord u.ctx x with rnd := x.rnd, icnt := x.icnt } = x

/-! ### Vector arithmetic -/

/-- Element-wise arithmetic (R359-R361, R372, R379, R381, R383): in the computation type of its sources (R90), exactly, then
rounded once into the format of D (R91, R92). Integers wrap but for .sat; residues are taken modulo the prime of the lane's
cluster (R86); a residue divisor that cannot divide raises DZ and gives 0, an integer one of 0 raises DZ and gives the all-ones
pattern of D (of a float D, that of the bits its tag keeps: log 17). A destination tagged NONE takes the tag of an only integer
source (R90). The smaller and the larger value skip a quiet
NaN unless .p propagates it (R99). Sources without a computation type are a tag fault, groups beyond v31 an illegal word. -/
def Obligations.VectorArithmetic : Prop :=
  ∀ (s : State) (vd va vc : VReg) (b : VSrc) (rm : Rm) (sat p : Bool) (ctl : VCtl) (oa ob oc : Source) (ct : CType)
    (d tg : Tag),
    let add : EOp :=
      { fp := fun dn a b _ => Machine.Num.add dn a b, int := fun _ a b _ => (a + b, 0), zp := fun p a b _ => ((a + b) % p, 0) }
    let sub : EOp :=
      { fp := fun dn a b _ => Machine.Num.add dn a b.negate, int := fun _ a b _ => (a - b, 0)
        zp := fun p a b _ => ((a + (p - b)) % p, 0) }
    let mul : EOp :=
      { fp := fun _ a b _ => a.mul b, int := fun _ a b _ => (a * b, 0), zp := fun p a b _ => (a * b % p, 0) }
    let madd : EOp :=
      { fp := fun dn a b c => Machine.Num.fma dn a b c, int := fun _ a b c => (a * b + c, 0)
        zp := fun p a b c => ((a * b + c) % p, 0) }
    let msub : EOp :=
      { fp := fun dn a b c => Machine.Num.fma dn a b c.negate, int := fun _ a b c => (a * b - c, 0)
        zp := fun p a b c => ((a * b + (p - c)) % p, 0) }
    let div : EOp :=
      { fp := fun _ a b _ => a.div b, ones := fun _ b => b == 0, int := fun _ a b _ => if b = 0 then (-1, evDZ) else (Int.tdiv a b, 0)
        zp := fun p a b _ => match inverseMod b p with
          | some i => (a * i % p, 0)
          | none => (0, evDZ) }
    let pick (big : Bool) (a b : Machine.Num) : Machine.Num :=
      if p && (a.isNan || b.isNan) then .qnan
      else if a.isNan then (if b.isNan then .qnan else b)
      else if b.isNan then a
      else if big then (if a.below b then b else a) else (if b.below a then b else a)
    let extreme (big : Bool) : EOp :=
      { fp := fun _ a b _ => (pick big a b, if a.isSnan || b.isSnan then evNV else 0)
        int := fun _ a b _ => (if big then max a b else min a b, 0), zp := fun _ a _ _ => (a, 0) }
    let abs : EOp :=
      { fp := fun _ a _ _ => if a.isNan then (.qnan, if a.isSnan then evNV else 0) else (a.withSign false, 0)
        int := fun _ a _ _ => ((a.natAbs : Int), 0), zp := fun _ a _ _ => (a, 0) }
    let neg : EOp :=
      { fp := fun _ a _ _ => if a.isNan then (.qnan, if a.isSnan then evNV else 0) else (a.negate, 0)
        int := fun _ a _ _ => (-a, 0), zp := fun p a _ _ => (if a = 0 then 0 else p - a, 0) }
    let into (l : List Tag) : Prop := ctype l = some ct ∧ (ct = .zp → (s.coreAt (coreOf s.cur)).primes ≠ [])
      ∧ destTag s.ctx (s.sweep s.cur) vd = .ok d ∧ resultTag (s.sweep s.cur) l ct d = .ok tg
    let two := [oa.tag, ob.tag]
    let three := [oa.tag, ob.tag, oc.tag]
    (∀ i ∈ [Instr.vadd vd va b rm sat ctl, .vsub vd va b rm sat ctl, .vmul vd va b rm sat ctl, .vdiv vd va b rm ctl],
      (32 < vd.toNat + (s.sweep s.cur).vrows → FaultsWord s 0x01 0 (exec i s))
      ∧ (VecReady s [vd, va] ctl.mask ctl.aq [] → IsVec s va oa → IsB s b oa.tag ob → ctype two = none →
          FaultsWord s 0x07 0 (exec i s)))
    ∧ (into two → VecReady s [vd, va] ctl.mask ctl.aq (oa.regs ++ ob.regs) → IsVec s va oa → IsB s b oa.tag ob →
      (∃ t, exec (.vadd vd va b rm sat ctl) s = .next t ∧ ElementResult s t vd ctl rm sat oa ob oa ct tg add)
      ∧ (∃ t, exec (.vsub vd va b rm sat ctl) s = .next t ∧ ElementResult s t vd ctl rm sat oa ob oa ct tg sub)
      ∧ (∃ t, exec (.vmul vd va b rm sat ctl) s = .next t ∧ ElementResult s t vd ctl rm sat oa ob oa ct tg mul)
      ∧ (∃ t, exec (.vdiv vd va b rm ctl) s = .next t ∧ ElementResult s t vd ctl rm false oa ob oa ct tg div))
    ∧ (into two → VecReady s [vd, va] ctl.mask ctl.aq (oa.regs ++ ob.regs) → IsVec s va oa → IsB s b oa.tag ob →
        oa.tag ≠ tagZP →
      (∃ t, exec (.vmin vd va b rm p ctl) s = .next t ∧ ElementResult s t vd ctl rm false oa ob oa ct tg (extreme false))
      ∧ (∃ t, exec (.vmax vd va b rm p ctl) s = .next t ∧ ElementResult s t vd ctl rm false oa ob oa ct tg (extreme true)))
    ∧ (into three → VecReady s [vd, va, vc] ctl.mask ctl.aq (oa.regs ++ ob.regs ++ oc.regs) → IsVec s va oa →
        IsB s b oa.tag ob → IsVec s vc oc →
      (∃ t, exec (.vmadd vd va b vc rm ctl) s = .next t ∧ ElementResult s t vd ctl rm false oa ob oc ct tg madd)
      ∧ (∃ t, exec (.vmsub vd va b vc rm ctl) s = .next t ∧ ElementResult s t vd ctl rm false oa ob oc ct tg msub))
    ∧ (into [oa.tag] → VecReady s [vd, va] ctl.mask ctl.aq oa.regs → IsVec s va oa →
      (∃ t, exec (.vneg vd va rm ctl) s = .next t ∧ ElementResult s t vd ctl rm false oa oa oa ct tg neg)
      ∧ (d = tagNONE → tg = if ct = .fp then tagFP32 else oa.tag))
    ∧ (into [oa.tag] → VecReady s [vd, va] ctl.mask ctl.aq oa.regs → IsVec s va oa → oa.tag ≠ tagZP →
      ∃ t, exec (.vabs vd va rm ctl) s = .next t ∧ ElementResult s t vd ctl rm false oa oa oa ct tg abs)

/-- Conversions, classes, scales and functions of one source (R368, R371, R373, R387, R391), each element rounded once into D;
the special values of Tables 23-11 and 24-6 with their events. A NONE destination of vcvt takes an integer source's own tag
(R90); that an E8M0 source gives FP32 is the model's choice (log 116). A scale of 255 raises no NV, not even for a signalling
NaN or into a format without a NaN: that is the model's choice where R391 and R97, R98 differ (log 128). The square root is
rounded correctly: what is rounded stands on the same side of every number of up to 78 significant bits as the exact root, and
so does what stands for the reciprocal root. The exponential, the logarithm and the hyperbolic tangent are taken within a tiny
distance of their exact value, which the model draws freely; where the rules allow either representable neighbour, the free
draw of the element chooses it, the upper or the lower one (log 8). Beyond the finite range of D OF and NX are always set: the
largest finite value or infinity below one unit above it, by the draw (log 141), and above that what R96 gives the mode. -/
def Obligations.VectorFunctions : Prop :=
  ∀ (s : State) (vd va : VReg) (b : VSrc) (rm : Rm) (ctl : VCtl) (oa ob : Source) (d : Tag),
    let x := s.ctx
    let w := s.sweep s.cur
    let m := rmode s.hart.kfrm rm
    let primes := (s.coreAt (coreOf s.cur)).primes
    let swept (i : Instr) (t : Tag) (rsto : Bool) (val : Nat → Nat → Nat → Nat × Events) : Prop :=
      ∃ u, exec i s = .next u ∧ Sweeps s u vd t (w.fateOf x ctl t) rsto val
    let tf := if d = tagNONE then tagFP32 else d
    let index (odd : Bool) (r c : Nat) : Nat :=
      if odd then oa.bits r c % 2 ^ (if isSliced oa.tag then elemBits oa.tag - 1 else if oa.tag = tagFP16 then 15 else 31)
      else r * w.vl + c
    let function (i : Instr) (odd : Bool) (f : Draw → Machine.Num → FnRes) : Prop :=
      swept i tf (m == .rsto) fun r c rnd =>
        let dr := drawAt s.tick (index odd r c)
        fnBits tf m rnd dr (f dr (oa.num r c))
    let nans (f : Draw → Machine.Num → FnRes) : Prop := ∀ z q, f z (.nan q) = .special .nan (if q then evNV else 0)
    let zero (q : Bool) : Machine.Num := .fin q 0 1 0
    let tc := if d ≠ tagNONE then d
      else if oa.tag = tagZP then tagZP
      else if isInteger oa.tag then oa.tag else tagFP32
    let ti := if d = tagNONE then tagUINT32 else d
    (VecReady s [vd, va] ctl.mask ctl.aq oa.regs → IsVec s va oa → destTag x w vd = .ok d →
      (isFloat oa.tag = true → isFloat tf = true → w.fits tf = true →
        function (.vsqrt vd va rm ctl) false sqrtFn ∧ function (.vrsqrt vd va rm ctl) false rsqrtFn
        ∧ function (.vrcp vd va rm ctl) false rcpFn ∧ function (.vexp2 vd va rm ctl) false exp2Fn
        ∧ function (.vlog2 vd va rm ctl) false log2Fn ∧ function (.vtanh vd va rm ctl) true tanhFn)
      ∧ (isFloat oa.tag = false → FaultsWord s 0x07 0 (exec (.vsqrt vd va rm ctl) s))
      ∧ (cvtPairs oa.tag tc = true → w.fits tc = true → (oa.tag = tagZP ∨ tc = tagZP → primes ≠ []) →
        swept (.vcvt vd va rm ctl) tc (m == .rsto && oa.tag != tagZP && tc != tagZP
            && !(isInteger oa.tag && isInteger tc)) fun r c rnd =>
          if oa.tag = tagZP then (oa.bits r c % primeOf primes w c, 0)
          else if tc = tagZP then ((oa.int r c % (primeOf primes w c : Int)).toNat, 0)
          else if oa.tag = tagE8M0 ∧ tc = tagE8M0 then (oa.bits r c, 0)
          else if isInteger oa.tag then narrowInt tc m rnd false (oa.int r c) else narrowNum tc m rnd (oa.num r c))
      ∧ (isFloat oa.tag = true → ti = tagINT32 ∨ ti = tagUINT32 → w.fits ti = true →
        swept (.vclass vd va ctl) ti false fun r c _ =>
          (match oa.num r c with
            | .nan q => if q then 0x100 else 0x200
            | .inf q => if q then 0x001 else 0x080
            | .fin q n d e =>
              if n = 0 then (if q then 0x008 else 0x010)
              else if ltScaled n d e 1 (fmtOf oa.tag).emin then (if q then 0x004 else 0x020)
              else (if q then 0x002 else 0x040), 0)))
    ∧ (VecReady s [vd, va] ctl.mask ctl.aq (oa.regs ++ ob.regs) → IsVec s va oa → IsB s b tagE8M0 ob →
        destTag x w vd = .ok d → isFloat oa.tag = true → ob.tag = tagE8M0 → isFloat tf = true ∨ tf = tagE8M0 →
        w.fits tf = true →
      swept (.vscale vd va b rm ctl) tf (m == .rsto) fun r c rnd =>
        if ob.bits r c % 256 = 255 then (if tf = tagE8M0 then 0xFF else (narrowNum tf m rnd .qnan).1, 0)
        else
          let y := (oa.num r c).mul (.fin false 1 1 (((ob.bits r c % 256 : Nat) : Int) - 127))
          ((narrowNum tf m rnd y.1).1, y.2 ||| (narrowNum tf m rnd y.1).2))
    ∧ nans sqrtFn ∧ nans rsqrtFn ∧ nans rcpFn ∧ nans exp2Fn ∧ nans log2Fn ∧ nans tanhFn
    ∧ ∀ (z : Draw) (q : Bool),
      sqrtFn z (zero q) = .rounded (zero q) ∧ sqrtFn z (.inf false) = .rounded (.inf false)
      ∧ sqrtFn z (.inf true) = .special .nan evNV ∧ (∀ n e, n ≠ 0 → sqrtFn z (.fin true n 1 e) = .special .nan evNV)
      ∧ rsqrtFn z (zero q) = .special (.inf q) evDZ ∧ rsqrtFn z (.inf false) = .rounded (zero false)
      ∧ rsqrtFn z (.inf true) = .special .nan evNV
      ∧ rcpFn z (zero q) = .special (.inf q) evDZ ∧ rcpFn z (.inf q) = .rounded (zero q)
      ∧ (∀ n e, n ≠ 0 → rcpFn z (.fin q n 1 e) = .either q 1 n (-e))
      ∧ exp2Fn z (.inf true) = .rounded (zero false) ∧ exp2Fn z (.inf false) = .rounded (.inf false)
      ∧ exp2Fn z (zero q) = .rounded (.fin false 1 1 0)
      ∧ log2Fn z (zero q) = .special (.inf true) evDZ ∧ log2Fn z (.inf false) = .rounded (.inf false)
      ∧ log2Fn z (.inf true) = .special .nan evNV ∧ (∀ n e, n ≠ 0 → log2Fn z (.fin true n 1 e) = .special .nan evNV)
      ∧ tanhFn z (zero q) = .rounded (zero q) ∧ tanhFn z (.inf q) = .rounded (.fin q 1 1 0)
      ∧ (∀ n e, n ≠ 0 → ∃ (m : Nat) (k : Int), sqrtFn z (.fin false n 1 e) = .rounded (.fin false m 1 k)
        ∧ ∀ (u : Nat) (j : Int), u < 2 ^ 78 →
          ((u : ℚ) * 2 ^ j < m * 2 ^ k ↔ ((u : ℚ) * 2 ^ j) ^ 2 < n * 2 ^ e)
          ∧ ((u : ℚ) * 2 ^ j = m * 2 ^ k ↔ ((u : ℚ) * 2 ^ j) ^ 2 = n * 2 ^ e))
      ∧ (∀ n e, n ≠ 0 → ∃ (m : Nat) (k : Int), rsqrtFn z (.fin false n 1 e) = .either false m 1 k
        ∧ ∀ (u : Nat) (j : Int), u < 2 ^ 78 →
          ((u : ℚ) * 2 ^ j < m * 2 ^ k ↔ ((u : ℚ) * 2 ^ j) ^ 2 * (n * 2 ^ e) < 1)
          ∧ ((u : ℚ) * 2 ^ j = m * 2 ^ k ↔ ((u : ℚ) * 2 ^ j) ^ 2 * (n * 2 ^ e) = 1))
      ∧ (∀ (n : Nat) (e : Int), n ≠ 0 → -200 ≤ e →
        let v : ℝ := (if q then -1 else 1) * (n * 2 ^ e)
        (abs v ≤ 2000 → ∃ (a b : Nat) (k : Int), exp2Fn z (.fin q n 1 e) = .either false a b k ∧ b ≠ 0
          ∧ abs ((a : ℝ) / b * 2 ^ k - (2 : ℝ) ^ v) ≤ (2 : ℝ) ^ v / 2 ^ 150)
        ∧ (2000 < abs v → exp2Fn z (.fin q n 1 e) = .either false 1 1 (if q then -2000 else 2000))
        ∧ (v ≠ 1 → 0 < v → ∃ (neg : Bool) (a b : Nat), log2Fn z (.fin q n 1 e) = .either neg a b 0 ∧ b ≠ 0
          ∧ abs ((if neg then -1 else 1) * ((a : ℝ) / b) - Real.logb 2 v) ≤ 1 / 2 ^ 150)
        ∧ ∃ a b : Nat, tanhFn z (.fin q n 1 e) = .either q a b 0 ∧ b ≠ 0 ∧ 0 < a
          ∧ abs ((a : ℝ) / b - Real.tanh (abs v)) ≤ Real.tanh (abs v) / 2 ^ 41 ∧ (a : ℝ) / b < min 1 (abs v))
      ∧ log2Fn z (.fin false 1 1 0) = .rounded (zero false)
      ∧ ∀ (t : Tag) (md : RMode) (rnd n d : Nat) (e : Int), isFloat t = true →
        (aboveFinite (fmtOf t) n d e = false →
          let y := roundFinite (fmtOf t) (if z.bit then .rup else .rtz) false rnd n d e
          fnBits t md rnd z (.either q n d e) = (placeFloat t (encodeFloat (fmtOf t) (y.1.withSign q)), y.2))
        ∧ (aboveFinite (fmtOf t) n d e = true →
          let f := fmtOf t
          let maxf : ℚ := f.maxSig * 2 ^ (f.emax - f.fbits)
          let y := if f.sat = false ∧ (n : ℚ) / d * 2 ^ e < maxf + 2 ^ (f.emax - f.fbits) then
              (if z.bit then FloatRes.inf q else maxFinite f q)
            else if f.sat then maxFinite f q
            else if (match md with | .rne => true | .rmm => true | .rtz => false | .rdn => q | .rup => !q | .rsto => true)
              then .inf q else maxFinite f q
          d ≠ 0 → fnBits t md rnd z (.either q n d e) = (placeFloat t (encodeFloat f y), evOF ||| evNX))

/-- Bit patterns, shifts, selection, moves, broadcast and indices (R364, R365, R375, R382, R390, R392). Bit operations work
on 32-bit integer patterns, or on the containers of one float tag that sources and D share; shifts on the 32-bit pattern of
a in T by the low five bits; vshl.sat saturates the exact product. vsel narrows what it chooses from T, so an integer beside a
float one from the FP32 domain (R90, R92), copies a source that carries D's tag, a scalar beside BF16 among them, and reads
a scalar beside ZP modulo the lane's prime (Table 19-6); that it narrows a scalar beside a sliced float, whose pattern is FP32,
is the model's choice (log 132). -/
def Obligations.VectorMoves : Prop :=
  ∀ (s : State) (vd va : VReg) (b : VSrc) (ctl : VCtl) (oa ob : Source) (d : Tag),
    let x := s.ctx
    let w := s.sweep s.cur
    let primes := (s.coreAt (coreOf s.cur)).primes
    let swept (i : Instr) (t : Tag) (fate : Nat → Nat → Fate) (val : Nat → Nat → Nat × Events) : Prop :=
      ∃ u, exec i s = .next u ∧ Sweeps s u vd t fate false fun r c _ => val r c
    let bitwise (i : Instr) (f : Nat → Nat → Nat) : Prop := ∀ t, logicTag w oa.tag ob.tag d = .ok t →
      swept i t (w.fateOf x ctl t) fun r c =>
        if isInteger t then (f (intBits 32 (oa.int r c)) (intBits 32 (ob.int r c)) % 2 ^ elemBits t, 0)
        else
          let y := f (oa.bits r c) (ob.bits r c)
          (if t = tagBF16 then y - y % 0x10000 else if t = tagFP16 then y % 0x10000 else y, 0)
    let shift (i : Instr) (f : W32 → Nat → W32) : Prop := ∀ ct t, isInteger oa.tag = true → isInteger ob.tag = true →
      ctype [oa.tag, ob.tag] = some ct → resultTag w [oa.tag, ob.tag] ct d = .ok t → isInteger t = true →
      swept i t (w.fateOf x ctl t) fun r c =>
        let y := f (BitVec.ofInt 32 (oa.int r c)) (intBits 32 (ob.int r c) % 32)
        (intBits (elemBits t) (if ct = .int32 then y.toInt else (y.toNat : Int)), 0)
    let plain (t : Tag) : Prop := t ≠ tagZP ∧ t ≠ tagE8M0
    let chosen (t : Tag) (r c : Nat) : Source := if maskOpen x ctl.mask t r c then oa else ob
    (VecReady s [vd, va] ctl.mask ctl.aq (oa.regs ++ ob.regs) → IsVec s va oa → IsB s b oa.tag ob →
        destTag x w vd = .ok d →
      bitwise (.vand vd va b ctl) (fun p q => p &&& q) ∧ bitwise (.vor vd va b ctl) (fun p q => p ||| q)
      ∧ bitwise (.vxor vd va b ctl) (fun p q => p ^^^ q)
      ∧ shift (.vshl vd va b false ctl) (fun p n => p <<< n) ∧ shift (.vshr vd va b ctl) (fun p n => p >>> n)
      ∧ shift (.vsar vd va b ctl) (fun p n => p.sshiftRight n)
      ∧ (∀ ct t, isInteger oa.tag = true → isInteger ob.tag = true → ctype [oa.tag, ob.tag] = some ct →
          resultTag w [oa.tag, ob.tag] ct d = .ok t → isInteger t = true →
        swept (.vshl vd va b true ctl) t (w.fateOf x ctl t) fun r c =>
          let y : Int := oa.int r c * 2 ^ (intBits 32 (ob.int r c) % 32)
          if y < intMin t then (intBits (elemBits t) (intMin t), evOF)
          else if intMax t < y then (intBits (elemBits t) (intMax t), evOF) else (intBits (elemBits t) y, 0))
      ∧ (∀ ct t, plain oa.tag → plain ob.tag → plain d → ctype [oa.tag, ob.tag] = some ct →
          resultTag w [oa.tag, ob.tag] ct d = .ok t →
        swept (.vsel vd va b ctl) t (w.fate (tailOnes w ctl.tail) fun _ _ => true) fun r c =>
          let o := chosen t r c
          if o.tag = t ∧ (o.rtag = o.tag ∨ t = tagBF16) then (o.bits r c % 2 ^ elemBits t, 0)
          else if ct = .fp then narrowNum t .rne 0 (o.num r c) else narrowInt t .rne 0 false (o.int r c))
      ∧ ((oa.tag = tagZP ∨ oa.tag = tagE8M0) → ob.tag = oa.tag → d = tagNONE ∨ d = oa.tag → w.fits oa.tag = true →
          (oa.tag = tagZP → ob.regs = [] → primes ≠ []) →
        swept (.vsel vd va b ctl) oa.tag (w.fate (tailOnes w ctl.tail) fun _ _ => true) fun r c =>
          let o := chosen oa.tag r c
          (if oa.tag = tagZP ∧ o.regs = [] then o.bits r c % primeOf primes w c else o.bits r c % 2 ^ elemBits oa.tag, 0)))
    ∧ (VecReady s [vd, va] ctl.mask ctl.aq oa.regs → IsVec s va oa → destTag x w vd = .ok d →
      (d = tagNONE ∨ d = oa.tag → swept (.vmov vd va ctl) oa.tag (w.fateOf x ctl oa.tag) fun r c => (oa.bits r c, 0))
      ∧ (d ≠ tagNONE → d ≠ oa.tag → FaultsWord s 0x07 0 (exec (.vmov vd va ctl) s)))
    ∧ (VecReady s [vd] ctl.mask ctl.aq [] → destTag x w vd = .ok d →
      (d ≠ tagNONE → d ≠ tagE8M0 → w.fits d = true → (d = tagZP → primes ≠ []) → b.scalar = true → IsB s b d ob →
        swept (.vbcast vd b ctl) d (w.fateOf x ctl d) fun r c =>
          if d = tagZP then (ob.bits r c % primeOf primes w c, 0)
          else if isInteger ob.rtag then narrowInt d .rne 0 false (ob.int r c) else narrowNum d .rne 0 (ob.num r c))
      ∧ (d ≠ tagE8M0 → d ≠ tagZP → w.fits (if d = tagNONE then tagINT32 else d) = true →
        swept (.vid vd ctl) (if d = tagNONE then tagINT32 else d) (w.fateOf x ctl (if d = tagNONE then tagINT32 else d))
          fun r c => narrowInt (if d = tagNONE then tagINT32 else d) .rne 0 false ((r * w.vl + c : Nat) : Int)))

/-! ### Masks -/

/-- Comparisons write a mask bit for every position of the mask sweep (R319, R369); mlog combines masks bit by bit, mbef,
minc and monly mark positions about the first true one (R320, R321); mpop, mfirst and mtest tell a b-register of the true
active positions (R327). -/
def Obligations.MasksWritten : Prop :=
  ∀ (s : State) (cc : VCond) (md ma mb : MReg) (va : VReg) (b : VSrc) (c : MCtl) (op : MlogOp) (bd : BReg) (none1 : Bool)
      (oa ob : Source),
    let x := s.ctx
    let w := s.sweep s.cur
    let primes := (s.coreAt (coreOf s.cur)).primes
    let live (r p : Nat) : List Nat := (w.columns p).filter fun col => decide (r * w.vl + col < w.g)
    let on (r p : Nat) : Bool := match c.mask with
      | some m => x.mbit m.toNat r p
      | none => true
    let clean (l : List MReg) : Prop := ∀ m, m ∈ l → MaskClean s m
    let trues := w.maskCells.filter fun e => w.maskActive e.1 e.2 && x.mbit ma.toNat e.1 e.2
    let index (e : Nat × Nat) : Nat := e.1 * w.positions + e.2
    let first := trues.head?.map index
    let tells (v : Word) (o : Out) : Prop := ∃ t, o = .next t ∧ VecFrame s t ∧ NextWord s t
      ∧ t.ctx.icnt = (x.icnt + 1) % 8 ∧ t.ctx.br bd = v ∧ ¬ BPoisoned t bd
      ∧ (∀ r, r ≠ bd → t.ctx.br r = x.br r ∧ (BPoisoned t r ↔ BPoisoned s r)) ∧ t.hart.kflags = s.hart.kflags
      ∧ (x.strip = none → t.ctx.strip = none)
      ∧ { atWord t.ctx x with b := x.b, bpoison := x.bpoison, icnt := x.icnt, strip := x.strip } = x
    (∀ ct, VecReady s [va] c.mask c.aq (oa.regs ++ ob.regs) → IsVec s va oa → IsB s b oa.tag ob →
        ctype [oa.tag, ob.tag] = some ct → (ct = .zp → primes ≠ [] ∧ (cc = .eq ∨ cc = .ne)) →
      let holds (r col : Nat) : Bool × Events := match ct with
        | .fp => vcondNum cc (oa.num r col) (ob.num r col)
        | .zp => (vcondInt cc (oa.res (primeOf primes w col) r col : Nat) (ob.res (primeOf primes w col) r col : Nat), 0)
        | _ => (vcondInt cc (oa.int r col) (ob.int r col), 0)
      ∃ t, exec (.vcmp cc md va b c) s = .next t
        ∧ WritesMask s t md (w.maskCells.foldl (fun e rp =>
            if on rp.1 rp.2 then (live rp.1 rp.2).foldl (fun f col => f ||| (holds rp.1 col).2) e else e) (0 : Events))
          fun r p => if on r p then some ((live r p).any fun col => (holds r col).1) else if w.ma then some true else none)
    ∧ (VecReady s [] none false [] → clean [ma] →
      (op = .not ∨ clean [mb] → ∃ t, exec (.mlog op md ma mb) s = .next t ∧ WritesMask s t md 0 fun r p =>
        let p1 := x.mbit ma.toNat r p
        let p2 := x.mbit mb.toNat r p
        some (match op with
          | .and => p1 && p2
          | .or => p1 || p2
          | .xor => p1 != p2
          | .andn => p1 && !p2
          | .not => !p1))
      ∧ (∃ t, exec (.mbef md ma) s = .next t ∧ WritesMask s t md 0 fun r p =>
          some (match first with | some k => decide (index (r, p) < k) | none => true))
      ∧ (∃ t, exec (.minc md ma) s = .next t ∧ WritesMask s t md 0 fun r p =>
          some (match first with | some k => decide (index (r, p) ≤ k) | none => true))
      ∧ (∃ t, exec (.monly md ma) s = .next t ∧ WritesMask s t md 0 fun r p => some (first == some (index (r, p)))))
    ∧ (s.ctx.grant.g = 0 ∨ clean [ma] →
      tells (BitVec.ofNat 64 trues.length) (exec (.mpop bd ma) s)
      ∧ tells (match trues with
          | [] => BitVec.allOnes 64
          | e :: _ => BitVec.ofNat 64 (e.1 * w.vl + (if isSliced w.ref then 32 * e.2 else e.2))) (exec (.mfirst bd ma) s)
      ∧ tells (if trues.isEmpty = none1 then 1 else 0) (exec (.mtest none1 bd ma) s))

/-! ### Reductions and permutes -/

/-- Reductions (R78, R95, R385, R386): the present elements combine in element order or in the tree that the word names, an
element with an absent partner passing unchanged. Each step of a float vrsum is exact and rounded once into D, of the extremes
exact and rounded once at the end; under rsto each rounding takes the next state of the first lane. Element 0 takes the value,
every other one of D's group follows the tail policy. Integers combine exactly and are narrowed once; with no element present
the value is that of Table 24-4, without an event: that an extreme in a format without a NaN is +0 then is the model's choice
(log 44); a ZP vrsum gives each cluster's sum modulo its prime at column 8i; vrbit counts one bits. -/
def Obligations.Reductions : Prop :=
  ∀ (s : State) (vd va : VReg) (rm : Rm) (tree : Bool) (ctl : VCtl) (oa : Source) (ct : CType) (d t : Tag),
    VecReady s [vd, va] ctl.mask ctl.aq oa.regs → IsVec s va oa → destTag s.ctx (s.sweep s.cur) vd = .ok d →
    (s.sweep s.cur).vl ≠ 0 →
    let x := s.ctx
    let w := s.sweep s.cur
    let primes := (s.coreAt (coreOf s.cur)).primes
    let m := rmode s.hart.kfrm rm
    let part := w.elements.filter fun e => maskOpen x ctl.mask oa.tag e.1 e.2
    let bits := w.elements.map fun e =>
      if maskOpen x ctl.mask oa.tag e.1 e.2 then some (oa.bits e.1 e.2) else none
    let start : RedAcc := { rnd := laneRnd x.rnd 0, ev := 0 }
    let fate (cols : List Nat) (r c : Nat) : Fate :=
      if r = 0 ∧ c ∈ cols then .active else if tailOnes w ctl.tail then .ones else .keep
    let reduced (i : Instr) (t : Tag) (rnd : W32) (cols : List Nat) (val : Nat → Nat × Events) : Prop :=
      ∃ u, exec i s = .next (u.modCtx s.cur fun y => { y with rnd := Sparse.write onesW y.rnd 0 rnd })
        ∧ Sweeps s u vd t (fate cols) false fun _ c _ => val c
    let word (kind : Option Bool) : Instr := match kind with
      | none => .vrsum vd va rm tree ctl
      | some true => .vrmax vd va rm tree ctl
      | some false => .vrmin vd va rm tree ctl
    let value (kind : Option Bool) := reduceValue ct t m tree kind oa.tag bits start
    let nums := w.elements.map fun e =>
      if maskOpen x ctl.mask oa.tag e.1 e.2 then some (oa.num e.1 e.2) else none
    let narrow (y : Machine.Num) (p : RedAcc) : Nat × RedAcc :=
      let rnd := if m = .rsto then advanceRnd p.rnd else p.rnd
      let z := narrowNum t m (fld rnd 16 16) y
      (z.1, { rnd := rnd, ev := p.ev ||| z.2 })
    let pick (big : Bool) (a b : Machine.Num) : Machine.Num :=
      if a.isNan then (if b.isNan then .qnan else b)
      else if b.isNan then a
      else if big then (if a.below b then b else a) else (if b.below a then b else a)
    let step (kind : Option Bool) (a b : Machine.Num) (p : RedAcc) : Machine.Num × RedAcc := match kind with
      | none =>
        let y := Machine.Num.add (m == .rdn) a b
        let z := narrow y.1 { p with ev := p.ev ||| y.2 }
        (decodeElem t z.1, z.2)
      | some big => (pick big a b, { p with ev := p.ev ||| if a.isSnan || b.isSnan then evNV else 0 })
    let whole (steps : Bool) (i : Int) : Nat × RedAcc :=
      if isInteger t then
        (intBits (elemBits t) i, { start with rnd := if steps && m == .rsto then advanceRnd start.rnd else start.rnd })
      else narrow (.ofInt i) start
    (ctype [oa.tag] = some ct → ct ≠ .zp → resultTag w [oa.tag] ct d = .ok t →
      (∀ kind, reduced (word kind) t (value kind).2.rnd [0] fun _ => ((value kind).1, (value kind).2.ev))
      ∧ (part ≠ [] → ct = .fp → ∀ kind, ∃ z q, reduceNums tree (step kind) nums start = (some z, q)
        ∧ value kind = if kind = none ∧ 2 ≤ part.length then ((narrowNum t m 0 z).1, q) else narrow z q)
      ∧ (part = [] → (∀ kind, (value kind).2 = start) ∧ (value none).1 = 0
        ∧ (isInteger t = true → (value (some true)).1 = intBits (elemBits t) (intMin t)
          ∧ (value (some false)).1 = intBits (elemBits t) (intMax t))
        ∧ (isFloat t = true → ∀ big, (value (some big)).1 =
            if t = tagFP32 ∨ t = tagBF16 then 0x7FC00000 else if t = tagFP16 then 0x7E00
            else if t = tagE4M3 then 0x7F else if t = tagE5M2 then 0x7E else 0))
      ∧ (part ≠ [] → ct ≠ .fp → ∃ top low : Int,
          value none = whole false (part.foldl (fun a e => a + oa.int e.1 e.2) 0)
          ∧ value (some true) = whole true top ∧ value (some false) = whole true low
          ∧ (∃ e ∈ part, oa.int e.1 e.2 = top) ∧ (∃ e ∈ part, oa.int e.1 e.2 = low)
          ∧ ∀ e ∈ part, low ≤ oa.int e.1 e.2 ∧ oa.int e.1 e.2 ≤ top))
    ∧ (oa.tag = tagZP → primes ≠ [] → resultTag w [oa.tag] .zp d = .ok t →
      reduced (.vrsum vd va rm tree ctl) t start.rnd ((List.range w.clusters.length).map fun i => 8 * i) (fun c =>
        ((part.filter fun e => e.2 % w.lanes / 8 == c / 8).foldl
          (fun a e => (a + oa.bits e.1 e.2) % primes.getD (w.clusters.getD (c / 8) 0 % primes.length) 1) 0, 0))
      ∧ FaultsWord s 0x07 0 (exec (.vrmax vd va rm tree ctl) s) ∧ FaultsWord s 0x07 0 (exec (.vrmin vd va rm tree ctl) s))
    ∧ (oa.tag ≠ tagZP → oa.tag ≠ tagE8M0 → (if d = tagNONE then tagUINT32 else d) = t → t = tagUINT32 ∨ t = tagINT32 →
        w.fits t = true →
      reduced (.vrbit vd va tree ctl) t start.rnd [0] fun _ =>
        ((part.foldl (fun a e => a + ((List.range (elemBits oa.tag)).filter fun i => (oa.bits e.1 e.2).testBit i).length) 0)
          % 2 ^ 32, 0))
    ∧ ∀ (f : Machine.Num → Machine.Num → RedAcc → Machine.Num × RedAcc) (a b : Option Machine.Num)
        (u v : Machine.Num) (l : List (Option Machine.Num)) (p : RedAcc),
      combine f (some u) (some v) p = (some (f u v p).1, (f u v p).2)
      ∧ combine f a none p = (a, p) ∧ combine f none b p = (b, p)
      ∧ reduceNums false f [a] p = (a, p)
      ∧ reduceNums false f (l ++ [b]) p
        = combine f (reduceNums false f l p).1 b (reduceNums false f l p).2
      ∧ treeLevel f [] p = ([], p) ∧ treeLevel f [a] p = ([a], p)
      ∧ treeLevel f (a :: b :: l) p
        = ((combine f a b p).1 :: (treeLevel f l (combine f a b p).2).1, (treeLevel f l (combine f a b p).2).2)
      ∧ reduceNums true f [a] p = (a, p)
      ∧ (2 ≤ l.length → l.length ≤ 2 ^ 62 →
          reduceNums true f l p = reduceNums true f (treeLevel f l p).1 (treeLevel f l p).2)

/-- Permutes (R370, R374, R395): vslide takes the element that its signed amount names and vgath the one of an index, 0
outside 0 … G−1; vcomp packs the elements that the mask picks, vexpd spreads elements to them. Bit strings (R77, R366)
join the G columns of a row into one number, which vbsl, vbsr, vfunl and vfunr shift, vbext cuts and vbins fills. A group
that a permute would read and write is an illegal word. -/
def Obligations.Permutes : Prop :=
  ∀ (s : State) (vd va vb : VReg) (src : VSrc) (bn : BReg) (n : BitVec 16) (ctl : VCtl) (tail : Tail) (oa ob : Source),
    let x := s.ctx
    let w := s.sweep s.cur
    let t := oa.tag
    let apart (a b : VReg) : Prop := a.toNat + w.vrows ≤ b.toNat ∨ b.toNat + w.vrows ≤ a.toNat
    let swept (i : Instr) (fate : Nat → Nat → Fate) (val : Nat → Nat → Nat) : Prop :=
      ∃ u, exec i s = .next u ∧ Sweeps s u vd t fate false fun r c _ => (val r c, 0)
    let at_ (i : Int) : Nat := if 0 ≤ i ∧ i < w.g then oa.bits (i.toNat / w.vl) (i.toNat % w.vl) else 0
    let amount : Int := match src with
      | .breg r => (x.br r).toInt
      | .imm i => i.toInt
      | .vec _ => 0
    let picked := (w.elements.filter fun e => maskOpen x ctl.mask t e.1 e.2).map fun e => e.1 * w.vl + e.2
    let rest : Fate := if tailOnes w ctl.tail then .ones else .keep
    let columns (r : Nat) : Nat := min (w.g - r * w.vl) w.vl
    let len (r : Nat) : Nat := 32 * columns r
    let string (o : Source) (r : Nat) : Nat :=
      ((List.range (columns r)).map fun c => o.bits r c * 2 ^ (32 * c)).foldl (· + ·) 0
    let strings (i : Instr) (f : Nat → Nat) : Prop :=
      swept i (fun r c => if r * w.vl + c < w.g then .active else if tailOnes w tail then .ones else .keep)
        fun r c => f r / 2 ^ (32 * c) % 2 ^ 32
    let shift : Nat := match src with
      | .breg r => (x.br r).toNat
      | .imm i => i.toNat
      | .vec _ => 0
    let pos := fld (x.br bn) 0 32
    let cut := fld (x.br bn) 32 32
    (VecReady s [vd, va] ctl.mask ctl.aq oa.regs → IsVec s va oa → isSliced t = false → t ≠ tagZP → apart vd va →
      (src.scalar = true → swept (.vslide vd va src ctl) (w.fateOf x ctl t) fun r c =>
        at_ (((r * w.vl + c : Nat) : Int) - amount))
      ∧ swept (.vcomp vd va ctl) (fun r c => if r * w.vl + c < picked.length then .active else rest)
          (fun r c => at_ ((picked.getD (r * w.vl + c) 0 : Nat) : Int))
      ∧ swept (.vexpd vd va ctl) (w.fateOf x ctl t)
          (fun r c => at_ (((picked.filter fun e => decide (e < r * w.vl + c)).length : Nat) : Int)))
    ∧ (VecReady s [vd, va, vb] ctl.mask ctl.aq (oa.regs ++ ob.regs) → IsVec s va oa → IsVec s vb ob → isSliced t = false →
        t ≠ tagZP → ob.tag = tagINT32 ∨ ob.tag = tagUINT32 → apart vd va → apart vd vb →
      swept (.vgath vd va vb ctl) (w.fateOf x ctl t) fun r c => at_ ((ob.bits r c : Nat) : Int))
    ∧ (vd.toNat + w.vrows ≤ 32 → ¬ apart vd va → acquireOk x ctl.mask ctl.aq = true → src.scalar = true →
      FaultsWord s 0x01 0 (exec (.vslide vd va src ctl) s) ∧ FaultsWord s 0x01 0 (exec (.vgath vd va vb ctl) s)
        ∧ FaultsWord s 0x01 0 (exec (.vcomp vd va ctl) s) ∧ FaultsWord s 0x01 0 (exec (.vexpd vd va ctl) s))
    ∧ (VecReady s [vd, va] none false oa.regs → IsVec s va oa → isSliced t = false → t ≠ tagZP →
      (src.scalar = true →
        strings (.vbsl vd va src tail) (fun r => string oa r * 2 ^ shift % 2 ^ len r)
        ∧ strings (.vbsr vd va src tail) (fun r => string oa r / 2 ^ shift))
      ∧ strings (.vbext vd va bn tail) (fun r => string oa r / 2 ^ pos % 2 ^ min cut (len r)))
    ∧ (VecReady s [vd, va, vb] none false (oa.regs ++ ob.regs) → IsVec s va oa → IsVec s vb ob → isSliced t = false →
        t ≠ tagZP → isSliced ob.tag = false → ob.tag ≠ tagZP →
      strings (.vfunl vd va vb n tail) (fun r => (string oa r * 2 ^ len r + string ob r) * 2 ^ n.toNat / 2 ^ len r % 2 ^ len r)
      ∧ strings (.vfunr vd va vb n tail) (fun r => (string ob r * 2 ^ len r + string oa r) / 2 ^ n.toNat % 2 ^ len r))
    ∧ (VecReady s [vd, va] none false (oa.regs ++ ob.regs) → IsVec s va oa → IsVec s vd ob → isSliced t = false →
        t ≠ tagZP → isSliced ob.tag = false → ob.tag ≠ tagZP →
      strings (.vbins vd va bn tail) fun r =>
        let k := min cut (len r - pos)
        if pos < len r then
          string ob r % 2 ^ pos + string oa r % 2 ^ k * 2 ^ pos + string ob r / 2 ^ (pos + k) * 2 ^ (pos + k)
        else string ob r)

/-! ### Vector memory -/

/-- Vector loads (R67, R75, R76, R163, R164, R376-R378, R396, R399): each active element takes its bytes, the lowest first, in
the register format of the tag, under the pages that the probe has pinned, as the context reads them once the strip has sealed
where it must (R81); the rest of the group follows the policies. Element e of a unit-stride access lies e elements from base +
offset, a strided one e strides, an indexed one at its index. A misaligned active element faults with its address, and the
lowest page that fails with what its probe gives. A unit-stride load waits for an outstanding copy of its context that has
still to write what it reads, and every load for data of another node, which are an access fault when they are lost (R217);
that one transaction stands for all that a word reads there is the model's choice (log 104). vldff keeps the elements below the
first whose page fails, or whose data are lost, and trims G to them; those from it on follow the tail policy (R75), with vrows
1 up to the vl before the trim, which is the model's choice (log 45). A table load reads the bank of its lane; an offset beyond
it, or not a multiple of 4, faults. -/
def Obligations.VectorLoads : Prop :=
  ∀ (s s1 : State) (vd vi : VReg) (base bs : BReg) (off : BitVec 16) (t ti : Tag) (o : Option Scope) (c : VCtl) (p : Pins),
    let x := s.ctx
    let w := s.sweep s.cur
    let v := s.vecView s.cur
    let a : Word := x.br base + off.signExtend 64
    let unitAt (r c : Nat) : MemElem := memElem x w t a .unit r c
    let strideAt (r c : Nat) : MemElem := memElem x w t a (.stride (x.br bs)) r c
    let indexAt (r c : Nat) : MemElem := memElem x w t a (.index vi (ti == tagINT32)) r c
    let els (f : Nat → Nat → MemElem) : List MemElem :=
      (w.elements.map fun e => f e.1 e.2).filter (elemOn x c.mask c.aq t)
    let sealed (q : State) (l : List VReg) (skip : Nat) (fate : Nat → Nat → Fate) : State := q.touch s.cur
      { rv := l.flatMap w.group, rm := maskRegs c.mask, skip := skip, wv := w.written vd fate }
    let value (q : State) (e : MemElem) : Nat :=
      let n := natOfBytes (elemBytes q v.kspb p e) / 2 ^ e.sh % 2 ^ memBits t
      if t = tagBF16 then n * 0x10000 else n
    let far (l : List MemElem) : Prop := ∃ e ∈ l, ∃ i < e.n, (s1.paKind (pinnedPa v.kspb p e i)).isRemote = true
    let probed (l : List MemElem) : Prop := s.probe v .load (pagesOf v.kspb l) [] = .ok (p, s1)
    let waits (why : VWait) (o : Out) : Prop := ∃ u, o = .next u ∧ u.ctx.waiting = some why ∧ u.ctx.blk = x.blk
      ∧ u.ctx.v = x.v ∧ u.ctx.vtags = x.vtags ∧ u.ctx.m = x.m ∧ u.ctx.grant = x.grant ∧ u.ctx.strip = x.strip
      ∧ ∀ k, u.byteAt k = s1.byteAt k
    let fate (f : Nat → Nat → MemElem) : Nat → Nat → Fate :=
      w.fate (tailOnes w c.tail) fun r col => elemOn x c.mask c.aq t (f r col)
    let loads (i : Instr) (k : HeatKind) (l : List VReg) (f : Nat → Nat → MemElem) : Prop :=
      let q := sealed s1 l (w.memSkips x c.mask c.aq t f) (fate f)
      x.step = 0 → (pagesOf v.kspb (els f)).length ≤ 2048 → probed (els f) →
      ((x.answered = true ∧ x.lost = false ∨ ¬ far (els f)) → (∀ e ∈ els f, Readable q v.kspb p e) →
        ∃ u, exec i s = .next u
          ∧ Sweeps (q.heat v k p (els f)) u vd t (fate f) false (fun r col _ => (value q (f r col), 0))
          ∧ VecFrame s1 q ∧ q.cores = s1.cores ∧ q.towers = s1.towers ∧ { q.ctx with strip := x.strip } = x)
      ∧ (x.answered = false → far (els f) → waits (.remote (t == tagZP)) (exec i s))
      ∧ (∀ b, x.answered = true → x.lost = true → s1.remoteByte v.kspb p (els f) = some b →
        FaultsWord s 0x05 (v.faultAddr b.1 b.2) (exec i s))
    let first := s.firstFailing s.cur v (els unitAt)
    let aligned4 (l : List MemElem) : Prop := isSliced t = true ∨ ∀ e ∈ l, e.va.toNat % e.n = 0
    let container := isSliced t = false ∧ t ≠ tagNONE ∧ tagListed t = true ∧ w.fits t = true
    let index := sourceTag x w vi = .ok ti ∧ (ti = tagINT32 ∨ ti = tagUINT32)
    let misaligned (i : Instr) (f : Nat → Nat → MemElem) : Prop :=
      ∀ e, (els f).find? (fun e => !aligned e.va e.n) = some e → FaultsWord s 0x06 e.va (exec i s)
    let stops (i : Instr) (l : List MemElem) : Prop := ∀ sub va, aligned4 l → x.step = 0 →
      (pagesOf v.kspb l).length ≤ 2048 → s.probe v .load (pagesOf v.kspb l) [] = .error (.fault sub va) →
      FaultsWord s sub va (exec i s)
    let active := s.tableActive s.cur x w vi t c.mask c.aq
    let offset (e : Nat × Nat) : Nat := x.elem w.lanes tagUINT32 (vi.toNat + e.1) e.2
    let bank (e : Nat × Nat) : Nat :=
      let lane := 8 * w.clusters.getD (e.2 % w.lanes / 8) 0 + e.2 % 8
      spadPa (if lane < 64 then coreOf s.cur else (s.nextHelm (coreOf s.cur)).getD (coreOf s.cur))
        (256 * (offset e / 4) + 4 * (lane % 64))
    let tableFate := w.fate (tailOnes w c.tail) fun r col => active.any fun e => e == (r, col)
    (VecReady s [vd] c.mask c.aq [] →
      (t ≠ tagNONE → tagListed t = true → w.fits t = true →
        (aligned4 (els unitAt) → s.chained s.cur v (els unitAt) = false →
          loads (.vld vd base off t o c) .unit [] unitAt ∧ stops (.vld vd base off t o c) (els unitAt))
        ∧ (aligned4 (els unitAt) → s.chained s.cur v (els unitAt) = true → s1 = s →
          waits (.chain (t == tagZP)) (exec (.vld vd base off t o c) s))
        ∧ (x.answered = false ∨ x.lost = false → first = (s.failing v .load (els unitAt)).head?)
        ∧ (aligned4 (els unitAt) → first = none →
          loads (.vldff vd base off t o c) .unit [] unitAt)
        ∧ (isSliced t = false → misaligned (.vld vd base off t o c) unitAt ∧ misaligned (.vldff vd base off t o c) unitAt)
        ∧ (∀ e, first = some e → e.r * w.vl + e.c = 0 → stops (.vldff vd base off t o c) (els unitAt)
          ∧ (aligned4 (els unitAt) → probed (els unitAt) → ∀ b, x.answered = true → x.lost = true →
            s1.remoteByte v.kspb p (els unitAt) = some b →
            FaultsWord s 0x05 (v.faultAddr b.1 b.2) (exec (.vldff vd base off t o c) s)))
        ∧ (aligned4 (els unitAt) → ∀ e, first = some e → e.r * w.vl + e.c ≠ 0 →
          let g := e.r * w.vl + e.c
          let kept := (els unitAt).filter fun m => decide (m.r * w.vl + m.c < g)
          let part : Sweep := { w with g := g }
          let q := sealed s1 [] (w.memSkips x c.mask c.aq t unitAt)
            (part.fate (tailOnes w c.tail) fun r col => kept.any fun m => m.r == r && m.c == col)
          probed kept → (x.answered = true ∧ x.lost = false ∨ ¬ far kept) → (∀ e ∈ kept, Readable q v.kspb p e) →
          ∃ u, exec (.vldff vd base off t o c) s = .next u
            ∧ u.ctx.grant = { x.grant with g := BitVec.ofNat 32 g, f := BitVec.ofNat 32 g, trim := true,
                                           vl := if w.vrows = 1 then BitVec.ofNat 32 g else x.grant.vl }
            ∧ Sweeps (q.heat v .unit p kept) (u.modCtx s.cur fun y => { y with grant := x.grant }) vd t
              (part.fate (tailOnes w c.tail) fun r col => elemOn x c.mask c.aq t (unitAt r col)) false
              (fun r col _ => (value q (unitAt r col), 0))
            ∧ VecFrame s1 q ∧ q.cores = s1.cores ∧ q.towers = s1.towers ∧ { q.ctx with strip := x.strip } = x))
      ∧ (container → (aligned4 (els strideAt) → loads (.vlds vd base off bs t o c) .strided [] strideAt)
        ∧ stops (.vlds vd base off bs t o c) (els strideAt) ∧ misaligned (.vlds vd base off bs t o c) strideAt))
    ∧ (VecReady s [vd, vi] c.mask c.aq (w.group vi) → container → index →
      (aligned4 (els indexAt) → loads (.vldx vd base off vi t o c) .indexed [vi] indexAt)
      ∧ stops (.vldx vd base off vi t o c) (els indexAt) ∧ misaligned (.vldx vd base off vi t o c) indexAt
      ∧ (let q := sealed s [vi] (s.tableSkips s.cur x w vi t c.mask c.aq) tableFate
        (∀ e ∈ active, offset e < 0xC000 ∧ offset e % 4 = 0 ∧ q.vecPoison s.cur (q.cell (bank e)) 4 = false) →
        ∃ u, exec (.vtld vd vi t c) s = .next u ∧ Sweeps s u vd t tableFate false fun r col _ =>
          (natOfBytes (q.vecBytes s.cur (q.cell (bank (r, col))) 4), 0))
      ∧ (∀ e, active.find? (fun e => decide (0xC000 ≤ offset e)) = some e →
          FaultsWord s 0x08 (BitVec.ofNat 64 (offset e)) (exec (.vtld vd vi t c) s))
      ∧ ∀ e, (∀ e ∈ active, offset e < 0xC000) → active.find? (fun e => offset e % 4 != 0) = some e →
          FaultsWord s 0x06 (BitVec.ofNat 64 (offset e)) (exec (.vtld vd vi t c) s))
    ∧ ∀ (f : AddrForm) (r col : Nat),
      let e := r * w.vl + col
      let m := memElem x w t a f r col
      (∀ k, sliceWidth t = some k → m.va = a + BitVec.ofNat 64 (e * k / 8) ∧ m.sh = e * k % 8 ∧ m.n = (e * k % 8 + k + 7) / 8)
      ∧ (sliceWidth t = none → m.n = memBits t / 8 ∧ m.sh = 0
        ∧ (f = .unit → m.va = a + BitVec.ofNat 64 (e * (memBits t / 8)))
        ∧ (∀ b, f = .stride b → m.va = a + BitVec.ofNat 64 e * b)
        ∧ ∀ sg, f = .index vi sg →
          let n : W32 := BitVec.ofNat 32 (x.elem w.lanes tagUINT32 (vi.toNat + r) col)
          m.va = a + if sg then n.signExtend 64 else n.setWidth 64)

/-- Vector stores and atomics (R67, R80, R81, R177, R180, R362, R363, R396-R399): the elements are written in ascending
order, exactly their own bits; the context reads them back at once, other agents once the strip has sealed: a release at dev
or sys scope and more than 128 KiB seal it, sliced elements that share a byte counting it once. A release at sys scope waits
while an earlier write over Rencon or to the storage window has not been accepted (R182). No register changes but the group that
a vamo reads the old values into. A vamo is one act for each element, and waits for data of another node (R217); it goes on when
they have come, or when they are lost, which Table 11-4 makes a machine check (R219; that it goes on then is the model's choice,
log 104). The lowest page that fails stops a word with what its probe gives. Four more points are the model's
choice: the cumulative count of bytes that seals, and what a release waits for (log 28); the value and the flags of a vamo on
FP32 (log 37); and that a store to an IO page seals the strip, so that it performs in program order (R152; log 122). -/
def Obligations.VectorStores : Prop :=
  ∀ (s s1 : State) (vs vi : VReg) (base bs : BReg) (off : BitVec 16) (t ti : Tag) (o : Option Scope) (c : MCtl) (p : Pins),
    let x := s.ctx
    let w := s.sweep s.cur
    let v := s.vecView s.cur
    let a : Word := x.br base + off.signExtend 64
    let els (f : AddrForm) : List MemElem := (memElems x w t a f).filter (elemOn x c.mask c.aq t)
    let keys := Linked s ∧ ∀ st, x.strip = some st →
      (∀ e ∈ st.buf, (s.paKind (s.paOfCell e.1)).isMem = true ∧ s.cell (s.paOfCell e.1) = e.1)
      ∧ st.buf.Pairwise (fun e f => e.1 < f.1)
      ∧ (∀ e ∈ st.storage, s.paKind (s.paOfCell e.1) = .host ∧ s.cell (s.paOfCell e.1) = e.1)
      ∧ (st.isSealed = true → st.buf = [])
    let quiet := tst (s.towerAt (s.towerOf (coreOf s.cur))).kheat 63 = false
    let seen (q : State) (k : Nat) : Byte := (q.vecBytes s.cur k 1).headD 0
    let pending := ∃ tr ∈ (s1.seal s.cur).part.trans, tr.write = true
    let waits (why : VWait) (out : Out) : Prop := ∃ u, out = .next u ∧ u.ctx.waiting = some why ∧ u.ctx.blk = x.blk
      ∧ u.ctx.v = x.v ∧ u.ctx.vtags = x.vtags ∧ u.ctx.m = x.m ∧ u.ctx.b = x.b ∧ ∀ k, seen u k = seen s1 k
    let size (l : List MemElem) : Nat :=
      if isSliced t = true then storeBytes true none l else l.foldl (fun n e => n + e.n) 0
    let bits (e : Nat × Nat) : Nat := x.elem w.lanes t (vs.toNat + e.1) e.2
    let io := p.any fun e => e.2.pbmt == 2
    let puts (l : List (List Nat × (List Byte → List Byte))) (n : Nat) (rel : Bool) (i : Instr) : Prop :=
      ∃ u, exec i s = .next u ∧ StoreFrame s u ∧ (∀ k, seen u k = putAll (seen s1) l k)
        ∧ u.buffers s.cur = (s.buffers s.cur && !rel && x.strip.any fun st => decide (st.stored + n ≤ 0x20000))
        ∧ (u.buffers s.cur = true → ∀ k, u.devByte k = s1.devByte k)
    let writes (l : List MemElem) : List (List Nat × (List Byte → List Byte)) := l.map fun e =>
      ((List.range e.n).map fun i => s.cell (pinnedPa v.kspb p e i),
       fun old => toMemory t e.sh old (bits (e.r, e.c)))
    let stores (i : Instr) (f : AddrForm) : Prop :=
      (isSliced t = true ∨ ∀ e ∈ els f, e.va.toNat % e.n = 0) → x.step = 0 →
      (pagesOf v.kspb (els f)).length ≤ 2048 →
      (s.probe v .store (pagesOf v.kspb (els f)) [] = .ok (p, s1) →
        (¬ (o = some .sys ∧ pending) → puts (writes (els f)) (size (els f)) (o == some .dev || o == some .sys || io) i)
        ∧ (o = some .sys → pending → waits .release (exec i s)))
      ∧ ∀ sub va, s.probe v .store (pagesOf v.kspb (els f)) [] = .error (.fault sub va) → FaultsWord s sub va (exec i s)
    let misaligned (i : Instr) (f : AddrForm) : Prop :=
      ∀ e, (els f).find? (fun e => !aligned e.va e.n) = some e → FaultsWord s 0x06 e.va (exec i s)
    let container := isSliced t = false ∧ t ≠ tagNONE ∧ tagListed t = true ∧ w.fits t = true ∧ groupTag x w vs = some t
    let index := sourceTag x w vi = .ok ti ∧ (ti = tagINT32 ∨ ti = tagUINT32)
    let active := s.tableActive s.cur x w vi t c.mask c.aq
    let offset (e : Nat × Nat) : Nat := x.elem w.lanes tagUINT32 (vi.toNat + e.1) e.2
    keys → quiet →
    (VecReady s [vs] c.mask c.aq [] →
      (t ≠ tagNONE → tagListed t = true → w.fits t = true → groupTag x w vs = some t →
        stores (.vst vs base off t o c) .unit ∧ (isSliced t = false → misaligned (.vst vs base off t o c) .unit))
      ∧ (container → stores (.vsts vs base off bs t o c) (.stride (x.br bs))
        ∧ misaligned (.vsts vs base off bs t o c) (.stride (x.br bs))))
    ∧ (VecReady s [vs, vi] c.mask c.aq (w.group vi) → container → index →
      stores (.vstx vs base off vi t o c) (.index vi (ti == tagINT32))
      ∧ misaligned (.vstx vs base off vi t o c) (.index vi (ti == tagINT32))
      ∧ ((∀ e ∈ active, offset e < 0xC000 ∧ offset e % 4 = 0) → s1 = s →
        puts (active.map fun e => ((List.range 4).map fun i => s.cell (s.tablePa s.cur x w vi e) + i,
          fun _ => bytesOf (BitVec.ofNat 32 (bits e)) 4)) (4 * active.length) false (.vtst vs vi t c)))
    ∧ (∀ (op : VAmoOp) (q : VmOrd) (k : VCtl),
      let l := (memElems x w t a (.index vi (ti == tagINT32))).filter (elemOn x k.mask k.aq t)
      let home (e : MemElem) : Nat := s.cell (pinnedPa v.kspb p e 0)
      let old (e : MemElem) : W32 := ofBytes 32 (s1.vecBytes s.cur (home e) 4)
      let new (e : MemElem) : W32 × Events :=
        let b : W32 := BitVec.ofNat 32 (bits (e.r, e.c))
        if t = tagFP32 then vamoFloat op (old e) b
        else (match op with
          | .add => old e + b
          | .and => old e &&& b
          | .or => old e ||| b
          | .xor => old e ^^^ b
          | .min => if t = tagINT32 then (if b.toInt < (old e).toInt then b else old e) else if b < old e then b else old e
          | .max => if t = tagINT32 then (if (old e).toInt < b.toInt then b else old e) else if old e < b then b else old e
          | .swap => b, 0)
      VecReady s [vs, vi] k.mask k.aq (w.group vi ++ w.group vs) → container → index → vamoTagOk op t = true →
      (∀ e ∈ l, e.va.toNat % 4 = 0) → (pagesOf v.kspb l).length ≤ 2048 →
      (∀ sub va, s.probe v .amo (pagesOf v.kspb l) [] = .error (.fault sub va) →
        FaultsWord s sub va (exec (.vamo op vs base off vi t q k) s))
      ∧ (s.probe v .amo (pagesOf v.kspb l) [] = .ok (p, s1) →
      let far := ∃ e ∈ l, ∃ i < 4, (s1.paKind (pinnedPa v.kspb p e i)).isRemote = true
      let come := x.answered = true ∨ ¬ far
      (x.answered = false → far → waits (.remote false) (exec (.vamo op vs base off vi t q k) s))
      ∧ (come → q = .rel .sys → pending →
        waits .release (exec (.vamo op vs base off vi t q k) s))
      ∧ (come → ¬ (q = .rel .sys ∧ pending) → (l.map home).Nodup →
      (∀ e ∈ l, s1.vecPoison s.cur (home e) 4 = false) →
      ∃ u, exec (.vamo op vs base off vi t q k) s = .next u ∧ NextWord s u
        ∧ (∀ e ∈ l, u.ctx.elem w.lanes t (vs.toNat + e.r) e.c = (old e).toNat
          ∧ ofBytes 32 (u.devBytes (home e) 4) = (new e).1)
        ∧ (∀ j, (∀ e ∈ l, j < home e ∨ home e + 4 ≤ j) → seen u j = seen s1 j)
        ∧ u.hart.kflags = s.hart.kflags ||| (l.foldl (fun (f : Events) e => f ||| (new e).2) 0).setWidth 64
        ∧ { u.hart with ctx := s.hart.ctx, kflags := s.hart.kflags, monHit := s.hart.monHit } = s.hart
        ∧ (∀ h, h ≠ s.cur → { u.hartAt h with monHit := (s.hartAt h).monHit } = s.hartAt h)
        ∧ u.ctx.b = x.b ∧ u.ctx.m = x.m ∧ u.ctx.grant = x.grant)))
    ∧ (∀ (last : Option Word) (e : MemElem) (l : List MemElem), storeBytes true last [] = 0
      ∧ storeBytes true last (e :: l)
        = (if last = some e.va then e.n - 1 else e.n) + storeBytes true (some (e.va + BitVec.ofNat 64 (e.n - 1))) l)
    ∧ Completes (exec .fvvV s) s

/-! ### Copies -/

/-- The copy engine (R37, R156-R163, R266, R304, R305). cpy checks its addresses and length, raises ISSUED by the length,
clears the mask that it binds and hands the copy over, under the katp, mode and window of its block; with 16 copies in the way
it waits. cpyw tells the faulted chunks of its barrier once none is outstanding, cpyq reads the barrier, cpyr issues held
copies again, whose overlapping sources it reads as they are now; each seals the strip. The engine starts the copies of a helm
in the order of their issue. A chunk completes by moving its sectors, then its mask bit and DONE, once its writes are visible
at the scope of the copy; one that faults goes to the fault queue and waits, in ascending chunk order. A mask bit that is
written loses its poison (R206). Three points are the model's choice: the ktval of a refused cpy (log 48), that an overlapping
copy reads its source as it was at its issue (log 11), and that cpyq is exact at its moment (log 95). -/
def Obligations.CopiesRun : Prop :=
  ∀ (s : State) (bd bs bl : BReg) (code : BitVec 3) (cb : BitVec 2) (sc : Scope) (mk : Option MReg) (copy chunk : Nat),
    let x := s.ctx
    let v := s.vecView s.cur
    let len := (x.br bl).toNat
    let count := (len + 256 * 2 ^ code.toNat - 1) / (256 * 2 ^ code.toNat)
    let bar (y : VCtx) (i : Nat) : Word := Sparse.read 0 y.barriers i
    let onCb := x.copies.filter fun c => c.cb == cb.toNat
    let seals (u : State) : Prop := VecFrame s u ∧ u.hart.kflags = s.hart.kflags ∧ NextWord s u
      ∧ u.ctx.icnt = (x.icnt + 1) % 8 ∧ u.ctx.v = x.v ∧ u.ctx.vtags = x.vtags ∧ u.ctx.grant = x.grant
      ∧ ∀ st, u.ctx.strip = some st → st.isSealed = true
    let misaligned := [x.br bd, x.br bs, x.br bl].find? fun a => a.toNat % 256 != 0
    let long := 2 ^ 31 < len ∨ (mk ≠ none ∧ 96 * (8 * (s.clusterSet s.cur).length) < count)
    let issues (o : Out) : Prop := ∃ u, o = .next u ∧ seals u ∧ u.ctx.b = x.b
      ∧ fld (bar u.ctx cb.toNat) 32 32 = (fld (bar x cb.toNat) 32 32 + len) % 2 ^ 32
      ∧ fld (bar u.ctx cb.toNat) 0 32 = fld (bar x cb.toNat) 0 32 ∧ (∀ i, i ≠ cb.toNat → bar u.ctx i = bar x i)
      ∧ (∀ n r p, n < 8 → r < 8 → u.ctx.mbit n r p =
          if mk.any (fun m => m.toNat == n) ∧ r = 0 ∧ p < count then false else x.mbit n r p)
      ∧ (∀ m, mk = some m → Map.find u.ctx.binds m.toNat = some x.nextCopy)
      ∧ (len ≠ 0 → ∃ c ∈ u.ctx.copies, c.id = x.nextCopy ∧ c.dst = x.br bd ∧ c.src = x.br bs ∧ c.len = len
        ∧ c.code = code.toNat ∧ c.cb = cb.toNat ∧ c.scope = sc ∧ c.katp = v.katp ∧ c.mode = v.mode ∧ c.sum = v.sum
        ∧ c.window = v.kspb ∧ c.chunks = [] ∧ c.seq = (s.coreAt (coreOf s.cur)).copySeq
        ∧ (c.snap, c.snapBad) = if (x.br bd - x.br bs).toNat < len ∨ (x.br bs - x.br bd).toNat < len
            then (some u.devMem, u.part.poison) else (none, []))
      ∧ (∀ m n, mk = some m → n < count → Map.find u.ctx.mpoison (64 * n + m.toNat) = none)
      ∧ (u.coreAt (coreOf s.cur)).copySeq = (s.coreAt (coreOf s.cur)).copySeq + 1
    let status (u : State) (bst : BReg) : Prop := (∀ r, r ≠ bst → u.ctx.br r = x.br r)
      ∧ ∀ j, j < 64 → ((u.ctx.br bst).getLsbD j = true ↔ ∃ c ∈ onCb, c.isHeld = true ∧ ∃ e ∈ c.chunks, e.2.faulted = true ∧ e.1 % 64 = j)
    let waits (why : VWait) (o : Out) : Prop := ∃ u, o = .next u ∧ u.ctx.waiting = some why ∧ u.ctx.blk = x.blk
      ∧ u.ctx.b = x.b ∧ VecFrame s u
    let idle := ∀ c ∈ onCb, c.outstanding = false
    (∀ a, misaligned = some a → FaultsWord s 0x06 a (exec (.cpy bd bs bl code cb sc mk) s))
    ∧ (misaligned = none → long → FaultsWord s 0x05 (x.br bd) (exec (.cpy bd bs bl code cb sc mk) s))
    ∧ (misaligned = none → ¬ long →
      (x.slotsUsed < 16 → issues (exec (.cpy bd bs bl code cb sc mk) s)
        ∧ (s.vwaitingIn .copySlot = some (.cpy bd bs bl code cb sc mk) → (∀ r ∈ [bd, bs, bl], ¬ BPoisoned s r) →
          issues (exec .cpyStallEnd s)))
      ∧ (16 ≤ x.slotsUsed → waits .copySlot (exec (.cpy bd bs bl code cb sc mk) s)))
    ∧ (idle → (∃ u, exec (.cpyw cb bd) s = .next u ∧ seals u ∧ status u bd)
      ∧ (s.vwaitingIn .cpyw = some (.cpyw cb bd) → ∃ u, exec .cpywWake s = .next u ∧ seals u ∧ status u bd))
    ∧ (¬ idle → waits .cpyw (exec (.cpyw cb bd) s))
    ∧ (∃ u, exec (.cpyq cb bd) s = .next u ∧ seals u ∧ u.ctx.br bd = bar x cb.toNat ∧ ∀ r, r ≠ bd → u.ctx.br r = x.br r)
    ∧ (∃ u, exec (.cpyr cb) s = .next u ∧ seals u ∧ u.ctx.b = x.b ∧ u.ctx.copies = x.copies.map fun c =>
        if c.cb == cb.toNat && c.isHeld then
          { c with chunks := c.chunks.map fun e => (e.1,
                     if e.2.faulted then { e.2 with faulted := false, asked := false, arrived := false } else e.2)
                   snap := c.snap.map fun _ => u.devMem, snapBad := if c.snap.isSome then u.part.poison else [] } else c)
    ∧ ∀ c ch, s.openChunk s.cur copy chunk = some (c, ch) →
      (c ∈ x.copies ∧ c.id = copy ∧ chunk < c.count ∧ ch = c.chunkAt chunk ∧ ch.complete = false ∧ ch.faulted = false
        ∧ (c.chunks = [] → ∀ k < 4, ∀ q ∈ (s.hartAt (4 * coreOf s.cur + k)).ctx.copies,
            q.seq < c.seq → q.outstanding = true → q.chunks ≠ [])) ∧
      let at_ (a : Word) (i : Nat) : Nat := fld (a + BitVec.ofNat 64 (chunk * c.chunkBytes + 256 * i)) 0 56
      let src (i : Nat) : Nat := s.cell (at_ c.src i)
      let dst (i : Nat) : Nat := s.cell (at_ c.dst i)
      let due (i : Nat) : Prop := i < 128 ∧ tst ch.unwritten i = true
      let clear := fld c.katp 60 4 = 0 ∧ c.mode ≠ 0 ∧ tst c.window 63 = false ∧ c.snap = none
        ∧ (∀ i, due i → s.inHbm (at_ c.src i) 256 = true ∧ s.inHbm (at_ c.dst i) 256 = true)
        ∧ (∀ i j, due i → due j → (src i + 256 ≤ dst j ∨ dst j + 256 ≤ src i)
          ∧ (i ≠ j → dst i + 256 ≤ dst j ∨ dst j + 256 ≤ dst i))
        ∧ ∀ tr ∈ s.part.trans, tr.asker ≠ .chunk c.id chunk
      let r := s.runChunk s.cur c chunk ch
      let ring := ringSlot (fld s.hart.kcpfq 12 44 * 0x1000) (fld s.hart.kcpfq 0 6) 64 s.hart.cpfProd
      (clear → ∃ u, exec (.copyChunkComplete copy chunk) s = .next u
        ∧ (∀ i b, due i → b < 256 → u.byteAt (dst i + b) = s.byteAt (src i + b))
        ∧ (∀ k, (∀ i, due i → k < dst i ∨ dst i + 256 ≤ k) → u.byteAt k = s.byteAt k)
        ∧ u.openChunk s.cur copy chunk = none
        ∧ fld (bar u.ctx c.cb) 0 32 = (fld (bar x c.cb) 0 32 + min c.chunkBytes (c.len - chunk * c.chunkBytes)) % 2 ^ 32
        ∧ fld (bar u.ctx c.cb) 32 32 = fld (bar x c.cb) 32 32
        ∧ ∀ e ∈ x.binds, e.2 = c.id → u.ctx.mbit e.1 0 chunk = true ∧ Map.find u.ctx.mpoison (64 * chunk + e.1) = none)
      ∧ ((∃ tr ∈ s.part.trans, tr.write = true ∧ tr.hart = s.cur ∧ tr.asker = .chunk c.id chunk
            ∧ (tr.storage = false ∨ c.scope = .sys)) →
        ∃ u, exec (.copyChunkComplete copy chunk) s = .next u ∧ u.ctx.barriers = x.barriers ∧ u.ctx.m = x.m)
      ∧ ((∃ j < chunk, (c.chunkAt j).complete = false ∧ (c.chunkAt j).faulted = false) →
        exec (.copySectorFault copy chunk) s = .next s)
      ∧ ∀ sub a, r.fault = some (sub, a) → s.hart.live = true → s.awaitedSource s.cur c chunk ch = none →
        (∀ j < chunk, (c.chunkAt j).complete = true ∨ (c.chunkAt j).faulted = true) →
        ∃ u, exec (.copySectorFault copy chunk) s = .next u ∧ u.openChunk s.cur copy chunk = none
          ∧ u.ctx.barriers = x.barriers ∧ u.ctx.m = x.m
          ∧ (tst s.hart.kcpfq 63 = false → u.hart.cpfProd = s.hart.cpfProd ∧ ∀ k, u.byteAt k = r.s.byteAt k)
          ∧ (tst s.hart.kcpfq 63 = true → r.s.ringOk ring = true →
              tst (ofBytes 64 (r.s.devBytes (r.s.cell (ring + 56)) 8) : Word) 63 = false →
            u.hart.cpfProd = s.hart.cpfProd + 1
              ∧ Performs r.s u s.cur ring (bytesOf a 8
                ++ bytesOf (BitVec.ofNat 64 (chunk * 2 ^ 32 + s.cur * 2 ^ 16 + sub * 2 ^ 8 + c.cb)) 8
                ++ bytesOf r.unwritten 16 ++ bytesOf c.qpos 4 ++ List.replicate 20 0 ++ bytesOf (BitVec.ofNat 64 (2 ^ 63)) 8))

/-! ### The matrix array -/

/-- Owning the array (R104, R330), the tile grant (R107, R108, R332), and tiles zeroed, retagged, checked, loaded and stored
(R114, R122, R125, R322, R324, R328, R333, R336). A context that was not the last owner finds every tile all ones and
tagged NONE. A matrix instruction without the array, or on z16-z31 under the shadow option, faults. A load reads memory as the
context sees it once the strip has sealed where the rows that it writes demand it (R81, R323), waits for data of another node,
which are an access fault when they are lost (R217), and leaves no poison in the cells that it writes. -/
def Obligations.MatrixState : Prop :=
  ∀ (s s1 : State) (z : ZReg) (tag : Tag) (bd b1 b2 : BReg) (va vb : VReg) (sel : ChkSel) (clr shadow : Bool) (p : Pins),
    let x := s.ctx
    let c := coreOf s.cur
    let k := s.coreAt c
    let v := s.vecView s.cur
    let w := s.sweep s.cur
    let width := 32 * (s.clusterSet s.cur).length
    let owns := k.array.owner = some s.cur
    let usable := owns ∧ (x.shadow = true → z.toNat < 16)
    let cells (q : State) (i j : Nat) : W48 := (q.tile s.cur z).at w.clusters i j
    let fresh (q : State) : Prop := ∀ y : ZReg, (q.tile s.cur y).tag = tagNONE ∧ ∀ i j, (q.tile s.cur y).at w.clusters i j = 0xFFFFFFFFFFFF
    let counts (q : State) : W32 × W32 × W32 := ((q.tile s.cur z).pass, (q.tile s.cur z).mismatch, (q.tile s.cur z).abstain)
    let others (u : State) : Prop := ∀ y : ZReg, y ≠ z → (x.shadow = true → y.toNat ≠ z.toNat + 16) →
      u.tile s.cur y = s.tile s.cur y
    let framed (u : State) : Prop := NextWord s u ∧ u.ctx.icnt = (x.icnt + 1) % 8 ∧ u.hart.kflags = s.hart.kflags
      ∧ u.ctx.v = x.v ∧ u.ctx.vtags = x.vtags ∧ u.ctx.m = x.m ∧ u.ctx.grant = x.grant ∧ u.clusterSet s.cur = w.clusters
    let cleared (u : State) : Prop := (u.tile s.cur z).tag = tag ∧ (u.tile s.cur z).nv = false ∧ (u.tile s.cur z).of_ = false
      ∧ counts u = (0, 0, 0)
    let m := fld x.kmtile 0 16
    let n := fld x.kmtile 16 16
    let el (i j : Nat) : MemElem :=
      { r := i, c := j, va := x.br b1 + BitVec.ofNat 64 i * x.br b2 + BitVec.ofNat 64 (8 * j), n := 8, sh := 0 }
    let els := (List.range m).flatMap fun i => (List.range n).map fun j => el i j
    let home (e : MemElem) : Nat := s.cell (pinnedPa v.kspb p e 0)
    let keys := Linked s ∧ ∀ st, x.strip = some st →
      (∀ e ∈ st.buf, (s.paKind (s.paOfCell e.1)).isMem = true ∧ s.cell (s.paOfCell e.1) = e.1)
      ∧ st.buf.Pairwise (fun e f => e.1 < f.1)
      ∧ (∀ e ∈ st.storage, s.paKind (s.paOfCell e.1) = .host ∧ s.cell (s.paOfCell e.1) = e.1)
      ∧ (st.isSealed = true → st.buf = [])
    let far := ∃ e ∈ els, ∃ i < 8, (s1.paKind (pinnedPa v.kspb p e i)).isRemote = true
    let rows := mldzRows m n width ((s.tile s.cur z).tag != tag)
    let read := s1.touchRows s.cur z rows.1 rows.2
    let quiet := tst (s.towerAt (s.towerOf c)).kheat 63 = false
    let seen (q : State) (i : Nat) : Byte := (q.vecBytes s.cur i 1).headD 0
    (x.waiting ≠ some .array → ¬ owns → s.minOf c (ctxOf s.cur) = s.maxOf c (ctxOf s.cur) → 1 ≤ s.maxOf c (ctxOf s.cur) →
        s.maxOf c (ctxOf s.cur) ≤ w.clusters.length →
      (k.array.owner = none → k.array.waiting = [] → ∃ u, exec (.mmodeEnter shadow) s = .next u ∧ framed u ∧ u.ctx.b = x.b
        ∧ (u.coreAt c).array.owner = some s.cur ∧ u.ctx.shadow = shadow ∧ SameMemory s u
        ∧ (k.array.last = some s.cur → ∀ y : ZReg, u.tile s.cur y = s.tile s.cur y)
        ∧ (k.array.last ≠ some s.cur → fresh u))
      ∧ (∀ h, k.array.owner = some h → ∃ u, exec (.mmodeEnter shadow) s = .next u ∧ u.ctx.waiting = some .array
        ∧ u.ctx.blk = x.blk ∧ s.cur ∈ (u.coreAt c).array.waiting ∧ (u.coreAt c).array.owner = some h))
    ∧ (x.waiting ≠ some .array → (owns ∨ s.minOf c (ctxOf s.cur) ≠ s.maxOf c (ctxOf s.cur)) →
      FaultsWord s 0x0A 0 (exec (.mmodeEnter shadow) s))
    ∧ (owns → ∃ u, exec .mmodeLeave s = .next u ∧ framed u ∧ u.ctx.b = x.b ∧ (u.coreAt c).array.owner ≠ some s.cur
      ∧ u.ctx.shadow = false ∧ SameMemory s u)
    ∧ (¬ owns → FaultsWord s 0x0A 0 (exec .mmodeLeave s))
    ∧ (∀ h rest, k.array.owner = none → k.array.waiting = h :: rest → ∃ u, exec .matrixArrayGrant s = .next u
      ∧ (u.coreAt c).array.owner = some h ∧ u.part = s.part ∧ u.harts = s.harts ∧ (k.array.last ≠ some h → fresh u))
    ∧ (vb.toNat % 8 = 0 → x.tagAt va.toNat ≠ tagNONE → x.tagAt vb.toNat ≠ tagNONE → owns →
      let q := x.br b1
      let m1 := min (fld q 0 16) 256
      let n1 := min (fld q 16 16) width
      let k1 := if m1 = 0 ∨ n1 = 0 then 0
        else min (fld q 32 32) (min (w.capacity (x.tagAt va.toNat) / m1) (8 * w.capacity (x.tagAt vb.toNat) / n1))
      ∃ u g, exec (.msettile bd b1 va vb) s = .next u ∧ framed u ∧ u.ctx.br bd = g ∧ u.ctx.kmtile = g
        ∧ (∀ r, r ≠ bd → u.ctx.br r = x.br r) ∧ fld g 0 16 = m1 ∧ fld g 16 16 = n1 ∧ fld g 32 32 = k1 - k1 % 2
        ∧ OnlyHart s u)
    ∧ (¬ usable → tileTagOk tag = true → FaultsWord s 0x0A 0 (exec (.mzero z tag) s) ∧ FaultsWord s 0x0A 0 (exec (.mtag z tag) s)
      ∧ FaultsWord s 0x0A 0 (exec (.mldz z b1 b2 tag) s) ∧ FaultsWord s 0x0A 0 (exec (.mstz z b1 b2) s)
      ∧ FaultsWord s 0x0A 0 (exec (.mchk sel clr bd z) s))
    ∧ (usable →
      (tileTagOk tag = true →
        (∃ u, exec (.mzero z tag) s = .next u ∧ framed u ∧ VecFrame s u ∧ u.ctx.b = x.b ∧ others u ∧ cleared u
          ∧ ∀ i j, cells u i j = 0)
        ∧ ∃ u, exec (.mtag z tag) s = .next u ∧ framed u ∧ VecFrame s u ∧ u.ctx.b = x.b ∧ others u ∧ cleared u
          ∧ ∀ i j, cells u i j = cells s i j)
      ∧ (∃ u, exec (.mchk sel clr bd z) s = .next u ∧ framed u ∧ SameMemory s u ∧ others u
        ∧ u.ctx.br bd = (match sel with
          | .pass => (s.tile s.cur z).pass
          | .mismatch => (s.tile s.cur z).mismatch
          | .abstain => (s.tile s.cur z).abstain).setWidth 64
        ∧ (∀ r, r ≠ bd → u.ctx.br r = x.br r) ∧ counts u = (if clr then (0, 0, 0) else counts s)
        ∧ (u.tile s.cur z).tag = (s.tile s.cur z).tag ∧ ∀ i j, cells u i j = cells s i j)
      ∧ (n ≤ width → (x.br b1).toNat % 8 = 0 → (x.br b2).toNat % 8 = 0 → quiet →
        (tileTagOk tag = true → s.probe v .load (pagesOf v.kspb els) [] = .ok (p, s1) →
          ((x.answered = true ∧ x.lost = false ∨ ¬ far) → (∀ e ∈ els, Readable read v.kspb p e) →
            ∃ u, exec (.mldz z b1 b2 tag) s = .next u ∧ framed u ∧ VecFrame s1 u ∧ u.ctx.b = x.b ∧ others u ∧ cleared u
              ∧ u.tilePoison s.cur z (fun i j => decide (i < m) && decide (j < n)) = false
              ∧ ∀ i j, j < width → cells u i j =
                if i < m ∧ j < n then ofBytes 48 (elemBytes read v.kspb p (el i j)) else cells s i j)
          ∧ (∀ b, x.answered = true → x.lost = true → s1.remoteByte v.kspb p els = some b →
            FaultsWord s 0x05 (v.faultAddr b.1 b.2) (exec (.mldz z b1 b2 tag) s))
          ∧ (x.answered = false → far → ∃ u, exec (.mldz z b1 b2 tag) s = .next u ∧ u.ctx.waiting = some (.remote false)
              ∧ u.ctx.blk = x.blk ∧ ∀ y : ZReg, u.tile s.cur y = s.tile s.cur y))
        ∧ (∀ sub va, tileTagOk tag = true → s.probe v .load (pagesOf v.kspb els) [] = .error (.fault sub va) →
          FaultsWord s sub va (exec (.mldz z b1 b2 tag) s))
        ∧ (∀ sub va, (s.tile s.cur z).tag ≠ tagNONE → s.probe v .store (pagesOf v.kspb els) [] = .error (.fault sub va) →
          FaultsWord s sub va (exec (.mstz z b1 b2) s))
        ∧ (keys → (s.tile s.cur z).tag ≠ tagNONE → s.probe v .store (pagesOf v.kspb els) [] = .ok (p, s1) →
          ∃ u, exec (.mstz z b1 b2) s = .next u ∧ StoreFrame s u ∧ (∀ y : ZReg, u.tile s.cur y = s.tile s.cur y)
            ∧ ∀ i, seen u i = putAll (seen s1) (els.map fun e =>
              ((List.range 8).map fun b => home e + b, fun _ => bytesOf ((cells s e.r e.c).setWidth 64) 8)) i))
      ∧ (n ≤ width → tileTagOk tag = true → (x.br b1).toNat % 8 ≠ 0 → FaultsWord s 0x06 (x.br b1) (exec (.mldz z b1 b2 tag) s)))

/-- mop, mdrain and mfill (R109-R116, R118, R123-R125, R325, R326, R331). A mop adds to every element of the grant the products
of its row of A and its column of B, times their block scales, and rounds once: exactly and saturating in INT48; in F48 to the
exact specials and otherwise within the bound of R112, which of the values within it is free (log 9). That a BF16 element of B
is read from its whole container is the model's choice (log 115). The tile records NV for ∞ − ∞ and ∞ · 0, OF for an element
that saturates or overflows; that a signalling NaN records none is the model's choice (log 136). Each row of each column group
counts one comparison, as abstained where R124 says so and else as passed. mdrain narrows rows of a tile into a group, raises
the tile's events in kflags and leaves the tile as it is; mfill converts a group exactly into rows of a tile, with NV for a
signalling NaN. -/
def Obligations.MatrixCompute : Prop :=
  ∀ (s : State) (z : ZReg) (va vb vd : VReg) (sc : Option (VReg × VReg)) (bn : BReg) (tag : Tag) (rm : Rm),
    let x := s.ctx
    let w := s.sweep s.cur
    let width := 32 * w.clusters.length
    let m := fld x.kmtile 0 16
    let n := fld x.kmtile 16 16
    let k := fld x.kmtile 32 32
    let blk := fld x.grant.vtype 8 4
    let bk := if blk = 0 then max 1 k else 8 * 2 ^ blk
    let nb := (k + bk - 1) / bk
    let ta := x.tagAt va.toNat
    let tb := x.tagAt vb.toNat
    let tile (q : State) : Tile := q.tile s.cur z
    let cells (q : State) (i j : Nat) : W48 := (tile q).at w.clusters i j
    let usable := s.ownsArray s.cur = true ∧ (x.shadow = true → z.toNat < 16)
      ∧ s.tilePoison s.cur z (fun _ _ => true) = false
    let a (i q : Nat) : Machine.Num := decodeElem ta (x.elem w.lanes ta va.toNat (i * k + q))
    let b (q j : Nat) : Machine.Num :=
      let f := q * n + j
      decodeElem tb (x.elem w.lanes tb (vb.toNat + f / w.capacity tb) (f % w.capacity tb))
    let scale (r : Option VReg) (col : Nat) : Machine.Num := match r with
      | some y => decodeE8M0 (x.elem w.lanes tagE8M0 y.toNat col)
      | none => .fin false 1 1 0
    let product (i j q : Nat) : Machine.Num :=
      ((((a i q).mul (scale (sc.map fun y => y.1) (i * nb + q / bk))).1.mul (b q j)).1.mul
        (scale (sc.map fun y => y.2) (q / bk * n + j))).1
    let products (i j : Nat) : List Machine.Num := (List.range k).map (product i j)
    let fits := n ≤ width ∧ m * k ≤ w.capacity ta ∧ k * n ≤ 8 * w.capacity tb
      ∧ (sc ≠ none → blk ≠ 0 ∧ m * nb ≤ w.capacity tagE8M0 ∧ nb * n ≤ w.capacity tagE8M0)
    let regs := va.toNat :: (List.range 8).map (fun i => vb.toNat + i) ++ scaleRegs sc
    let tags := vb.toNat % 8 = 0 ∧ (∀ i, i < 8 → x.tagAt (vb.toNat + i) = tb) ∧ ∀ r ∈ scaleRegs sc, x.tagAt r = tagE8M0
    let framed (u : State) : Prop := VecFrame s u ∧ NextWord s u ∧ u.ctx.v = x.v ∧ u.ctx.vtags = x.vtags ∧ u.ctx.m = x.m
      ∧ u.ctx.b = x.b ∧ u.hart.kflags = s.hart.kflags
      ∧ ∀ y : ZReg, y ≠ z → (x.shadow = true → y.toNat ≠ z.toNat + 16) → u.tile s.cur y = s.tile s.cur y
    let group (g : Nat) : List Nat := (List.range n).filter fun j => j / 32 == g
    let special (p : Machine.Num) : Bool := p.isNan || p.isInf
    let abstains (overs : Nat → Nat → Bool) (i g : Nat) : Bool :=
      ((List.range k).any fun q => special (a i q)) || ((List.range nb).any fun q => special (scale (sc.map fun y => y.1) (i * nb + q)))
      || ((group g).any fun j => ((List.range k).any fun q => special (b q j))
        || (List.range nb).any fun q => special (scale (sc.map fun y => y.2) (q * n + j)))
      || ((group g).any fun j => overs i j)
      || (match spanOf ((group g).flatMap fun j => products i j) with
        | some (low, high) => decide (96 < high - low)
        | none => false)
    let compared := ((List.range w.clusters.length).filter fun g => !(group g).isEmpty).flatMap fun g =>
      (List.range m).map fun i => (i, g)
    let raised (old : W32) (p : Nat × Nat → Bool) : Nat := min 0xFFFFFFFF (old.toNat + (compared.filter p).length)
    let mops (want : Tag) (nan overs : Nat → Nat → Bool) (new : Nat → Nat → W48 → Prop) : Prop :=
      mopPairing ta tb sc.isSome = some want → usable → (tile s).tag = want → tags → fits → x.termUpset = false →
      (∀ r ∈ regs, RegClean s r) → m ≠ 0 → n ≠ 0 → k ≠ 0 →
      ∃ u, exec (.mop z va vb sc) s = .next u ∧ framed u ∧ (tile u).tag = want ∧ (tile u).mismatch = (tile s).mismatch
        ∧ ((tile u).nv = true ↔ (tile s).nv = true ∨ ∃ i j, i < m ∧ j < n ∧ nan i j = true)
        ∧ ((tile u).of_ = true ↔ (tile s).of_ = true ∨ ∃ i j, i < m ∧ j < n ∧ overs i j = true)
        ∧ (tile u).abstain.toNat = raised (tile s).abstain (fun e => abstains overs e.1 e.2)
        ∧ (tile u).pass.toNat = raised (tile s).pass (fun e => !abstains overs e.1 e.2)
        ∧ (∀ i j, i < m → j < n → new i j (cells u i j)) ∧ (∀ i j, j < width → m ≤ i ∨ n ≤ j → cells u i j = cells s i j)
        ∧ ∀ g, 32 * g < n → ((Map.get {} (u.coreAt (coreOf s.cur)).counters (w.clusters.getD g 0)).terms
            = (Map.get {} (s.coreAt (coreOf s.cur)).counters (w.clusters.getD g 0)).terms
              + BitVec.ofNat 56 ((List.range (2 * (k / 2))).foldl (fun t q =>
                (List.range (min 32 (n - 32 * g))).foldl (fun t j => t + termsOf (b q (32 * g + j))) t) 0))
    let row0 := fld (x.br bn) 0 8
    let mode := rmode s.hart.kfrm rm
    let z0 (i j : Nat) : Machine.Num := decodeFmt fmtF48 (cells s i j).toNat
    let total (i j : Nat) : Int := (products i j).foldl (fun t p => t + p.toInt) (cells s i j).toInt
    let clash (i j : Nat) : Bool := ((z0 i j :: products i j).any fun p => p.isInf && p.isNeg)
      && (z0 i j :: products i j).any fun p => p.isInf && !p.isNeg
    let sum (i j : Nat) : Machine.Num := (products i j).foldl (fun t p => (Machine.Num.add false t p).1) (z0 i j)
    mops tileINT48 (fun _ _ => false) (fun i j => decide (2 ^ 47 - 1 < total i j) || decide (total i j < -(2 ^ 47 - 1)))
      (fun i j v => v.toInt = max (-(2 ^ 47 - 1)) (min (2 ^ 47 - 1) (total i j)))
    ∧ mops tileF48 (fun i j => clash i j || (List.range k).any fun q =>
        (a i q).isInf && (b q j).isZero || (a i q).isZero && (b q j).isInf)
      (fun i j => ((z0 i j :: products i j).all fun p => !special p)
        && match (roundFloat fmtF48 .rne 0 (sum i j)).1 with
          | .inf _ => true
          | .nan => false
          | .val _ _ _ => false) (fun i j v =>
      let z0 := z0 i j
      let all := z0 :: products i j
      let exact := sum i j
      let mag := (products i j).foldl (fun t p => (Machine.Num.add false t (p.withSign false)).1) (z0.withSign false)
      let rounded := (roundFloat fmtF48 .rne 0 exact).1
      let bad := (∃ p ∈ all, p.isNan = true)
        ∨ ((∃ p ∈ all, p.isInf = true ∧ p.isNeg = true) ∧ ∃ p ∈ all, p.isInf = true ∧ p.isNeg = false)
      (bad → v = f48Bits .nan)
      ∧ (¬ bad → ∀ p ∈ all, p.isInf = true → v = f48Bits (.inf p.isNeg))
      ∧ ((∀ p ∈ all, p.isNan = false ∧ p.isInf = false) →
        v = f48Bits rounded ∨ ((∀ q, rounded ≠ .inf q) ∧ withinBound k (decodeFmt fmtF48 v.toNat) exact mag = true)))
    ∧ (mopPairing ta tb sc.isSome = none → tags → FaultsWord s 0x07 0 (exec (.mop z va vb sc) s))
    ∧ (VecReady s [vd] none false [] → drainTagOk tag = true → w.fits tag = true → usable → (tile s).tag ≠ tagNONE →
        row0 + w.vrows ≤ 256 →
      let s0 := s.raiseFlags s.cur ((if (tile s).nv then evNV else 0) ||| (if (tile s).of_ then evOF else 0))
      ∃ u, exec (.mdrain vd z bn tag rm) s = .next u
        ∧ Sweeps s0 u vd tag (fun r c => if r * w.vl + c < w.g ∧ c < width then .active else if w.ta then .ones else .keep)
          (mode == .rsto && !((tile s).tag == tileINT48 && isInteger tag)) (fun r c rnd =>
            if (tile s).tag = tileF48 then narrowNum tag mode rnd (decodeFmt fmtF48 (cells s (row0 + r) c).toNat)
            else narrowInt tag mode rnd false (cells s (row0 + r) c).toInt)
        ∧ ∀ y : ZReg, u.tile s.cur y = s.tile s.cur y)
    ∧ ∀ oa : Source, VecReady s [va] none false oa.regs → IsVec s va oa → usable → row0 + w.vrows ≤ 256 →
      (isInteger oa.tag = true ∧ (oa.tag = tagINT32 ∨ oa.tag = tagUINT32) ∧ (tile s).tag = tileINT48
        ∨ (oa.tag = tagFP32 ∨ oa.tag = tagBF16 ∨ oa.tag = tagFP16) ∧ (tile s).tag = tileF48) →
      let hit (r c : Nat) : Prop := r < w.vrows ∧ c < w.vl ∧ r * w.vl + c < w.g ∧ c < width
      ∃ u, exec (.mfill z va bn) s = .next u ∧ framed u ∧ (tile u).tag = (tile s).tag ∧ (tile u).of_ = (tile s).of_
        ∧ ((tile u).nv = true ↔ (tile s).nv = true ∨ ∃ r c, hit r c ∧ isInteger oa.tag = false ∧ (oa.num r c).isSnan = true)
        ∧ (tile u).pass = (tile s).pass ∧ (tile u).mismatch = (tile s).mismatch ∧ (tile u).abstain = (tile s).abstain
        ∧ (∀ r c, hit r c → cells u (row0 + r) c = if isInteger oa.tag then BitVec.ofInt 48 (oa.int r c)
            else f48Bits (roundFloat fmtF48 .rne 0 (oa.num r c)).1)
        ∧ ∀ i j, j < width → (∀ r, hit r j → i ≠ row0 + r) → cells u i j = cells s i j

/-! ### The stream unit -/

/-- Descriptors and the prime table (R127, R131-R134, R137, R142, R346, R347, R349, R352, R355). The first context takes the
free unit, and finds s0-s15 at their reset values unless it was the last owner; others wait, and a context without clusters
faults. snew makes a descriptor, sld and sst read and write its 64 bytes, sstat a field of it, sprm the prime table, sgrow
copies the records to a larger area, sterm appends a term below the last one; with fewer valid images than kminimg.MIN it is an
unlucky prime, and PART is 0 (R136). A misaligned address faults. -/
def Obligations.StreamDescriptors : Prop :=
  ∀ (s : State) (sd : SReg) (ba bb bc : BReg) (ctl : BitVec 8) (sel : BitVec 3) (n : BitVec 4),
    let x := s.ctx
    let c := coreOf s.cur
    let k := s.coreAt c
    let v := s.vecView s.cur
    let a := x.br ba
    let d := s.desc s.cur sd
    let owns := k.stream.owner = some s.cur ∧ s.clusterSet s.cur ≠ []
    let clean := Map.find k.dpoison sd.toNat = none
    let bare := fld v.katp 60 4 = 0 ∧ v.mode ≠ 0 ∧ tst v.kspb 63 = false ∧ x.strip = none
    let area (b : Word) (m : Nat) : Prop := b.toNat < 2 ^ 56 ∧ (m ≠ 0 → s.inHbm b.toNat m = true)
    let home (b : Word) : Nat := s.cell b.toNat
    let size := recSize d.kind.toNat
    let framed (u : State) : Prop := VecFrame s u ∧ NextWord s u ∧ u.ctx.icnt = (x.icnt + 1) % 8 ∧ u.ctx.v = x.v ∧ u.ctx.m = x.m
      ∧ u.ctx.vtags = x.vtags ∧ u.hart.kflags = s.hart.kflags ∧ (u.coreAt c).stream = k.stream
    let wide (u : State) (b : Word) (m : Nat) (f : Nat → Byte) : Prop :=
      ∀ j, u.byteAt j = if home b ≤ j ∧ j < home b + m then f (j - home b) else s.byteAt j
    let stored (u : State) : Prop := NextWord s u ∧ u.ctx.v = x.v ∧ u.ctx.m = x.m ∧ u.ctx.b = x.b ∧ u.hart.kflags = s.hart.kflags
      ∧ ∀ h, h ≠ s.cur → { u.hartAt h with monHit := (s.hartAt h).monHit } = s.hartAt h
    let others (u : State) : Prop := ∀ e : SReg, e ≠ sd → u.desc s.cur e = s.desc s.cur e
    let made : Descriptor :=
      { base := a, cap := (x.br bb).setWidth 32, gen := k.pgen, valid := BitVec.ofNat 8 (2 ^ fld ctl 4 4 - 1)
        kind := BitVec.ofNat 4 (fld ctl 4 4), order := BitVec.ofNat 2 (fld ctl 2 2), layout := BitVec.ofNat 2 (fld ctl 0 2) }
    let primes := (List.range n.toNat).map fun i => natOfBytes (s.devBytes (home a + 4 * i) 4)
    let table (o : Out) : Prop := ∃ u, o = .next u ∧ framed u ∧ u.ctx.b = x.b ∧ (u.coreAt c).primes = primes
      ∧ (u.coreAt c).pgen = k.pgen + 1 ∧ (u.coreAt c).descs = k.descs
    (∀ i ∈ [Instr.snew sd ba bb ctl, .sld sd ba, .sst sd ba, .sstat bb sd sel, .sprm ba n, .sgrow sd ba bb,
        .sterm sd ba bb bc],
      (s.clusterSet s.cur = [] → FaultsWord s 0x0A 0 (exec i s))
      ∧ (s.clusterSet s.cur ≠ [] → ∀ h, h ≠ s.cur → k.stream.owner = some h → ∃ u, exec i s = .next u
        ∧ u.ctx.waiting = some .unit ∧ u.ctx.blk = x.blk ∧ s.cur ∈ (u.coreAt c).stream.waiting
        ∧ (u.coreAt c).descs = k.descs))
    ∧ (s.clusterSet s.cur ≠ [] → k.stream.owner = none → k.stream.waiting = [] → a.toNat % 8 = 0 →
      ∃ u, exec (.snew sd ba bb ctl) s = .next u ∧ (u.coreAt c).stream.owner = some s.cur ∧ u.desc s.cur sd = made
        ∧ ∀ e : SReg, e ≠ sd → u.desc s.cur e = if k.stream.last = some s.cur then s.desc s.cur e else {})
    ∧ (∀ h rest, k.stream.owner = none → k.stream.waiting = h :: rest → ∃ u, exec .streamUnitGrant s = .next u
      ∧ (u.coreAt c).stream.owner = some h ∧ u.part = s.part ∧ u.harts = s.harts
      ∧ (k.stream.last ≠ some h → (u.coreAt c).descs = []))
    ∧ (owns → a.toNat % 8 ≠ 0 → FaultsWord s 0x06 a (exec (.snew sd ba bb ctl) s) ∧ FaultsWord s 0x06 a (exec (.sld sd ba) s)
      ∧ FaultsWord s 0x06 a (exec (.sst sd ba) s))
    ∧ (owns → a.toNat % 8 = 0 → ∃ u, exec (.snew sd ba bb ctl) s = .next u ∧ framed u ∧ u.ctx.b = x.b ∧ u.desc s.cur sd = made
      ∧ others u)
    ∧ (owns → a.toNat % 8 = 0 → bare → area a 64 → s.anyPoison (home a) 64 = false →
      let e := Descriptor.ofBytes (s.devBytes (home a) 64)
      e.kind.toNat < 9 → e.layout ≠ 3 → e.count.toNat ≤ e.cap.toNat → e.base.toNat % 8 = 0 →
      ∃ u, exec (.sld sd ba) s = .next u ∧ framed u ∧ u.ctx.b = x.b ∧ u.desc s.cur sd = e ∧ others u)
    ∧ (owns → clean → a.toNat % 8 = 0 → bare → area a 64 → ∃ u, exec (.sst sd ba) s = .next u ∧ stored u ∧ others u
      ∧ u.desc s.cur sd = d ∧ wide u a 64 fun i => d.bytes.getD i 0)
    ∧ (∀ e : Descriptor, e.valid.toNat < 2 ^ e.kind.toNat → Descriptor.ofBytes e.bytes = e ∧ e.bytes.length = 64)
    ∧ (owns → clean → ∃ u, exec (.sstat bb sd sel) s = .next u ∧ framed u ∧ others u ∧ u.desc s.cur sd = d
      ∧ (∀ r, r ≠ bb → u.ctx.br r = x.br r)
      ∧ u.ctx.br bb = if sel = 0 then d.count.setWidth 64 else if sel = 1 then d.cap.setWidth 64
        else if sel = 2 then d.valid.setWidth 64 else if sel = 3 then d.disc.setWidth 64
        else if sel = 4 then d.rfcnt.setWidth 64 else if sel = 5 then d.gen.setWidth 64 else if d.part then 1 else 0)
    ∧ (owns → a.toNat % 4 = 0 → bare → area a (4 * n.toNat) → s.anyPoison (home a) (4 * n.toNat) = false →
        s.zpInFlight s.cur = false →
      ((∀ p ∈ primes, p % 2 = 1 ∧ 3 ≤ p ∧ p < 2 ^ 31) → table (exec (.sprm ba n) s)
        ∧ (s.vwaitingIn .primeDrain = some (.sprm ba n) → ¬ BPoisoned s ba → table (exec .sprmDrainEnd s)))
      ∧ ((∃ p ∈ primes, ¬ (p % 2 = 1 ∧ 3 ≤ p ∧ p < 2 ^ 31)) → FaultsWord s 0x0C 0 (exec (.sprm ba n) s)))
    ∧ (owns → clean → a.toNat % 8 = 0 → bare → d.count.toNat ≤ fld (x.br bb) 0 32 → area d.base (d.count.toNat * size) →
        area a (d.count.toNat * size) → s.anyPoison (home d.base) (d.count.toNat * size) = false →
        areasMeet a (fld (x.br bb) 0 32 * size) d.base (d.count.toNat * size) = false →
        home a + d.count.toNat * size ≤ home d.base ∨ home d.base + d.count.toNat * size ≤ home a →
      ∃ u, exec (.sgrow sd ba bb) s = .next u ∧ stored u ∧ others u
        ∧ u.desc s.cur sd = { d with base := a, cap := (x.br bb).setWidth 32 }
        ∧ wide u a (d.count.toNat * size) fun i => s.byteAt (home d.base + i))
    ∧ (owns → clean → bare → area d.base ((d.count.toNat + 1) * size) →
        s.anyPoison (home d.base) (d.count.toNat * size) = false → d.count.toNat < d.cap.toNat →
      let f : Coeffs := { k := d.kind.toNat, primes := k.primes, valid := d.valid }
      let term (t : Nat) : Term := f.parse d.layout.toNat (s.devBytes (home d.base + t * size) size)
      let below := d.count ≠ 0 → monoLt d.order.toNat (exponents d.layout.toNat a) (term (d.count.toNat - 1)).mono = true
      let appends (co : List Nat) : Prop := ∃ u, exec (.sterm sd ba bb bc) s = .next u ∧ stored u ∧ others u
        ∧ u.desc s.cur sd = { d with count := d.count + 1 }
        ∧ wide u (d.base + BitVec.ofNat 64 (d.count.toNat * size)) size fun i =>
          (bytesOf a 8 ++ (List.range (if d.kind = 0 then 2 else 8)).flatMap fun j =>
            bytesOf (BitVec.ofNat 32 (co.getD j 0)) 4).getD i 0
      (d.kind ≠ 0 → d.kind.toNat ≤ k.primes.length → d.gen = k.pgen → s.imagesOk s.cur d.kind.toNat d.valid = false →
        ∃ u, exec (.sterm sd ba bb bc) s = .next u ∧ others u ∧ u.desc s.cur sd = { d with part := false }
          ∧ u.ctx.stopped = true ∧ fld u.hart.kvfault 0 8 = 0x0C ∧ (∀ j, u.byteAt j = s.byteAt j) ∧ u.ctx.b = x.b)
      ∧ (below →
      (d.kind = 0 → bc = 0 → fld (x.br bb) 0 31 ≠ 0 → appends [fld (x.br bb) 0 32])
      ∧ (d.kind ≠ 0 → d.kind.toNat ≤ k.primes.length → d.gen = k.pgen → s.imagesOk s.cur d.kind.toNat d.valid = true →
          (∀ i ∈ f.images, inverseMod ((x.br bc).toNat % f.p i) (f.p i) ≠ none) →
        let co := (List.range d.kind.toNat).map fun i => if tst d.valid i then
          ((x.br bb).toInt % (f.p i : Int)).toNat * (inverseMod ((x.br bc).toNat % f.p i) (f.p i)).getD 0 % f.p i else 0
        f.isZero co = false → appends co)))

/-- Sums and products of streams in memory, from the start (R128-R130, R136, R138-R141, R143, R339-R341, R343-R345, R350): the
result holds one record for each monomial, in strictly descending order, with the sum, difference or product that the rules
give it, and none whose coefficient is zero in every valid image; the descriptor takes LAYOUT, ORDER and KIND of its source,
the images that the sources share, and COUNT. sdrop drops the leading term, slt takes it. Nothing else in memory changes.
Coefficients are residues modulo the prime of each valid image, 0 in the others, or FP32 values rounded to nearest after each
operation; sums go from the left, products are rounded before they are added. A pre-emption stop before a term leaves PART 1
and the word to be executed again. A NaN that a sum takes over without a partner becomes canonical (R97, R339). Three points
are the model's choice: an FP32 term that is moved or negated keeps its other bits (log 41), sdrop and slt store no term that
is zero in every valid image (log 70), and coefficient words of a source are reduced first (log 74). -/
def Obligations.StreamSums : Prop :=
  ∀ (s : State) (sd sa sb : SReg) (o : BitVec 2) (ba bb : BReg),
    let x := s.ctx
    let k := s.coreAt (coreOf s.cur)
    let v := s.vecView s.cur
    let d (e : SReg) : Descriptor := s.desc s.cur e
    let size (e : SReg) : Nat := recSize (d e).kind.toNat
    let home (b : Word) : Nat := s.cell b.toNat
    let len (e : SReg) : Nat := (d e).count.toNat * size e
    let ready := k.stream.owner = some s.cur ∧ s.clusterSet s.cur ≠ [] ∧ fld v.katp 60 4 = 0 ∧ v.mode ≠ 0 ∧ tst v.kspb 63 = false
      ∧ x.strip = none ∧ x.preempt = none ∧ ∀ p ∈ k.primes, 3 ≤ p ∧ p < 2 ^ 31
    let area (b : Word) (m : Nat) : Prop := b.toNat < 2 ^ 56 ∧ (m ≠ 0 → s.inHbm b.toNat m = true)
    let coeffs (e : SReg) (valid : BitVec 8) : Coeffs := { k := (d e).kind.toNat, primes := k.primes, valid := valid }
    let terms (u : State) (f : Coeffs) (e : SReg) : List Term := (List.range (u.desc s.cur e).count.toNat).map fun t =>
      f.parse (d sa).layout.toNat (u.devBytes (home (u.desc s.cur e).base + t * recSize f.k) (recSize f.k))
    let falls (order : Nat) (l : List Term) : Prop := l.Pairwise fun a b => monoLt order b.mono a.mono = true
    let source (e : SReg) : Prop := Map.find k.dpoison e.toNat = none ∧ area (d e).base (len e) ∧ (d e).kind.toNat ≤ 8
      ∧ s.anyPoison (home (d e).base) (len e) = false ∧ (d e).layout = (d sa).layout ∧ (d e).order = (d sa).order
      ∧ (d e).kind = (d sa).kind ∧ ((d e).kind ≠ 0 → (d e).gen = k.pgen ∧ (d e).kind.toNat ≤ k.primes.length)
    let target (e : SReg) (m kind : Nat) (srcs : List SReg) : Prop := Map.find k.dpoison e.toNat = none
      ∧ m ≤ (d e).cap.toNat ∧ (d e).part = false ∧ area (d e).base (m * recSize kind)
      ∧ ∀ r ∈ srcs, e ≠ r ∧ areasMeet (d e).base ((d e).cap.toNat * recSize kind) (d r).base (len r) = false
        ∧ (home (d e).base + m * recSize kind ≤ home (d r).base ∨ home (d r).base + len r ≤ home (d e).base)
    let shared := ([sa, sb].foldl (fun v e => v &&& (d e).valid) 0xFF : BitVec 8)
    let f1 := coeffs sa (d sa).valid
    let f2 := coeffs sa shared
    let enough (f : Coeffs) : Prop := s.imagesOk s.cur f.k f.valid = true
    let a1 := terms s f1 sa
    let a2 := terms s f2 sa
    let b2 := terms s f2 sb
    let frame (u : State) (b : Word) (m : Nat) : Prop := NextWord s u ∧ u.ctx.v = x.v ∧ u.ctx.m = x.m ∧ u.ctx.vtags = x.vtags
      ∧ (∀ j, j < home b ∨ home b + m ≤ j → u.byteAt j = s.byteAt j)
      ∧ { u.hart with ctx := s.hart.ctx, kflags := s.hart.kflags, monHit := s.hart.monHit } = s.hart
      ∧ ∀ h, h ≠ s.cur → { u.hartAt h with monHit := (s.hartAt h).monHit } = s.hartAt h
    let result (i : Instr) (f : Coeffs) (order : Nat) (m : Nat) (holds : List Nat → List Nat → Prop) : Prop :=
      ∃ u, exec i s = .next u ∧ frame u (d sd).base (m * recSize f.k) ∧ u.ctx.b = x.b
        ∧ (∀ e : SReg, e ≠ sd → u.desc s.cur e = d e) ∧ u.hart.kflags ||| s.hart.kflags = u.hart.kflags
        ∧ (f.k ≠ 0 → u.hart.kflags = s.hart.kflags)
        ∧ (u.desc s.cur sd).layout = (d sa).layout ∧ (u.desc s.cur sd).order.toNat = order
        ∧ (u.desc s.cur sd).kind = (d sa).kind ∧ (u.desc s.cur sd).valid = f.valid ∧ (u.desc s.cur sd).part = false
        ∧ (u.desc s.cur sd).base = (d sd).base ∧ (u.desc s.cur sd).cap = (d sd).cap ∧ falls order (terms u f sd)
        ∧ ∀ t : Term, t ∈ terms u f sd ↔ f.isZero t.co = false ∧ holds t.mono t.co
    let order := (d sa).order.toNat
    let has (l : List Term) (m : List Nat) : Prop := ∃ t ∈ l, t.mono = m
    let merged (both : List Nat → List Nat → List Nat × Events) (alone : List Nat → List Nat × Events) (m c : List Nat) : Prop :=
      (∃ t ∈ a2, ∃ r ∈ b2, t.mono = m ∧ r.mono = m ∧ c = (both t.co r.co).1)
        ∨ (∃ t ∈ a2, t.mono = m ∧ ¬ has b2 m ∧ c = (f2.alone t.co).1) ∨ (∃ r ∈ b2, r.mono = m ∧ ¬ has a2 m ∧ c = (alone r.co).1)
    let pairs (l r : List Term) (m : List Nat) : List (List Nat × List Nat) :=
      ((l.flatMap fun t => r.map fun e => (t, e)).filter fun p => monoMul p.1.mono p.2.mono == m).map fun p => (p.1.co, p.2.co)
    let fit (l r : List Term) : Prop := ∀ t ∈ l, ∀ e ∈ r, fitsLayout (d sa).layout.toNat (monoMul t.mono e.mono) = true
    let factor : Term := { mono := exponents (d sa).layout.toNat (x.br ba), co := bregCo f1 (x.br bb) }
    let kept (f : Coeffs) (l : List Term) : List Term := (l.map fun t => ({ t with co := f.keep t.co } : Term)).filter fun t => !f.isZero t.co
    let records (o : Out) (f : Coeffs) (m : Nat) (l : List Term) : Prop := ∃ u, o = .next u
      ∧ frame u (d sd).base (m * recSize f.k) ∧ terms u f sd = l
    let each (f : Coeffs) (g : Nat → Int) : List Nat :=
      (List.range f.k).map fun i => if tst f.valid i then (g i % (f.primes.getD i 1 : Int)).toNat else 0
    let fp (y : Machine.Num × Events) : List Nat × Events :=
      ([(narrowNum tagFP32 .rne 0 y.1).1], y.2 ||| (narrowNum tagFP32 .rne 0 y.1).2)
    let value (c : List Nat) : Machine.Num := decodeElem tagFP32 (c.getD 0 0)
    (∀ (f : Coeffs) (a b : List Nat) (l : List (List Nat)) (ps : List (List Nat × List Nat)) (b64 : Word),
      (∀ p ∈ f.primes, 0 < p) →
      (f.k ≠ 0 → f.add a b = (each f fun i => a.getD i 0 + b.getD i 0, 0)
        ∧ f.sub a b = (each f fun i => (a.getD i 0 : Int) - b.getD i 0, 0)
        ∧ f.mul a b = (each f fun i => (a.getD i 0 : Int) * b.getD i 0, 0)
        ∧ f.neg a = (each f fun i => -(a.getD i 0 : Int), 0) ∧ f.keep a = (each f fun i => a.getD i 0)
        ∧ bregCo f b64 = each f fun _ => b64.toInt)
      ∧ (f.k = 0 → f.add a b = fp (Machine.Num.add false (value a) (value b))
        ∧ f.sub a b = fp (Machine.Num.add false (value a) (value b).negate) ∧ f.mul a b = fp ((value a).mul (value b))
        ∧ f.neg a = (if (value a).isNan then ([0x7FC00000], if (value a).isSnan then evNV else 0)
            else ([(a.getD 0 0 + 2 ^ 31) % 2 ^ 32], 0))
        ∧ f.keep a = a ∧ bregCo f b64 = [fld b64 0 32])
      ∧ f.alone a = (if f.k = 0 ∧ (value a).isNan = true then ([0x7FC00000], if (value a).isSnan then evNV else 0) else (f.keep a, 0))
      ∧ (f.sum [a]).1 = f.keep a ∧ (l ≠ [] → (f.sum (l ++ [a])).1 = (f.add (f.sum l).1 a).1)
      ∧ (f.sumProducts ps).1 = (f.sum (ps.map fun p => (f.mul p.1 p.2).1)).1) ∧
    ((k.stream.owner = some s.cur ∧ s.clusterSet s.cur ≠ [] ∧ fld v.katp 60 4 = 0 ∧ v.mode ≠ 0 ∧ tst v.kspb 63 = false
        ∧ x.strip = none ∧ x.preempt = some 0) → source sa → source sb → enough f2 → falls order a2 → falls order b2 →
        target sd (a2.length + b2.length) f2.k [sa, sb] →
        (∃ m c, merged f2.add f2.alone m c ∧ f2.isZero c = false) →
      ∃ u, exec (.sadd sd sa sb) s = .next u ∧ u.ctx.waiting = some .cut ∧ u.ctx.blk = x.blk ∧ (u.desc s.cur sd).part = true
        ∧ (u.desc s.cur sd).count = 0 ∧ (∀ j, u.byteAt j = s.byteAt j) ∧ u.ctx.b = x.b) ∧
    (ready → source sa →
    (source sb → enough f2 → falls order a2 → falls order b2 → target sd (a2.length + b2.length) f2.k [sa, sb] →
      result (.sadd sd sa sb) f2 order (a2.length + b2.length) (merged f2.add f2.alone)
      ∧ result (.ssub sd sa sb) f2 order (a2.length + b2.length) (merged f2.sub f2.neg))
    ∧ (source sb → enough f2 → order ≠ 3 → falls order a2 → falls order b2 → fit a2 b2 →
        target sd (a2.length * b2.length) f2.k [sa, sb] →
      result (.smul sd sa sb) f2 order (a2.length * b2.length) fun m c => pairs a2 b2 m ≠ [] ∧ c = (f2.sumProducts (pairs a2 b2 m)).1)
    ∧ (enough f1 → order ≠ 3 → falls order a1 → fit a1 [factor] → target sd a1.length f1.k [sa] →
      result (.smulm sd sa ba bb) f1 order a1.length fun m c => pairs a1 [factor] m ≠ [] ∧ c = (f1.sumProducts (pairs a1 [factor] m)).1)
    ∧ (enough f1 → target sd a1.length f1.k [sa] →
      result (.sord sd sa o) f1 o.toNat a1.length fun m c =>
        let l := (a1.filter fun t => t.mono == m).map fun t => t.co
        l ≠ [] ∧ c = (f1.sum l).1)
    ∧ (enough f1 → falls order a1 → target sd a1.length f1.k [sa] →
        records (exec (.sdrop sd sa) s) f1 a1.length (kept f1 (a1.drop 1)))
    ∧ (enough f1 → target sd 1 f1.k [sa] →
      (∀ t rest, a1 = t :: rest → ∃ u, exec (.slt sd sa ba) s = .next u ∧ frame u (d sd).base (recSize f1.k)
        ∧ terms u f1 sd = (if f1.isZero t.co then [] else [{ t with co := f1.keep t.co }]) ∧ u.ctx.br ba = packMono (d sa).layout.toNat t.mono)
      ∧ (a1 = [] → ∃ u, exec (.slt sd sa ba) s = .next u ∧ frame u (d sd).base 0 ∧ (u.desc s.cur sd).count = 0
        ∧ u.ctx.br ba = 0xFFFFFFFFFFFFFFFF)))

/-- Division, rationals and dense vectors (R142, R144, R145, R340, R346, R351, R353): sdiv where each divisor is a monomial or
its leading monomial divides no term, srat on every term, sexp and scmp between a stream of FP32 terms and a vector. Nothing
else in memory changes. srat joins the residues by the Chinese remainder theorem and takes the first remainder of the extended
Euclidean algorithm that is at most N = D = floor(√((M − 1)/2)); what fails counts in RFCNT and sets RF. Two points are the
model's choice: that srat runs with fewer images than kminimg (log 67), and that it clears RF as it starts (log 71). -/
def Obligations.StreamTransforms : Prop :=
  ∀ (s : State) (sd sa sb q : SReg) (n : BitVec 4) (ba : BReg) (vd : VReg),
    let x := s.ctx
    let k := s.coreAt (coreOf s.cur)
    let v := s.vecView s.cur
    let w := s.sweep s.cur
    let d (e : SReg) : Descriptor := s.desc s.cur e
    let size (e : SReg) : Nat := recSize (d e).kind.toNat
    let home (b : Word) : Nat := s.cell b.toNat
    let len (e : SReg) : Nat := (d e).count.toNat * size e
    let ready := k.stream.owner = some s.cur ∧ s.clusterSet s.cur ≠ [] ∧ fld v.katp 60 4 = 0 ∧ v.mode ≠ 0 ∧ tst v.kspb 63 = false
      ∧ x.strip = none ∧ x.preempt = none ∧ ∀ p ∈ k.primes, 3 ≤ p ∧ p < 2 ^ 31
    let area (b : Word) (m : Nat) : Prop := b.toNat < 2 ^ 56 ∧ (m ≠ 0 → s.inHbm b.toNat m = true)
    let apart (a : Word) (l : Nat) (b : Word) (m : Nat) : Prop := areasMeet a l b m = false ∧ (home a + l ≤ home b ∨ home b + m ≤ home a)
    let coeffs (e : SReg) (valid : BitVec 8) : Coeffs := { k := (d e).kind.toNat, primes := k.primes, valid := valid }
    let terms (u : State) (f : Coeffs) (e : SReg) : List Term := (List.range (u.desc s.cur e).count.toNat).map fun t =>
      f.parse (d sa).layout.toNat (u.devBytes (home (u.desc s.cur e).base + t * recSize f.k) (recSize f.k))
    let falls (order : Nat) (l : List Term) : Prop := l.Pairwise fun a b => monoLt order b.mono a.mono = true
    let source (e : SReg) : Prop := Map.find k.dpoison e.toNat = none ∧ area (d e).base (len e) ∧ (d e).kind.toNat ≤ 8
      ∧ s.anyPoison (home (d e).base) (len e) = false ∧ (d e).layout = (d sa).layout ∧ (d e).order = (d sa).order
      ∧ (d e).kind = (d sa).kind ∧ ((d e).kind ≠ 0 → (d e).gen = k.pgen ∧ (d e).kind.toNat ≤ k.primes.length)
    let target (e : SReg) (m kind : Nat) (srcs : List SReg) : Prop := Map.find k.dpoison e.toNat = none
      ∧ m ≤ (d e).cap.toNat ∧ (d e).part = false ∧ area (d e).base (m * recSize kind)
      ∧ ∀ r ∈ srcs, e ≠ r ∧ areasMeet (d e).base ((d e).cap.toNat * recSize kind) (d r).base (len r) = false
        ∧ (home (d e).base + m * recSize kind ≤ home (d r).base ∨ home (d r).base + len r ≤ home (d e).base)
    let f1 := coeffs sa (d sa).valid
    let enough (f : Coeffs) : Prop := s.imagesOk s.cur f.k f.valid = true
    let a1 := terms s f1 sa
    let frame (u : State) (b : Word) (m : Nat) : Prop := NextWord s u ∧ u.ctx.v = x.v ∧ u.ctx.m = x.m ∧ u.ctx.vtags = x.vtags
      ∧ (∀ j, j < home b ∨ home b + m ≤ j → u.byteAt j = s.byteAt j)
      ∧ { u.hart with ctx := s.hart.ctx, kflags := s.hart.kflags, monHit := s.hart.monHit } = s.hart
      ∧ ∀ h, h ≠ s.cur → { u.hartAt h with monHit := (s.hartAt h).monHit } = s.hartAt h
    let order := (d sa).order.toNat
    let kept (f : Coeffs) (l : List Term) : List Term := (l.map fun t => ({ t with co := f.keep t.co } : Term)).filter fun t => !f.isZero t.co
    let divs := descRun sb n.toNat
    let quots := descRun q n.toNat
    let leads (f : Coeffs) (t : Term) : Option Nat := divs.findIdx? fun g => match (terms s f g).head? with
      | some e => monoDivides e.mono t.mono
      | none => false
    let fd := coeffs sa (((sa :: divs).foldl (fun v e => v &&& (d e).valid) 0xFF : BitVec 8))
    let value (e : Term) : Option (Int × Nat) :=
      if f1.images = [] then none
      else (chinese (f1.images.map fun i => (e.co.getD i 0, f1.p i))).bind fun um => rational um.1 um.2
    (∀ l : List (Nat × Nat), (∀ e ∈ l, e.1 < e.2 ∧ 2 ≤ e.2) →
      (l.Pairwise (fun a b => Nat.Coprime a.2 b.2) → ∃ u m, chinese l = some (u, m) ∧ m = (l.map fun e => e.2).prod ∧ u < m
        ∧ ∀ e ∈ l, u % e.2 = e.1)
      ∧ (¬ l.Pairwise (fun a b => Nat.Coprime a.2 b.2) → chinese l = none)) ∧
    (∀ m, rational 0 m = some (0, 1)) ∧
    (∀ u m, 0 < u → u < m → m < 2 ^ 248 → ∃ (b i : Nat) (r : Nat → Nat) (c : Nat → Int),
      b * b ≤ (m - 1) / 2 ∧ (m - 1) / 2 < (b + 1) * (b + 1) ∧ r 0 = m ∧ r 1 = u ∧ c 0 = 0 ∧ c 1 = 1 ∧ 1 ≤ i ∧ r i ≤ b
      ∧ (∀ j, 1 ≤ j → j < i → b < r j ∧ r (j + 1) = r (j - 1) % r j ∧ c (j + 1) = c (j - 1) - (r (j - 1) / r j : Nat) * c j)
      ∧ rational u m =
        (let num : Int := if c i < 0 then -(r i : Int) else r i
         let den := (c i).natAbs
         if 0 < den ∧ den ≤ b ∧ Nat.gcd (r i) den = 1 ∧ (num - (u : Int) * den) % (m : Int) = 0 then some (num, den)
         else none)) ∧
    (ready → source sa →
    (fd.k ≠ 0 → order ≠ 3 → enough fd → 1 ≤ n.toNat → (∀ g ∈ divs, source g ∧ falls order (terms s fd g)) →
        falls order (terms s fd sa) → (sd :: quots).Nodup →
        (∀ e ∈ sd :: quots, target e (terms s fd sa).length fd.k (sa :: divs)) →
        (∀ e ∈ sd :: quots, ∀ r ∈ sd :: quots, e ≠ r →
          apart (d e).base ((terms s fd sa).length * size sa) (d r).base ((terms s fd sa).length * size sa)) →
        (∀ g ∈ divs, ∀ e rest, terms s fd g = e :: rest → (rest = [] ∨ ∀ t ∈ terms s fd sa, monoDivides e.mono t.mono = false)
          ∧ ∀ i ∈ fd.images, inverseMod (e.co.getD i 0) (fd.p i) ≠ none) →
      ∃ u, exec (.sdiv sd sa sb q n) s = .next u ∧ NextWord s u
        ∧ (∀ j, (∀ e ∈ sd :: quots, j < home (d e).base ∨ home (d e).base + (terms s fd sa).length * size sa ≤ j) →
            u.byteAt j = s.byteAt j)
        ∧ terms u fd sd = kept fd ((terms s fd sa).filter fun t => leads fd t == none)
        ∧ ∀ i, i < n.toNat → ∃ g, (∀ t ∈ terms s fd sa, leads fd t = some i → (terms s fd (divs.getD i 0)).head? = some g)
          ∧ terms u fd (quots.getD i 0) = kept fd (((terms s fd sa).filter fun t => leads fd t == some i).map fun t =>
            { mono := monoDiv t.mono g.mono
              co := fd.each fun j => t.co.getD j 0 * (inverseMod (g.co.getD j 0) (fd.p j)).getD 0 }))
    ∧ (fd.k ≠ 0 → area (x.br ba) (48 * a1.length) → (x.br ba).toNat % 8 = 0 →
        home (x.br ba) + 48 * a1.length ≤ home (d sa).base ∨ home (d sa).base + len sa ≤ home (x.br ba) →
      ∃ u, exec (.srat sa ba) s = .next u ∧ frame u (x.br ba) (48 * a1.length) ∧ u.ctx.b = x.b
        ∧ (∀ e : SReg, e ≠ sa → u.desc s.cur e = d e)
        ∧ u.desc s.cur sa = { d sa with
            rf := a1.any fun e => value e == none
            rfcnt := BitVec.ofNat 32 (min (2 ^ 32 - 1) ((d sa).rfcnt.toNat + (a1.filter fun e => value e == none).length)) }
        ∧ ∀ t e, a1[t]? = some e → u.devBytes (home (x.br ba) + 48 * t) 48 =
            bytesOf (packMono (d sa).layout.toNat e.mono) 8 ++ bytesOf (BitVec.ofInt 128 ((value e).getD (0, 0)).1) 16
              ++ bytesOf (BitVec.ofNat 128 ((value e).getD (0, 0)).2) 16
              ++ bytesOf (BitVec.ofNat 64 (if value e = none then 1 else 0)) 8)
    ∧ ((d sa).kind = 0 → order = 3 → VecReady s [vd] none false [] → w.fits tagFP32 = true →
      ∃ u, exec (.sexp vd sa ba) s = .next u
        ∧ Sweeps s u vd tagFP32 (w.fate w.ta fun _ _ => true) false fun r c _ =>
          (if 2 ^ 64 ≤ (x.br ba).toNat + (r * w.vl + c) then 0
            else match a1.find? fun t => packMono (d sa).layout.toNat t.mono == x.br ba + BitVec.ofNat 64 (r * w.vl + c) with
              | some t => t.co.getD 0 0
              | none => 0, 0))
    ∧ ∀ oa : Source, VecReady s [vd] none false oa.regs → IsVec s vd oa → oa.tag = tagFP32 → (x.br ba).toNat + w.g ≤ 2 ^ 64 →
        w.g ≤ w.vl * w.vrows → target sd w.g 0 [] →
      let fz : Coeffs := { k := 0, primes := [], valid := 0 }
      ∃ u, exec (.scmp sd vd ba) s = .next u ∧ frame u (d sd).base (16 * w.g) ∧ u.ctx.b = x.b
        ∧ (u.desc s.cur sd).kind = 0 ∧ (u.desc s.cur sd).order = 3 ∧ (u.desc s.cur sd).layout = (d sd).layout
        ∧ (List.range (u.desc s.cur sd).count.toNat).map (fun t =>
            fz.parse (d sd).layout.toNat (u.devBytes (home (d sd).base + t * 16) 16)) =
          ((List.range w.g).reverse.filter fun e => oa.bits (e / w.vl) (e % w.vl) % 2 ^ 31 != 0).map fun e =>
            { mono := exponents (d sd).layout.toNat (x.br ba + BitVec.ofNat 64 e), co := [oa.bits (e / w.vl) (e % w.vl)] })

/-! ### Firmware -/

/-- Firmware calls (R12-R14, R224, R229): the hoist map is returned entry by entry in tower order; a request for a gang of slabs
is accepted when the pair of the next enabled helm lies in the leader's reach, neither leads or is dark once the pending changes
have been made, and no hart of the dark helm has a command or copy outstanding, a copy held, or the array or unit; else it
changes nothing and is refused (answers 0 and 1: log 30). Before phase 4 no call acts. An accepted change waits until both
helms are idle and none is becalmed, and for the older changes of its helms; then clusters are released, registers read all ones
and tiles are NONE, the hoist map follows, and the harts of the dark helm become scalar, or regain fresh contexts. Three points
are the model's choice: that a change clears the term counters and that the partner is read from the map as the pending changes
leave it (log 75), and that a change which a retirement has made impossible since changes nothing and is refused (log 124). -/
def Obligations.GangsOfSlabs : Prop :=
  let works (s : State) : Prop := s.part.power = true ∧ tst s.part.kbist 63 = true
  (∀ s : State, (works s → ∃ bs, exec .hoistMapRead s = .next { s with part := { s.part with mailbox := bs } }
        ∧ bs.length = 4 * s.part.hoist.length
        ∧ ∀ i, i < s.part.hoist.length → (ofBytes 32 ((bs.drop (4 * i)).take 4) : W32) = s.hoistAt i)
      ∧ (¬ works s → exec .hoistMapRead s = .next s ∧ ∀ c, exec (.gangRequest c) s = .next s ∧ exec (.ungangRequest c) s = .next s))
  ∧ (∀ (s : State) (c d i j : Nat), works s → s.nextHelm c = some d → s.slot c = some i → s.slot d = some j →
      let e := s.hoistAt j
      let leads (k : Nat) : Bool := match (s.part.gangs.filter fun g => g.leader == k).getLast? with
        | some g => g.form
        | none => s.ganged k
      let goesDark (k : Nat) : Bool := match (s.part.gangs.filter fun g => g.dark == k).getLast? with
        | some g => g.form
        | none => s.dark k
      let reaches (k : Nat) : Prop := i % 17 ≤ k ∧ k ≤ i % 17 + 2 ∧ k ≤ 17
      let near (k lo up : Nat) : Prop := fld (s.hoistAt k) lo 2 ≠ 3 ∧ fld (s.hoistAt k) up 2 ≠ 3
        ∧ reaches (k % 17 + fld (s.hoistAt k) lo 2) ∧ reaches (k % 17 + fld (s.hoistAt k) up 2)
      let pair : Prop := if tst e 29 then ∃ m k, s.leaderOf (fld e 18 6) = some m ∧ s.slot m = some k ∧ near k 10 8 else near j 14 12
      let quiet (h : Nat) : Prop := (s.hartAt h).head = (s.hartAt h).next ∧ s.ownsArray h = false ∧ s.ownsStream h = false
        ∧ ∀ k, k ∈ (s.hartAt h).ctx.copies → k.outstanding = false ∧ k.isHeld = false
      let may := leads c = false ∧ goesDark c = false ∧ leads d = false ∧ goesDark d = false ∧ pair
        ∧ ∀ t, t < 4 → quiet (4 * d + t)
      let asks (form : Bool) : Out := .next { s with part := { s.part with gangs := s.part.gangs ++ [⟨form, c, d, s.cur⟩] } }
      let refuses : Out := .next { s with part := { s.part with mailbox := [1] } }
      (may → exec (.gangRequest c) s = asks true) ∧ (¬ may → exec (.gangRequest c) s = refuses)
      ∧ (leads c = true → exec (.ungangRequest c) s = asks false)
      ∧ (leads c = false → exec (.ungangRequest c) s = refuses))
  ∧ ∀ s : State,
    let idle (c : Nat) : Prop := (s.coreAt c).array.owner = none ∧ (s.coreAt c).stream.owner = none
      ∧ ∀ t, t < 4 → (s.hartAt (4 * c + t)).ctx.blk = none ∧ ∀ q ∈ (s.hartAt (4 * c + t)).ctx.copies, q.outstanding = false
    let ready (g : GangChange) : Prop := idle g.leader ∧ idle g.dark ∧ tst (s.coreAt g.leader).kbecalm 63 = false
      ∧ tst (s.coreAt g.dark).kbecalm 63 = false
    let meets (g k : GangChange) : Prop := g.leader = k.leader ∨ g.leader = k.dark ∨ g.dark = k.leader ∨ g.dark = k.dark
    let waits (old : List GangChange) (g : GangChange) : Prop := ¬ ready g ∨ ∃ k ∈ old, meets g k
    let stands (g : GangChange) : Prop := ∃ i j, s.slot g.leader = some i ∧ s.slot g.dark = some j
      ∧ s.nextHelm g.leader = some g.dark
      ∧ if g.form = true then
          (∀ k ∈ [i, j], tst (s.hoistAt k) 30 = false ∧ tst (s.hoistAt k) 29 = false)
          ∧ ∀ at_ ∈ [14, 12], fld (s.hoistAt j) at_ 2 ≠ 3 ∧ i % 17 ≤ j % 17 + fld (s.hoistAt j) at_ 2
            ∧ j % 17 + fld (s.hoistAt j) at_ 2 ≤ i % 17 + 2 ∧ j % 17 + fld (s.hoistAt j) at_ 2 ≤ 17
        else tst (s.hoistAt i) 30 = true ∧ tst (s.hoistAt j) 29 = true
    ((∀ a g b, s.part.gangs = a ++ g :: b → waits a g) → exec .gangChangeEffect s = .next s)
    ∧ (∀ (g : GangChange) (old rest : List GangChange), s.part.gangs = old ++ g :: rest → ¬ waits old g →
      (∀ a k b, old = a ++ k :: b → waits a k) → ¬ stands g →
      exec .gangChangeEffect s = .next { s with part := { s.part with gangs := old ++ rest, mailbox := [1] } })
    ∧ ∀ (g : GangChange) (old rest : List GangChange) (i j : Nat), s.part.gangs = old ++ g :: rest →
      s.slot g.leader = some i → s.slot g.dark = some j → i ≠ j → stands g → ¬ waits old g →
      (∀ a k b, old = a ++ k :: b → waits a k) →
      let of_ (h : Nat) : Prop := h / 4 = g.leader ∨ h / 4 = g.dark
      let a := s.hoistAt i
      let b := s.hoistAt j
      (s.coreAt g.leader).stalled = [] → (g.form = false → (s.coreAt g.dark).stalled = []) →
        ∃ t, exec .gangChangeEffect s = .next t ∧ t.part.gangs = old ++ rest ∧ t.part.mailbox = [0] ∧ SameMemory s t
          ∧ (∀ c, c = g.leader ∨ c = g.dark → (t.coreAt c).clusters = [] ∧ (t.coreAt c).tiles = []
            ∧ (t.coreAt c).counters = [] ∧ (t.coreAt c).descs = [] ∧ (t.coreAt c).primes = (s.coreAt c).primes)
          ∧ (∀ h, of_ h → (t.hartAt h).ctx.v = [] ∧ (t.hartAt h).ctx.m = [] ∧ (t.hartAt h).xr = (s.hartAt h).xr
            ∧ (t.hartAt h).pc = (s.hartAt h).pc ∧ (t.hartAt h).kstatus = (s.hartAt h).kstatus)
          ∧ (∀ h, ¬ of_ h → t.hartAt h = s.hartAt h)
          ∧ (∀ k, k ≠ i → k ≠ j → t.hoistAt k = s.hoistAt k)
          ∧ (g.form = true → tst (t.hoistAt i) 30 = true ∧ tst (t.hoistAt j) 29 = true
            ∧ fld (t.hoistAt j) 12 4 = 15 ∧ fld (t.hoistAt i) 12 4 = fld a 12 4
            ∧ (∀ at_ x, at_ = 14 ∨ at_ = 12 → fld b at_ 2 ≠ 3 → j % 17 + fld b at_ 2 = i % 17 + x → x < 3 →
                fld (t.hoistAt i) (at_ - 4) 2 = x)
            ∧ t.clusterCount g.dark = 0 ∧ (t.coreAt g.dark).stalled = []
            ∧ ∀ h, h / 4 = g.dark → (s.hartAt h).live = true → (t.hartAt h).scalar = true
              ∧ (t.hartAt h).head = (t.hartAt h).next ∧ (t.hartAt h).next = (s.hartAt h).next)
          ∧ (g.form = false → tst (t.hoistAt i) 30 = false ∧ tst (t.hoistAt j) 29 = false ∧ fld (t.hoistAt i) 8 4 = 15
            ∧ (∀ at_ x, at_ = 14 ∨ at_ = 12 → fld a (at_ - 4) 2 ≠ 3 → i % 17 + fld a (at_ - 4) 2 = j % 17 + x → x < 3 →
                fld (t.hoistAt j) at_ 2 = x)
            ∧ ∀ h, h / 4 = g.dark → (s.hartAt h).live = true → (t.hartAt h).scalar = false
              ∧ (t.hartAt h).head = (t.hartAt h).next ∧ (t.hartAt h).kvfault = 0 ∧ (t.hartAt h).ctx.b = []
              ∧ (t.hartAt h).ctx.vtags = [])

/-- Retirement and upkeep (R206, R213-R216, R165, Tables 11-3 and 12-2): a unit in service is retired on request, but for the
helm and the control core of core 0 and a half-slab without which it would have no pair, since hart 0 always exists (R308; log
76). The retirement waits for its helms to be idle; it takes effect as Table 11-3 says, klpr stays within the cluster count as
R214 lays down, measurement 4 and a management event with reason 1 follow. A row of HBM that has seen as many corrected errors
within 2^32 cycles as firmware's threshold says, by default 16, takes one of the 8 spares of its bank, and memory is as it was;
without a spare its page is named with reason 2 (how rows and cycles are counted: log 102). A heat record tells the counts of
an entry of the L2 TLB and clears them. An uncorrectable error poisons a line of HBM, 8 bytes of a scratchpad, of a host line
in the L2 or of a buffered store, a register, a cell of a tile, a descriptor, a queued command or a reply; one that is
corrected is counted. How much of each it poisons is the model's choice (logs 31, 80). -/
def Obligations.UnitsRetired : Prop :=
  (∀ (s : State) (u : RUnit),
      let may := s.part.power = true ∧ tst s.part.kbist 63 = true ∧ match u with
        | .workingLane c l => s.enabled c = true ∧ s.dark c = false ∧ l < (if s.ganged c then 128 else 64)
          ∧ l / 8 ∉ (s.coreAt c).lanesOut
        | .cluster c k => s.enabled c = true ∧ s.dark c = false ∧ k < (if s.ganged c then 16 else 8)
          ∧ k ∉ (s.coreAt c).retired
        | .halfSlab t k up => t < 4 ∧ k < 18 ∧ (t, k, up) ∉ s.part.dead ∧ s.sparesCore0 t k up = true
        | .helm c => s.enabled c = true ∧ c ≠ 0
        | .controlCore c => s.enabled c = true ∧ c ≠ 0 ∧ (s.coreAt c).ccOut = false
      (may → exec (.retirement u) s = .next { s with part := { s.part with retiring := s.part.retiring ++ [u] } })
      ∧ (¬ may → exec (.retirement u) s = .next s))
  ∧ (∀ s : State,
      let idle (c : Nat) : Prop := (s.coreAt c).array.owner = none ∧ (s.coreAt c).stream.owner = none
        ∧ tst (s.coreAt c).kbecalm 63 = false
        ∧ ∀ t, t < 4 → (s.hartAt (4 * c + t)).ctx.blk = none ∧ ∀ q ∈ (s.hartAt (4 * c + t)).ctx.copies, q.outstanding = false
      let near (c k : Nat) : Prop := k = c ∨ s.leaderOf k = some c ∨ s.leaderOf c = some k
      let ready (u : RUnit) : Prop := ∀ c, c < 64 → (match u with
        | .workingLane k _ | .cluster k _ | .helm k | .controlCore k => near c k
        | .halfSlab t _ _ => s.enabled c = true ∧ t = s.towerOf c) → idle c
      ((∀ u ∈ s.part.retiring, ¬ ready u) → exec .retirementEffect s = .next s)
      ∧ ∀ (u : RUnit) (old rest : List RUnit), s.part.retiring = old ++ u :: rest → (∀ o ∈ old, ¬ ready o) → ready u →
      (s.canRetire u = false →
        exec .retirementEffect s = .next { s with part := { s.part with retiring := old ++ rest } })
      ∧ (s.canRetire u = true → ∃ t, exec .retirementEffect s = .next t ∧ t.part.retiring = old ++ rest
        ∧ t.part.measured = t.part.hoist ∧ tst t.part.mev 63 = true ∧ fld t.part.mev 0 8 = 1
        ∧ (t.hartAt 0).mgmtPend = true
        ∧ match u with
          | .workingLane c l => t.clusterCount c = s.clusterCount c ∧ l / 8 ∈ (t.coreAt c).lanesOut
          | .cluster c x =>
            let n := t.clusterCount c
            let k := (t.coreAt c).klpr
            n = s.clusterCount c - 1 ∧ x ∈ (t.coreAt c).retired ∧ x ∉ t.freeClusters c
              ∧ (∀ j, j < 4 → s.memberAt c j = false → lprMin k j ≤ lprMax k j ∧ lprMax k j ≤ n)
              ∧ (∀ j, j < 4 → s.memberAt c j = true → lprMin k j = s.minOf c j ∧ lprMax k j = s.maxOf c j
                ∧ (n < (s.hartAt (4 * c + j)).gcl → lprStr k j = true))
              ∧ (((List.range 4).filter fun j => !lprStr k j).map fun j => lprMin k j).sum ≤ n
          | .halfSlab tw x up => t.part.dead = s.part.dead ++ [(tw, x, up)]
            ∧ fld t.part.kbist 16 8 = min 255 (fld s.part.kbist 16 8 + 1)
          | .helm c => (∀ i, s.slot c = some i → tst (t.hoistAt i) 31 = false ∧ i ∈ t.part.deadHelms)
            ∧ (∀ j, j < 4 → (t.hartAt (4 * c + j)).live = false) ∧ fld t.part.kbist 24 8 = min 255 (fld s.part.kbist 24 8 + 1)
          | .controlCore c => (∀ j, j < 4 → (t.hartAt (4 * c + j)).live = false) ∧ (t.coreAt c).ccOut = true
            ∧ c ∈ t.part.deadControl
            ∧ fld t.part.kbist 8 8 = min 255 (fld s.part.kbist 8 8 + 1)))
  ∧ (∀ (s : State) (addr : BitVec 44) (limit : Option Nat),
      let row := Config.rowOf addr.toNat
      let bank := Config.bankOf addr.toNat
      let worn := s.part.power = true ∧ tst s.part.kbist 63 = true ∧ addr.toNat < 0xC000000000
        ∧ max 1 (limit.getD 16) ≤ ((Map.get [] s.part.rowErrors row).filter fun k => decide ((s.coreAt 0).hcycle.toNat < k + 2 ^ 32)).length
      (¬ worn → exec (.hbmRowSpare addr limit) s = .next s)
      ∧ (worn → ∃ t, exec (.hbmRowSpare addr limit) s = .next t ∧ SameMemory s t ∧ t.cores = s.cores
        ∧ (∀ k, t.poisonAt k = s.poisonAt k) ∧ Map.get [] t.part.rowErrors row = []
        ∧ if Map.get 0 s.part.rowsUsed bank < 8 then Map.get 0 t.part.rowsUsed bank = Map.get 0 s.part.rowsUsed bank + 1
            ∧ fld t.part.kbist 0 8 = min 255 (fld s.part.kbist 0 8 + 1) ∧ t.harts = s.harts
          else tst t.part.mev 63 = true ∧ fld t.part.mev 0 8 = 2 ∧ fld t.part.mev 12 44 = addr.toNat / 0x1000
            ∧ t.part.rowsUsed = s.part.rowsUsed ∧ (t.hartAt 0).mgmtPend = true ∧ ∀ h, h ≠ 0 → t.hartAt h = s.hartAt h))
  ∧ (∀ (s : State) (tw n : Nat) (e : TlbEntry) (thr : Bool), (s.towerAt tw).tlb[n]? = some e →
      let k := (s.towerAt tw).kheat
      let size := 2 ^ fld k 0 6
      let pa := fld k 12 44 * 0x1000 / size * size + 32 * ((s.towerAt tw).heatProd % (size / 32))
      let r : List Word := [(BitVec.ofNat 57 (e.vpn * 0x1000)).signExtend 64,
        BitVec.ofNat 64 (e.strided % 2 ^ 32 * 2 ^ 32 + e.unitCnt % 2 ^ 32), BitVec.ofNat 64 (e.indexed % 2 ^ 32),
        putFld (putFld (putBit (putBit 0 63 true) 62 thr) 59 3 e.level) 0 16 e.asid.toNat]
      tst k 63 = true → s.paKind pa = .hbm → tst (ofBytes 64 (s.devBytes (s.cell (pa + 24)) 8) : Word) 63 = false →
      (thr = true → 2 ^ 24 ≤ max e.unitCnt (max e.strided e.indexed)) →
      ∃ t, exec (.heatRecordAppend tw n thr) s = .next t ∧ Performs s t s.cur pa (r.flatMap fun w => bytesOf w 8)
        ∧ (t.towerAt tw).heatProd = (s.towerAt tw).heatProd + 1 ∧ (t.towerAt tw).kheat = k
        ∧ (thr = false → (t.towerAt tw).tlb = (s.towerAt tw).tlb.eraseIdx n)
        ∧ (thr = true → (t.towerAt tw).tlb[n]? = some { e with unitCnt := 0, strided := 0, indexed := 0 }
          ∧ (t.towerAt tw).tlb.length = (s.towerAt tw).tlb.length))
  ∧ ∀ (s : State) (loc : EccLoc),
      (∃ t, exec (.eccError loc false) s = .next t ∧ SameMemory s t ∧ t.harts = s.harts ∧ t.cores = s.cores
        ∧ t.part.corrected = s.part.corrected + 1 ∧ t.part.poison = s.part.poison
        ∧ ∀ pa, loc = .mem pa → s.isLocal pa.toNat = true → pa.toNat % 2 ^ 44 < 0xC000000000 →
          let row := Config.rowOf (pa.toNat % 2 ^ 44)
          Map.get [] t.part.rowErrors row = Map.get [] s.part.rowErrors row ++ [(s.coreAt 0).hcycle.toNat])
      ∧ ∃ t, exec (.eccError loc true) s = .next t ∧ SameMemory s t
        ∧ match loc with
          | .mem pa => t.harts = s.harts ∧ t.cores = s.cores ∧ ∀ k, t.poisonAt k = (s.poisonAt k
              || (s.paKind pa.toNat == .hbm && k / 64 == s.cell pa.toNat / 64)
              || ((match s.paKind pa.toNat with | .spad _ _ | .host => true | _ => false) && k / 8 == s.cell pa.toNat / 8))
          | .vreg h v i => (s.hartAt h).live = true → (Map.find (t.hartAt h).ctx.vpoison (32 * i + v.toNat)).isSome = true
            ∧ t.part = s.part ∧ ∀ j, j ≠ h → t.hartAt j = s.hartAt j
          | .mreg h m r p => (s.hartAt h).live = true →
            (Map.find (t.hartAt h).ctx.mpoison (64 * p + 8 * (r % 8) + m.toNat)).isSome = true
              ∧ t.part = s.part ∧ ∀ j, j ≠ h → t.hartAt j = s.hartAt j
          | .breg h b => (s.hartAt h).live = true → (Map.find (t.hartAt h).ctx.bpoison b.toNat).isSome = true
            ∧ t.part = s.part ∧ ∀ j, j ≠ h → t.hartAt j = s.hartAt j
          | .xreg h x => (s.hartAt h).live = true → x ≠ 0 → (Map.find (t.hartAt h).xpoison x.toNat).isSome = true
            ∧ t.part = s.part ∧ ∀ j, j ≠ h → t.hartAt j = s.hartAt j
          | .tile c z r j => s.enabled c = true →
            (Map.find (t.coreAt c).zpoison (32 * (512 * r + j % 512) + z.toNat)).isSome = true
              ∧ t.part = s.part ∧ t.harts = s.harts
          | .desc c d => s.enabled c = true → (Map.find (t.coreAt c).dpoison d.toNat).isSome = true
            ∧ t.part = s.part ∧ t.harts = s.harts
          | .junction c pa => t.part = s.part ∧ t.harts = s.harts ∧ ∀ k, k / 8 = s.cell pa.toNat / 8 →
            (jByte (s.junction c) k).isSome = true → jBad (t.junction c) k = true
          | .strip h pa => t.part = s.part ∧ t.cores = s.cores ∧ (∀ j, j ≠ h → t.hartAt j = s.hartAt j)
            ∧ ∀ st, (s.hartAt h).ctx.strip = some st → ∃ q, (t.hartAt h).ctx.strip = some q ∧ q.buf = st.buf
              ∧ ∀ k, k / 8 = s.cell pa.toNat / 8 → (Map.find st.buf k).isSome = true → (Map.find q.bufBad k).isSome = true
          | .queue h n => t.part = s.part ∧ t.cores = s.cores ∧ (∀ j, j ≠ h → t.hartAt j = s.hartAt j)
            ∧ ∀ q, (s.hartAt h).queue[n]? = some q → (t.hartAt h).queue[n]? = some { q with bad := true }
          | .reply h n => t.part = s.part ∧ t.cores = s.cores ∧ (∀ j, j ≠ h → t.hartAt j = s.hartAt j)
            ∧ (t.hartAt h).replies = (s.hartAt h).replies
            ∧ (n < (s.hartAt h).replies.length → (Map.find (t.hartAt h).replyBad n).isSome = true)

/-! ### Platform -/

/-- Bring-up and power (R10-R12, R213, R226-R231, R239, Tables 12-2 and 12-3): each phase passes to the next, or is held with
its code and FAIL. Phase 0 derives the layer-0 CDI and the DeviceID key of the fused secret; phase 1 takes the strap, a host
link in a form of Table 12-5 and the routing tables; phase 2 applies the map to the helms that have both halves in reach, none
of them retired or bound below, at most 16 in a tower, and numbers their cores in order, with the retirements inside the helms;
phase 3 verifies the image in flash and derives the Alias key and certificate of its measurement; phase 4 copies the image,
starts hart 0 in sup mode with katp bare at the entry of the header, fw ktvec at the handler, every other context free, kcycle
at 0, mev 0, no pending request, and no port with a spare lane or a counted flit. A management reset restarts a held part; a
loss of power loses all state but flash, fuses, retirements and a cut not yet cooled; a part cut at 115 degrees restarts from
phase 0 when it has cooled; a change of RATIO raises reason 4 and changes nothing else. The model's choices are: that phase 2
disables the malformed entries of a map (log 77), what HLST and the ports show after phase 1 (log 78), that memory reads 0
after a loss of power (log 88), and the order of the checks of phase 3 (log 61); the functions of the identity are left open
(log 103), as the form of the routing tables (log 104). -/
def Obligations.BringUp : Prop :=
  let held (s t : State) (phase code : Nat) : Prop := tst t.part.kbist 62 = true ∧ fld t.part.kbist 59 3 = phase
    ∧ fld t.part.kbist 40 8 = code ∧ tst t.part.kbist 63 = false ∧ t.part.hoist = s.part.hoist ∧ t.part.identity = s.part.identity
  let fresh (s t : State) : Prop := t.part.power = true ∧ (∀ h, (t.hartAt h).live = false) ∧ (∀ k, t.byteAt k = 0)
    ∧ t.part.cut = false ∧ tst t.part.kbist 63 = false ∧ t.part.flash = s.part.flash ∧ t.part.dead = s.part.dead
    ∧ t.part.identity.cdi = Config.deriveCdi Config.deviceSecret Config.romDigest
    ∧ t.part.identity.deviceKey = Config.deriveKey (Config.deriveCdi Config.deviceSecret Config.romDigest) []
  (∀ (s : State) (ok : Bool), s.part.cut = false → s.part.power = false ∨ s.atPhase 0 = true →
      ∃ t, exec (.powerGood ok) s = .next t ∧ fresh s t
      ∧ tst t.part.kbist 62 = !ok ∧ fld t.part.kbist 59 3 = (if ok then 1 else 0) ∧ fld t.part.kbist 40 8 = if ok then 0 else 1)
  ∧ (∀ (s : State) (ok : Bool), s.part.cut = true → exec (.powerGood ok) s = .next s)
  ∧ (∀ (s : State) (code : Byte) (strap : BitVec 12) (hl : Word) (routes : List (Nat × List (List Nat))),
      s.atPhase 1 = true → (routes.map fun e => e.1).Nodup →
      ∃ t, exec (.bringupPhase1 code strap { hlst := hl, routes := routes }) s = .next t ∧ t.harts = s.harts ∧ (∀ k, t.byteAt k = s.byteAt k)
        ∧ if code = 2 ∨ code = 3 ∨ code = 4 then held s t 1 code.toNat
          else if strap = 0xFFF then held s t 1 5
          else fld t.part.kbist 59 3 = 2 ∧ tst t.part.kbist 62 = false ∧ t.part.node = strap ∧ fld t.kid 52 12 = strap.toNat
            ∧ t.part.hlst = (if fld hl 59 3 ≤ 4 ∧ fld hl 56 3 ≠ 7 ∧ (tst hl 62 = true → tst hl 63 = true)
                then hl &&& 0xFF00000000000000 else 0)
            ∧ (∀ e, e ∈ routes → Map.get [] t.part.routes e.1 = e.2.take 4)
            ∧ ∀ q, q < 128 → fld (Map.get 0 t.part.portst q) 61 2 ≤ 2 ∧ tst (Map.get 0 t.part.portst q) 60 = false
              ∧ fld (Map.get 0 t.part.portst q) 0 32 = 0)
  ∧ (∀ (s : State) (l : List W32), s.atPhase 2 = true → ∃ a : List W32, a.length = 68
      ∧ (∀ i, i < 68 →
        let x := a.getD i 0
        let y := l.getD i 0xFF00
        let slab (e : W32) (j lo : Nat) : Nat := j % 17 + fld e lo 2
        let free (lo : Nat) (up : Bool) : Prop := fld y lo 2 ≠ 3 ∧ slab y i lo ≤ 17 ∧ (i / 17, slab y i lo, up) ∉ s.part.dead
          ∧ ∀ j, j < i → j / 17 = i / 17 → tst (a.getD j 0) 31 = true → slab (a.getD j 0) j lo ≠ slab y i lo
        let below := ((a.take i).filter fun e => tst e 31).length
        let beside := ((List.range i).filter fun j => decide (j / 17 = i / 17) && tst (a.getD j 0) 31).length
        (tst x 31 = true ↔ tst y 31 = true ∧ i ∉ s.part.deadHelms ∧ free 14 false ∧ free 12 true ∧ beside < 16)
        ∧ (tst x 31 = true → fld x 18 6 = below ∧ fld x 12 4 = fld y 12 4)
        ∧ tst x 30 = false ∧ tst x 29 = false ∧ fld x 8 4 = 15)
      ∧ ∃ t, exec (.bringupPhase2 l) s = .next t ∧ t.harts = s.harts ∧ (∀ k, t.byteAt k = s.byteAt k)
        ∧ let formed : Prop := (∃ i, i < 68 ∧ tst (a.getD i 0) 31 = true ∧ fld (a.getD i 0) 18 6 = 0) ∧ 0 ∉ s.part.deadControl
          (¬ formed → held s t 2 6)
          ∧ (formed → fld t.part.kbist 59 3 = 3 ∧ tst t.part.kbist 62 = false ∧ t.part.hoist = a ∧ t.part.measured = a
            ∧ fld t.kid 45 7 = (a.filter fun e => tst e 31).length
            ∧ ∀ i, i < 68 → tst (a.getD i 0) 31 = true →
              let c := fld (a.getD i 0) 18 6
              let place (x : Nat) : Nat × Nat × Bool × Nat :=
                (i / 17, i % 17 + fld (a.getD i 0) (if x < 4 then 14 else 12) 2, decide (4 ≤ x), x % 4)
              t.slot c = some i ∧ (t.coreAt c).ccOut = decide (c ∈ s.part.deadControl)
              ∧ (∀ x, x ∈ (t.coreAt c).retired ↔ x < 8 ∧ place x ∈ s.part.deadClusters)
              ∧ ∀ x, x ∈ (t.coreAt c).lanesOut ↔ x < 8 ∧ place x ∈ s.part.deadLanes))
  ∧ (∀ (s : State) (serial validity nonce : List Byte), s.atPhase 3 = true →
      ∃ t, exec (.bringupPhase3 serial validity nonce) s = .next t
      ∧ let f := s.part.flash
        let m := fwMeasure f
        let rsa := Config.sha384 f.rsaKey = Config.rsaKeyHash ∧ Config.rsaVerifies f.rsaKey m f.rsaSig = true
        let slh := Config.sha384 f.slhKey = Config.slhKeyHash ∧ Config.slhVerifies f.slhKey m f.slhSig = true
        (¬ rsa → held s t 3 8) ∧ (rsa → ¬ slh → held s t 3 9) ∧ (rsa → slh → f.secVer < s.part.minSec → held s t 3 10)
        ∧ (rsa → slh → s.part.minSec ≤ f.secVer → f.malformed = true → held s t 3 11)
        ∧ (rsa → slh → s.part.minSec ≤ f.secVer → f.malformed = false → fld t.part.kbist 59 3 = 4
          ∧ tst t.part.kbist 62 = false ∧ t.part.identity.cdi = s.part.identity.cdi
          ∧ t.part.identity.deviceKey = s.part.identity.deviceKey ∧ t.part.identity.fwDigest = m
          ∧ t.part.identity.aliasKey = Config.deriveKey s.part.identity.cdi m
          ∧ let body := Config.publicKey t.part.identity.aliasKey ++ (serial ++ validity)
            t.part.identity.aliasCert = body ++ Config.sign s.part.identity.deviceKey body nonce))
  ∧ (∀ s : State, s.atPhase 4 = true → ∃ t, exec .bringupPhase4 s = .next t ∧ tst t.part.kbist 63 = true
      ∧ (∀ k, t.byteAt k = if s.part.flash.base.toNat ≤ k ∧ k < s.part.flash.base.toNat + s.part.flash.bytes.length
          then s.part.flash.bytes.getD (k - s.part.flash.base.toNat) 0 else s.byteAt k)
      ∧ (t.hartAt 0).live = true ∧ (t.hartAt 0).pm = 1 ∧ (t.hartAt 0).katp = 0 ∧ (t.hartAt 0).pc = s.part.flash.supEntry
      ∧ (t.hartAt 0).fw.tvec = s.part.flash.fwEntry ∧ (∀ h, h ≠ 0 → (t.hartAt h).live = false)
      ∧ t.part.mev = 0 ∧ t.part.gangs = [] ∧ t.part.retiring = [] ∧ t.part.posted = [] ∧ t.part.hoist = s.part.hoist
      ∧ (∀ q, Map.get 0 t.part.portst q = Map.get 0 s.part.portst q &&& 0xEFFFFFFF00000000) ∧ t.part.spares = []
      ∧ ∀ c, (t.coreAt c).kcycle = 0 ∧ (t.coreAt c).hcycle = 0 ∧ (t.coreAt c).retired = (s.coreAt c).retired
        ∧ (t.coreAt c).lanesOut = (s.coreAt c).lanesOut ∧ (t.coreAt c).ccOut = (s.coreAt c).ccOut)
  ∧ (∀ s : State, s.part.power = true →
      (tst s.part.kbist 62 = true → ∃ t, exec .managementReset s = .next t ∧ fresh s t
        ∧ tst t.part.kbist 62 = false ∧ fld t.part.kbist 59 3 = 0)
      ∧ (tst s.part.kbist 62 = false → exec .managementReset s = .next s)
      ∧ (∃ t, exec .thermalCutoff s = .next t ∧ t.part.power = false ∧ t.part.cut = true ∧ t.part.flash = s.part.flash))
  ∧ (∀ s : State, (∃ t, exec .powerLoss s = .next t ∧ t.part.power = false ∧ (∀ k, t.byteAt k = 0)
        ∧ (∀ h, (t.hartAt h).live = false) ∧ t.part.flash = s.part.flash ∧ t.part.cut = s.part.cut
        ∧ t.part.minSec = s.part.minSec ∧ t.part.dead = s.part.dead ∧ t.part.deadClusters = s.part.deadClusters
        ∧ t.part.deadLanes = s.part.deadLanes ∧ t.part.deadHelms = s.part.deadHelms ∧ t.part.deadControl = s.part.deadControl)
      ∧ (s.part.cut = true → ∃ t, exec .cooledRestart s = .next t ∧ fresh s t
        ∧ fld t.part.kbist 59 3 = 0 ∧ tst t.part.kbist 62 = false))
  ∧ ∀ (s : State) (r : BitVec 4) (thr : Bool), s.ready = true → 1 ≤ r.toNat → r.toNat ≤ 8 → fld s.part.pwr 60 4 ≠ r.toNat →
      ∃ t, exec (.ratioChange r thr) s = .next t ∧ fld t.part.pwr 60 4 = r.toNat ∧ tst t.part.pwr 59 = thr
        ∧ fld t.part.pwr 0 59 = fld s.part.pwr 0 59 ∧ tst t.part.mev 63 = true ∧ fld t.part.mev 0 8 = 4
        ∧ (t.hartAt 0).mgmtPend = true ∧ SameMemory s t ∧ t.cores = s.cores ∧ ∀ h, h ≠ 0 → t.hartAt h = s.hartAt h

/-- Rencon, fabric peers and the host (R15, R17, R173, R217-R219, R224, R229, R235-R238, Tables 11-4, 12-5 and 12-6): a
transaction to another node is retained until its acknowledgement, sent again up to 3 times, then unreachable: a machine check
with SRC 7 for a write or for the read of a vamo, an access fault at the load for the data that a thread waits for, the same at
the next turn of a vector word, a fault of its chunk for a copy. Writes of a location are acknowledged in their order; data go
to what asked for them. A spare lane serves a port and loses no transaction; with none left the port leaves the routing tables.
A peer and the host read and write memory of a ready part, and the k-registers of its harts; a write that waits, as the kwrite
would, is kept and tried again. The host link's state changes with reason 3; the stores under way to the host window, and
storage writes that the host has not accepted, are lost when it goes down, with a machine check of SRC 7 or a fault of their
chunk. The host accepts a storage write, which memory then holds. The status page holds kid and kbist; a host read at another
offset before phase 4 gives all ones. The model's choices are: where data that become unreachable fault, and with which address
(log 62), how a fetch from another node ends (log 104), what the status page holds after phase 4 and that a write to BAR 0
changes nothing (log 79), which stores are lost with the link (log 83), the cell of another node's byte (log 100), the
privilege and the sender of an access from outside (log 119), the order in which the host accepts writes (log 121), and that a
host without power is a link that is down (log 125). -/
def Obligations.LinksAct : Prop :=
  (∀ (s : State) (pa : BitVec 56) (v : Word) (n : Nat), s.paKind pa.toNat = .remote n →
      (∃ t, exec (.renconTransaction true pa v) s = .next t ∧ Performs s t s.cur pa.toNat (bytesOf v 8)
        ∧ t.part.nextTid = s.part.nextTid + 1 ∧ HartsKept s t ∧ t.cores = s.cores)
      ∧ exec (.renconTransaction false pa v) s = .next
        { s with part := { s.part with
            trans := s.part.trans ++ [{ id := s.part.nextTid, hart := s.cur, write := false, pa := pa.toNat, data := [],
                                        addr := BitVec.ofNat 64 pa.toNat }]
            nextTid := s.part.nextTid + 1 } })
  ∧ (∀ (s : State) (w : Bool) (pa : BitVec 56) (v : Word), (∀ n, s.paKind pa.toNat ≠ .remote n) →
      exec (.renconTransaction w pa v) s = .next s)
  ∧ (∀ (s : State) (id : Nat),
      let found := s.part.trans.find? fun y => y.id == id && !y.storage
      (found = none → exec (.renconRetransmit id) s = .next s ∧ exec (.renconAcknowledgement id) s = .next s)
      ∧ ∀ x : Transaction, found = some x →
      let rest := s.part.trans.filter fun y => y.id != id
      let again := s.part.trans.map fun (y : Transaction) => if y.id = id then { y with tries := y.tries + 1 } else y
      let v := s.hartAt x.hart
      let held : Prop := x.write = false ∧ tst (s.coreAt (coreOf x.hart)).kbecalm 63 = true
        ∧ x.asker ≠ .outside ∧ ∀ c k, x.asker ≠ .chunk c k
      let waits : Prop := ∃ b, v.ctx.waiting = some (.remote b)
      let vamo : Prop := ∃ op vd base off vi t o m, v.ctx.issued = some (.vamo op vd base off vi t o m)
      let goesOn (u : Hart) (lost : Bool) : Hart := { u with ctx := { u.ctx with answered := true, lost := lost } }
      let copied (c : Copy) (k : Nat) (ch : Chunk) : Hart := { v with ctx := { v.ctx with
        copies := v.ctx.copies.map fun (y : Copy) => if y.id = c.id then { y with chunks := Map.put y.chunks k ch } else y } }
      let one (o : Out) (P : Hart → Prop) : Prop := ∃ t, o = .next t ∧ t.part = { s.part with trans := rest }
        ∧ t.cores = s.cores ∧ (∀ h, h ≠ x.hart → t.hartAt h = s.hartAt h) ∧ P (t.hartAt x.hart)
      (x.tries < 3 → exec (.renconRetransmit id) s = .next { s with part := { s.part with trans := again } })
      ∧ (held → (3 ≤ x.tries → exec (.renconRetransmit id) s = .next s) ∧ exec (.renconAcknowledgement id) s = .next s)
      ∧ (3 ≤ x.tries → ¬ held → v.live = false →
        exec (.renconRetransmit id) s = .next { s with part := { s.part with trans := rest } })
      ∧ (3 ≤ x.tries → ¬ held → v.live = true →
        let o := exec (.renconRetransmit id) s
        match x.asker with
        | .scalar => if x.write then one o fun u => Checked v u 7 x.pa 0
          else if v.wait = some .remote then one o fun u => TrapOf v u 0x07 v.pc x.addr
          else one o fun u => u = v
        | .vector => (x.write = true → one o fun u => Checked v u 7 x.pa 0)
          ∧ (x.write = false → ¬ waits → one o fun u => u = v)
          ∧ (x.write = false → waits → vamo → one o fun u => ∃ w, Checked v w 7 x.pa 0 ∧ u = goesOn w false)
          ∧ (x.write = false → waits → ¬ vamo → one o fun u => u = goesOn v true)
        | .fetch => if v.wait = some .fetch then one o fun u => TrapOf v u 0x07 v.pc x.addr else one o fun u => u = v
        | .vfetch => (v.ctx.waiting = some .fetch → one o fun u => fld u.kvfault 0 8 = 0x05 ∧ u.ctx.stopped = true
            ∧ u.vfPend = true ∧ u.vfTval = x.addr)
          ∧ (v.ctx.waiting ≠ some .fetch → one o fun u => u = v)
        | .chunk q k => match v.ctx.copies.find? fun c => c.id == q with
          | some c =>
            let ch := c.chunkAt k
            let i := (x.addr - c.dst).toNat % c.chunkBytes / 256
            (ch.complete = true → one o fun u => if x.write then Checked v u 7 x.pa 0 else u = v)
            ∧ (ch.complete = false → one o fun u => u = copied c k { ch with lost := !ch.faulted
                                                                             unwritten := if x.write then putBit ch.unwritten i true
                                                                               else ch.unwritten })
          | none => one o fun u => if x.write then Checked v u 7 x.pa 0 else u = v
        | .outside => one o fun u => u = v)
      ∧ (¬ held →
        let o := exec (.renconAcknowledgement id) s
        let meets (u : Transaction) : Prop := u.write = true ∧ s.cell x.pa < s.cell u.pa + u.data.length
          ∧ s.cell u.pa < s.cell x.pa + x.data.length
        (x.write = true → (∃ u ∈ s.part.trans, u.id < x.id ∧ meets u) → o = .next s)
        ∧ (x.write = true → (∀ u ∈ s.part.trans, u.id < x.id → ¬ meets u) → ∃ t, o = .next t ∧ t.part.trans = rest
          ∧ t.harts = s.harts ∧ t.cores = s.cores ∧ (∀ k, t.poisonAt k = s.poisonAt k)
          ∧ ∀ k, t.byteAt k = if s.cell x.pa ≤ k ∧ k < s.cell x.pa + x.data.length
            then x.data.getD (k - s.cell x.pa) 0 else s.byteAt k)
        ∧ (x.write = false →
          match x.asker with
          | .scalar => one o fun u => u = if v.wait = some .remote then { v with answered := true } else v
          | .fetch => one o fun u => u = if v.wait = some .fetch then { v with answered := true } else v
          | .vector => (waits → one o fun u => u = goesOn v false) ∧ (¬ waits → one o fun u => u = v)
          | .vfetch => one o fun u => u = if v.ctx.waiting = some .fetch then goesOn v false else v
          | .chunk q k => match v.ctx.copies.find? fun c => c.id == q with
            | some c => one o fun u => u = copied c k { c.chunkAt k with arrived := true }
            | none => one o fun u => u = v
          | .outside => one o fun u => u = v)))
  ∧ (∀ (s : State) (p : Nat),
      let w := Map.get 0 s.part.portst p
      let used := Map.get 0 s.part.spares (p / 8)
      (128 ≤ p → exec (.spareLaneSwitch p) s = .next s ∧ exec (.renconPortRejoin p) s = .next s)
      ∧ (tst w 63 = true → exec (.renconPortRejoin p) s = .next s)
      ∧ (p < 128 → ∃ t, exec (.spareLaneSwitch p) s = .next t ∧ t.part.trans = s.part.trans ∧ SameMemory s t
        ∧ (∀ q, q ≠ p → Map.get 0 t.part.portst q = Map.get 0 s.part.portst q)
        ∧ if used < 2 then tst (Map.get 0 t.part.portst p) 60 = true ∧ fld (Map.get 0 t.part.portst p) 61 3 = fld w 61 3
            ∧ Map.get 0 t.part.spares (p / 8) = used + 1 ∧ t.harts = s.harts
          else tst (Map.get 0 t.part.portst p) 63 = false ∧ fld (Map.get 0 t.part.portst p) 61 2 = fld w 61 2 - 1
            ∧ tst t.part.mev 63 = true ∧ fld t.part.mev 0 8 = 6 ∧ (t.hartAt 0).mgmtPend = true)
      ∧ (p < 128 → tst w 63 = false → ∃ t, exec (.renconPortRejoin p) s = .next t ∧ Map.get 0 t.part.portst p = putBit w 63 true
        ∧ (∀ q, q ≠ p → Map.get 0 t.part.portst q = Map.get 0 s.part.portst q) ∧ fld t.part.mev 0 8 = 6
        ∧ (t.hartAt 0).mgmtPend = true ∧ SameMemory s t))
  ∧ (∀ (s : State) (a : BitVec 44) (v : Word), s.ready = true → a.toNat + 8 ≤ 0xC000000000 →
      let writes (o : Out) : Prop := ∃ t, o = .next t ∧ Performs s t s.cur (0xFFF * 2 ^ 44 + a.toNat) (bytesOf v 8)
        ∧ HartsKept s t ∧ t.cores = s.cores
      let reads (o : Out) : Prop := o = .next { s with part := { s.part with mailbox := s.devBytes a.toNat 8 } }
      writes (exec (.fabricPeerAccess true a v) s) ∧ reads (exec (.fabricPeerAccess false a v) s)
      ∧ (s.hostUp = true → writes (exec (.hostCxlMemRequest true a v) s) ∧ reads (exec (.hostCxlMemRequest false a v) s)))
  ∧ (∀ (s : State) (w : Bool) (a : BitVec 44) (v : Word),
      (s.ready = false → exec (.fabricPeerAccess w a v) s = .next s)
      ∧ (s.ready = false ∨ s.hostUp = false → exec (.hostCxlMemRequest w a v) s = .next s)
      ∧ (s.ready = true → ∀ off, s.paKind (0xFFF * 2 ^ 44 + a.toNat) = .engine off → off % 8 = 0 →
        exec (.fabricPeerAccess true a v) s = .next (s.engineWrite 1 off v)
        ∧ exec (.fabricPeerAccess false a v) s
            = .next { s with part := { s.part with mailbox := bytesOf (s.engineRead off) 8 } })
      ∧ ∀ h off, s.ready = true → s.paKind (0xFFF * 2 ^ 44 + a.toNat) = .kwin h off →
        let by_ := (Config.freeWord s.tick 46).toNat % 256
        let n := off / 8
        let out := s.kwrite h 1 by_ false n v
        let reaches (access : Bool → Out) : Prop :=
          (off % 8 ≠ 0 ∨ n ∉ kregNumbers → access w = .next s)
          ∧ (off % 8 = 0 → n ∈ kregNumbers →
            access false = .next { s with part := { s.part with mailbox := bytesOf (s.kread h 1 n) 8 } }
            ∧ ((s.hartAt h).live = false → access true = .next s)
            ∧ ((s.hartAt h).live = true → (∀ t, out = .ok t → access true = .next t)
              ∧ (out = .illegal ∨ (∃ t e, out = .exc t e) → access true = .next s)
              ∧ ∀ y t, out = .wait y t → access true = .next { t with part := { t.part with posted := t.part.posted
                  ++ [{ hart := h, reg := n, data := v, sender := by_, stalled := y == .kctxr }] } }))
        reaches (fun k => exec (.fabricPeerAccess k a v) s)
          ∧ (s.hostUp = true → reaches (fun k => exec (.hostCxlMemRequest k a v) s)))
  ∧ (∀ (s : State) (p : Posted), s.part.posted = [p] → (s.hartAt p.hart).live = true →
      let u : State := { s.pass with part := { s.part with posted := [] } }
      let out := u.kwrite p.hart 1 p.sender p.stalled p.reg p.data
      (∀ t, out = .ok t → stepMove .posted s = .next t)
      ∧ (out = .illegal ∨ (∃ t e, out = .exc t e) → stepMove .posted s = .next u)
      ∧ ∀ y t, out = .wait y t → stepMove .posted s = .next { t with part := { t.part with posted := t.part.posted
          ++ [{ p with stalled := p.stalled || y == .kctxr }] } })
  ∧ (∀ (s : State), tst s.part.hlst 63 = false → exec .hostLinkDown s = .next s)
  ∧ (∀ (s : State), tst s.part.hlst 63 = true →
      let lost (k : Nat) : Prop := 0xC0000000000 ≤ k ∧ k < 2 ^ 44
      let chunk (x : Transaction) (q k : Nat) (c : Copy) : Prop := x.asker = .chunk q k
        ∧ ((s.hartAt x.hart).ctx.copies.find? fun y => y.id == q) = some c ∧ (c.chunkAt k).complete = false
      (∀ x ∈ s.part.trans, x.storage = true → x.write = true ∧ lost (x.pa % 2 ^ 44)) →
      ∃ t, exec .hostLinkDown s = .next t ∧ tst t.part.hlst 63 = false ∧ t.part.hostLost = true
      ∧ fld t.part.hlst 0 63 = fld s.part.hlst 0 63 ∧ tst t.part.mev 63 = true ∧ fld t.part.mev 0 8 = 3
      ∧ (t.hartAt 0).mgmtPend = true ∧ (∀ k, t.byteAt k = s.byteAt k) ∧ (∀ x ∈ t.part.trans, x.storage = false)
      ∧ (∀ x ∈ s.part.trans, (∀ y ∈ s.part.trans, y.storage = true → y.id ≠ x.id) → x ∈ t.part.trans)
      ∧ (∀ c l, l ∈ t.junction c ↔ l ∈ s.junction c ∧ ¬ lost (64 * l.line))
      ∧ (∀ x ∈ s.part.trans, ∀ q k c, x.storage = true → (s.hartAt x.hart).live = true → chunk x q k c →
        ∃ d, ((t.hartAt x.hart).ctx.copies.find? fun y => y.id == q) = some d
          ∧ (d.chunkAt k).lost = !(c.chunkAt k).faulted)
      ∧ ∀ h, h ≠ 0 → (s.hartAt h).live = true →
          let stores := (∃ l ∈ s.junction (coreOf h), l.hart = h ∧ lost (64 * l.line))
            ∨ (∃ st, (s.hartAt h).ctx.strip = some st ∧ ∃ e ∈ st.buf, lost e.1)
            ∨ ∃ x ∈ s.part.trans, x.storage = true ∧ x.hart = h ∧ x.asker ≠ .outside ∧ ¬ ∃ q k c, chunk x q k c
          (∀ st, (s.hartAt h).ctx.strip = some st → ∃ q, (t.hartAt h).ctx.strip = some q
            ∧ ∀ k, Map.find q.buf k = if 0xC0000000000 ≤ k ∧ k < 2 ^ 44 then none else Map.find st.buf k)
          ∧ (stores → (t.hartAt h).mcPend = some 0 ∧ tst (t.hartAt h).kmcheck 63 = true ∧ fld (t.hartAt h).kmcheck 59 4 = 7
            ∧ tst (t.hartAt h).kmcheck 56 = false ∧ lost (fld (t.hartAt h).kmcheck 0 44))
          ∧ (¬ stores → { t.hartAt h with ctx := (s.hartAt h).ctx } = s.hartAt h))
  ∧ (∀ (s : State) (x : Transaction), (s.part.trans.find? fun y => y.storage) = some x →
      ∃ t, stepMove .persist s = .next t ∧ t.harts = s.harts ∧ (t.part.trans = s.part.trans.filter fun y => y.id != x.id)
        ∧ ∀ k, t.byteAt k = if s.cell x.pa ≤ k ∧ k < s.cell x.pa + x.data.length then x.data.getD (k - s.cell x.pa) 0
          else s.byteAt k)
  ∧ (∀ s : State, stepMove .hostPowerFail s = exec .hostLinkDown s.pass)
  ∧ (∀ (s : State) (cxl : Bool) (w r : BitVec 3),
      (s.ready = false ∨ 4 < w.toNat ∨ r = 7 → exec (.hostLinkTrain cxl w r) s = .next s)
      ∧ (s.ready = true → w.toNat ≤ 4 → r ≠ 7 →
      ∃ t, exec (.hostLinkTrain cxl w r) s = .next t ∧ tst t.part.hlst 63 = true ∧ tst t.part.hlst 62 = cxl
        ∧ fld t.part.hlst 59 3 = w.toNat ∧ fld t.part.hlst 56 3 = r.toNat ∧ t.part.hostLost = false
        ∧ tst t.part.mev 63 = true ∧ fld t.part.mev 0 8 = 3
        ∧ (t.hartAt 0).mgmtPend = true ∧ SameMemory s t))
  ∧ ∀ (s : State) (off : Nat) (v : Word),
      let answers (w : Word) : Prop := exec (.hostStatusRead off) s = .next { s with part := { s.part with mailbox := bytesOf w 8 } }
      let reached : Prop := s.part.power = true ∧ tst s.part.hlst 63 = true
      (¬ reached → exec (.hostStatusRead off) s = .next s)
      ∧ (reached → (off = 0 → answers s.kid) ∧ (off = 8 → answers s.part.kbist)
        ∧ (off ≠ 0 → off ≠ 8 → tst s.part.kbist 63 = false → answers (BitVec.allOnes 64))
        ∧ (off ≠ 0 → off ≠ 8 → tst s.part.kbist 63 = true → ∃ w, answers w))
      ∧ exec (.hostBarWrite off v) s = .next s

/-- The management controller and becalmed cores (R224, R225, R229-R233, R239, Table 12-7): a part without power answers
nothing; until phase 4 a PLDM command other than GetStatus answers ERROR_NOT_READY and an SPDM request ERROR; afterwards each
request is answered (codes and layouts of answers: log 30). Monitoring reads TJ and WATTS within their bounds (log 15). The
chain is the DeviceID certificate with the Alias certificate of this bring-up, and a challenge is signed with the Alias key
(its functions: log 103). Measurement 1 is the ROM, 2 the firmware image as phase 3 measured it, 3 the fuses, 4 the hoist map
as phase 2 or a retirement left it. An update writes flash and nothing else. The management interface becalms a core of a ready
part; a debugger attaches and releases it; a core whose LIMIT has run without one is dumped where kdump.EN = 1, and returns to
service with reason 5; a poisoned x register is poisoned in the dump (R206). The offsets of the header but that of its version
are the model's choice (log 51). -/
def Obligations.ManagementActs : Prop :=
  (∀ (s : State) (img : Firmware), s.part.power = false →
      exec .pldmGetStatus s = .next s ∧ exec .pldmMonitoring s = .next s ∧ exec (.pldmFirmwareUpdate img) s = .next s
      ∧ exec .getVersion s = .next s ∧ exec .getCapabilities s = .next s ∧ exec .negotiateAlgorithms s = .next s
      ∧ exec .getDigests s = .next s ∧ exec .getCertificate s = .next s ∧ exec .challenge s = .next s
      ∧ exec .getMeasurements s = .next s)
  ∧ (∀ (s : State) (img : Firmware), s.part.power = true →
      let answers (bs : List Byte) (o : Out) : Prop := o = .next { s with part := { s.part with mailbox := bs } }
      let spdm (code : Byte) (bs : List Byte) (o : Out) : Prop :=
        if tst s.part.kbist 63 then answers (code :: bs) o else answers [0x7F, 0x03] o
      let chain : List Byte := Config.deviceCert ++ s.part.identity.aliasCert
      let fuses : List Byte := numBytes s.part.minSec 8 ++ Config.rsaKeyHash ++ Config.slhKeyHash
      answers (0 :: bytesOf s.part.kbist 8) (exec .pldmGetStatus s)
      ∧ (tst s.part.kbist 63 = false →
        answers [4] (exec .pldmMonitoring s) ∧ answers [4] (exec (.pldmFirmwareUpdate img) s))
      ∧ (tst s.part.kbist 63 = true → (∃ w : Word, answers (0 :: bytesOf w 8) (exec .pldmMonitoring s)
            ∧ fld w 48 16 = fld s.part.pwr 48 16 ∧ fld w 0 16 = fld s.part.pwr 0 16 ∧ fld w 40 8 ≤ 100
            ∧ fld w 16 16 ≤ fld s.part.pwr 0 16)
          ∧ exec (.pldmFirmwareUpdate img) s = .next { s with part := { s.part with flash := img, mailbox := [0] } })
      ∧ spdm 0x04 [0x13] (exec .getVersion s) ∧ (∃ bs, spdm 0x61 bs (exec .getCapabilities s))
      ∧ spdm 0x63 [0x80, 0, 0, 0, 0x02, 0, 0, 0] (exec .negotiateAlgorithms s)
      ∧ spdm 0x01 (Config.sha384 chain) (exec .getDigests s) ∧ spdm 0x02 chain (exec .getCertificate s)
      ∧ (∃ nonce k : List Byte, nonce.length = 8
        ∧ spdm 0x03 (Config.sha384 chain ++ nonce ++ Config.sign s.part.identity.aliasKey (Config.sha384 chain ++ nonce) k)
          (exec .challenge s))
      ∧ spdm 0x60 ([1] ++ Config.romDigest ++ [2] ++ s.part.identity.fwDigest ++ [3] ++ fuses ++ [4]
          ++ s.part.measured.flatMap fun e => bytesOf e 4) (exec .getMeasurements s))
  ∧ (∀ (s : State) (c : Nat), s.ready = false → exec (.becalmHold c) s = .next s ∧ exec (.debuggerAttach c) s = .next s
      ∧ exec (.debuggerRelease c) s = .next s ∧ exec (.dumpLimitExpiry c) s = .next s)
  ∧ ∀ (s : State) (c : Nat), s.ready = true →
      let k := s.coreAt c
      let others (t : State) : Prop := ∀ d, d ≠ c → t.coreAt d = s.coreAt d
      let becalmed : Bool := tst k.kbecalm 63
      (s.enabled c = true → becalmed = false → ∃ t, exec (.becalmHold c) s = .next t ∧ t.isBecalmed c = true
        ∧ fld (t.coreAt c).kbecalm 0 63 = fld k.kbecalm 0 63 ∧ t.harts = s.harts ∧ t.part = s.part ∧ others t)
      ∧ (s.enabled c = false ∨ becalmed = true → exec (.becalmHold c) s = .next s)
      ∧ (becalmed = false → exec (.debuggerAttach c) s = .next s ∧ exec (.debuggerRelease c) s = .next s
        ∧ exec (.dumpLimitExpiry c) s = .next s)
      ∧ (becalmed = true → ∃ t, exec (.debuggerAttach c) s = .next t ∧ tst (t.coreAt c).kbecalm 61 = true
        ∧ t.isBecalmed c = true ∧ t.harts = s.harts ∧ t.part = s.part ∧ others t)
      ∧ (becalmed = true → tst k.kbecalm 61 = true → ∃ t, exec (.debuggerRelease c) s = .next t
        ∧ t.isBecalmed c = false ∧ tst (t.coreAt c).kbecalm 61 = false ∧ t.part = s.part ∧ others t
        ∧ ∀ h, { t.hartAt h with ctx := (s.hartAt h).ctx } = s.hartAt h)
      ∧ (becalmed = true → tst k.kbecalm 61 = false → exec (.debuggerRelease c) s = .next s)
      ∧ (becalmed = true → tst k.kbecalm 61 = true → exec (.dumpLimitExpiry c) s = .next s)
      ∧ (becalmed = true → tst k.kbecalm 61 = false →
        let size := 2 ^ fld k.kdump 0 6
        let pa := fld k.kdump 12 44 * 0x1000 / size * size
        ∃ t, exec (.dumpLimitExpiry c) s = .next t ∧ t.isBecalmed c = false ∧ fld t.part.mev 0 8 = 5
          ∧ tst t.part.mev 63 = true ∧ (t.hartAt 0).mgmtPend = true ∧ others t
          ∧ (k.becalmed + fld k.kbecalm 0 48 < 2 ^ 64 → k.becalmed + fld k.kbecalm 0 48 ≤ (t.coreAt c).hcycle.toNat)
          ∧ (tst k.kdump 63 = false → SameMemory s t ∧ t.part.images = s.part.images)
          ∧ (tst k.kdump 63 = true → s.paKind pa = .hbm → (∀ j, j < 4 → (s.hartAt (4 * c + j)).live = false) →
            t.devBytes (s.cell pa) 2 = [1, 0]
              ∧ (ofBytes 16 (t.devBytes (s.cell (pa + 2)) 2) : BitVec 16) = BitVec.ofNat 16 c
              ∧ ∀ j, j < 4 → ∀ e ∈ (s.hartAt (4 * c + j)).xpoison, t.poisonAt (s.cell pa + 16 + 8 * (42 * j + e.1)) = true))
end

