-- ==== Sys2Proof/Laws/Fields.lean ====
section
/-! SUPPORT. The bit fields of words: what `putFld` and `putBit` leave and what `fld` and `tst` read back. -/

namespace Sys2Proof.Machine

section Fields
variable {w : Nat} (v : BitVec w)

/-- A field and the bits around it, bit by bit. -/
theorem getLsbD_putFld (lo len n i : Nat) :
    (putFld v lo len n).getLsbD i =
      if lo ≤ i ∧ i < lo + len ∧ i < w then n.testBit (i - lo) else v.getLsbD i := by
  simp only [putFld, BitVec.getLsbD_or, BitVec.getLsbD_and, BitVec.getLsbD_not, BitVec.getLsbD_shiftLeft,
    BitVec.getLsbD_ofNat, Nat.testBit_mod_two_pow, Nat.testBit_two_pow_sub_one]
  by_cases hw : i < w
  · by_cases hlo : lo ≤ i
    · by_cases hhi : i < lo + len
      · have h1 : i - lo < w := by omega
        have h2 : i - lo < len := by omega
        have h3 : ¬ i < lo := by omega
        simp [hw, hlo, hhi, h1, h2, h3]
      · have h2 : ¬ i - lo < len := by omega
        simp [hw, hhi, h2]
    · have h3 : i < lo := by omega
      simp [hw, hlo, h3]
  · simp [hw, BitVec.getLsbD_of_ge v i (by omega)]

theorem tst_putFld (lo len n i : Nat) :
    tst (putFld v lo len n) i = if lo ≤ i ∧ i < lo + len ∧ i < w then n.testBit (i - lo) else tst v i :=
  getLsbD_putFld v lo len n i

theorem tst_putBit (i j : Nat) (c : Bool) : tst (putBit v i c) j = if j = i ∧ i < w then c else tst v j := by
  rw [putBit, tst_putFld]
  by_cases h : j = i
  · subst h
    cases c <;> simp
  · rw [if_neg (by omega), if_neg (by omega)]

/-- A field as a number, bit by bit. -/
theorem testBit_fld (lo len i : Nat) : (fld v lo len).testBit i = (decide (i < len) && tst v (lo + i)) := by
  simp [fld, tst, BitVec.getLsbD, Nat.testBit_mod_two_pow, Nat.testBit_shiftRight]

theorem fld_lt (lo len : Nat) : fld v lo len < 2 ^ len := Nat.mod_lt _ (Nat.two_pow_pos len)

/-- Two fields with the same bits are the same number. -/
theorem fld_eq_of_tst {u : BitVec w} {lo len : Nat} (h : ∀ i, lo ≤ i → i < lo + len → tst u i = tst v i) :
    fld u lo len = fld v lo len := by
  apply Nat.eq_of_testBit_eq
  intro i
  rw [testBit_fld, testBit_fld]
  by_cases hi : i < len
  · simp [hi, h (lo + i) (by omega) (by omega)]
  · simp [hi]

/-- A field reads back what was put there, modulo its size. -/
theorem fld_putFld_self (lo len n : Nat) (h : lo + len ≤ w) : fld (putFld v lo len n) lo len = n % 2 ^ len := by
  apply Nat.eq_of_testBit_eq
  intro i
  rw [testBit_fld, tst_putFld, Nat.testBit_mod_two_pow]
  by_cases hi : i < len
  · have : lo ≤ lo + i ∧ lo + i < lo + len ∧ lo + i < w := by omega
    simp [hi, this]
  · simp [hi]

/-- A field beside the one that was put is as before. -/
theorem fld_putFld_ne {lo len lo' len' : Nat} (n : Nat) (h : lo' + len' ≤ lo ∨ lo + len ≤ lo') :
    fld (putFld v lo len n) lo' len' = fld v lo' len' := by
  apply fld_eq_of_tst
  intro i h1 h2
  rw [tst_putFld, if_neg (by omega)]

theorem fld_putBit_ne {i lo len : Nat} (c : Bool) (h : lo + len ≤ i ∨ i < lo) :
    fld (putBit v i c) lo len = fld v lo len := fld_putFld_ne v _ (by omega)

/-- A word of which every bit is another's is that word. -/
theorem eq_of_tst {u : BitVec w} (h : ∀ i, i < w → tst u i = tst v i) : u = v :=
  BitVec.eq_of_getLsbD_eq h

end Fields

end Sys2Proof.Machine
end

