-- ==== Sys2Proof/Laws/State.lean ====
section
/-! SUPPORT. The small lemmas of the maps and of the state's updates: what each reads back. -/

namespace Sys2Proof.Machine

/-! ### Maps -/

section Maps
variable {α : Type}

theorem Map.get_erase_ne (d : α) (m : Map α) {j k : Nat} (h : j ≠ k) : Map.get d (Map.erase m k) j = Map.get d m j := by
  induction m with
  | nil => rfl
  | cons e m ih =>
    obtain ⟨i, a⟩ := e
    by_cases hi : i = k
    · subst hi; simp [Map.erase, Map.get, ih, Ne.symm h]
    · simp [Map.erase, hi, Map.get, ih]

theorem Map.get_erase_self (d : α) (m : Map α) (k : Nat) : Map.get d (Map.erase m k) k = d := by
  induction m with
  | nil => rfl
  | cons e m ih =>
    obtain ⟨i, a⟩ := e
    by_cases hi : i = k <;> simp [Map.erase, hi, Map.get, ih]

theorem Map.get_insert_ne (d : α) (m : Map α) {j k : Nat} (a : α) (h : j ≠ k) :
    Map.get d (Map.insert m k a) j = Map.get d m j := by
  induction m with
  | nil => simp [Map.insert, Map.get, Ne.symm h]
  | cons e m ih =>
    obtain ⟨i, b⟩ := e
    simp only [Map.insert]
    split <;> simp [Map.get, Ne.symm h, ih]

theorem Map.get_insert_erase (d : α) (m : Map α) (k : Nat) (a : α) :
    Map.get d (Map.insert (Map.erase m k) k a) k = a := by
  induction m with
  | nil => simp [Map.erase, Map.insert, Map.get]
  | cons e m ih =>
    obtain ⟨i, b⟩ := e
    by_cases hi : i = k
    · simp [Map.erase, hi, ih]
    · simp only [Map.erase, hi, if_false, Map.insert]
      split <;> simp [Map.get, hi, ih]

@[simp] theorem Map.get_put_self (d : α) (m : Map α) (k : Nat) (a : α) : Map.get d (Map.put m k a) k = a :=
  Map.get_insert_erase d m k a

theorem Map.get_put_ne (d : α) (m : Map α) {j k : Nat} (a : α) (h : j ≠ k) :
    Map.get d (Map.put m k a) j = Map.get d m j := by
  rw [Map.put, Map.get_insert_ne d _ a h, Map.get_erase_ne d m h]

theorem Map.get_put (d : α) (m : Map α) (j k : Nat) (a : α) :
    Map.get d (Map.put m k a) j = if j = k then a else Map.get d m j := by
  by_cases h : j = k
  · simp [h]
  · simp [h, Map.get_put_ne d m a h]

theorem Map.find_erase_self (m : Map α) (k : Nat) : Map.find (Map.erase m k) k = none := by
  induction m with
  | nil => rfl
  | cons e m ih =>
    obtain ⟨i, a⟩ := e
    by_cases hi : i = k <;> simp [Map.erase, hi, Map.find, ih]

theorem Map.find_erase_ne (m : Map α) {j k : Nat} (h : j ≠ k) : Map.find (Map.erase m k) j = Map.find m j := by
  induction m with
  | nil => rfl
  | cons e m ih =>
    obtain ⟨i, a⟩ := e
    by_cases hi : i = k
    · subst hi; simp [Map.erase, Map.find, ih, Ne.symm h]
    · simp [Map.erase, hi, Map.find, ih]

end Maps

/-! ### Sparse maps -/

section Sparse
variable {w : Nat}

theorem Sparse.read_write_self (d : BitVec w) (m : Sparse w) (k : Nat) (v : BitVec w) :
    Sparse.read d (Sparse.write d m k v) k = v := by
  unfold Sparse.read Sparse.write
  split
  · next h => rw [Map.get_erase_self, h]
  · simp

theorem Sparse.read_write_ne (d : BitVec w) (m : Sparse w) {j k : Nat} (v : BitVec w) (h : j ≠ k) :
    Sparse.read d (Sparse.write d m k v) j = Sparse.read d m j := by
  unfold Sparse.read Sparse.write
  split
  · exact Map.get_erase_ne d m h
  · exact Map.get_put_ne d m v h

theorem Sparse.read_write (d : BitVec w) (m : Sparse w) (j k : Nat) (v : BitVec w) :
    Sparse.read d (Sparse.write d m k v) j = if j = k then v else Sparse.read d m j := by
  by_cases h : j = k
  · simp [h, Sparse.read_write_self]
  · simp [h, Sparse.read_write_ne d m v h]

end Sparse

/-! ### Updates of the state -/

section Updates
variable (s : State)

@[simp] theorem State.setHart_part (h : Nat) (v : Hart) : (s.setHart h v).part = s.part := rfl
@[simp] theorem State.setHart_cores (h : Nat) (v : Hart) : (s.setHart h v).cores = s.cores := rfl
@[simp] theorem State.setHart_towers (h : Nat) (v : Hart) : (s.setHart h v).towers = s.towers := rfl
@[simp] theorem State.setHart_agenda (h : Nat) (v : Hart) : (s.setHart h v).agenda = s.agenda := rfl
@[simp] theorem State.setHart_cur (h : Nat) (v : Hart) : (s.setHart h v).cur = s.cur := rfl
@[simp] theorem State.setHart_tick (h : Nat) (v : Hart) : (s.setHart h v).tick = s.tick := rfl
@[simp] theorem State.setHart_rr (h : Nat) (v : Hart) : (s.setHart h v).rr = s.rr := rfl

@[simp] theorem State.hartAt_setHart_self (h : Nat) (v : Hart) : (s.setHart h v).hartAt h = v := by
  simp [State.hartAt, State.setHart]

theorem State.hartAt_setHart_ne {h j : Nat} (v : Hart) (n : j ≠ h) : (s.setHart h v).hartAt j = s.hartAt j := by
  simp [State.hartAt, State.setHart, Map.get_put_ne _ _ _ n]

@[simp] theorem State.modHart_part (h : Nat) (f : Hart → Hart) : (s.modHart h f).part = s.part := rfl
@[simp] theorem State.modHart_cores (h : Nat) (f : Hart → Hart) : (s.modHart h f).cores = s.cores := rfl
@[simp] theorem State.modHart_towers (h : Nat) (f : Hart → Hart) : (s.modHart h f).towers = s.towers := rfl
@[simp] theorem State.modHart_agenda (h : Nat) (f : Hart → Hart) : (s.modHart h f).agenda = s.agenda := rfl
@[simp] theorem State.modHart_cur (h : Nat) (f : Hart → Hart) : (s.modHart h f).cur = s.cur := rfl
@[simp] theorem State.modHart_tick (h : Nat) (f : Hart → Hart) : (s.modHart h f).tick = s.tick := rfl
@[simp] theorem State.modHart_rr (h : Nat) (f : Hart → Hart) : (s.modHart h f).rr = s.rr := rfl

@[simp] theorem State.hartAt_modHart_self (h : Nat) (f : Hart → Hart) : (s.modHart h f).hartAt h = f (s.hartAt h) := by
  simp [State.modHart]

theorem State.hartAt_modHart_ne {h j : Nat} (f : Hart → Hart) (n : j ≠ h) : (s.modHart h f).hartAt j = s.hartAt j := by
  simp [State.modHart, State.hartAt_setHart_ne _ _ n]

@[simp] theorem State.mod_part (f : Hart → Hart) : (s.mod f).part = s.part := rfl
@[simp] theorem State.mod_cores (f : Hart → Hart) : (s.mod f).cores = s.cores := rfl
@[simp] theorem State.mod_towers (f : Hart → Hart) : (s.mod f).towers = s.towers := rfl
@[simp] theorem State.mod_agenda (f : Hart → Hart) : (s.mod f).agenda = s.agenda := rfl
@[simp] theorem State.mod_cur (f : Hart → Hart) : (s.mod f).cur = s.cur := rfl
@[simp] theorem State.mod_tick (f : Hart → Hart) : (s.mod f).tick = s.tick := rfl
@[simp] theorem State.mod_rr (f : Hart → Hart) : (s.mod f).rr = s.rr := rfl
@[simp] theorem State.mod_hart (f : Hart → Hart) : (s.mod f).hart = f s.hart := by
  simp [State.mod, State.hart]

theorem State.mod_hartAt_ne {j : Nat} (f : Hart → Hart) (n : j ≠ s.cur) : (s.mod f).hartAt j = s.hartAt j := by
  simp [State.mod, State.hartAt_modHart_ne _ _ n]

@[simp] theorem State.modCtx_part (h : Nat) (f : VCtx → VCtx) : (s.modCtx h f).part = s.part := rfl
@[simp] theorem State.modCtx_cores (h : Nat) (f : VCtx → VCtx) : (s.modCtx h f).cores = s.cores := rfl
@[simp] theorem State.modCtx_towers (h : Nat) (f : VCtx → VCtx) : (s.modCtx h f).towers = s.towers := rfl
@[simp] theorem State.modCtx_agenda (h : Nat) (f : VCtx → VCtx) : (s.modCtx h f).agenda = s.agenda := rfl
@[simp] theorem State.modCtx_cur (h : Nat) (f : VCtx → VCtx) : (s.modCtx h f).cur = s.cur := rfl
@[simp] theorem State.modCtx_tick (h : Nat) (f : VCtx → VCtx) : (s.modCtx h f).tick = s.tick := rfl
@[simp] theorem State.hartAt_modCtx_self (h : Nat) (f : VCtx → VCtx) :
    (s.modCtx h f).hartAt h = { s.hartAt h with ctx := f (s.hartAt h).ctx } := by
  simp [State.modCtx]

theorem State.hartAt_modCtx_ne {h j : Nat} (f : VCtx → VCtx) (n : j ≠ h) : (s.modCtx h f).hartAt j = s.hartAt j := by
  simp [State.modCtx, State.hartAt_modHart_ne _ _ n]

@[simp] theorem State.modStrip_part (h : Nat) (f : Strip → Strip) : (s.modStrip h f).part = s.part := rfl
@[simp] theorem State.modStrip_cores (h : Nat) (f : Strip → Strip) : (s.modStrip h f).cores = s.cores := rfl
@[simp] theorem State.modStrip_towers (h : Nat) (f : Strip → Strip) : (s.modStrip h f).towers = s.towers := rfl
@[simp] theorem State.modStrip_cur (h : Nat) (f : Strip → Strip) : (s.modStrip h f).cur = s.cur := rfl

@[simp] theorem State.modCore_part (c : Nat) (f : Core → Core) : (s.modCore c f).part = s.part := rfl
@[simp] theorem State.modCore_harts (c : Nat) (f : Core → Core) : (s.modCore c f).harts = s.harts := rfl
@[simp] theorem State.modCore_towers (c : Nat) (f : Core → Core) : (s.modCore c f).towers = s.towers := rfl
@[simp] theorem State.modCore_agenda (c : Nat) (f : Core → Core) : (s.modCore c f).agenda = s.agenda := rfl
@[simp] theorem State.modCore_cur (c : Nat) (f : Core → Core) : (s.modCore c f).cur = s.cur := rfl
@[simp] theorem State.modCore_tick (c : Nat) (f : Core → Core) : (s.modCore c f).tick = s.tick := rfl
@[simp] theorem State.hartAt_modCore (c h : Nat) (f : Core → Core) : (s.modCore c f).hartAt h = s.hartAt h := rfl
@[simp] theorem State.coreAt_modCore_self (c : Nat) (f : Core → Core) : (s.modCore c f).coreAt c = f (s.coreAt c) := by
  simp [State.coreAt, State.modCore]

theorem State.coreAt_modCore_ne {c j : Nat} (f : Core → Core) (n : j ≠ c) : (s.modCore c f).coreAt j = s.coreAt j := by
  simp [State.coreAt, State.modCore, Map.get_put_ne _ _ _ n]

@[simp] theorem State.modTower_part (t : Nat) (f : Tower → Tower) : (s.modTower t f).part = s.part := rfl
@[simp] theorem State.modTower_harts (t : Nat) (f : Tower → Tower) : (s.modTower t f).harts = s.harts := rfl
@[simp] theorem State.modTower_cores (t : Nat) (f : Tower → Tower) : (s.modTower t f).cores = s.cores := rfl
@[simp] theorem State.modTower_cur (t : Nat) (f : Tower → Tower) : (s.modTower t f).cur = s.cur := rfl

@[simp] theorem State.modPart_part (f : Part → Part) : (s.modPart f).part = f s.part := rfl
@[simp] theorem State.modPart_harts (f : Part → Part) : (s.modPart f).harts = s.harts := rfl
@[simp] theorem State.modPart_cores (f : Part → Part) : (s.modPart f).cores = s.cores := rfl
@[simp] theorem State.modPart_towers (f : Part → Part) : (s.modPart f).towers = s.towers := rfl
@[simp] theorem State.modPart_cur (f : Part → Part) : (s.modPart f).cur = s.cur := rfl
@[simp] theorem State.modPart_tick (f : Part → Part) : (s.modPart f).tick = s.tick := rfl
@[simp] theorem State.modPart_agenda (f : Part → Part) : (s.modPart f).agenda = s.agenda := rfl
@[simp] theorem State.hartAt_modPart (h : Nat) (f : Part → Part) : (s.modPart f).hartAt h = s.hartAt h := rfl
@[simp] theorem State.coreAt_modPart (c : Nat) (f : Part → Part) : (s.modPart f).coreAt c = s.coreAt c := rfl

@[simp] theorem State.wake_part (l : Nat) (p : Nat → Bool) : (s.wake l p).part = s.part := rfl
@[simp] theorem State.wake_cores (l : Nat) (p : Nat → Bool) : (s.wake l p).cores = s.cores := rfl
@[simp] theorem State.wake_cur (l : Nat) (p : Nat → Bool) : (s.wake l p).cur = s.cur := rfl

end Updates

/-! ### Registers of a hart (R274) -/

section Registers
variable (v : Hart)

/-- x0 reads 0 whatever was written. -/
@[simp] theorem Hart.xr_zero : v.xr 0 = 0 := by simp [Hart.xr]

/-- A write to x0 changes nothing. -/
@[simp] theorem Hart.xw_zero (w : Word) : v.xw 0 w = v := by simp [Hart.xw]

theorem Hart.xr_xw_self {r : XReg} (w : Word) (h : r ≠ 0) : (v.xw r w).xr r = w := by
  unfold Hart.xr Hart.xw
  rw [if_neg h, if_neg h]
  exact Sparse.read_write_self 0 v.x _ w

theorem Hart.xr_xw_ne {r q : XReg} (w : Word) (h : q ≠ r) : (v.xw r w).xr q = v.xr q := by
  have hn : q.toNat ≠ r.toNat := fun e => h (BitVec.eq_of_toNat_eq e)
  unfold Hart.xr Hart.xw
  by_cases hr : r = 0
  · rw [if_pos hr]
  · rw [if_neg hr]
    show (if q = 0 then 0 else Sparse.read 0 (Sparse.write 0 v.x r.toNat w) q.toNat) = _
    rw [Sparse.read_write_ne 0 v.x w hn]

@[simp] theorem Hart.xw_pc (r : XReg) (w : Word) : (v.xw r w).pc = v.pc := by unfold Hart.xw; split <;> rfl
@[simp] theorem Hart.xw_kstatus (r : XReg) (w : Word) : (v.xw r w).kstatus = v.kstatus := by unfold Hart.xw; split <;> rfl
@[simp] theorem Hart.xw_ctx (r : XReg) (w : Word) : (v.xw r w).ctx = v.ctx := by unfold Hart.xw; split <;> rfl
/-- New data frees a register of poison, and no other one (R206). -/
theorem Hart.xw_xpoison_self {r : XReg} (w : Word) (h : r ≠ 0) : Map.find (v.xw r w).xpoison r.toNat = none := by
  unfold Hart.xw
  rw [if_neg h]
  exact Map.find_erase_self _ _

theorem Hart.xw_xpoison_ne {r q : XReg} (w : Word) (h : q ≠ r) :
    Map.find (v.xw r w).xpoison q.toNat = Map.find v.xpoison q.toNat := by
  unfold Hart.xw
  split
  · rfl
  · exact Map.find_erase_ne _ fun e => h (BitVec.eq_of_toNat_eq e)

@[simp] theorem Hart.xw_answered (r : XReg) (w : Word) : (v.xw r w).answered = v.answered := by unfold Hart.xw; split <;> rfl
@[simp] theorem Hart.xw_wait (r : XReg) (w : Word) : (v.xw r w).wait = v.wait := by unfold Hart.xw; split <;> rfl
@[simp] theorem Hart.xw_issued (r : XReg) (w : Word) : (v.xw r w).issued = v.issued := by unfold Hart.xw; split <;> rfl
@[simp] theorem Hart.xw_owed (r : XReg) (w : Word) : (v.xw r w).owed = v.owed := by unfold Hart.xw; split <;> rfl
@[simp] theorem Hart.xw_pins (r : XReg) (w : Word) : (v.xw r w).pins = v.pins := by unfold Hart.xw; split <;> rfl

end Registers

/-! ### Trap entry and return (R197, R358) -/

section Traps
variable (v : Hart)

/-- Trap entry: the pc goes to the target's ktvec. -/
@[simp] theorem Hart.trap_pc (c : Nat) (e t : Word) :
    (v.trap c e t).pc = (v.trapRegs (trapTarget v.pm c t)).tvec := rfl

@[simp] theorem Hart.trap_kstatus (c : Nat) (e t : Word) :
    (v.trap c e t).kstatus = trapStatus v.kstatus v.pm (trapTarget v.pm c t) := rfl

@[simp] theorem Hart.trap_x (c : Nat) (e t : Word) : (v.trap c e t).x = v.x := by
  unfold Hart.trap Hart.setTrapRegs; simp only; split <;> rfl

@[simp] theorem Hart.trap_ctx (c : Nat) (e t : Word) : (v.trap c e t).ctx = v.ctx := by
  unfold Hart.trap Hart.setTrapRegs; simp only; split <;> rfl

@[simp] theorem Hart.trap_wait (c : Nat) (e t : Word) : (v.trap c e t).wait = none := rfl

/-- The target's saved registers after trap entry. -/
theorem Hart.trap_trapRegs (c : Nat) (e t : Word) :
    (v.trap c e t).trapRegs (trapTarget v.pm c t) =
      { v.trapRegs (trapTarget v.pm c t) with cause := BitVec.ofNat 64 c, epc := e &&& ~~~3, tval := t } := by
  by_cases h : trapTarget v.pm c t = 2
  · simp [Hart.trap, Hart.setTrapRegs, Hart.trapRegs, h]
  · simp [Hart.trap, Hart.setTrapRegs, Hart.trapRegs, h]

@[simp] theorem Hart.tret_pc : v.tret.pc = (v.trapRegs v.pm).epc := rfl
@[simp] theorem Hart.tret_kstatus : v.tret.kstatus = returnStatus v.kstatus v.pm := rfl
@[simp] theorem Hart.tret_x : v.tret.x = v.x := rfl
@[simp] theorem Hart.tret_ctx : v.tret.ctx = v.ctx := rfl

end Traps

end Sys2Proof.Machine
end

