-- ==== Sys2Proof/Laws/Memory.lean ====
section
/-! SUPPORT. Memory and the other sparse maps: every operation keeps the canonical form, and a write is read back where
it went and nowhere else. -/

namespace Sys2Proof.Machine

/-! ### The canonical form -/

section Canonical
variable {w : Nat} {d : BitVec w}

/-- The canonical form of an entry before others. -/
theorem Sparse.wf_cons {k : Nat} {v : BitVec w} {m : Sparse w} :
    Sparse.wf d ((k, v) :: m) = true ↔ v ≠ d ∧ (∀ e ∈ m, k < e.1) ∧ Sparse.wf d m = true := by
  simp [Sparse.wf, and_assoc, List.all_eq_true]

theorem Map.mem_erase {α : Type} {m : Map α} {k : Nat} {e : Nat × α} (h : e ∈ Map.erase m k) : e ∈ m := by
  induction m with
  | nil => exact h
  | cons p m ih =>
    obtain ⟨j, b⟩ := p
    by_cases hj : j = k
    · simp only [Map.erase, hj, if_true] at h
      exact List.mem_cons_of_mem _ (ih h)
    · simp only [Map.erase, hj, if_false, List.mem_cons] at h
      exact h.elim (fun e => by simp [e]) fun e => List.mem_cons_of_mem _ (ih e)

theorem Map.key_ne_of_mem_erase {α : Type} {m : Map α} {k : Nat} {e : Nat × α} (h : e ∈ Map.erase m k) : e.1 ≠ k := by
  induction m with
  | nil => cases h
  | cons p m ih =>
    obtain ⟨j, b⟩ := p
    by_cases hj : j = k
    · simp only [Map.erase, hj, if_true] at h
      exact ih h
    · simp only [Map.erase, hj, if_false, List.mem_cons] at h
      exact h.elim (fun e => by simpa [e] using hj) ih

theorem Map.mem_insert {α : Type} {m : Map α} {k : Nat} {a : α} {e : Nat × α} (h : e ∈ Map.insert m k a) :
    e = (k, a) ∨ e ∈ m := by
  induction m with
  | nil => simpa [Map.insert] using h
  | cons p m ih =>
    obtain ⟨j, b⟩ := p
    simp only [Map.insert] at h
    split at h
    · simpa using h
    · rcases List.mem_cons.mp h with h | h
      · exact .inr (by simp [h])
      · exact (ih h).imp id (List.mem_cons_of_mem _)

theorem Sparse.wf_erase {m : Sparse w} (k : Nat) (h : Sparse.wf d m = true) : Sparse.wf d (Map.erase m k) = true := by
  induction m with
  | nil => rfl
  | cons p m ih =>
    obtain ⟨j, b⟩ := p
    obtain ⟨hv, hk, hm⟩ := Sparse.wf_cons.mp h
    by_cases hj : j = k
    · simp only [Map.erase, hj, if_true]
      exact ih hm
    · simp only [Map.erase, hj, if_false]
      exact Sparse.wf_cons.mpr ⟨hv, fun e he => hk e (Map.mem_erase he), ih hm⟩

theorem Sparse.wf_insert {m : Sparse w} {k : Nat} {v : BitVec w} (hv : v ≠ d) (hk : ∀ e ∈ m, e.1 ≠ k)
    (h : Sparse.wf d m = true) : Sparse.wf d (Map.insert m k v) = true := by
  induction m with
  | nil => simp [Map.insert, Sparse.wf, hv]
  | cons p m ih =>
    obtain ⟨j, b⟩ := p
    obtain ⟨hb, hj, hm⟩ := Sparse.wf_cons.mp h
    simp only [Map.insert]
    split
    · next hlt =>
      refine Sparse.wf_cons.mpr ⟨hv, fun e he => ?_, h⟩
      rcases List.mem_cons.mp he with rfl | he
      · exact hlt
      · exact hlt.trans (hj e he)
    · next hge =>
      have hne : j ≠ k := hk (j, b) (by simp)
      refine Sparse.wf_cons.mpr ⟨hb, fun e he => ?_, ih (fun e he => hk e (List.mem_cons_of_mem _ he)) hm⟩
      rcases Map.mem_insert he with rfl | he
      · show j < k
        omega
      · exact hj e he

/-- A write keeps the canonical form. -/
theorem Sparse.wf_write {m : Sparse w} (k : Nat) (v : BitVec w) (h : Sparse.wf d m = true) :
    Sparse.wf d (Sparse.write d m k v) = true := by
  unfold Sparse.write
  split
  · exact Sparse.wf_erase k h
  · next hv => exact Sparse.wf_insert hv (fun e he => Map.key_ne_of_mem_erase he) (Sparse.wf_erase k h)

/-- A canonical map lists no key below its first. -/
theorem Sparse.read_eq_of_lt {m : Sparse w} {k : Nat} (h : ∀ e ∈ m, k < e.1) : Sparse.read d m k = d := by
  induction m with
  | nil => rfl
  | cons p m ih =>
    obtain ⟨j, b⟩ := p
    have hj : k < j := h (j, b) (by simp)
    simp only [Sparse.read, Map.get]
    rw [if_neg (by omega)]
    exact ih fun e he => h e (List.mem_cons_of_mem _ he)

/-- Two canonical maps that read alike are the same data. -/
theorem Sparse.ext_of_wf {m n : Sparse w} (hm : Sparse.wf d m = true) (hn : Sparse.wf d n = true)
    (h : ∀ k, Sparse.read d m k = Sparse.read d n k) : m = n := by
  induction m generalizing n with
  | nil =>
    cases n with
    | nil => rfl
    | cons q n =>
      obtain ⟨j, b⟩ := q
      obtain ⟨hb, -, -⟩ := Sparse.wf_cons.mp hn
      have := h j
      simp [Sparse.read, Map.get] at this
      exact absurd this.symm hb
  | cons p m ih =>
    obtain ⟨i, a⟩ := p
    obtain ⟨ha, hi, hm'⟩ := Sparse.wf_cons.mp hm
    cases n with
    | nil =>
      have := h i
      simp [Sparse.read, Map.get] at this
      exact absurd this ha
    | cons q n =>
      obtain ⟨j, b⟩ := q
      obtain ⟨hb, hj, hn'⟩ := Sparse.wf_cons.mp hn
      have hij : i = j := by
        rcases Nat.lt_trichotomy i j with hlt | heq | hgt
        · have hr : Sparse.read d ((j, b) :: n) i = d := Sparse.read_eq_of_lt fun e he => by
            rcases List.mem_cons.mp he with rfl | he
            · exact hlt
            · exact hlt.trans (hj e he)
          have := h i
          rw [hr] at this
          simp [Sparse.read, Map.get] at this
          exact absurd this ha
        · exact heq
        · have hr : Sparse.read d ((i, a) :: m) j = d := Sparse.read_eq_of_lt fun e he => by
            rcases List.mem_cons.mp he with rfl | he
            · exact hgt
            · exact hgt.trans (hi e he)
          have := h j
          rw [hr] at this
          simp [Sparse.read, Map.get] at this
          exact absurd this.symm hb
      subst hij
      have hab : a = b := by simpa [Sparse.read, Map.get] using h i
      subst hab
      congr 1
      refine ih hm' hn' fun k => ?_
      by_cases hk : i = k
      · subst hk
        rw [Sparse.read_eq_of_lt hi, Sparse.read_eq_of_lt hj]
      · simpa [Sparse.read, Map.get, hk] using h k

end Canonical

/-! ### Memory -/

section Memory

theorem Part.putByte_wf {p : Part} (k : Nat) (b : Byte) (h : Memory.wf p.mem = true) :
    Memory.wf (p.putByte k b).mem = true := Sparse.wf_write k b h

theorem Part.putBytes_wf {p : Part} (k : Nat) (bs : List Byte) (h : Memory.wf p.mem = true) :
    Memory.wf (p.putBytes k bs).mem = true := by
  induction bs generalizing p k with
  | nil => exact h
  | cons b bs ih => exact ih (k + 1) (Part.putByte_wf k b h)

theorem Part.markPoison_mem (p : Part) (k : Nat) : (p.markPoison k).mem = p.mem := rfl

/-- A byte written is read back, and no other byte changes. -/
theorem Part.putByte_read (p : Part) (j k : Nat) (b : Byte) :
    Sparse.read 0 (p.putByte k b).mem j = if j = k then b else Sparse.read 0 p.mem j :=
  Sparse.read_write 0 p.mem j k b

/-- Bytes written from a cell on leave every cell before and after them alone. -/
theorem Part.putBytes_read_of_lt (p : Part) {j k : Nat} (bs : List Byte) (h : j < k) :
    Sparse.read 0 (p.putBytes k bs).mem j = Sparse.read 0 p.mem j := by
  induction bs generalizing p k with
  | nil => rfl
  | cons b bs ih =>
    show Sparse.read 0 ((p.putByte k b).putBytes (k + 1) bs).mem j = _
    rw [ih (p.putByte k b) (by omega), Part.putByte_read, if_neg (by omega)]

/-- Bytes written from a cell on are read back, and every other cell keeps its byte. -/
theorem Part.putBytes_read (p : Part) (j k : Nat) (bs : List Byte) :
    Sparse.read 0 (p.putBytes k bs).mem j =
      if k ≤ j ∧ j < k + bs.length then bs.getD (j - k) 0 else Sparse.read 0 p.mem j := by
  induction bs generalizing p k with
  | nil =>
    rw [if_neg (by simp only [List.length_nil]; omega)]
    rfl
  | cons b bs ih =>
    show Sparse.read 0 ((p.putByte k b).putBytes (k + 1) bs).mem j = _
    rcases Nat.lt_trichotomy j k with hlt | heq | hgt
    · rw [Part.putBytes_read_of_lt _ bs (by omega), Part.putByte_read, if_neg (by omega), if_neg (by omega)]
    · subst heq
      rw [Part.putBytes_read_of_lt _ bs (by omega), Part.putByte_read, if_pos rfl,
        if_pos (by simp only [List.length_cons]; omega)]
      simp
    · rw [ih (p.putByte k b) (k + 1), Part.putByte_read, if_neg (show j ≠ k by omega)]
      have e : j - k = (j - (k + 1)) + 1 := by omega
      by_cases hc : k + 1 ≤ j ∧ j < k + 1 + bs.length
      · rw [if_pos hc, if_pos (by simp only [List.length_cons]; omega), e, List.getD_cons_succ]
      · rw [if_neg hc, if_neg (by simp only [List.length_cons]; omega)]

/-- What performing bytes does to the part (R217, R237, R238): local ones go to memory; those of another node and of the
storage window to the transactions; those of a host window whose link is lost go nowhere. -/
theorem State.performAs_part (s : State) (h : Nat) (a : Asker) (addr : Word) (st : Bool) (pa : Nat) (bs : List Byte)
    (woken : Nat → Bool) :
    (s.performAs h a addr st pa bs woken).part =
      if s.paKind pa = .hostLost then s.part
      else if s.isLocal pa && !(st || s.awaited (s.cell pa) bs.length) then s.part.putBytes (s.cell pa) bs
      else (s.part.cleanse (s.cell pa) bs.length).retain
        { id := 0, hart := h, write := true, pa := pa, data := bs, asker := a, addr := addr,
          storage := st || s.awaited (s.cell pa) bs.length } := by
  have key : ∀ (l : List Nat) (t : State) (c : Nat → Prop) [DecidablePred c] (n : Nat → Nat),
      (l.foldl (fun t i => if c i then t.wake (n i) woken else t) t).part = t.part := by
    intro l
    induction l with
    | nil => intros; rfl
    | cons i l ih =>
      intro t c _ n
      rw [List.foldl_cons, ih]
      split <;> rfl
  unfold State.performAs
  simp only
  split
  · unfold State.writeLost; split <;> rfl
  · rw [key]; split <;> rfl

/-- What performing bytes of their own class does to the part. -/
theorem State.perform_part (s : State) (h pa : Nat) (bs : List Byte) (woken : Nat → Bool) :
    (s.perform h pa bs woken).part =
      if s.paKind pa = .hostLost then s.part
      else if s.isLocal pa && !(s.inStorage pa || s.awaited (s.cell pa) bs.length) then s.part.putBytes (s.cell pa) bs
      else (s.part.cleanse (s.cell pa) bs.length).retain
        { id := 0, hart := h, write := true, pa := pa, data := bs,
          storage := s.inStorage pa || s.awaited (s.cell pa) bs.length } :=
  State.performAs_part ..

/-- Performing bytes keeps memory canonical. -/
theorem State.performAs_inv {s : State} (h : Nat) (a : Asker) (addr : Word) (st : Bool) (pa : Nat) (bs : List Byte)
    (woken : Nat → Bool) (hs : s.Inv) : (s.performAs h a addr st pa bs woken).Inv := by
  unfold State.Inv
  rw [State.performAs_part]
  split
  · exact hs
  · split
    · exact Part.putBytes_wf _ _ hs
    · exact hs

theorem State.perform_inv {s : State} (h pa : Nat) (bs : List Byte) (woken : Nat → Bool) (hs : s.Inv) :
    (s.perform h pa bs woken).Inv := State.performAs_inv _ _ _ _ _ _ _ hs

/-- Bytes of a vector store that perform keep memory canonical. -/
theorem State.vecPerform_inv {s : State} (h pa : Nat) (bs : List Byte) (hs : s.Inv) : (s.vecPerform h pa bs).Inv := by
  unfold State.vecPerform
  simp only
  split
  · exact State.perform_inv _ _ _ _ hs
  · split
    · exact State.perform_inv _ _ _ _ hs
    · exact State.perform_inv _ _ _ _ (State.perform_inv _ _ _ _ hs)

/-- Any change that keeps the part keeps the invariant. -/
theorem State.inv_of_part {s t : State} (e : t.part = s.part) (h : s.Inv) : t.Inv := by
  unfold State.Inv at *
  rw [e]
  exact h

theorem State.modHart_inv {s : State} (h : Nat) (f : Hart → Hart) (hs : s.Inv) : (s.modHart h f).Inv := hs
theorem State.mod_inv {s : State} (f : Hart → Hart) (hs : s.Inv) : (s.mod f).Inv := hs
theorem State.modCtx_inv {s : State} (h : Nat) (f : VCtx → VCtx) (hs : s.Inv) : (s.modCtx h f).Inv := hs
theorem State.modStrip_inv {s : State} (h : Nat) (f : Strip → Strip) (hs : s.Inv) : (s.modStrip h f).Inv := hs
theorem State.modCore_inv {s : State} (c : Nat) (f : Core → Core) (hs : s.Inv) : (s.modCore c f).Inv := hs
theorem State.modTower_inv {s : State} (t : Nat) (f : Tower → Tower) (hs : s.Inv) : (s.modTower t f).Inv := hs
theorem State.wake_inv {s : State} (l : Nat) (p : Nat → Bool) (hs : s.Inv) : (s.wake l p).Inv := hs
theorem State.takeTrap_inv {s : State} (h c : Nat) (e t : Word) (hs : s.Inv) : (s.takeTrap h c e t).Inv := hs
theorem State.raise_inv {s : State} (e : Exc) (hs : s.Inv) : (s.raise e).Inv := hs
theorem State.done_inv {s : State} (d : XReg) (w : Word) (hs : s.Inv) : (s.done d w).Inv := hs
theorem State.advance_inv {s : State} (hs : s.Inv) : s.advance.Inv := hs
theorem State.raiseFlags_inv {s : State} (h : Nat) (e : Events) (hs : s.Inv) : (s.raiseFlags h e).Inv := hs

theorem State.foldl_inv {β : Type} (f : State → β → State) (hf : ∀ t b, t.Inv → (f t b).Inv) (l : List β) {s : State}
    (hs : s.Inv) : (l.foldl f s).Inv := by
  induction l generalizing s with
  | nil => exact hs
  | cons b l ih => exact ih (hf s b hs)

/-- Marks of poison keep memory canonical. -/
theorem Part.markAll_wf {β : Type} (l : List β) (key : β → Nat) {p : Part} (h : Memory.wf p.mem = true) :
    Memory.wf (l.foldl (fun q e => q.markPoison (key e)) p).mem = true := by
  induction l generalizing p with
  | nil => exact h
  | cons e l ih => exact ih (p := p.markPoison (key e)) h

/-- Draining a junction buffer keeps memory canonical. -/
theorem State.drainBytes_inv {s : State} (c : Nat) (l : JLine) (hs : s.Inv) : (s.drainBytes c l).Inv :=
  Part.markAll_wf _ _ (State.foldl_inv _ (fun _ _ ht => State.performAs_inv _ _ _ _ _ _ _ ht) _
    (State.foldl_inv _ (fun _ _ ht => State.performAs_inv _ _ _ _ _ _ _ ht) _ hs))

theorem State.drainLine_inv {s : State} (c line : Nat) (hs : s.Inv) : (s.drainLine c line).Inv := by
  unfold State.drainLine
  split
  · exact hs
  · exact State.modCore_inv _ _ (State.drainBytes_inv _ _ hs)

theorem State.drainOwn_inv {s : State} (c line : Nat) (hs : s.Inv) : (s.drainOwn c line).Inv := by
  unfold State.drainOwn
  split
  · split
    · exact State.drainLine_inv _ _ (State.drainLine_inv _ _ hs)
    · exact State.drainLine_inv _ _ hs
  · exact State.drainLine_inv _ _ hs

theorem State.drainAll_inv {s : State} (c : Nat) (hs : s.Inv) : (s.drainAll c).Inv :=
  State.foldl_inv _ (fun _ _ ht => State.drainLine_inv _ _ ht) _ hs

/-- A strip that seals releases its stores and keeps memory canonical. -/
theorem State.releaseBuf_inv {s : State} (h : Nat) (st : Strip) (hs : s.Inv) : (s.releaseBuf h st).Inv :=
  Part.markAll_wf _ _ (State.foldl_inv _ (fun _ _ ht => State.performAs_inv _ _ _ _ _ _ _ ht) _
    (State.foldl_inv _ (fun _ _ ht => State.performAs_inv _ _ _ _ _ _ _ ht) _ hs))

theorem State.seal_inv {s : State} (h : Nat) (hs : s.Inv) : (s.seal h).Inv := by
  unfold State.seal
  split
  · exact hs
  · split
    · exact hs
    · exact State.modStrip_inv _ _ (State.releaseBuf_inv _ _ hs)

/-- A write that its destination has performed keeps memory canonical (R217, R237). -/
theorem State.land_inv {s : State} (t : Transaction) (hs : s.Inv) : (s.land t).Inv := Part.putBytes_wf _ _ hs

theorem State.dropTrans_inv {s : State} (id : Nat) (hs : s.Inv) : (s.dropTrans id).Inv := hs

/-- The host's acceptance of a storage write, and its loss, keep memory canonical (R237). -/
theorem State.persist_inv {s : State} (hs : s.Inv) : s.persist.Inv := by
  unfold State.persist
  split
  · exact State.dropTrans_inv _ (State.land_inv _ hs)
  · exact hs

theorem State.writeLost_inv {s : State} (h pa : Nat) (hs : s.Inv) : (s.writeLost h pa).Inv := by
  unfold State.writeLost
  split <;> exact hs

theorem State.loseChunk_inv {s : State} (h id k : Nat) (t : Transaction) (hs : s.Inv) : (s.loseChunk h id k t).Inv := by
  unfold State.loseChunk
  dsimp only
  split
  · split
    · exact State.writeLost_inv _ _ hs
    · exact hs
  · split
    · split
      · exact State.writeLost_inv _ _ hs
      · exact hs
    · exact hs

theorem State.loseStorage_inv {s : State} (t : Transaction) (hs : s.Inv) : (s.loseStorage t).Inv := by
  unfold State.loseStorage
  dsimp only
  split
  · exact State.loseChunk_inv _ _ _ _ hs
  all_goals first | exact State.writeLost_inv _ _ hs | exact hs

theorem State.linkDown_inv {s : State} (hs : s.Inv) : s.linkDown.Inv := by
  unfold State.linkDown
  dsimp only
  split
  · exact State.foldl_inv _ (fun _ t ht => State.loseStorage_inv t ht) _ (s := s.loseHostStores) hs
  · exact hs

theorem State.hostPowerFail_inv {s : State} (hs : s.Inv) : s.hostPowerFail.Inv := State.linkDown_inv hs

/-- Memory at reset is canonical. -/
theorem State.reset_inv : State.reset.Inv := rfl

end Memory

end Sys2Proof.Machine
end

