-- ==== Sys2Proof/Laws/Outcomes.lean ====
section
/-! SUPPORT. How the shared ends of the instructions meet the terms of the statements: what a change of the current hart
leaves as it is, what `done`, `goto`, `advance`, `stall` and `raise` come to. -/

namespace Sys2Proof.Claims
open Sys2Proof.Machine

/-! ### What a change of the current hart leaves as it is -/

/-- Memory reads alike in two states of one part and the same cores. -/
theorem sameMemory_of_eq {s t : State} (hp : t.part = s.part) (hc : t.cores = s.cores) : SameMemory s t := by
  have hb : ∀ k, t.byteAt k = s.byteAt k := fun k => by simp only [State.byteAt, hp]
  have hl : ∀ a, t.isLocal a = s.isLocal a := fun a => by simp only [State.isLocal, hp]
  have hk : ∀ a, t.cell a = s.cell a := fun a => by simp only [State.cell, hl]
  refine ⟨hb, fun c k => ?_⟩
  have hv : ∀ x, t.covers x k = s.covers x k := fun x => by simp only [State.covers, hk]
  have hd : t.devByte k = s.devByte k := by simp only [State.devByte, hv, hp, hk, hb]
  simp only [State.scalarByte, State.junction, State.coreAt, hc, hd]

theorem SameMemory.refl (s : State) : SameMemory s s := sameMemory_of_eq rfl rfl

theorem SameMemory.trans {s t u : State} (h : SameMemory s t) (g : SameMemory t u) : SameMemory s u :=
  ⟨fun k => (g.1 k).trans (h.1 k), fun c k => (g.2 c k).trans (h.2 c k)⟩

theorem sameRest_modHart (s : State) (h : Nat) (f : Hart → Hart) : SameRest s (s.modHart h f) :=
  ⟨rfl, rfl, rfl, rfl, rfl, rfl, rfl, sameMemory_of_eq rfl rfl⟩

theorem SameRest.trans {s t u : State} (h : SameRest s t) (g : SameRest t u) : SameRest s u := by
  obtain ⟨h1, h2, h3, h4, h5, h6, h7, h8⟩ := h
  obtain ⟨g1, g2, g3, g4, g5, g6, g7, g8⟩ := g
  exact ⟨g1.trans h1, g2.trans h2, g3.trans h3, g4.trans h4, g5.trans h5, g6.trans h6, g7.trans h7, h8.trans g8⟩

/-- A change of the current hart changes only that hart. -/
theorem onlyHart_mod (s : State) (f : Hart → Hart) : OnlyHart s (s.mod f) :=
  ⟨sameRest_modHart s _ f, fun _ hj => State.mod_hartAt_ne s f hj⟩

theorem OnlyHart.refl (s : State) : OnlyHart s s :=
  ⟨⟨rfl, rfl, rfl, rfl, rfl, rfl, rfl, .refl s⟩, fun _ _ => rfl⟩

theorem OnlyHart.trans {s t u : State} (h : OnlyHart s t) (g : OnlyHart t u) : OnlyHart s u :=
  ⟨h.1.trans g.1, fun j hj => (g.2 j (by rw [h.1.2.2.2.2.2.1]; exact hj)).trans (h.2 j hj)⟩

/-- A change of the current vector context changes only the current hart. -/
theorem onlyHart_modCtx (s : State) (f : VCtx → VCtx) : OnlyHart s (s.modCtx s.cur f) :=
  onlyHart_mod s fun v => { v with ctx := f v.ctx }

@[simp] theorem modCtx_hart (s : State) (f : VCtx → VCtx) :
    (s.modCtx s.cur f).hart = { s.hart with ctx := f s.ctx } := by
  simp [State.hart, State.ctx]

@[simp] theorem modCtx_ctx (s : State) (f : VCtx → VCtx) : (s.modCtx s.cur f).ctx = f s.ctx := by
  simp [State.ctx]

/-! ### The ends of a C-stream instruction -/

theorem hart_eta_x (v : Hart) (d : XReg) (w : Word) : { v.xw d w with x := v.x, xpoison := v.xpoison } = v := by
  unfold Hart.xw; split <;> rfl

@[simp] theorem done_hart (s : State) (d : XReg) (w : Word) :
    (s.done d w).hart = { s.hart.xw d w with pc := s.hart.pc + 4, wait := none, answered := false } := by
  simp [State.done, State.advance, State.xw]

theorem xr_xw (v : Hart) (d r : XReg) (w : Word) :
    (v.xw d w).xr r = if r = d then (if d = 0 then 0 else w) else v.xr r := by
  by_cases h : r = d
  · subst h
    rw [if_pos rfl]
    by_cases h0 : r = 0
    · subst h0; exact Hart.xr_zero _
    · rw [if_neg h0, Hart.xr_xw_self v w h0]
  · simp [h, Hart.xr_xw_ne]

theorem Hart.xr_eq_of_x {u v : Hart} (h : u.x = v.x) (r : XReg) : u.xr r = v.xr r := by
  simp only [Hart.xr, h]

/-- `done` writes x[d] and goes on. -/
theorem writesX_done (s : State) (d : XReg) (w : Word) : WritesX s d w (.next (s.done d w)) := by
  have hx : ∀ r, (s.done d w).xr r = if r = d then (if d = 0 then 0 else w) else s.xr r := fun r => by
    simp only [State.xr, done_hart]
    exact xr_xw s.hart d r w
  have hp : (s.done d w).hart.xpoison = (s.hart.xw d w).xpoison := by rw [done_hart]
  refine ⟨_, rfl, by simp [hx], fun h0 => ?_, fun r hr => ⟨by simp [hx, hr], ?_⟩, ?_, by simp, ?_, ?_⟩
  · unfold XPoisoned; rw [hp, Hart.xw_xpoison_self _ _ h0]; simp
  · unfold XPoisoned; rw [hp, Hart.xw_xpoison_ne _ _ hr]
  · simp [State.pc]
  · exact (onlyHart_mod s _).trans (onlyHart_mod _ _)
  · rw [done_hart]
    unfold Hart.xw
    split <;> rfl

/-- A write of `writeX` with a value that equals the stated one. -/
theorem writesX_of_eq {s : State} {d : XReg} {w v : Word} {o : Out} (ho : o = .next (s.done d w)) (h : w = v) :
    WritesX s d v o := by
  subst ho; subst h; exact writesX_done s d w

/-- A change of the current hart that keeps its x registers keeps the poison in them. -/
theorem sameX_mod (s : State) (f : Hart → Hart) (hx : (f s.hart).x = s.hart.x) (hp : (f s.hart).xpoison = s.hart.xpoison) :
    SameX s (s.mod f) :=
  ⟨fun r => by simp only [State.xr, State.mod_hart]; exact Hart.xr_eq_of_x hx r, by rw [State.mod_hart, hp]⟩

/-- A change of the pc and the wait alone. -/
theorem goesTo_goto (s : State) (t : Word) : GoesTo s t (.next (s.goto t)) :=
  ⟨_, rfl, sameX_mod s _ rfl rfl, by simp [State.pc, State.goto], by simp [State.goto], onlyHart_mod _ _, by simp [State.goto]⟩

theorem goesTo_advance (s : State) : GoesTo s (s.pc + 4) (.next s.advance) :=
  ⟨_, rfl, sameX_mod s _ rfl rfl, by simp [State.pc, State.advance], by simp [State.advance], onlyHart_mod _ _,
    by simp [State.advance]⟩

theorem waitsIn_stall (s : State) (w : Wait) : WaitsIn s w (.next (s.stall w)) :=
  ⟨_, rfl, sameX_mod s _ rfl rfl, by simp [State.pc, State.stall], by simp [State.stall], onlyHart_mod _ _,
    by simp [State.stall]⟩

theorem hartBecomes_mod (s : State) (f g : Hart → Hart)
    (h : g s.hart = { f s.hart with pc := s.pc + 4, wait := none, answered := false }) :
    HartBecomes s f (.next (s.mod g)) :=
  ⟨_, rfl, onlyHart_mod _ _, by rw [State.mod_hart, h]⟩

/-! ### Traps (R197) -/

/-- The mode that the model's trap enters is the one that the statements name. -/
theorem trapTarget_eq (m c : Nat) (v : Word) : trapTarget m c v = entersMode m c v := by
  unfold trapTarget entersMode
  split <;> split <;> (try split) <;> first | rfl | (exfalso; omega) | skip
  all_goals simp_all

theorem entersMode_or (m c : Nat) (v : Word) : entersMode m c v = 2 ∨ entersMode m c v = 1 := by
  unfold entersMode; split <;> simp

/-- Trap entry is as R197 says. -/
theorem trapOf_trap (v : Hart) (c : Nat) (e t : Word) : TrapOf v (v.trap c e t) c e t := by
  have hpm : v.pm < 4 := fld_lt _ 8 2
  unfold TrapOf
  simp only [Hart.trap, trapTarget_eq]
  rw [show v.pm = fld v.kstatus 8 2 from rfl] at *
  rcases entersMode_or (fld v.kstatus 8 2) c t with h | h
  · simp only [h, Hart.trapRegs, Hart.setTrapRegs, trapStatus, Hart.pm, Hart.ie, if_true]
    refine ⟨trivial, trivial, rfl, ?_, ?_, ⟨?_, ?_, ?_, ?_⟩, ?_, trivial, trivial, trivial, trivial, trivial, trivial⟩
    · rw [fld_putFld_self _ _ _ _ (by omega)]; rfl
    · simp [tst_putFld, tst_putBit]
    · rw [fld_putFld_ne _ _ (by omega), fld_putBit_ne _ _ (by omega), fld_putBit_ne _ _ (by omega),
        fld_putFld_self _ _ _ _ (by omega)]
      exact Nat.mod_eq_of_lt hpm
    · simp [tst_putFld, tst_putBit]
    · rw [fld_putFld_ne _ _ (by omega), fld_putBit_ne _ _ (by omega), fld_putBit_ne _ _ (by omega),
        fld_putFld_ne _ _ (by omega)]
    · simp [tst_putFld, tst_putBit]
    · intro i hi
      simp only [tst_putFld, tst_putBit]
      rw [if_neg (by omega), if_neg (by omega), if_neg (by omega), if_neg (by omega)]
  · simp only [h, Hart.trapRegs, Hart.setTrapRegs, trapStatus, Hart.pm, Hart.ie]
    refine ⟨trivial, rfl, rfl, ?_, ?_, ⟨?_, ?_, ?_, ?_⟩, ?_, trivial, trivial, trivial, trivial, trivial, rfl⟩
    · rw [fld_putFld_self _ _ _ _ (by omega)]; rfl
    · simp [tst_putFld, tst_putBit]
    · simp only [show ¬ (1 = 2) by omega, if_false]
      rw [fld_putFld_ne _ _ (by omega), fld_putBit_ne _ _ (by omega), fld_putBit_ne _ _ (by omega),
        fld_putFld_self _ _ _ _ (by omega)]
      exact Nat.mod_eq_of_lt hpm
    · simp [tst_putFld, tst_putBit]
    · simp only [show ¬ (1 = 2) by omega, if_false]
      rw [fld_putFld_ne _ _ (by omega), fld_putBit_ne _ _ (by omega), fld_putBit_ne _ _ (by omega),
        fld_putFld_ne _ _ (by omega)]
    · simp [tst_putFld, tst_putBit]
    · intro i hi
      simp only [show ¬ (1 = 2) by omega, if_false]
      simp only [tst_putFld, tst_putBit]
      rw [if_neg (by omega), if_neg (by omega), if_neg (by omega), if_neg (by omega)]

/-- The current hart takes a trap. -/
theorem traps_takeTrap (s : State) (c : Nat) (e t : Word) : Traps s c e t (.next (s.takeTrap s.cur c e t)) :=
  ⟨_, rfl, onlyHart_mod _ _, by
    show TrapOf s.hart ((s.mod fun v => v.trap c e t).hart) c e t
    rw [State.mod_hart]; exact trapOf_trap _ _ _ _⟩

/-- A synchronous exception of the current instruction. -/
theorem traps_raise (s : State) (e : Exc) : Traps s e.cause s.pc e.tval (.next (s.raise e)) := traps_takeTrap s _ _ _

end Sys2Proof.Claims
end

