-- ==== Sys2Proof/Laws/PerInstr.lean ====
section
/-! SUPPORT. What holds of every instruction as syntax, one lemma per constructor. OneSpace: no instruction has a word in
both streams (R274, R279). -/

namespace Sys2Proof.Laws

/-- The instruction has no C-stream word or no V-stream word. -/
def OneSpace.Statement (i : Instr) : Prop := encodeC i = none ∨ encodeV i = none

theorem OneSpace.iadd (a0 : XReg) (a1 : XReg) (a2 : XReg) : OneSpace.Statement (.iadd a0 a1 a2) := Or.inr rfl
theorem OneSpace.isub (a0 : XReg) (a1 : XReg) (a2 : XReg) : OneSpace.Statement (.isub a0 a1 a2) := Or.inr rfl
theorem OneSpace.iand (a0 : XReg) (a1 : XReg) (a2 : XReg) : OneSpace.Statement (.iand a0 a1 a2) := Or.inr rfl
theorem OneSpace.ior (a0 : XReg) (a1 : XReg) (a2 : XReg) : OneSpace.Statement (.ior a0 a1 a2) := Or.inr rfl
theorem OneSpace.ixor (a0 : XReg) (a1 : XReg) (a2 : XReg) : OneSpace.Statement (.ixor a0 a1 a2) := Or.inr rfl
theorem OneSpace.ishl (a0 : XReg) (a1 : XReg) (a2 : XReg) : OneSpace.Statement (.ishl a0 a1 a2) := Or.inr rfl
theorem OneSpace.ishr (a0 : XReg) (a1 : XReg) (a2 : XReg) : OneSpace.Statement (.ishr a0 a1 a2) := Or.inr rfl
theorem OneSpace.isar (a0 : XReg) (a1 : XReg) (a2 : XReg) : OneSpace.Statement (.isar a0 a1 a2) := Or.inr rfl
theorem OneSpace.imul (a0 : XReg) (a1 : XReg) (a2 : XReg) : OneSpace.Statement (.imul a0 a1 a2) := Or.inr rfl
theorem OneSpace.imulh (a0 : XReg) (a1 : XReg) (a2 : XReg) (a3 : Bool) : OneSpace.Statement (.imulh a0 a1 a2 a3) := Or.inr rfl
theorem OneSpace.idiv (a0 : XReg) (a1 : XReg) (a2 : XReg) (a3 : Bool) : OneSpace.Statement (.idiv a0 a1 a2 a3) := Or.inr rfl
theorem OneSpace.irem (a0 : XReg) (a1 : XReg) (a2 : XReg) (a3 : Bool) : OneSpace.Statement (.irem a0 a1 a2 a3) := Or.inr rfl
theorem OneSpace.imin (a0 : XReg) (a1 : XReg) (a2 : XReg) (a3 : Bool) : OneSpace.Statement (.imin a0 a1 a2 a3) := Or.inr rfl
theorem OneSpace.imax (a0 : XReg) (a1 : XReg) (a2 : XReg) (a3 : Bool) : OneSpace.Statement (.imax a0 a1 a2 a3) := Or.inr rfl
theorem OneSpace.iclz (a0 : XReg) (a1 : XReg) : OneSpace.Statement (.iclz a0 a1) := Or.inr rfl
theorem OneSpace.ipop (a0 : XReg) (a1 : XReg) : OneSpace.Statement (.ipop a0 a1) := Or.inr rfl
theorem OneSpace.iset (a0 : XReg) (a1 : XReg) (a2 : XReg) (a3 : Cond) : OneSpace.Statement (.iset a0 a1 a2 a3) := Or.inr rfl
theorem OneSpace.iaddImm (a0 : XReg) (a1 : XReg) (a2 : BitVec 16) : OneSpace.Statement (.iaddImm a0 a1 a2) := Or.inr rfl
theorem OneSpace.iandImm (a0 : XReg) (a1 : XReg) (a2 : BitVec 16) : OneSpace.Statement (.iandImm a0 a1 a2) := Or.inr rfl
theorem OneSpace.iorImm (a0 : XReg) (a1 : XReg) (a2 : BitVec 16) : OneSpace.Statement (.iorImm a0 a1 a2) := Or.inr rfl
theorem OneSpace.ixorImm (a0 : XReg) (a1 : XReg) (a2 : BitVec 16) : OneSpace.Statement (.ixorImm a0 a1 a2) := Or.inr rfl
theorem OneSpace.ishlImm (a0 : XReg) (a1 : XReg) (a2 : BitVec 6) : OneSpace.Statement (.ishlImm a0 a1 a2) := Or.inr rfl
theorem OneSpace.ishrImm (a0 : XReg) (a1 : XReg) (a2 : BitVec 6) : OneSpace.Statement (.ishrImm a0 a1 a2) := Or.inr rfl
theorem OneSpace.isarImm (a0 : XReg) (a1 : XReg) (a2 : BitVec 6) : OneSpace.Statement (.isarImm a0 a1 a2) := Or.inr rfl
theorem OneSpace.isetImm (a0 : XReg) (a1 : XReg) (a2 : Cond) (a3 : BitVec 13) : OneSpace.Statement (.isetImm a0 a1 a2 a3) := Or.inr rfl
theorem OneSpace.imovz (a0 : XReg) (a1 : BitVec 2) (a2 : BitVec 16) : OneSpace.Statement (.imovz a0 a1 a2) := Or.inr rfl
theorem OneSpace.imovk (a0 : XReg) (a1 : BitVec 2) (a2 : BitVec 16) : OneSpace.Statement (.imovk a0 a1 a2) := Or.inr rfl
theorem OneSpace.ipcrel (a0 : XReg) (a1 : BitVec 21) : OneSpace.Statement (.ipcrel a0 a1) := Or.inr rfl
theorem OneSpace.ld (a0 : XReg) (a1 : XReg) (a2 : LdWidth) (a3 : BitVec 13) : OneSpace.Statement (.ld a0 a1 a2 a3) := Or.inr rfl
theorem OneSpace.st (a0 : XReg) (a1 : XReg) (a2 : StWidth) (a3 : BitVec 13) : OneSpace.Statement (.st a0 a1 a2 a3) := Or.inr rfl
theorem OneSpace.amo (a0 : XReg) (a1 : XReg) (a2 : XReg) (a3 : Bool) (a4 : MemOrd) (a5 : Scope) (a6 : AmoOp) : OneSpace.Statement (.amo a0 a1 a2 a3 a4 a5 a6) := Or.inr rfl
theorem OneSpace.acas (a0 : XReg) (a1 : XReg) (a2 : XReg) (a3 : Bool) (a4 : MemOrd) (a5 : Scope) : OneSpace.Statement (.acas a0 a1 a2 a3 a4 a5) := Or.inr rfl
theorem OneSpace.ldacq (a0 : XReg) (a1 : XReg) (a2 : Bool) (a3 : Scope) : OneSpace.Statement (.ldacq a0 a1 a2 a3) := Or.inr rfl
theorem OneSpace.strel (a0 : XReg) (a1 : XReg) (a2 : Bool) (a3 : Scope) : OneSpace.Statement (.strel a0 a1 a2 a3) := Or.inr rfl
theorem OneSpace.fsv : OneSpace.Statement .fsv := Or.inr rfl
theorem OneSpace.fvs : OneSpace.Statement .fvs := Or.inr rfl
theorem OneSpace.fvv : OneSpace.Statement .fvv := Or.inr rfl
theorem OneSpace.fall (a0 : Scope) : OneSpace.Statement (.fall a0) := Or.inr rfl
theorem OneSpace.fenceStallEnd : OneSpace.Statement .fenceStallEnd := Or.inl rfl
theorem OneSpace.mwatch (a0 : XReg) (a1 : XReg) : OneSpace.Statement (.mwatch a0 a1) := Or.inr rfl
theorem OneSpace.mwait : OneSpace.Statement .mwait := Or.inr rfl
theorem OneSpace.mwaitWake : OneSpace.Statement .mwaitWake := Or.inl rfl
theorem OneSpace.jmp (a0 : BitVec 26) : OneSpace.Statement (.jmp a0) := Or.inr rfl
theorem OneSpace.call (a0 : BitVec 26) : OneSpace.Statement (.call a0) := Or.inr rfl
theorem OneSpace.jr (a0 : XReg) : OneSpace.Statement (.jr a0) := Or.inr rfl
theorem OneSpace.callr (a0 : XReg) : OneSpace.Statement (.callr a0) := Or.inr rfl
theorem OneSpace.ret : OneSpace.Statement .ret := Or.inr rfl
theorem OneSpace.bcc (a0 : XReg) (a1 : XReg) (a2 : Cond) (a3 : BitVec 13) : OneSpace.Statement (.bcc a0 a1 a2 a3) := Or.inr rfl
theorem OneSpace.vdisp (a0 : XReg) (a1 : BitVec 6) : OneSpace.Statement (.vdisp a0 a1) := Or.inr rfl
theorem OneSpace.vdispStallEnd : OneSpace.Statement .vdispStallEnd := Or.inl rfl
theorem OneSpace.squallRefill : OneSpace.Statement .squallRefill := Or.inl rfl
theorem OneSpace.rqget (a0 : XReg) : OneSpace.Statement (.rqget a0) := Or.inr rfl
theorem OneSpace.rqgetWake : OneSpace.Statement .rqgetWake := Or.inl rfl
theorem OneSpace.rqpoll (a0 : XReg) : OneSpace.Statement (.rqpoll a0) := Or.inr rfl
theorem OneSpace.vsync : OneSpace.Statement .vsync := Or.inr rfl
theorem OneSpace.vsyncWake : OneSpace.Statement .vsyncWake := Or.inl rfl
theorem OneSpace.vqpos (a0 : XReg) : OneSpace.Statement (.vqpos a0) := Or.inr rfl
theorem OneSpace.hexit : OneSpace.Statement .hexit := Or.inr rfl
theorem OneSpace.hexitComplete : OneSpace.Statement .hexitComplete := Or.inl rfl
theorem OneSpace.hyield : OneSpace.Statement .hyield := Or.inr rfl
theorem OneSpace.hyieldEnd : OneSpace.Statement .hyieldEnd := Or.inl rfl
theorem OneSpace.hspawn (a0 : XReg) (a1 : XReg) (a2 : XReg) : OneSpace.Statement (.hspawn a0 a1 a2) := Or.inr rfl
theorem OneSpace.gbar (a0 : XReg) : OneSpace.Statement (.gbar a0) := Or.inr rfl
theorem OneSpace.garr (a0 : XReg) : OneSpace.Statement (.garr a0) := Or.inr rfl
theorem OneSpace.gwait (a0 : XReg) : OneSpace.Statement (.gwait a0) := Or.inr rfl
theorem OneSpace.gwaitWake : OneSpace.Statement .gwaitWake := Or.inl rfl
theorem OneSpace.trap (a0 : BitVec 16) : OneSpace.Statement (.trap a0) := Or.inr rfl
theorem OneSpace.tret : OneSpace.Statement .tret := Or.inr rfl
theorem OneSpace.kread (a0 : XReg) (a1 : KNum) : OneSpace.Statement (.kread a0 a1) := Or.inr rfl
theorem OneSpace.kwrite (a0 : XReg) (a1 : KNum) : OneSpace.Statement (.kwrite a0 a1) := Or.inr rfl
theorem OneSpace.kset (a0 : XReg) (a1 : XReg) (a2 : KNum) : OneSpace.Statement (.kset a0 a1 a2) := Or.inr rfl
theorem OneSpace.kclr (a0 : XReg) (a1 : XReg) (a2 : KNum) : OneSpace.Statement (.kclr a0 a1 a2) := Or.inr rfl
theorem OneSpace.wfi : OneSpace.Statement .wfi := Or.inr rfl
theorem OneSpace.sinval (a0 : XReg) (a1 : XReg) : OneSpace.Statement (.sinval a0 a1) := Or.inr rfl
theorem OneSpace.brk : OneSpace.Statement .brk := Or.inr rfl
theorem OneSpace.storeStallEnd : OneSpace.Statement .storeStallEnd := Or.inl rfl
theorem OneSpace.junctionLineDrain (a0 : Nat) (a1 : Nat) : OneSpace.Statement (.junctionLineDrain a0 a1) := Or.inl rfl
theorem OneSpace.kctxSave (a0 : XReg) : OneSpace.Statement (.kctxSave a0) := Or.inl rfl
theorem OneSpace.kctxrRestore (a0 : XReg) : OneSpace.Statement (.kctxrRestore a0) := Or.inl rfl
theorem OneSpace.kvfaultResume : OneSpace.Statement .kvfaultResume := Or.inl rfl
theorem OneSpace.kvqDiscard (a0 : XReg) : OneSpace.Statement (.kvqDiscard a0) := Or.inl rfl
theorem OneSpace.kfrmWrite (a0 : XReg) : OneSpace.Statement (.kfrmWrite a0) := Or.inl rfl
theorem OneSpace.kflagsWrite (a0 : XReg) : OneSpace.Statement (.kflagsWrite a0) := Or.inl rfl
theorem OneSpace.klprWrite (a0 : XReg) : OneSpace.Statement (.klprWrite a0) := Or.inl rfl
theorem OneSpace.kgangWrite (a0 : XReg) : OneSpace.Statement (.kgangWrite a0) := Or.inl rfl
theorem OneSpace.ksqbWrite (a0 : XReg) : OneSpace.Statement (.ksqbWrite a0) := Or.inl rfl
theorem OneSpace.kcpfqWrite (a0 : XReg) : OneSpace.Statement (.kcpfqWrite a0) := Or.inl rfl
theorem OneSpace.kheatWrite (a0 : XReg) : OneSpace.Statement (.kheatWrite a0) := Or.inl rfl
theorem OneSpace.kpenWrite (a0 : XReg) : OneSpace.Statement (.kpenWrite a0) := Or.inl rfl
theorem OneSpace.krasFlush : OneSpace.Statement .krasFlush := Or.inl rfl
theorem OneSpace.kdeadlineWrite (a0 : XReg) : OneSpace.Statement (.kdeadlineWrite a0) := Or.inl rfl
theorem OneSpace.kpreqPre (a0 : Nat) : OneSpace.Statement (.kpreqPre a0) := Or.inl rfl
theorem OneSpace.kpreqIhi (a0 : Nat) : OneSpace.Statement (.kpreqIhi a0) := Or.inl rfl
theorem OneSpace.deadlineExpiry : OneSpace.Statement .deadlineExpiry := Or.inl rfl
theorem OneSpace.asyncEventTaken : OneSpace.Statement .asyncEventTaken := Or.inl rfl
theorem OneSpace.vectorFaultDelivery : OneSpace.Statement .vectorFaultDelivery := Or.inl rfl
theorem OneSpace.machineCheckTaken : OneSpace.Statement .machineCheckTaken := Or.inl rfl
theorem OneSpace.blockStart : OneSpace.Statement .blockStart := Or.inl rfl
theorem OneSpace.clusterStallRelease : OneSpace.Statement .clusterStallRelease := Or.inl rfl
theorem OneSpace.breakpointHit (a0 : Bool) : OneSpace.Statement (.breakpointHit a0) := Or.inl rfl
theorem OneSpace.bli (a0 : BReg) (a1 : W32) : OneSpace.Statement (.bli a0 a1) := Or.inl rfl
theorem OneSpace.badd (a0 : BReg) (a1 : BReg) (a2 : BSrc) : OneSpace.Statement (.badd a0 a1 a2) := Or.inl rfl
theorem OneSpace.bsub (a0 : BReg) (a1 : BReg) (a2 : BSrc) : OneSpace.Statement (.bsub a0 a1 a2) := Or.inl rfl
theorem OneSpace.bmul (a0 : BReg) (a1 : BReg) (a2 : BSrc) : OneSpace.Statement (.bmul a0 a1 a2) := Or.inl rfl
theorem OneSpace.band (a0 : BReg) (a1 : BReg) (a2 : BSrc) : OneSpace.Statement (.band a0 a1 a2) := Or.inl rfl
theorem OneSpace.bor (a0 : BReg) (a1 : BReg) (a2 : BSrc) : OneSpace.Statement (.bor a0 a1 a2) := Or.inl rfl
theorem OneSpace.bxor (a0 : BReg) (a1 : BReg) (a2 : BSrc) : OneSpace.Statement (.bxor a0 a1 a2) := Or.inl rfl
theorem OneSpace.bshl (a0 : BReg) (a1 : BReg) (a2 : BSrc) : OneSpace.Statement (.bshl a0 a1 a2) := Or.inl rfl
theorem OneSpace.bshr (a0 : BReg) (a1 : BReg) (a2 : BSrc) : OneSpace.Statement (.bshr a0 a1 a2) := Or.inl rfl
theorem OneSpace.bset (a0 : Cond) (a1 : BReg) (a2 : BReg) (a3 : BSrc) : OneSpace.Statement (.bset a0 a1 a2 a3) := Or.inl rfl
theorem OneSpace.bloop (a0 : BitVec 2) (a1 : BReg) (a2 : W32) : OneSpace.Statement (.bloop a0 a1 a2) := Or.inl rfl
theorem OneSpace.bbr (a0 : Cond) (a1 : BReg) (a2 : BReg) (a3 : W32) : OneSpace.Statement (.bbr a0 a1 a2 a3) := Or.inl rfl
theorem OneSpace.bjmp (a0 : W32) : OneSpace.Statement (.bjmp a0) := Or.inl rfl
theorem OneSpace.vend : OneSpace.Statement .vend := Or.inl rfl
theorem OneSpace.vreply (a0 : BReg) : OneSpace.Statement (.vreply a0) := Or.inl rfl
theorem OneSpace.vreplyAny (a0 : MReg) : OneSpace.Statement (.vreplyAny a0) := Or.inl rfl
theorem OneSpace.vreplyNone (a0 : MReg) : OneSpace.Statement (.vreplyNone a0) := Or.inl rfl
theorem OneSpace.vreplyPop (a0 : MReg) : OneSpace.Statement (.vreplyPop a0) := Or.inl rfl
theorem OneSpace.bkrd (a0 : BReg) (a1 : KNum) : OneSpace.Statement (.bkrd a0 a1) := Or.inl rfl
theorem OneSpace.vmark (a0 : W32) : OneSpace.Statement (.vmark a0) := Or.inl rfl
theorem OneSpace.vbrk : OneSpace.Statement .vbrk := Or.inl rfl
theorem OneSpace.vsetl (a0 : BReg) (a1 : BReg) (a2 : Option BReg) (a3 : BitVec 16) : OneSpace.Statement (.vsetl a0 a1 a2 a3) := Or.inl rfl
theorem OneSpace.vtag (a0 : VReg) (a1 : Tag) : OneSpace.Statement (.vtag a0 a1) := Or.inl rfl
theorem OneSpace.vrseed (a0 : BSrc) : OneSpace.Statement (.vrseed a0) := Or.inl rfl
theorem OneSpace.vadd (a0 : VReg) (a1 : VReg) (a2 : VSrc) (a3 : Rm) (a4 : Bool) (a5 : VCtl) : OneSpace.Statement (.vadd a0 a1 a2 a3 a4 a5) := Or.inl rfl
theorem OneSpace.vsub (a0 : VReg) (a1 : VReg) (a2 : VSrc) (a3 : Rm) (a4 : Bool) (a5 : VCtl) : OneSpace.Statement (.vsub a0 a1 a2 a3 a4 a5) := Or.inl rfl
theorem OneSpace.vmul (a0 : VReg) (a1 : VReg) (a2 : VSrc) (a3 : Rm) (a4 : Bool) (a5 : VCtl) : OneSpace.Statement (.vmul a0 a1 a2 a3 a4 a5) := Or.inl rfl
theorem OneSpace.vmadd (a0 : VReg) (a1 : VReg) (a2 : VSrc) (a3 : VReg) (a4 : Rm) (a5 : VCtl) : OneSpace.Statement (.vmadd a0 a1 a2 a3 a4 a5) := Or.inl rfl
theorem OneSpace.vmsub (a0 : VReg) (a1 : VReg) (a2 : VSrc) (a3 : VReg) (a4 : Rm) (a5 : VCtl) : OneSpace.Statement (.vmsub a0 a1 a2 a3 a4 a5) := Or.inl rfl
theorem OneSpace.vdiv (a0 : VReg) (a1 : VReg) (a2 : VSrc) (a3 : Rm) (a4 : VCtl) : OneSpace.Statement (.vdiv a0 a1 a2 a3 a4) := Or.inl rfl
theorem OneSpace.vmin (a0 : VReg) (a1 : VReg) (a2 : VSrc) (a3 : Rm) (a4 : Bool) (a5 : VCtl) : OneSpace.Statement (.vmin a0 a1 a2 a3 a4 a5) := Or.inl rfl
theorem OneSpace.vmax (a0 : VReg) (a1 : VReg) (a2 : VSrc) (a3 : Rm) (a4 : Bool) (a5 : VCtl) : OneSpace.Statement (.vmax a0 a1 a2 a3 a4 a5) := Or.inl rfl
theorem OneSpace.vabs (a0 : VReg) (a1 : VReg) (a2 : Rm) (a3 : VCtl) : OneSpace.Statement (.vabs a0 a1 a2 a3) := Or.inl rfl
theorem OneSpace.vneg (a0 : VReg) (a1 : VReg) (a2 : Rm) (a3 : VCtl) : OneSpace.Statement (.vneg a0 a1 a2 a3) := Or.inl rfl
theorem OneSpace.vand (a0 : VReg) (a1 : VReg) (a2 : VSrc) (a3 : VCtl) : OneSpace.Statement (.vand a0 a1 a2 a3) := Or.inl rfl
theorem OneSpace.vor (a0 : VReg) (a1 : VReg) (a2 : VSrc) (a3 : VCtl) : OneSpace.Statement (.vor a0 a1 a2 a3) := Or.inl rfl
theorem OneSpace.vxor (a0 : VReg) (a1 : VReg) (a2 : VSrc) (a3 : VCtl) : OneSpace.Statement (.vxor a0 a1 a2 a3) := Or.inl rfl
theorem OneSpace.vshl (a0 : VReg) (a1 : VReg) (a2 : VSrc) (a3 : Bool) (a4 : VCtl) : OneSpace.Statement (.vshl a0 a1 a2 a3 a4) := Or.inl rfl
theorem OneSpace.vshr (a0 : VReg) (a1 : VReg) (a2 : VSrc) (a3 : VCtl) : OneSpace.Statement (.vshr a0 a1 a2 a3) := Or.inl rfl
theorem OneSpace.vsar (a0 : VReg) (a1 : VReg) (a2 : VSrc) (a3 : VCtl) : OneSpace.Statement (.vsar a0 a1 a2 a3) := Or.inl rfl
theorem OneSpace.vcmp (a0 : VCond) (a1 : MReg) (a2 : VReg) (a3 : VSrc) (a4 : MCtl) : OneSpace.Statement (.vcmp a0 a1 a2 a3 a4) := Or.inl rfl
theorem OneSpace.vsel (a0 : VReg) (a1 : VReg) (a2 : VSrc) (a3 : VCtl) : OneSpace.Statement (.vsel a0 a1 a2 a3) := Or.inl rfl
theorem OneSpace.vmov (a0 : VReg) (a1 : VReg) (a2 : VCtl) : OneSpace.Statement (.vmov a0 a1 a2) := Or.inl rfl
theorem OneSpace.vbcast (a0 : VReg) (a1 : VSrc) (a2 : VCtl) : OneSpace.Statement (.vbcast a0 a1 a2) := Or.inl rfl
theorem OneSpace.vid (a0 : VReg) (a1 : VCtl) : OneSpace.Statement (.vid a0 a1) := Or.inl rfl
theorem OneSpace.vcvt (a0 : VReg) (a1 : VReg) (a2 : Rm) (a3 : VCtl) : OneSpace.Statement (.vcvt a0 a1 a2 a3) := Or.inl rfl
theorem OneSpace.vsqrt (a0 : VReg) (a1 : VReg) (a2 : Rm) (a3 : VCtl) : OneSpace.Statement (.vsqrt a0 a1 a2 a3) := Or.inl rfl
theorem OneSpace.vrsqrt (a0 : VReg) (a1 : VReg) (a2 : Rm) (a3 : VCtl) : OneSpace.Statement (.vrsqrt a0 a1 a2 a3) := Or.inl rfl
theorem OneSpace.vrcp (a0 : VReg) (a1 : VReg) (a2 : Rm) (a3 : VCtl) : OneSpace.Statement (.vrcp a0 a1 a2 a3) := Or.inl rfl
theorem OneSpace.vexp2 (a0 : VReg) (a1 : VReg) (a2 : Rm) (a3 : VCtl) : OneSpace.Statement (.vexp2 a0 a1 a2 a3) := Or.inl rfl
theorem OneSpace.vlog2 (a0 : VReg) (a1 : VReg) (a2 : Rm) (a3 : VCtl) : OneSpace.Statement (.vlog2 a0 a1 a2 a3) := Or.inl rfl
theorem OneSpace.vtanh (a0 : VReg) (a1 : VReg) (a2 : Rm) (a3 : VCtl) : OneSpace.Statement (.vtanh a0 a1 a2 a3) := Or.inl rfl
theorem OneSpace.vclass (a0 : VReg) (a1 : VReg) (a2 : VCtl) : OneSpace.Statement (.vclass a0 a1 a2) := Or.inl rfl
theorem OneSpace.vscale (a0 : VReg) (a1 : VReg) (a2 : VSrc) (a3 : Rm) (a4 : VCtl) : OneSpace.Statement (.vscale a0 a1 a2 a3 a4) := Or.inl rfl
theorem OneSpace.vrsum (a0 : VReg) (a1 : VReg) (a2 : Rm) (a3 : Bool) (a4 : VCtl) : OneSpace.Statement (.vrsum a0 a1 a2 a3 a4) := Or.inl rfl
theorem OneSpace.vrmax (a0 : VReg) (a1 : VReg) (a2 : Rm) (a3 : Bool) (a4 : VCtl) : OneSpace.Statement (.vrmax a0 a1 a2 a3 a4) := Or.inl rfl
theorem OneSpace.vrmin (a0 : VReg) (a1 : VReg) (a2 : Rm) (a3 : Bool) (a4 : VCtl) : OneSpace.Statement (.vrmin a0 a1 a2 a3 a4) := Or.inl rfl
theorem OneSpace.vrbit (a0 : VReg) (a1 : VReg) (a2 : Bool) (a3 : VCtl) : OneSpace.Statement (.vrbit a0 a1 a2 a3) := Or.inl rfl
theorem OneSpace.vslide (a0 : VReg) (a1 : VReg) (a2 : VSrc) (a3 : VCtl) : OneSpace.Statement (.vslide a0 a1 a2 a3) := Or.inl rfl
theorem OneSpace.vgath (a0 : VReg) (a1 : VReg) (a2 : VReg) (a3 : VCtl) : OneSpace.Statement (.vgath a0 a1 a2 a3) := Or.inl rfl
theorem OneSpace.vcomp (a0 : VReg) (a1 : VReg) (a2 : VCtl) : OneSpace.Statement (.vcomp a0 a1 a2) := Or.inl rfl
theorem OneSpace.vexpd (a0 : VReg) (a1 : VReg) (a2 : VCtl) : OneSpace.Statement (.vexpd a0 a1 a2) := Or.inl rfl
theorem OneSpace.vbsl (a0 : VReg) (a1 : VReg) (a2 : VSrc) (a3 : Tail) : OneSpace.Statement (.vbsl a0 a1 a2 a3) := Or.inl rfl
theorem OneSpace.vbsr (a0 : VReg) (a1 : VReg) (a2 : VSrc) (a3 : Tail) : OneSpace.Statement (.vbsr a0 a1 a2 a3) := Or.inl rfl
theorem OneSpace.vfunl (a0 : VReg) (a1 : VReg) (a2 : VReg) (a3 : BitVec 16) (a4 : Tail) : OneSpace.Statement (.vfunl a0 a1 a2 a3 a4) := Or.inl rfl
theorem OneSpace.vfunr (a0 : VReg) (a1 : VReg) (a2 : VReg) (a3 : BitVec 16) (a4 : Tail) : OneSpace.Statement (.vfunr a0 a1 a2 a3 a4) := Or.inl rfl
theorem OneSpace.vbext (a0 : VReg) (a1 : VReg) (a2 : BReg) (a3 : Tail) : OneSpace.Statement (.vbext a0 a1 a2 a3) := Or.inl rfl
theorem OneSpace.vbins (a0 : VReg) (a1 : VReg) (a2 : BReg) (a3 : Tail) : OneSpace.Statement (.vbins a0 a1 a2 a3) := Or.inl rfl
theorem OneSpace.mlog (a0 : MlogOp) (a1 : MReg) (a2 : MReg) (a3 : MReg) : OneSpace.Statement (.mlog a0 a1 a2 a3) := Or.inl rfl
theorem OneSpace.mpop (a0 : BReg) (a1 : MReg) : OneSpace.Statement (.mpop a0 a1) := Or.inl rfl
theorem OneSpace.mfirst (a0 : BReg) (a1 : MReg) : OneSpace.Statement (.mfirst a0 a1) := Or.inl rfl
theorem OneSpace.mbef (a0 : MReg) (a1 : MReg) : OneSpace.Statement (.mbef a0 a1) := Or.inl rfl
theorem OneSpace.minc (a0 : MReg) (a1 : MReg) : OneSpace.Statement (.minc a0 a1) := Or.inl rfl
theorem OneSpace.monly (a0 : MReg) (a1 : MReg) : OneSpace.Statement (.monly a0 a1) := Or.inl rfl
theorem OneSpace.mtest (a0 : Bool) (a1 : BReg) (a2 : MReg) : OneSpace.Statement (.mtest a0 a1 a2) := Or.inl rfl
theorem OneSpace.vld (a0 : VReg) (a1 : BReg) (a2 : BitVec 16) (a3 : Tag) (a4 : Option Scope) (a5 : VCtl) : OneSpace.Statement (.vld a0 a1 a2 a3 a4 a5) := Or.inl rfl
theorem OneSpace.vlds (a0 : VReg) (a1 : BReg) (a2 : BitVec 16) (a3 : BReg) (a4 : Tag) (a5 : Option Scope) (a6 : VCtl) : OneSpace.Statement (.vlds a0 a1 a2 a3 a4 a5 a6) := Or.inl rfl
theorem OneSpace.vldx (a0 : VReg) (a1 : BReg) (a2 : BitVec 16) (a3 : VReg) (a4 : Tag) (a5 : Option Scope) (a6 : VCtl) : OneSpace.Statement (.vldx a0 a1 a2 a3 a4 a5 a6) := Or.inl rfl
theorem OneSpace.vldff (a0 : VReg) (a1 : BReg) (a2 : BitVec 16) (a3 : Tag) (a4 : Option Scope) (a5 : VCtl) : OneSpace.Statement (.vldff a0 a1 a2 a3 a4 a5) := Or.inl rfl
theorem OneSpace.vst (a0 : VReg) (a1 : BReg) (a2 : BitVec 16) (a3 : Tag) (a4 : Option Scope) (a5 : MCtl) : OneSpace.Statement (.vst a0 a1 a2 a3 a4 a5) := Or.inl rfl
theorem OneSpace.vsts (a0 : VReg) (a1 : BReg) (a2 : BitVec 16) (a3 : BReg) (a4 : Tag) (a5 : Option Scope) (a6 : MCtl) : OneSpace.Statement (.vsts a0 a1 a2 a3 a4 a5 a6) := Or.inl rfl
theorem OneSpace.vstx (a0 : VReg) (a1 : BReg) (a2 : BitVec 16) (a3 : VReg) (a4 : Tag) (a5 : Option Scope) (a6 : MCtl) : OneSpace.Statement (.vstx a0 a1 a2 a3 a4 a5 a6) := Or.inl rfl
theorem OneSpace.vtld (a0 : VReg) (a1 : VReg) (a2 : Tag) (a3 : VCtl) : OneSpace.Statement (.vtld a0 a1 a2 a3) := Or.inl rfl
theorem OneSpace.vtst (a0 : VReg) (a1 : VReg) (a2 : Tag) (a3 : MCtl) : OneSpace.Statement (.vtst a0 a1 a2 a3) := Or.inl rfl
theorem OneSpace.vamo (a0 : VAmoOp) (a1 : VReg) (a2 : BReg) (a3 : BitVec 16) (a4 : VReg) (a5 : Tag) (a6 : VmOrd) (a7 : VCtl) : OneSpace.Statement (.vamo a0 a1 a2 a3 a4 a5 a6 a7) := Or.inl rfl
theorem OneSpace.fvvV : OneSpace.Statement .fvvV := Or.inl rfl
theorem OneSpace.mmodeEnter (a0 : Bool) : OneSpace.Statement (.mmodeEnter a0) := Or.inl rfl
theorem OneSpace.mmodeLeave : OneSpace.Statement .mmodeLeave := Or.inl rfl
theorem OneSpace.matrixArrayGrant : OneSpace.Statement .matrixArrayGrant := Or.inl rfl
theorem OneSpace.msettile (a0 : BReg) (a1 : BReg) (a2 : VReg) (a3 : VReg) : OneSpace.Statement (.msettile a0 a1 a2 a3) := Or.inl rfl
theorem OneSpace.mzero (a0 : ZReg) (a1 : Tag) : OneSpace.Statement (.mzero a0 a1) := Or.inl rfl
theorem OneSpace.mldz (a0 : ZReg) (a1 : BReg) (a2 : BReg) (a3 : Tag) : OneSpace.Statement (.mldz a0 a1 a2 a3) := Or.inl rfl
theorem OneSpace.mstz (a0 : ZReg) (a1 : BReg) (a2 : BReg) : OneSpace.Statement (.mstz a0 a1 a2) := Or.inl rfl
theorem OneSpace.mop (a0 : ZReg) (a1 : VReg) (a2 : VReg) (a3 : Option (VReg × VReg)) : OneSpace.Statement (.mop a0 a1 a2 a3) := Or.inl rfl
theorem OneSpace.mdrain (a0 : VReg) (a1 : ZReg) (a2 : BReg) (a3 : Tag) (a4 : Rm) : OneSpace.Statement (.mdrain a0 a1 a2 a3 a4) := Or.inl rfl
theorem OneSpace.mfill (a0 : ZReg) (a1 : VReg) (a2 : BReg) : OneSpace.Statement (.mfill a0 a1 a2) := Or.inl rfl
theorem OneSpace.mtag (a0 : ZReg) (a1 : Tag) : OneSpace.Statement (.mtag a0 a1) := Or.inl rfl
theorem OneSpace.mchk (a0 : ChkSel) (a1 : Bool) (a2 : BReg) (a3 : ZReg) : OneSpace.Statement (.mchk a0 a1 a2 a3) := Or.inl rfl
theorem OneSpace.cpy (a0 : BReg) (a1 : BReg) (a2 : BReg) (a3 : BitVec 3) (a4 : BitVec 2) (a5 : Scope) (a6 : Option MReg) : OneSpace.Statement (.cpy a0 a1 a2 a3 a4 a5 a6) := Or.inl rfl
theorem OneSpace.cpyStallEnd : OneSpace.Statement .cpyStallEnd := Or.inl rfl
theorem OneSpace.cpyw (a0 : BitVec 2) (a1 : BReg) : OneSpace.Statement (.cpyw a0 a1) := Or.inl rfl
theorem OneSpace.cpywWake : OneSpace.Statement .cpywWake := Or.inl rfl
theorem OneSpace.cpyr (a0 : BitVec 2) : OneSpace.Statement (.cpyr a0) := Or.inl rfl
theorem OneSpace.cpyq (a0 : BitVec 2) (a1 : BReg) : OneSpace.Statement (.cpyq a0 a1) := Or.inl rfl
theorem OneSpace.copyChunkComplete (a0 : Nat) (a1 : Nat) : OneSpace.Statement (.copyChunkComplete a0 a1) := Or.inl rfl
theorem OneSpace.copySectorFault (a0 : Nat) (a1 : Nat) : OneSpace.Statement (.copySectorFault a0 a1) := Or.inl rfl
theorem OneSpace.sord (a0 : SReg) (a1 : SReg) (a2 : BitVec 2) : OneSpace.Statement (.sord a0 a1 a2) := Or.inl rfl
theorem OneSpace.sprm (a0 : BReg) (a1 : BitVec 4) : OneSpace.Statement (.sprm a0 a1) := Or.inl rfl
theorem OneSpace.sprmDrainEnd : OneSpace.Statement .sprmDrainEnd := Or.inl rfl
theorem OneSpace.snew (a0 : SReg) (a1 : BReg) (a2 : BReg) (a3 : BitVec 8) : OneSpace.Statement (.snew a0 a1 a2 a3) := Or.inl rfl
theorem OneSpace.sld (a0 : SReg) (a1 : BReg) : OneSpace.Statement (.sld a0 a1) := Or.inl rfl
theorem OneSpace.sst (a0 : SReg) (a1 : BReg) : OneSpace.Statement (.sst a0 a1) := Or.inl rfl
theorem OneSpace.sterm (a0 : SReg) (a1 : BReg) (a2 : BReg) (a3 : BReg) : OneSpace.Statement (.sterm a0 a1 a2 a3) := Or.inl rfl
theorem OneSpace.sadd (a0 : SReg) (a1 : SReg) (a2 : SReg) : OneSpace.Statement (.sadd a0 a1 a2) := Or.inl rfl
theorem OneSpace.ssub (a0 : SReg) (a1 : SReg) (a2 : SReg) : OneSpace.Statement (.ssub a0 a1 a2) := Or.inl rfl
theorem OneSpace.smul (a0 : SReg) (a1 : SReg) (a2 : SReg) : OneSpace.Statement (.smul a0 a1 a2) := Or.inl rfl
theorem OneSpace.smulm (a0 : SReg) (a1 : SReg) (a2 : BReg) (a3 : BReg) : OneSpace.Statement (.smulm a0 a1 a2 a3) := Or.inl rfl
theorem OneSpace.sdiv (a0 : SReg) (a1 : SReg) (a2 : SReg) (a3 : SReg) (a4 : BitVec 4) : OneSpace.Statement (.sdiv a0 a1 a2 a3 a4) := Or.inl rfl
theorem OneSpace.slt (a0 : SReg) (a1 : SReg) (a2 : BReg) : OneSpace.Statement (.slt a0 a1 a2) := Or.inl rfl
theorem OneSpace.sdrop (a0 : SReg) (a1 : SReg) : OneSpace.Statement (.sdrop a0 a1) := Or.inl rfl
theorem OneSpace.srat (a0 : SReg) (a1 : BReg) : OneSpace.Statement (.srat a0 a1) := Or.inl rfl
theorem OneSpace.sexp (a0 : VReg) (a1 : SReg) (a2 : BReg) : OneSpace.Statement (.sexp a0 a1 a2) := Or.inl rfl
theorem OneSpace.scmp (a0 : SReg) (a1 : VReg) (a2 : BReg) : OneSpace.Statement (.scmp a0 a1 a2) := Or.inl rfl
theorem OneSpace.sstat (a0 : BReg) (a1 : SReg) (a2 : BitVec 3) : OneSpace.Statement (.sstat a0 a1 a2) := Or.inl rfl
theorem OneSpace.sgrow (a0 : SReg) (a1 : BReg) (a2 : BReg) : OneSpace.Statement (.sgrow a0 a1 a2) := Or.inl rfl
theorem OneSpace.streamUnitGrant : OneSpace.Statement .streamUnitGrant := Or.inl rfl
theorem OneSpace.heatRecordAppend (a0 : Nat) (a1 : Nat) (a2 : Bool) : OneSpace.Statement (.heatRecordAppend a0 a1 a2) := Or.inl rfl
theorem OneSpace.hoistMapRead : OneSpace.Statement .hoistMapRead := Or.inl rfl
theorem OneSpace.gangRequest (a0 : Nat) : OneSpace.Statement (.gangRequest a0) := Or.inl rfl
theorem OneSpace.ungangRequest (a0 : Nat) : OneSpace.Statement (.ungangRequest a0) := Or.inl rfl
theorem OneSpace.gangChangeEffect : OneSpace.Statement .gangChangeEffect := Or.inl rfl
theorem OneSpace.retirement (a0 : RUnit) : OneSpace.Statement (.retirement a0) := Or.inl rfl
theorem OneSpace.retirementEffect : OneSpace.Statement .retirementEffect := Or.inl rfl
theorem OneSpace.hbmRowSpare (a0 : BitVec 44) (a1 : Option Nat) : OneSpace.Statement (.hbmRowSpare a0 a1) := Or.inl rfl
theorem OneSpace.renconTransaction (a0 : Bool) (a1 : BitVec 56) (a2 : Word) : OneSpace.Statement (.renconTransaction a0 a1 a2) := Or.inl rfl
theorem OneSpace.renconRetransmit (a0 : Nat) : OneSpace.Statement (.renconRetransmit a0) := Or.inl rfl
theorem OneSpace.spareLaneSwitch (a0 : Nat) : OneSpace.Statement (.spareLaneSwitch a0) := Or.inl rfl
theorem OneSpace.hostLinkDown : OneSpace.Statement .hostLinkDown := Or.inl rfl
theorem OneSpace.hostLinkTrain (a0 : Bool) (a1 : BitVec 3) (a2 : BitVec 3) : OneSpace.Statement (.hostLinkTrain a0 a1 a2) := Or.inl rfl
theorem OneSpace.hostCxlMemRequest (a0 : Bool) (a1 : BitVec 44) (a2 : Word) : OneSpace.Statement (.hostCxlMemRequest a0 a1 a2) := Or.inl rfl
theorem OneSpace.hostStatusRead (a0 : Nat) : OneSpace.Statement (.hostStatusRead a0) := Or.inl rfl
theorem OneSpace.engineWindowWrite (a0 : Nat) (a1 : Word) : OneSpace.Statement (.engineWindowWrite a0 a1) := Or.inl rfl
theorem OneSpace.powerGood (a0 : Bool) : OneSpace.Statement (.powerGood a0) := Or.inl rfl
theorem OneSpace.bringupPhase1 (a0 : Byte) (a1 : BitVec 12) (a2 : LinkTraining) : OneSpace.Statement (.bringupPhase1 a0 a1 a2) := Or.inl rfl
theorem OneSpace.bringupPhase2 (a0 : List W32) : OneSpace.Statement (.bringupPhase2 a0) := Or.inl rfl
theorem OneSpace.bringupPhase3 (a0 a1 a2 : List Byte) : OneSpace.Statement (.bringupPhase3 a0 a1 a2) := Or.inl rfl
theorem OneSpace.bringupPhase4 : OneSpace.Statement .bringupPhase4 := Or.inl rfl
theorem OneSpace.managementReset : OneSpace.Statement .managementReset := Or.inl rfl
theorem OneSpace.thermalCutoff : OneSpace.Statement .thermalCutoff := Or.inl rfl
theorem OneSpace.ratioChange (a0 : BitVec 4) (a1 : Bool) : OneSpace.Statement (.ratioChange a0 a1) := Or.inl rfl
theorem OneSpace.pldmGetStatus : OneSpace.Statement .pldmGetStatus := Or.inl rfl
theorem OneSpace.pldmMonitoring : OneSpace.Statement .pldmMonitoring := Or.inl rfl
theorem OneSpace.pldmFirmwareUpdate (a0 : Firmware) : OneSpace.Statement (.pldmFirmwareUpdate a0) := Or.inl rfl
theorem OneSpace.getVersion : OneSpace.Statement .getVersion := Or.inl rfl
theorem OneSpace.getCapabilities : OneSpace.Statement .getCapabilities := Or.inl rfl
theorem OneSpace.negotiateAlgorithms : OneSpace.Statement .negotiateAlgorithms := Or.inl rfl
theorem OneSpace.getDigests : OneSpace.Statement .getDigests := Or.inl rfl
theorem OneSpace.getCertificate : OneSpace.Statement .getCertificate := Or.inl rfl
theorem OneSpace.challenge : OneSpace.Statement .challenge := Or.inl rfl
theorem OneSpace.getMeasurements : OneSpace.Statement .getMeasurements := Or.inl rfl
theorem OneSpace.becalmHold (a0 : Nat) : OneSpace.Statement (.becalmHold a0) := Or.inl rfl
theorem OneSpace.debuggerAttach (a0 : Nat) : OneSpace.Statement (.debuggerAttach a0) := Or.inl rfl
theorem OneSpace.debuggerRelease (a0 : Nat) : OneSpace.Statement (.debuggerRelease a0) := Or.inl rfl
theorem OneSpace.dumpLimitExpiry (a0 : Nat) : OneSpace.Statement (.dumpLimitExpiry a0) := Or.inl rfl
theorem OneSpace.illegalInstruction (a0 : W32) : OneSpace.Statement (.illegalInstruction a0) := Or.inl rfl
theorem OneSpace.cStreamFetchFault (a0 : FetchFault) : OneSpace.Statement (.cStreamFetchFault a0) := Or.inl rfl
theorem OneSpace.illegalWord : OneSpace.Statement .illegalWord := Or.inl rfl
theorem OneSpace.blockWordFetchFault (a0 : FetchFault) : OneSpace.Statement (.blockWordFetchFault a0) := Or.inl rfl
theorem OneSpace.katpWrite (a0 : XReg) : OneSpace.Statement (.katpWrite a0) := Or.inl rfl
theorem OneSpace.ktermWrite (a0 : XReg) : OneSpace.Statement (.ktermWrite a0) := Or.inl rfl
theorem OneSpace.kminimgWrite (a0 : XReg) : OneSpace.Statement (.kminimgWrite a0) := Or.inl rfl
theorem OneSpace.kdumpWrite (a0 : XReg) : OneSpace.Statement (.kdumpWrite a0) := Or.inl rfl
theorem OneSpace.krasbWrite (a0 : XReg) : OneSpace.Statement (.krasbWrite a0) := Or.inl rfl
theorem OneSpace.eccError (a0 : EccLoc) (a1 : Bool) : OneSpace.Statement (.eccError a0 a1) := Or.inl rfl
theorem OneSpace.renconAcknowledgement (a0 : Nat) : OneSpace.Statement (.renconAcknowledgement a0) := Or.inl rfl
theorem OneSpace.fabricPeerAccess (a0 : Bool) (a1 : BitVec 44) (a2 : Word) : OneSpace.Statement (.fabricPeerAccess a0 a1 a2) := Or.inl rfl
theorem OneSpace.hostBarWrite (a0 : Nat) (a1 : Word) : OneSpace.Statement (.hostBarWrite a0 a1) := Or.inl rfl
theorem OneSpace.renconPortRejoin (a0 : Nat) : OneSpace.Statement (.renconPortRejoin a0) := Or.inl rfl
theorem OneSpace.powerLoss : OneSpace.Statement .powerLoss := Or.inl rfl
theorem OneSpace.cooledRestart : OneSpace.Statement .cooledRestart := Or.inl rfl

end Sys2Proof.Laws
end

