-- ==== Sys2Proof/Tests/Slice0.lean ====
section
/-! SUPPORT. The model's own tests: terms that WellFormed refuses, words that decode to what they stand for, one step of
instructions with the results that the spec writes out, and for each obligation states that meet its hypotheses. -/

namespace Sys2Proof.Tests
open Sys2Proof Sys2Proof.Machine Sys2Proof.Claims

/-! ### WellFormed: each check refuses a term, and takes one beside it -/

theorem test_wf_shift_amount : (Instr.bshl 1 2 (.imm 64)).wf = false ∧ (Instr.bshl 1 2 (.imm 63)).wf = true := by decide
theorem test_wf_bloop_offset : (Instr.bloop 0 1 0).wf = false ∧ (Instr.bloop 0 1 1).wf = true := by decide
theorem test_wf_vtype : (Instr.vsetl 1 2 none 0x8001).wf = false ∧ (Instr.vsetl 1 2 none 0x0401).wf = false
    ∧ (Instr.vsetl 1 2 none 0x7301).wf = true := by decide
theorem test_wf_acquire_needs_mask :
    (Instr.vmov 1 2 { mask := none, aq := true, tail := .vtype }).wf = false
    ∧ (Instr.vst 1 2 0 1 none { mask := none, aq := true }).wf = false
    ∧ (Instr.vmov 1 2 { mask := some 0, aq := true, tail := .vtype }).wf = true := by decide
theorem test_wf_mask_required : (Instr.vsel 1 2 (.vec 3) { mask := none, aq := false, tail := .vtype }).wf = false
    ∧ (Instr.vsel 1 2 (.vec 3) { mask := some 1, aq := false, tail := .vtype }).wf = true := by decide
theorem test_wf_scalar_source : (Instr.vslide 1 2 (.vec 3) { mask := none, aq := false, tail := .vtype }).wf = false
    ∧ (Instr.vbsl 1 2 (.vec 3) .vtype).wf = false ∧ (Instr.vbsl 1 2 (.imm 3) .vtype).wf = true := by decide
theorem test_wf_scale_immediate : (Instr.vscale 1 2 (.imm 256) .rne { mask := none, aq := false, tail := .vtype }).wf = false
    ∧ (Instr.vscale 1 2 (.imm 255) .rne { mask := none, aq := false, tail := .vtype }).wf = true := by decide
theorem test_wf_mlog_not : (Instr.mlog .not 1 2 3).wf = false ∧ (Instr.mlog .not 1 2 0).wf = true := by decide
theorem test_wf_tile_base : (Instr.mop 0 0 9 none).wf = false ∧ (Instr.msettile 1 2 0 4).wf = false
    ∧ (Instr.mop 0 0 8 none).wf = true := by decide
theorem test_wf_sprm_count : (Instr.sprm 0 9).wf = false ∧ (Instr.sprm 0 8).wf = true := by decide
theorem test_wf_snew_control : (Instr.snew 1 2 3 0x03).wf = false ∧ (Instr.snew 1 2 3 0x90).wf = false
    ∧ (Instr.snew 1 2 3 0x82).wf = true := by decide
theorem test_wf_sdiv_range : (Instr.sdiv 0 1 2 3 0).wf = false ∧ (Instr.sdiv 0 1 9 0 8).wf = false
    ∧ (Instr.sdiv 0 1 0 9 8).wf = false ∧ (Instr.sdiv 0 1 2 3 9).wf = false ∧ (Instr.sdiv 0 1 8 8 8).wf = true := by decide
theorem test_wf_sstat_field : (Instr.sstat 1 2 7).wf = false ∧ (Instr.sstat 1 2 6).wf = true := by decide

/-! ### Rejected words, by name (R276-R284) -/

theorem test_decode_refuses :
    (decodeC 0xFC000000).toOption = none ∧ (decodeC 0x04221811).toOption = none      -- opcode 0x3F; fn 0x11 of opcode 1
    ∧ (decodeC 0x84000010).toOption = none ∧ (decodeV 0x0E00000000000001).toOption = none   -- fn 0x10 of 0x21; a bit of vend
    ∧ (decodeV 0x0B40000000000001).toOption = none                                   -- bloop with n = 4
    ∧ (decodeC 0x6CC0DFFE).toOption = none := by                                     -- bcc with cc 0b110
  decide

/-! ### Decoding

Every constructor that a word encodes, by a word of the spec where it writes one out (the examples beside the rules of
`spec/` files 02-09 and 20-24), else by one assembled by hand from Tables 19-1 to 19-10. -/

abbrev plain : VCtl := { mask := none, aq := false, tail := .vtype }
abbrev mplain : MCtl := { mask := none, aq := false }

theorem test_decode_blocks_dispatch :
    decodeC 0x80A00800 = .ok (.vdisp 5 2)
    ∧ decodeC 0x84E00000 = .ok (.rqget 7)
    ∧ decodeC 0x84C00001 = .ok (.rqpoll 6)
    ∧ decodeC 0x84000002 = .ok .vsync
    ∧ decodeC 0x84C00003 = .ok (.vqpos 6)
    ∧ decodeV 0x0E00000000000000 = .ok .vend
    ∧ decodeV 0x0F0C000000000000 = .ok (.vreply 12)
    ∧ decodeV 0x0F03000100000000 = .ok (.vreplyAny 3)
    ∧ decodeV 0x0F03000200000000 = .ok (.vreplyNone 3)
    ∧ decodeV 0x0F01000300000000 = .ok (.vreplyPop 1)
    ∧ decodeV 0x1200010000001234 = .ok (.vmark 0x1234)
    ∧ decodeV 0x1300000000000000 = .ok .vbrk
    ∧ decodeV 0x1050000000000053 = .ok (.bkrd 5 83)
    ∧ decodeV 0x0170010000000000 = .ok (.bli 7 0)
    ∧ decodeV 0x0281010000000080 = .ok (.badd 8 1 (.imm 128))
    ∧ decodeV 0x0322300000000000 = .ok (.bsub 2 2 (.reg 3))
    ∧ decodeV 0x0412300000000000 = .ok (.bmul 1 2 (.reg 3))
    ∧ decodeV 0x0512300000000000 = .ok (.band 1 2 (.reg 3))
    ∧ decodeV 0x0612300000000000 = .ok (.bor 1 2 (.reg 3))
    ∧ decodeV 0x0712300000000000 = .ok (.bxor 1 2 (.reg 3))
    ∧ decodeV 0x0843010000000002 = .ok (.bshl 4 3 (.imm 2))
    ∧ decodeV 0x0912010000000005 = .ok (.bshr 1 2 (.imm 5))
    ∧ decodeV 0x0A61280000000000 = .ok (.bset .ltu 6 1 (.reg 2))
    ∧ decodeV 0x0B04000000000002 = .ok (.bloop 0 4 2)
    ∧ decodeV 0x0C027200FFFFFFF8 = .ok (.bbr .ne 2 7 0xfffffff8)
    ∧ decodeV 0x0D000000FFFFFFFF = .ok (.bjmp 0xffffffff) := by
  repeat' constructor

theorem test_decode_strips :
    decodeV 0x20AE500000011081 = .ok (.vsetl 10 14 (some 5) 0x1081)
    ∧ decodeV 0x20AB500000011081 = .ok (.vsetl 10 11 (some 5) 0x1081)
    ∧ decodeV 0x214800000000000C = .ok (.vtag 9 12)
    ∧ decodeV 0x2200010000001234 = .ok (.vrseed (.imm 0x1234)) := by
  repeat' constructor

theorem test_decode_integer :
    decodeC 0x04221800 = .ok (.iadd 1 2 3)
    ∧ decodeC 0x054A3801 = .ok (.isub 10 10 7)
    ∧ decodeC 0x04221802 = .ok (.iand 1 2 3)
    ∧ decodeC 0x04221803 = .ok (.ior 1 2 3)
    ∧ decodeC 0x04221804 = .ok (.ixor 1 2 3)
    ∧ decodeC 0x04221805 = .ok (.ishl 1 2 3)
    ∧ decodeC 0x04221806 = .ok (.ishr 1 2 3)
    ∧ decodeC 0x04221807 = .ok (.isar 1 2 3)
    ∧ decodeC 0x04221808 = .ok (.imul 1 2 3)
    ∧ decodeC 0x04221909 = .ok (.imulh 1 2 3 true)
    ∧ decodeC 0x0422180A = .ok (.idiv 1 2 3 false)
    ∧ decodeC 0x0422190B = .ok (.irem 1 2 3 true)
    ∧ decodeC 0x0422180C = .ok (.imin 1 2 3 false)
    ∧ decodeC 0x0422190D = .ok (.imax 1 2 3 true)
    ∧ decodeC 0x0422000E = .ok (.iclz 1 2)
    ∧ decodeC 0x0422000F = .ok (.ipop 1 2)
    ∧ decodeC 0x04853410 = .ok (.iset 4 5 6 .ltu)
    ∧ decodeC 0x09400096 = .ok (.iaddImm 10 0 150)
    ∧ decodeC 0x0C22FF00 = .ok (.iandImm 1 2 0xff00)
    ∧ decodeC 0x1022FF00 = .ok (.iorImm 1 2 0xff00)
    ∧ decodeC 0x1422FF00 = .ok (.ixorImm 1 2 0xff00)
    ∧ decodeC 0x1B4A0005 = .ok (.ishlImm 26 10 5)
    ∧ decodeC 0x18224008 = .ok (.ishrImm 1 2 8)
    ∧ decodeC 0x18638008 = .ok (.isarImm 3 3 8)
    ∧ decodeC 0x1C855FFF = .ok (.isetImm 4 5 .lt 0x1fff)
    ∧ decodeC 0x20A0CDEF = .ok (.imovz 5 0 0xcdef)
    ∧ decodeC 0x24A189AB = .ok (.imovk 5 1 0x89ab)
    ∧ decodeC 0x28A00010 = .ok (.ipcrel 5 16) := by
  repeat' constructor

theorem test_decode_memory_control :
    decodeC 0x40649FFF = .ok (.ld 3 4 .bu 0x1fff)
    ∧ decodeC 0x410B6000 = .ok (.ld 8 11 .d 0)
    ∧ decodeC 0x44225FFC = .ok (.st 1 2 .w 0x1ffc)
    ∧ decodeC 0x44641FFF = .ok (.st 3 4 .b 0x1fff)
    ∧ decodeC 0x4ADD0460 = .ok (.ldacq 22 29 true .dev)
    ∧ decodeC 0x4816C461 = .ok (.strel 22 24 true .dev)
    ∧ decodeC 0x48CA3808 = .ok (.amo 6 10 7 false .rlx .core .swap)
    ∧ decodeC 0x48642F40 = .ok (.amo 3 4 5 true .acqrel .dev .add)
    ∧ decodeC 0x48C43D50 = .ok (.acas 6 4 7 true .acq .dev)
    ∧ decodeC 0x50AA0000 = .ok (.mwatch 5 10)
    ∧ decodeC 0x54000000 = .ok .mwait
    ∧ decodeC 0x4C001000 = .ok .fsv
    ∧ decodeC 0x4C002000 = .ok .fvs
    ∧ decodeC 0x4C003000 = .ok .fvv
    ∧ decodeC 0x4C004000 = .ok (.fall .core)
    ∧ decodeC 0x4C004001 = .ok (.fall .dev)
    ∧ decodeC 0x63FFFFFF = .ok (.jmp 0x3ffffff)
    ∧ decodeC 0x64000003 = .ok (.call 3)
    ∧ decodeC 0x68050000 = .ok (.jr 5)
    ∧ decodeC 0x68050001 = .ok (.callr 5)
    ∧ decodeC 0x68000002 = .ok .ret
    ∧ decodeC 0x6CC03FFE = .ok (.bcc 6 0 .ne 0x1ffe) := by
  repeat' constructor

theorem test_decode_harts_system :
    decodeC 0x8AB45002 = .ok (.hspawn 21 20 10)
    ∧ decodeC 0x88000000 = .ok .hexit
    ∧ decodeC 0x88000001 = .ok .hyield
    ∧ decodeC 0x8D200000 = .ok (.gbar 9)
    ∧ decodeC 0x8D200001 = .ok (.garr 9)
    ∧ decodeC 0x8C090002 = .ok (.gwait 9)
    ∧ decodeC 0xC0008001 = .ok (.trap 0x8001)
    ∧ decodeC 0xC4000000 = .ok .tret
    ∧ decodeC 0xC9000042 = .ok (.kread 8 66)
    ∧ decodeC 0xCC090042 = .ok (.kwrite 9 66)
    ∧ decodeC 0xD0050000 = .ok (.kset 0 5 0)
    ∧ decodeC 0xD4220000 = .ok (.kclr 1 2 0)
    ∧ decodeC 0xD8000000 = .ok .wfi
    ∧ decodeC 0xDC180000 = .ok (.sinval 24 0)
    ∧ decodeC 0xE0000000 = .ok .brk := by
  repeat' constructor

theorem test_decode_vector_arithmetic :
    decodeV 0x3042080002000000 = .ok (.vadd 8 8 (.vec 4) .rne false { mask := none, aq := false, tail := .tu })
    ∧ decodeV 0x3008800010003F80 = .ok (.vadd 1 2 (.imm 0x3f80) .rne false plain)
    ∧ decodeV 0x3110800A10000001 = .ok (.vsub 2 2 (.imm 1) .rne false { mask := some 2, aq := false, tail := .vtype })
    ∧ decodeV 0x3284280000000000 = .ok (.vmul 16 16 (.vec 20) .rne false plain)
    ∧ decodeV 0x3241380000000000 = .ok (.vmul 8 4 (.vec 28) .rne false plain)
    ∧ decodeV 0x3320443000000000 = .ok (.vmadd 4 1 (.vec 2) 3 .rne plain)
    ∧ decodeV 0x3420443020000000 = .ok (.vmsub 4 1 (.vec 2) 3 .rtz plain)
    ∧ decodeV 0x35C5300000000000 = .ok (.vdiv 24 20 (.vec 24) .rne plain)
    ∧ decodeV 0x3610800010000007 = .ok (.vmin 2 2 (.imm 7) .rne false plain)
    ∧ decodeV 0x3618440000040000 = .ok (.vmin 3 1 (.vec 2) .rne true plain)
    ∧ decodeV 0x3710800910000007 = .ok (.vmax 2 2 (.imm 7) .rne false { mask := some 1, aq := false, tail := .vtype })
    ∧ decodeV 0x3818800000000000 = .ok (.vabs 3 2 .rne plain)
    ∧ decodeV 0x3910400000000000 = .ok (.vneg 2 1 .rne plain)
    ∧ decodeV 0x3A08460008000000 = .ok (.vand 1 1 (.breg 3) plain)
    ∧ decodeV 0x3B08860000000000 = .ok (.vor 1 2 (.vec 3) plain)
    ∧ decodeV 0x3C21080000000000 = .ok (.vxor 4 4 (.vec 4) plain)
    ∧ decodeV 0x3D20800010000002 = .ok (.vshl 4 2 (.imm 2) false plain)
    ∧ decodeV 0x3E20800010000002 = .ok (.vshr 4 2 (.imm 2) plain)
    ∧ decodeV 0x3F318A0008000000 = .ok (.vsar 6 6 (.breg 5) plain) := by
  repeat' constructor

theorem test_decode_vector_functions :
    decodeV 0x4108860900000000 = .ok (.vsel 1 2 (.vec 3) { mask := some 1, aq := false, tail := .vtype })
    ∧ decodeV 0x4108860901000000 = .ok (.vsel 1 2 (.vec 3) { mask := some 1, aq := true, tail := .vtype })
    ∧ decodeV 0x4218800900000000 = .ok (.vmov 3 2 { mask := some 1, aq := false, tail := .vtype })
    ∧ decodeV 0x4348000010004120 = .ok (.vbcast 9 (.imm 0x4120) plain)
    ∧ decodeV 0x4438000000000000 = .ok (.vid 7 plain)
    ∧ decodeV 0x45C4000000000000 = .ok (.vcvt 24 16 .rne plain)
    ∧ decodeV 0x46C6000000000000 = .ok (.vsqrt 24 24 .rne plain)
    ∧ decodeV 0x4710400000000000 = .ok (.vrsqrt 2 1 .rne plain)
    ∧ decodeV 0x4810400020000000 = .ok (.vrcp 2 1 .rtz plain)
    ∧ decodeV 0x4910400000000000 = .ok (.vexp2 2 1 .rne plain)
    ∧ decodeV 0x4A10400000000000 = .ok (.vlog2 2 1 .rne plain)
    ∧ decodeV 0x4B10400000000000 = .ok (.vtanh 2 1 .rne plain)
    ∧ decodeV 0x4C29000000000000 = .ok (.vclass 5 4 plain)
    ∧ decodeV 0x4D10460000000000 = .ok (.vscale 2 1 (.vec 3) .rne plain)
    ∧ decodeV 0x40104A0040000000 = .ok (.vcmp .lt 2 1 (.vec 5) mplain) := by
  repeat' constructor

theorem test_decode_reductions_permutes_masks :
    decodeV 0x5062000000000000 = .ok (.vrsum 12 8 .rne false plain)
    ∧ decodeV 0x5108800000010000 = .ok (.vrmax 1 2 .rne true plain)
    ∧ decodeV 0x5208800000010000 = .ok (.vrmin 1 2 .rne true plain)
    ∧ decodeV 0x5319000000000000 = .ok (.vrbit 3 4 false plain)
    ∧ decodeV 0x5810400010000001 = .ok (.vslide 2 1 (.imm 1) plain)
    ∧ decodeV 0x59310A0000000000 = .ok (.vgath 6 4 5 plain)
    ∧ decodeV 0x5A18800900000000 = .ok (.vcomp 3 2 { mask := some 1, aq := false, tail := .vtype })
    ∧ decodeV 0x5B18800900000000 = .ok (.vexpd 3 2 { mask := some 1, aq := false, tail := .vtype })
    ∧ decodeV 0x6010400010000028 = .ok (.vbsl 2 1 (.imm 40) .vtype)
    ∧ decodeV 0x6110400010000004 = .ok (.vbsr 2 1 (.imm 4) .vtype)
    ∧ decodeV 0x6218440000000008 = .ok (.vfunl 3 1 2 8 .vtype)
    ∧ decodeV 0x6318440000000008 = .ok (.vfunr 3 1 2 8 .vtype)
    ∧ decodeV 0x64204C0008000000 = .ok (.vbext 4 1 6 .vtype)
    ∧ decodeV 0x65204C0008000000 = .ok (.vbins 4 1 6 .vtype)
    ∧ decodeV 0x6818440000020000 = .ok (.mlog .xor 3 1 2)
    ∧ decodeV 0x6928400000000000 = .ok (.mpop 5 1)
    ∧ decodeV 0x6A30800000000000 = .ok (.mfirst 6 2)
    ∧ decodeV 0x6B10400000000000 = .ok (.mbef 2 1)
    ∧ decodeV 0x6C10400000000000 = .ok (.minc 2 1)
    ∧ decodeV 0x6D10400000000000 = .ok (.monly 2 1)
    ∧ decodeV 0x6E38C00000010000 = .ok (.mtest true 7 3) := by
  repeat' constructor

theorem test_decode_vector_memory :
    decodeV 0x7021000B14800000 = .ok (.vld 4 2 0 5 none { mask := some 3, aq := true, tail := .vtype })
    ∧ decodeV 0x7009000004280000 = .ok (.vld 1 2 0 1 (some .dev) plain)
    ∧ decodeV 0x71C3380004000008 = .ok (.vlds 24 6 8 7 1 none plain)
    ∧ decodeV 0x7229010010000000 = .ok (.vldx 5 2 0 4 4 none plain)
    ∧ decodeV 0x7320000010000000 = .ok (.vldff 4 0 0 4 none plain)
    ∧ decodeV 0x7421000004480000 = .ok (.vst 4 2 0 1 (some .dev) mplain)
    ∧ decodeV 0x74C2800008000000 = .ok (.vst 24 5 0 2 none mplain)
    ∧ decodeV 0x7521380004000000 = .ok (.vsts 4 2 0 7 1 none mplain)
    ∧ decodeV 0x7629010010000000 = .ok (.vstx 5 2 0 4 4 none mplain)
    ∧ decodeV 0x7730014004000000 = .ok (.vtld 6 5 1 plain)
    ∧ decodeV 0x7830014010000000 = .ok (.vtst 6 5 4 mplain)
    ∧ decodeV 0x793181C010000000 = .ok (.vamo .add 6 3 0 7 4 .plain plain)
    ∧ decodeV 0x7A00000000000000 = .ok .fvvV
    ∧ decodeV 0x9023470300000001 = .ok (.cpy 2 3 4 3 0 .dev (some 3))
    ∧ decodeV 0x9020170300000001 = .ok (.cpy 2 0 1 3 0 .dev (some 3))
    ∧ decodeV 0x9300000016000000 = .ok (.cpyq 1 6)
    ∧ decodeV 0x9200000000000000 = .ok (.cpyr 0)
    ∧ decodeV 0x9100000006000000 = .ok (.cpyw 0 6) := by
  repeat' constructor

theorem test_decode_matrix :
    decodeV 0x8000000000010000 = .ok (.mmodeEnter false)
    ∧ decodeV 0x8000000000000000 = .ok .mmodeLeave
    ∧ decodeV 0x8100100012400000 = .ok (.msettile 9 4 0 8)
    ∧ decodeV 0x8200000000010000 = .ok (.mzero 0 1)
    ∧ decodeV 0x8308000008C10000 = .ok (.mldz 1 2 3 1)
    ∧ decodeV 0x8408000008C00000 = .ok (.mstz 1 2 3)
    ∧ decodeV 0x8500101140000000 = .ok (.mop 0 0 8 (some (1, 2)))
    ∧ decodeV 0x8518100000000000 = .ok (.mop 3 0 8 none)
    ∧ decodeV 0x8604000030010000 = .ok (.mdrain 16 0 12 1 .rne)
    ∧ decodeV 0x8711000014000000 = .ok (.mfill 2 4 5)
    ∧ decodeV 0x8800000000020000 = .ok (.mtag 0 2)
    ∧ decodeV 0x8918000034050000 = .ok (.mchk .mismatch true 13 3) := by
  repeat' constructor

theorem test_decode_streams :
    decodeV 0xA071000000000001 = .ok (.sord 7 1 1)
    ∧ decodeV 0xA100000000000004 = .ok (.sprm 0 4)
    ∧ decodeV 0xA210008900000040 = .ok (.snew 1 8 9 64)
    ∧ decodeV 0xA320003000000000 = .ok (.sld 2 3)
    ∧ decodeV 0xA402003000000000 = .ok (.sst 2 3)
    ∧ decodeV 0xA510006AB0000000 = .ok (.sterm 1 6 10 11)
    ∧ decodeV 0xA631200000000000 = .ok (.sadd 3 1 2)
    ∧ decodeV 0xA731200000000000 = .ok (.ssub 3 1 2)
    ∧ decodeV 0xA831200000000000 = .ok (.smul 3 1 2)
    ∧ decodeV 0xA971002300000000 = .ok (.smulm 7 1 2 3)
    ∧ decodeV 0xAA61240000000002 = .ok (.sdiv 6 1 2 4 2)
    ∧ decodeV 0xAB87005000000000 = .ok (.slt 8 7 5)
    ∧ decodeV 0xAC87000000000000 = .ok (.sdrop 8 7)
    ∧ decodeV 0xAD03008000000000 = .ok (.srat 3 8)
    ∧ decodeV 0xAE01002002000000 = .ok (.sexp 4 1 2)
    ∧ decodeV 0xAF50002002000000 = .ok (.scmp 5 4 2)
    ∧ decodeV 0xB00300C000000002 = .ok (.sstat 12 3 2)
    ∧ decodeV 0xB160008900000000 = .ok (.sgrow 6 8 9) := by
  repeat' constructor

/-! ### States for the tests -/

/-- Hart 0 after reset, changed. -/
def hs (f : Hart → Hart) : State := State.reset.mod f

/-- Hart 0 in app, sup and fw mode. -/
def appS : State := hs fun v => { v with kstatus := 0 }
def supS : State := State.reset
def fwS : State := hs fun v => { v with kstatus := 0x200 }

/-- Hart 0 with words in x registers. -/
def xs (l : List (XReg × Word)) : State := l.foldl (fun s p => s.xw p.1 p.2) State.reset

/-- Words in memory from a cell on. -/
def wordsAt (k : Nat) (n : Nat) (l : List Word) (s : State) : State :=
  s.modPart fun p => p.putBytes k (l.flatMap fun w => bytesOf w n)

/-- A block at 0x1000 with two reply slots. -/
def blk0 : Block :=
  { cmd := { pos := 0, nrep := 2, mode := 1, spilt := false, sum := false, hart := 0, addr := 0x1000, args := [], katp := 0 }
    pc := 0x1000, sent := 0 }

/-- The context of hart 0 in the middle of that block, changed. -/
def cs (f : VCtx → VCtx) : State := State.reset.modCtx 0 fun c => f { c with blk := some blk0 }

/-- Words in b registers. -/
def bs (l : List (Nat × Word)) (c : VCtx) : VCtx := { c with b := l.map fun e => (e.1, e.2) }

/-- Hart 0 holds cluster 0 in a block, with G = vl = 8 under tag FP32, v1-v4 of that tag; changed. -/
def vs (tag : Tag) (f : VCtx → VCtx) : State :=
  (cs fun c => f { c with
    grant := { vl := 8, vtype := tag.setWidth 16, g := 8, f := 8 }
    vtags := [(1, tag), (2, tag), (3, tag), (4, tag)] }).modCore 0 fun k => { k with clusters := [(0, 0)] }

/-- The part with node 1 at the far end of a port. -/
def farS (f : Hart → Hart) : State := (hs f).modPart fun p => { p with portst := [(0, 0x8001000000000000)] }

/-- The part with its host link up, and with a link that has been lost. -/
def linkedS : State := State.reset.modPart fun p => { p with hlst := 0xC000000000000000 }
def lostS : State := State.reset.modPart fun p => { p with hostLost := true }

/-- A transaction of hart 0 to node 1 after n sendings, for an asker. -/
def transS (w : Bool) (n : Nat) (k : Asker := .scalar) : State := State.reset.modPart fun p => { p with
  trans := [{ id := 0, hart := 0, write := w, pa := 0x100000001000, data := if w then [1] else [], tries := n, asker := k }]
  nextTid := 1 }

/-- What an access translates to satisfies p. -/
def okWith (r : Except AccErr (Xlat × State)) (p : Xlat → State → Bool) : Bool :=
  match r with
  | .ok (x, s) => p x s
  | .error _ => false

/-! ### Witnesses: states that meet the hypotheses of the obligations, a clause each, at the edges of its range -/

theorem witness_DecodeOfEncode : (Instr.iadd 31 31 31).wf = true ∧ (encodeC (.iadd 31 31 31)).isSome = true
    ∧ (Instr.bshl 15 15 (.imm 63)).wf = true ∧ (encodeV (.bshl 15 15 (.imm 63))).isSome = true := by decide

theorem witness_EncodeOfDecode : (decodeC 0x63FFFFFF).toOption.isSome = true
    ∧ (decodeV 0x0D000000FFFFFFFF).toOption.isSome = true := by decide

/-- A state whose next step runs a word. -/
def placedC : State := State.reset.withFetchWord 32 0x04221800
def placedV : State := State.reset.withFetchWord 64 0x0281010000000080

theorem witness_StepRunsC : ∃ (s s0 s1 : State) (x : Xlat) (w : W32) (i : Instr), s.isDead = false ∧ s.nextMove = some (.ctl 0, s0) ∧ (s0.turn 0).beforeFetch = none
    ∧ (s0.turn 0).pc.toNat % 4 = 0
    ∧ (s0.turn 0).translate ((s0.turn 0).scalarView 0) .fetch (s0.turn 0).pc PaKind.isMem = .ok (x, s1)
    ∧ s1.scalarPoison (coreOf 0) (s1.cell x.pa) 4 = false
    ∧ w = ofBytes 32 (s1.scalarBytes (coreOf 0) (s1.cell x.pa) 4) ∧ decodeC w = .ok i ∧ i = .iadd 1 2 3 :=
  ⟨placedC, _, _, _, _, _, rfl, rfl, rfl, rfl, rfl, rfl, rfl, rfl, rfl⟩

theorem witness_StepRunsC_poison :
    (∀ r ∈ xReads placedC.hart.pendBit (.iadd 1 2 3), ¬ (Map.find placedC.hart.xpoison r.toNat).isSome = true)
    ∧ (2 : XReg) ∈ xReads placedC.hart.pendBit (.iadd 1 2 3) ∧ (3 : XReg) ∈ xReads placedC.hart.pendBit (.iadd 1 2 3)
    ∧ XPoisoned (placedC.mod fun v => { v with xpoison := [(2, ())] }) 2 := ⟨by decide, by decide, by decide, rfl⟩

theorem witness_StepRunsV_poison : (1 : BReg) ∈ bReads (.badd 8 1 (.imm 128))
    ∧ (∀ r ∈ bReads (.badd 8 1 (.imm 128)), ¬ (Map.find placedV.ctx.bpoison r.toNat).isSome = true)
    ∧ BPoisoned (placedV.modCtx 0 fun c => { c with bpoison := [(1, ())] }) 1 := ⟨by decide, by decide, rfl⟩

theorem witness_StepRunsV : ∃ (s s0 s1 : State) (x : Xlat) (w : Word) (i : Instr), s.isDead = false ∧ s.nextMove = some (.vec 0, s0) ∧ (s0.turn 0).beforeWord = none
    ∧ (s0.turn 0).translate ((s0.turn 0).vecView 0) .fetch ((s0.turn 0).bpc 0) PaKind.isMem = .ok (x, s1)
    ∧ s1.vecPoison 0 (s1.cell x.pa) 8 = false
    ∧ w = ofBytes 64 (s1.vecBytes 0 (s1.cell x.pa) 8) ∧ decodeV w = .ok i ∧ i = .badd 8 1 (.imm 128) :=
  ⟨placedV, _, _, _, _, _, rfl, rfl, rfl, rfl, rfl, rfl, rfl, rfl⟩

theorem witness_StepRunsEventsAndTraps :
    (∃ s s0 : State, s.isDead = false ∧ s.nextMove = some (.event 0 .powerLoss, s0) ∧ (encodeC .powerLoss).isSome = false)
    ∧ (∃ s s0 : State, s.isDead = false ∧ s.nextMove = some (.event 0 .brk, s0) ∧ (encodeC .brk).isSome = true)
    ∧ ∃ (s s0 s1 : State) (x : Xlat) (w : W32) (e : DecodeError), s.isDead = false ∧ s.nextMove = some (.ctl 0, s0) ∧ (s0.turn 0).beforeFetch = none
      ∧ (s0.turn 0).pc.toNat % 4 = 0
      ∧ (s0.turn 0).translate ((s0.turn 0).scalarView 0) .fetch (s0.turn 0).pc PaKind.isMem = .ok (x, s1)
      ∧ s1.scalarPoison (coreOf 0) (s1.cell x.pa) 4 = false
      ∧ w = ofBytes 32 (s1.scalarBytes (coreOf 0) (s1.cell x.pa) 4) ∧ decodeC w = .error e :=
  ⟨⟨{ State.reset with agenda := [.event 0 .powerLoss] }, _, rfl, rfl, rfl⟩,
   ⟨{ State.reset with agenda := [.event 0 .brk] }, _, rfl, rfl, rfl⟩,
   ⟨State.reset.withFetchWord 32 0xFFFFFFFF, _, _, _, _, _, rfl, rfl, rfl, rfl, rfl, rfl, rfl, rfl⟩⟩

theorem witness_StepKeepsMemory : State.reset.Inv ∧ ∃ t, step placedC = .next t := ⟨rfl, _, rfl⟩

theorem witness_TrapEntryAndReturn :
    supS.hart.pm = 1 ∧ fld supS.hart.kstatus 10 2 < 2
    ∧ (hs fun v => { v with kstatus := 0x500 }).hart.pm = 1 ∧ fld (hs fun v => { v with kstatus := 0x500 }).hart.kstatus 10 2 = 1
    ∧ fwS.hart.pm = 2 ∧ fld fwS.hart.kstatus 12 2 < 3 ∧ fld (hs fun v => { v with kstatus := 0x2200 }).hart.kstatus 12 2 = 2
    ∧ appS.hart.pm = 0
    ∧ (hs fun v => { v with kstatus := 0x900 }).hart.pm = 1 ∧ 2 ≤ fld (hs fun v => { v with kstatus := 0x900 }).hart.kstatus 10 2
    ∧ (hs fun v => { v with kstatus := 0x3200 }).hart.pm = 2
    ∧ fld (hs fun v => { v with kstatus := 0x3200 }).hart.kstatus 12 2 = 3
    ∧ 0x8000 ≤ (0x8000 : BitVec 16).toNat := by decide

theorem witness_MisalignedTraps :
    ((xs [(1, 1)]).xr 1 + (0 : BitVec 13).signExtend 64).toNat % ldBytes .hu ≠ 0
    ∧ ((xs [(1, 6)]).xr 1 + (0 : BitVec 13).signExtend 64).toNat % stBytes .w ≠ 0
    ∧ ((xs [(1, 4)]).xr 1).toNat % 8 ≠ 0 ∧ ((xs [(1, 2)]).xr 1).toNat % 4 ≠ 0
    ∧ (xs [(1, 32)]).noContext = false ∧ ((xs [(1, 32)]).xr 1).toNat % 64 ≠ 0 := by decide

theorem witness_PrivilegeTraps : appS.hart.pm = 0
    ∧ hasNat kregNumbers 0x000 = true ∧ hasNat appReads 0x000 = false
    ∧ hasNat kregNumbers 0x0F1 = true ∧ hasNat kregNumbers 0x012 = true ∧ hasNat appWrites 0x012 = false
    ∧ (0x012 : KNum) ≠ 0x022 ∧ hasNat kregNumbers 0xFFF = false
    ∧ hasNat appReads 0x00D = true ∧ hasNat appWrites 0x00D = false ∧ (0x00D : KNum) ≠ 0x022 := by decide

theorem witness_ConditionsAndJumps :
    ((xs [(1, 0xFFFFFFFFFFFFFFFF)]).xr 1).toInt < ((xs [(1, 0xFFFFFFFFFFFFFFFF)]).xr 2).toInt
    ∧ ¬ ((xs [(1, 0xFFFFFFFFFFFFFFFF)]).xr 1).toNat < ((xs [(1, 0xFFFFFFFFFFFFFFFF)]).xr 2).toNat
    ∧ ((xs [(1, 4)]).xr 1).toNat % 4 = 0 := by decide

/-- Hart 0 with its monitor armed on line 1. -/
def armed : State := hs fun v => { v with monitor := some 1 }

theorem witness_BytesPerformed : ([1] : List Byte) ≠ [] ∧ State.reset.isLocal 0x40 = true
    ∧ (Map.find armed.harts 0).isSome = true ∧ (armed.hartAt 0).monitor = some 1
    ∧ armed.cell 0x7F / 64 ≤ 1 ∧ 1 ≤ (armed.cell 0x7F + 1 - 1) / 64 ∧ State.reset.isLocal (5 * 2 ^ 44) = false
    ∧ armed.paKind 0x7F ≠ .hostLost ∧ lostS.paKind 0x1000 ≠ .hostLost
    ∧ lostS.paKind (0xFFF * 2 ^ 44 + 0xC0000000000) = .hostLost ∧ (lostS.hartAt 0).live = true := by decide

/-- A view with the scratchpad window at 0x400000. -/
def windowView : View :=
  { katp := 0, mode := 1, sum := false, kspb := 0x8000000000400000, core := 0, vec := false }

theorem witness_Translation :
    okWith (State.reset.translate (State.reset.scalarView 0) .load 0xFFF PaKind.isMem) (fun _ _ => true) = true
    ∧ windowOff windowView.kspb 0x6FFFFF = some 0x2FFFFF ∧ windowOff windowView.kspb 0x700000 = some 0x300000
    ∧ State.reset.enabled windowView.core = true
    ∧ windowOff 0 0 = none ∧ fld (State.reset.scalarView 0).katp 60 4 = 0 ∧ (State.reset.scalarView 0).mode ≠ 0
    ∧ PaKind.isMem (State.reset.paKind 0xBFFFFFFFFFF) = false ∧ PaKind.isMem (State.reset.paKind 0) = true
    ∧ (appS.scalarView 0).mode = 0
    ∧ lostS.paKind ((0xFFFC0000000000 : Word).toNat % 2 ^ 56) = .hostLost ∧ PaKind.isMem .host = true
    ∧ PaKind.isMem (lostS.paKind 0xFFFC0000000000) = false := by decide

theorem witness_LoadsRead :
    okWith ((xs [(1, 0x1000)]).translate ((xs [(1, 0x1000)]).scalarView 0) .load 0x1000 (scalarOk 1 8))
      (fun x s => (s.paKind x.pa).isMem && !s.scalarPoison 0 (s.cell x.pa) 8) = true
    ∧ okWith ((xs [(1, 0x1000)]).translate ((xs [(1, 0x1000)]).scalarView 0) .load 0x1000 PaKind.isMem)
      (fun x s => (s.paKind x.pa).isMem && !s.scalarPoison 0 (s.cell x.pa) 4) = true
    ∧ ((xs [(1, 0x1000)]).xr 1 + (0 : BitVec 13).signExtend 64).toNat % ldBytes .d = 0
    ∧ (match appS.translate (appS.scalarView 0) .load 0 (scalarOk 0 8) with | .error .page => true | _ => false) = true
    ∧ (match supS.translate (supS.scalarView 0) .load 0xC000000000 (scalarOk 1 8) with
        | .error (.access t) => t == 0xC000000000 | _ => false) = true
    ∧ okWith ((farS fun v => { v with answered := true }).translate (State.reset.scalarView 0) .load 0x100000001000 (scalarOk 1 8))
      (fun x s => (s.paKind x.pa).isRemote && (s.paKind x.pa).isMem && s.hart.answered && !s.scalarPoison 0 (s.cell x.pa) 8) = true
    ∧ okWith ((farS id).translate (State.reset.scalarView 0) .load 0x100000001000 (scalarOk 1 8))
      (fun x s => (s.paKind x.pa).isRemote && !s.hart.answered) = true
    ∧ okWith ((State.reset.modPart fun p => { p with poison := [(0x1007, ())] }).translate (State.reset.scalarView 0) .load
        0x1000 (scalarOk 1 8)) (fun x s => (s.paKind x.pa).isMem && s.scalarPoison 0 (s.cell x.pa) 8) = true := by decide

theorem witness_LoadsRead_windows :
    okWith (supS.translate (supS.scalarView 0) .load 0xFFFA0000000068 (scalarOk 1 8))
      (fun x s => s.paKind x.pa == .kwin 0 0x68 && hasNat kregNumbers (0x68 / 8)) = true
    ∧ okWith (supS.translate (supS.scalarView 0) .load 0xFFFA0000007FF8 (scalarOk 1 8))
      (fun x s => s.paKind x.pa == .kwin 0 0x7FF8 && !hasNat kregNumbers (0x7FF8 / 8)) = true
    ∧ okWith (supS.translate (supS.scalarView 0) .load 0xFFFA0000801178 (scalarOk 1 8))
      (fun x s => s.paKind x.pa == .engine 0x1178) = true
    ∧ okWith ((farS fun v => { v with answered := true }).translate (State.reset.scalarView 0) .load 0x1A0000000000 (scalarOk 1 8))
      (fun x s => s.paKind x.pa == .remoteReg 1 && s.hart.answered && !s.scalarPoison 0 (s.cell x.pa) 8) = true := by decide

/-- Hart 0 waiting for a reason in the instruction of a word, which it has issued. -/
def waitingAt (w : Nat) (why : Wait) : State :=
  (State.reset.withFetchWord 32 w).mod fun v => { v with wait := some why, issued := (decodeC (BitVec.ofNat 32 w)).toOption }

/-- The context of hart 0 waiting for a reason in the instruction of a word, which it has issued. -/
def vwaitingAt (w : Nat) (why : VWait) : State :=
  (State.reset.withFetchWord 64 w).modCtx 0 fun c =>
    { c with waiting := some why, issued := (decodeV (BitVec.ofNat 64 w)).toOption }

/-- Core 0 with 64 lines buffered. -/
def fullJunction : State := State.reset.modCore 0 fun k =>
  { k with junction := (List.range 64).map fun i => { line := 100 + i, bytes := [(0, 1)] } }

theorem witness_StoresWrite :
    ((xs []).xr 1 + (0 : BitVec 13).signExtend 64).toNat % stBytes .d = 0
    ∧ okWith ((xs []).translate ((xs []).scalarView 0) .store 0 (scalarOk 1 8))
      (fun x s => (s.paKind x.pa).isMem && !junctionFull (s.junction 0) (s.cell x.pa / 64)) = true
    ∧ okWith (fullJunction.translate (fullJunction.scalarView 0) .store 0 (scalarOk 1 8))
      (fun x s => (s.paKind x.pa).isMem && junctionFull (s.junction 0) (s.cell x.pa / 64)) = true
    ∧ okWith (fullJunction.translate (fullJunction.scalarView 0) .store 0x1900 PaKind.isMem)
      (fun x s => (s.paKind x.pa).isMem && !junctionFull (s.junction 0) (s.cell x.pa / 64)) = true
    ∧ Scope.sys ≠ Scope.core ∧ (∀ tr ∈ (supS.drainAll 0).part.trans, tr.write = false)
    ∧ okWith ((transS true 0).translate ((transS true 0).scalarView 0) .store 0 (scalarOk 1 8))
      (fun x s => x.pbmt == 0 && (s.drainAll 0).part.trans.any fun tr => tr.write) = true := by decide

/-- Core 0 with one line of the storage window buffered. -/
def storageLine : State := linkedS.modCore 0 fun k =>
  { k with junction := [{ line := 1, bytes := [(0, 2)] }, { line := 0x3FFFFFFFFF, bytes := [(0, 1)], storage := [(0, ())] }] }

theorem witness_DrainsAndFences :
    (fullJunction.junction 0)[if 64 ≤ (fullJunction.junction 0).length then 0 else 63]? = some { line := 100, bytes := [(0, 1)] }
    ∧ (fullJunction.junction 0).find? (fun m => m.line == 100) = some { line := 100, bytes := [(0, 1)] }
    ∧ (storageLine.junction 0)[if 64 ≤ (storageLine.junction 0).length then 0 else 1]?
      = some { line := 0x3FFFFFFFFF, bytes := [(0, 1)], storage := [(0, ())] }
    ∧ 0xC0000000000 / 64 ≤ 0x3FFFFFFFFF ∧ (0x3FFFFFFFFF : Nat) < 2 ^ 38
    ∧ storageLine.part.hostLost = false ∧ fullJunction.part.hostLost = false
    ∧ (([(0, 1)] : Map Byte).map fun e => e.1).Nodup ∧ (∀ e ∈ ([(0, 1)] : Map Byte), e.1 < 64)
    ∧ supS.hart.head = supS.hart.next ∧ (∀ tr ∈ (supS.drainAll (coreOf supS.cur)).part.trans, tr.write = false)
    ∧ ((transS true 0).drainAll (coreOf (transS true 0).cur)).part.trans.any (fun tr => tr.write) = true
    ∧ (transS true 0).hart.head = (transS true 0).hart.next
    ∧ (hs fun v => { v with next := 1 }).hart.head ≠ (hs fun v => { v with next := 1 }).hart.next
    ∧ (waitingAt 0x4C002000 .fence).waitingIn .fence = some .fvs
    ∧ (waitingAt 0x4C004002 .fence).waitingIn .fence = some (.fall .sys) := by decide

theorem witness_Atomics :
    ((xs [(1, 2)]).xr 1).toNat % 4 ≠ 0 ∧ ((xs [(1, 8)]).xr 1).toNat % 8 = 0
    ∧ okWith ((xs [(1, 8)]).translate ((xs [(1, 8)]).scalarView 0) .amo 8 PaKind.isMem)
      (fun x s => !s.scalarPoison 0 (s.cell x.pa) 8 && !junctionFull (s.junction 0) (s.cell x.pa / 64)
        && s.inJunction x .core && !s.inJunction x .dev && s.scalarBytes 0 (s.cell x.pa) 8 == List.replicate 8 0) = true
    ∧ (xs [(1, 8)]).xr 2 = 0 ∧ (xs [(1, 8)]).xr 1 ≠ 0
    ∧ okWith (fullJunction.translate (fullJunction.scalarView 0) .amo 8 PaKind.isMem)
      (fun x s => s.paKind x.pa == .hbm && x.pbmt == 0 && junctionFull (s.junction 0) (s.cell x.pa / 64)) = true
    ∧ okWith ((transS true 0).translate ((transS true 0).scalarView 0) .amo 8 PaKind.isMem)
      (fun x s => !(s.paKind x.pa).isRemote && (s.drainAll 0).part.trans.any fun tr => tr.write) = true
    ∧ okWith ((farS id).translate (State.reset.scalarView 0) .amo 0x100000001000 PaKind.isMem)
      (fun x s => (s.paKind x.pa).isRemote && !s.hart.answered) = true
    ∧ okWith ((State.reset.modPart fun p => { p with poison := [(8, ())] }).translate (State.reset.scalarView 0) .amo 8
        PaKind.isMem) (fun x s => s.scalarPoison 0 (s.cell x.pa) 8) = true := by decide

theorem witness_MonitorActs :
    ((xs [(1, 8)]).xr 1).toNat % 8 = 0
    ∧ okWith ((xs [(1, 8)]).translate ((xs [(1, 8)]).scalarView 0) .load 8 watchable)
      (fun x s => watchable (s.paKind x.pa) && !(s.paKind x.pa).isRemote && !s.scalarPoison 0 (s.cell x.pa) 8) = true
    ∧ supS.hart.monitor = none ∧ armed.hart.monitor ≠ none ∧ armed.hart.monHit = false ∧ armed.firstEvent 0 = none
    ∧ (hs fun v => { v with monitor := some 1, monHit := true }).hart.monHit = true
    ∧ (hs fun v => { v with wait := some .mwait, monHit := true }).hart.wait = some .mwait := by decide

/-- Hart 0 with n return addresses on chip, krasb and krasl. -/
def calls (n : Nat) (b l : Word) : State :=
  hs fun v => { v with ras := List.replicate n 0x100, krasb := b, krasl := l }

theorem witness_ReturnStack :
    (calls 31 0 0).hart.ras.length < 32 ∧ ((xs [(1, 4)]).xr 1).toNat % 4 = 0
    ∧ 32 ≤ (calls 32 0x7000 0x7000).hart.ras.length
    ∧ (calls 32 0x7000 0x7000).hart.krasb.toNat < 8 + (calls 32 0x7000 0x7000).hart.krasl.toNat
    ∧ 8 + (calls 32 0x7008 0x7000).hart.krasl.toNat ≤ (calls 32 0x7008 0x7000).hart.krasb.toNat
    ∧ (calls 32 0x7008 0x7000).hart.krasb.toNat % 8 = 0
    ∧ okWith ((calls 32 0x7008 0x7000).translate ((calls 32 0x7008 0x7000).scalarView 0) .store 0x7000 PaKind.isMem)
      (fun x s => !junctionFull (s.junction 0) (s.cell x.pa / 64)) = true
    ∧ (calls 1 0 0).hart.ras = [0x100] ∧ (calls 0 0 0).hart.ras = [] ∧ (calls 0 0 0).hart.spill = 0
    ∧ (let s := (hs fun v => { v with spill := 1, krasb := 0x7000 })
       s.hart.ras = [] ∧ s.hart.spill ≠ 0
        ∧ okWith (s.translate (s.scalarView 0) .load s.hart.krasb PaKind.isMem)
          (fun x t => !t.scalarPoison 0 (t.cell x.pa) 8 && decide ((ofBytes 64 (t.scalarBytes 0 (t.cell x.pa) 8) : Word).toNat % 4 = 0))
          = true)
    ∧ (let s := wordsAt 0x7000 8 [2] (hs fun v => { v with spill := 1, krasb := 0x7000 })
       okWith (s.translate (s.scalarView 0) .load s.hart.krasb PaKind.isMem)
          (fun x t => decide ((ofBytes 64 (t.scalarBytes 0 (t.cell x.pa) 8) : Word).toNat % 4 ≠ 0)) = true)
    ∧ (let s := hs fun v => { v with kstatus := 0, spill := 1, krasb := 0x7000 }
       (match s.translate (s.scalarView s.cur) .load s.hart.krasb PaKind.isMem with | .error .page => true | _ => false) = true) := by
  decide


/-- What an access fails with satisfies p. -/
def failsWith (r : Except AccErr (Xlat × State)) (p : AccErr → Bool) : Bool :=
  match r with
  | .ok _ => false
  | .error e => p e

/-- Hart 0 in sup mode with 32 return addresses on chip and tables of Sv57 at an address. -/
def tabledCalls (root : Nat) (b : Word) : State :=
  (calls 32 b 0).mod fun v => { v with katp := BitVec.ofNat 64 (10 * 2 ^ 60 + root / 0x1000) }

theorem witness_ReturnStack_faults :
    (let s := calls 32 0x7000 0
     8 + s.hart.krasl.toNat ≤ s.hart.krasb.toNat
      ∧ failsWith ((s.mod fun v => { v with kstatus := 0 }).translate ((s.mod fun v => { v with kstatus := 0 }).scalarView 0) .store
          0x6FF8 PaKind.isMem) (fun e => match e with | .page => true | _ => false) = true)
    ∧ (let s := calls 32 0xC000000008 0
       8 + s.hart.krasl.toNat ≤ s.hart.krasb.toNat
        ∧ failsWith (s.translate (s.scalarView 0) .store 0xC000000000 PaKind.isMem)
          (fun e => match e with | .access _ => true | _ => false) = true)
    ∧ failsWith ((tabledCalls 0xC000000000 0x7008).translate ((tabledCalls 0xC000000000 0x7008).scalarView 0) .store 0x7000
        PaKind.isMem) (fun e => match e with | .table t => t == 0x7000 | _ => false) = true
    ∧ (let s := (tabledCalls 0x1000000 0x7008).modPart fun p => { p with poison := [(0x1000000, ())] }
       failsWith (s.translate (s.scalarView 0) .store 0x7000 PaKind.isMem)
          (fun e => match e with | .poison pa => pa == 0x1000000 || pa == 0xFFF00001000000 | _ => false) = true)
    ∧ (let s := hs fun v => { v with spill := 1, krasb := 0xC000000000 }
       s.hart.ras = [] ∧ failsWith (s.translate (s.scalarView 0) .load s.hart.krasb PaKind.isMem)
          (fun e => match e with | .access _ => true | _ => false) = true) := by decide

theorem witness_StallEnds :
    (waitingAt 0x442A6000 .store).waitingIn .store = some (.st 1 10 .d 0)
    ∧ (waitingAt 0x80A00400 .vdisp).waitingIn .vdisp = some (.vdisp 5 1)
    ∧ (waitingAt 0x84E00000 .rqget).waitingIn .rqget = some (.rqget 7)
    ∧ (waitingAt 0x8C090002 .gwait).waitingIn .gwait = some (.gwait 9)
    ∧ (waitingAt 0x8D200000 .gbar).waitingIn .gbar = some (.gbar 9)
    ∧ (vwaitingAt 0x9080400010000000 .copySlot).vwaitingIn .copySlot = some (.cpy 8 0 4 0 1 .core none)
    ∧ (vwaitingAt 0x9100000006000000 .cpyw).vwaitingIn .cpyw = some (.cpyw 0 6)
    ∧ (vwaitingAt 0xA100000000000004 .primeDrain).vwaitingIn .primeDrain = some (.sprm 0 4) := by decide

/-- A command of a block at 0x1000. -/
def cmd0 : Command :=
  { pos := 0, nrep := 63, mode := 3, spilt := true, sum := true, hart := 65535, addr := 0x1000, args := List.replicate 8 7
    katp := 5 }

/-- Hart 0 with x5 = 0x1000 (a block address), changed. -/
def dispS (f : Hart → Hart) : State := (xs [(5, 0x1000)]).mod f

set_option maxRecDepth 4000 in
theorem witness_VdispEnqueues :
    (hs fun v => { v with scalar := true }).noContext = true
    ∧ (dispS id).noContext = false ∧ ((dispS id).xr 5).toNat % 64 = 0
    ∧ (let v := (dispS fun v => { v with quota := 1, next := 1 }).hart
       v.quota ≠ 0 ∧ ¬ (v.next - v.head).toNat + 1 ≤ v.quota.toNat)
    ∧ (let v := (dispS fun v => { v with quota := 2, next := 1 }).hart
       (v.next - v.head).toNat + 1 ≤ v.quota.toNat ∧ 63 + v.replies.length + v.rsv ≤ 64 ∧ v.queue.length < 256 ∧ v.spilt = 0)
    ∧ (let v := (dispS fun v => { v with queue := List.replicate 256 cmd0, ksqb := 0x800000000000000C, spilt := 31 }).hart
       v.quota = 0 ∧ 256 ≤ v.queue.length ∧ tst v.ksqb 63 = true ∧ v.spilt.toNat < 2 ^ (fld v.ksqb 0 6 - 7))
    ∧ (let v := (dispS fun v => { v with rsv := 2 }).hart
       v.quota = 0 ∧ 64 < (63 : BitVec 6).toNat + v.replies.length + v.rsv ∧ (63 : BitVec 6) ≠ 0)
    ∧ (let v := (dispS fun v => { v with queue := List.replicate 256 cmd0 }).hart
       256 ≤ v.queue.length ∧ tst v.ksqb 63 = false)
    ∧ (let s := hs fun v => { v with queue := [cmd0] }
       s.hart.queue = [cmd0] ∧ s.ctx.blk = none ∧ s.ctx.stopped = false ∧ s.hart.scalar = false
        ∧ s.gangPending (coreOf s.cur) = false ∧ s.retirePending (coreOf s.cur) = false
        ∧ (s.coreAt (coreOf s.cur)).ccOut = false ∧ cmd0.bad = false)
    ∧ (let s := hs fun v => { v with queue := [{ cmd0 with bad := true }] }
       s.ctx.strip = none ∧ (∀ q ∈ s.ctx.copies, q.outstanding = false)) := by decide

set_option maxRecDepth 4000 in
theorem witness_CommandsReturn :
    cmd0.nrep < 64 ∧ cmd0.mode < 4 ∧ cmd0.hart < 65536 ∧ cmd0.args.length = 8
    ∧ (let s := hs fun v => { v with spilt := 1, ksqb := 0x800000000000000C, queue := List.replicate 255 cmd0 }
       s.hart.spilt ≠ 0 ∧ s.hart.queue.length < 256
        ∧ s.anyPoison (s.cell (squallSlot s.hart.ksqb s.hart.sqCons)) 128 = false)
    ∧ (let s := (hs fun v => { v with spilt := 1, ksqb := 0x800000000000000C, queue := [] }).modPart fun p =>
         { p with poison := [(127, ())] }
       s.hart.spilt ≠ 0 ∧ s.anyPoison (s.cell (squallSlot s.hart.ksqb s.hart.sqCons)) 128 = true ∧ s.ctx.refillBad = false
        ∧ (s.modCtx 0 fun c => { c with refillBad := true }).ctx.refillBad = true) := by decide

theorem witness_RepliesAndSync :
    (hs fun v => { v with replies := [7] }).hart.replies = 7 :: [] ∧ State.reset.hart.replies = []
    ∧ State.reset.hart.head = State.reset.hart.next
    ∧ (hs fun v => { v with wait := some .vsync }).hart.wait = some .vsync
    ∧ (hs fun v => { v with next := 1 }).hart.head ≠ (hs fun v => { v with next := 1 }).hart.next := by decide

/-- Hart 0 as the founder of a gang whose members pin 16 clusters, or none (GCL), with SMASK as given. -/
def spawnS (kgang : Word) : State := hs fun v => { v with kgang := kgang }

set_option maxRecDepth 4000 in
theorem witness_HspawnStarts :
    (spawnS 0).hart.live = true ∧ (∀ h, h < 256 → (spawnS 0).qualifies h = false)
    ∧ (spawnS 1).qualifies 1 = true ∧ (∀ j, j < 1 → (spawnS 1).qualifies j = false) ∧ (spawnS 1).spawnsGang = false
    ∧ (spawnS 0x8000400000000001).qualifies 4 = true ∧ (∀ j, j < 4 → (spawnS 0x8000400000000001).qualifies j = false)
    ∧ (spawnS 0x8000400000000001).spawnsGang = true ∧ (spawnS 0x8000400000000001).hart.inGang = false
    ∧ (let s := spawnS 0xC000400000000001
       s.spawnsGang = true ∧ s.hart.inGang = true ∧ (s.gangOf s.cur).length < 64 ∧ s.qualifies 4 = true
        ∧ ∀ j, j < 4 → s.qualifies j = false) := by decide

/-- Hart 4 of core 1 is the current one. -/
def memberS (f : Hart → Hart) : State :=
  ({ State.reset with harts := [(0, resetHart0), (4, { live := true })], cur := 4 } : State).mod f

theorem witness_HartsLeave :
    State.reset.cur = 0 ∧ (memberS id).cur ≠ 0 ∧ (memberS id).hart.inGang = false
    ∧ (memberS id).hart.head = (memberS id).hart.next ∧ (∀ c, c ∈ (memberS id).ctx.copies → c.outstanding = false)
    ∧ (memberS fun v => { v with next := 1 }).hart.head ≠ (memberS fun v => { v with next := 1 }).hart.next
    ∧ (memberS fun v => { v with wait := some .hexit }).hart.wait = some .hexit
    ∧ (let g := fun v : Hart => { v with kgang := 0x4100000000000000, gang := 1, kgbar := 0x100 }
       let s := ({ State.reset with harts := [(0, g resetHart0), (4, g { live := true })], cur := 4 } : State)
       s.cur ≠ 0 ∧ s.hart.inGang = true ∧ ((s.gangOf s.cur).filter fun j => j != s.cur) = [0] ∧ s.hart.kgbar.toNat < 2 ^ 56
        ∧ s.inHbm s.hart.kgbar.toNat 8 = true)
    ∧ (let s := hs fun v => { v with yielding := true, yieldAt := 0 }
       (s.coreAt (coreOf s.cur)).kcycle.toNat < s.hart.yieldAt + 64 ∧ s.hart.yielding = true)
    ∧ (let s := (hs fun v => { v with yielding := true, yieldAt := 5 }).modCore 0 fun k => { k with kcycle := 69 }
       s.hart.yieldAt + 64 ≤ (s.coreAt (coreOf s.cur)).kcycle.toNat) := by decide

/-- Hart 0 in a gang of n members, with kgbar. -/
def gangS (n kgbar : Word) (f : Hart → Hart) : State :=
  hs fun v => f { v with kgang := 0x4000000000000000 ||| ((n - 1) <<< 56), kgbar := kgbar }

theorem witness_GangBarrier :
    State.reset.hart.inGang = false ∧ (gangS 2 0xC000000000 id).hart.inGang = true
    ∧ State.reset.inHbm 0xC000000000 8 = false
    ∧ (gangS 2 0x100 id).hart.kgbar.toNat < 2 ^ 56 ∧ (gangS 2 0x100 id).inHbm 0x100 8 = true
    ∧ (gangS 2 0x100 id).scalarPoison 0 ((gangS 2 0x100 id).cell 0x100) 8 = false
    ∧ (gangS 1 0x100 id).hart.members ≤ 0 + 1 ∧ ¬ (gangS 2 0x100 id).hart.members ≤ 0 + 1
    ∧ (gangS 1 0x100 id).hart.pendBit = false ∧ (gangS 64 0x100 id).hart.members = 64
    ∧ (let s := wordsAt 0x100 8 [0x100000000] (gangS 2 0x100 fun v => { v with kgang := v.kgang ||| 0x40000000000 })
       s.hart.pendBit = true ∧ fld (ofBytes 64 (s.scalarBytes 0 (s.cell 0x100) 8) : Word) 32 32 ≠ fld (s.xr 9) 0 32)
    ∧ fld (ofBytes 64 ((gangS 2 0x100 id).scalarBytes 0 ((gangS 2 0x100 id).cell 0x100) 8) : Word) 32 32
      = fld ((gangS 2 0x100 id).xr 9) 0 32 := by decide

theorem witness_SystemInstructions :
    supS.hart.pm ≠ 0 ∧ (0x7FFF : BitVec 16).toNat < 0x8000 ∧ appS.hart.pm = 0
    ∧ (hs fun v => { v with kpreq := 1 }).eventPending 0 = true ∧ State.reset.eventPending 0 = false
    ∧ tst State.reset.hart.kbrk 61 = false ∧ tst (hs fun v => { v with kbrk := 0x2000000000000000 }).hart.kbrk 61 = true := by
  decide

theorem witness_KregAccess :
    hasNat kregNumbers (0x000 : KNum).toNat = true ∧ supS.hart.pm ≠ 0
    ∧ hasNat kregNumbers (0x00D : KNum).toNat = true ∧ hasNat appReads (0x00D : KNum).toNat = true
    ∧ ((0x083 : KNum).toNat, (0xE1FFFFFFFFFFFFFC : Word)) ∈ [((0x083 : Nat), (0xE1FFFFFFFFFFFFFC : Word))] := by decide

theorem witness_KregWrites :
    supS.hart.pm ≠ 0 ∧ fld (0xA000000000000000 : Word) 60 4 = 10 ∧ fld (0 : Word) 60 4 = 0
    ∧ fld (0x8000000000000000 : Word) 60 4 ≠ 0 ∧ fld (0x8000000000000000 : Word) 60 4 ≠ 10
    ∧ supS.hart.ras = [] ∧ (calls 1 0x70 0).hart.ras ≠ [] ∧ (0x77 : Word) &&& ~~~7 = (calls 1 0x70 0).hart.krasb
    ∧ (0x78 : Word) &&& ~~~7 ≠ (calls 1 0x70 0).hart.krasb
    ∧ fld (0x800000000000 : Word) 43 5 = 16 ∧ supS.hart.inGang = false ∧ 16 < fld (0x880000000000 : Word) 43 5
    ∧ supS.hart.spilt = 0 ∧ tst (0 : Word) 63 = false ∧ (hs fun v => { v with spilt := 1 }).hart.spilt ≠ 0
    ∧ tst (0x800000000000000B : Word) 63 = true ∧ fld (0x800000000000000B : Word) 0 6 < 12
    ∧ fld (0x800000BFFFFFF00C : Word) 12 44 * 0x1000 / 2 ^ 12 * 2 ^ 12 % 2 ^ 44 + 2 ^ 12 ≤ 0xC000000000
    ∧ supS.isLocal (fld (0x800000BFFFFFF00C : Word) 12 44 * 0x1000 / 2 ^ 12 * 2 ^ 12) = true
    ∧ ¬ fld (0x800000C00000000C : Word) 12 44 * 0x1000 / 2 ^ 12 * 2 ^ 12 % 2 ^ 44 + 2 ^ 12 ≤ 0xC000000000
    ∧ (gangS 2 0 id).hart.inGang = true ∧ fld (0 : Word) 43 5 = (gangS 2 0 id).hart.gcl
    ∧ fld (0x080000000000 : Word) 43 5 ≠ (gangS 2 0 id).hart.gcl
    ∧ 28 < fld (0x800000000000001D : Word) 0 6 ∧ 12 ≤ fld (22 : Word) 0 6 ∧ fld (22 : Word) 0 6 ≤ 22
    ∧ (cs fun c => { c with stopped := true }).ctx.stopped = true
    ∧ fld (0x8000000000000000 : Word) 62 2 ≠ 3 ∧ fld (0xC000000000000000 : Word) 62 2 = 3
    ∧ 1 ≤ fld (8 : Word) 0 4 ∧ fld (8 : Word) 0 4 ≤ 8 ∧ fld (0 : Word) 0 4 = 0 ∧ 8 < fld (9 : Word) 0 4
    ∧ supS.hart.head = supS.hart.next ∧ (hs fun v => { v with next := 1 }).hart.head ≠ (hs fun v => { v with next := 1 }).hart.next
    ∧ 6 ≤ fld (6 : Word) 0 3 ∧ fld (5 : Word) 0 3 < 6 := by decide

theorem witness_KregSideEffects :
    supS.hart.pm ≠ 0 ∧ supS.dark 0 = false ∧ supS.clusterCount 0 = 8
    ∧ (∀ t, t < 4 → ¬ (fld (0x0808000000000000 : Word) (16 * t + 8) 5 < fld (0x0808000000000000 : Word) (16 * t) 5)
        ∧ fld (0x0808000000000000 : Word) (16 * t + 8) 5 ≤ 8)
    ∧ ((List.range 4).map fun t => fld (0x0808000000000000 : Word) (16 * t) 5).sum = 8
    ∧ fld (0x0001 : Word) 8 5 < fld (0x0001 : Word) 0 5 ∧ 8 < fld (0x0900 : Word) 8 5
    ∧ 8 < ((List.range 4).map fun t => fld (0x0808080808010808 : Word) (16 * t) 5).sum
    ∧ (supS.hartAt 0).live = true ∧ ((gangS 2 0 id).hartAt 0).inGang = true
    ∧ ((State.reset.modCore 0 fun k => { k with array := { owner := some 0, last := some 0 } }).coreAt 0).array.owner
      = some (4 * 0 + 0)
    ∧ 16 ≤ fld (30 : Word) 0 6 ∧ fld (30 : Word) 0 6 ≤ 30 ∧ tst (0 : Word) 63 = false
    ∧ 12 ≤ fld (28 : Word) 0 6 ∧ fld (28 : Word) 0 6 ≤ 28
    ∧ (let s := (cs fun c => { c with stopped := true }).mod fun v => { v with next := 1, queue := [cmd0] }
       s.ctx.stopped = true ∧ s.ctx.strip = none ∧ ((1 : W32) - s.hart.head).toNat ≠ 0
        ∧ ((1 : W32) - s.hart.head).toNat ≤ (s.hart.next - s.hart.head).toNat
        ∧ (s.hart.next - s.hart.head).toNat < ((2 : W32) - s.hart.head).toNat)
    ∧ supS.ctx.stopped = false
    ∧ (let s := calls 32 0x8000 0x7F00
       fld s.hart.katp 60 4 = 0 ∧ tst s.hart.kspb 63 = false ∧ s.hart.krasb.toNat % 8 = 0
        ∧ 8 * s.hart.ras.length + s.hart.krasl.toNat ≤ s.hart.krasb.toNat ∧ s.hart.krasb.toNat ≤ 0xC000000000
        ∧ s.isLocal 0 = true ∧ (s.junction 0).length + s.hart.ras.length < 64) := by decide

/-- Hart 0 with an empty image at 0x10000. -/
def savedS : State :=
  let s := wordsAt 0x10000 8 [1, 0x3000, 0] State.reset
  { s with part := { s.part with images := [{
      ctx := {}, kflags := 0, kfrm := 0, next := 0, head := 0, replies := [], rsv := 0, kvfault := 0, kvrst := [], vfTval := 0,
      vfPend := false, cmds := [], held := 0, tiles := none, streams := none, size := 0x3000 }] } }

theorem witness_ContextImages :
    supS.hart.pm ≠ 0 ∧ fld (0xFFF : Word) 0 12 ≠ 0 ∧ fld (0x10000 : Word) 0 12 = 0
    ∧ supS.inHbm 0x10000 (supS.imageSize 0) = true ∧ supS.ctx.strip = none ∧ supS.ctx.dying = none
    ∧ supS.inHbm 0xC000000000 (supS.imageSize 0) = false ∧ supS.inHbm 0xC000000000 0x1000 = false
    ∧ (∀ k, k ∈ supS.ctx.copies → k.outstanding = false) ∧ supS.hart.scalar = false
    ∧ (hs fun v => { v with scalar := true }).hart.scalar = true
    ∧ (let s := savedS
       s.inHbm 0x10000 0x1000 = true ∧ s.inHbm 0x10000 (s.headerWord 0x10000 8).toNat = true
        ∧ s.ctx.blk = none ∧ s.ctx.stopped = false ∧ s.hart.queue = [] ∧ s.hart.spilt = 0 ∧ s.hart.replies = []
        ∧ s.clusterSet s.cur = [] ∧ s.ctx.copies = [] ∧ (s.coreAt 0).array.owner ≠ some s.cur
        ∧ (s.coreAt 0).stream.owner ≠ some s.cur ∧ s.imageRefused 0 0x10000 = false
        ∧ s.imagePoison 0x10000 0x3000 = false ∧ 0x1000 < (s.headerWord 0x10000 8).toNat
        ∧ fld (s.headerWord 0x10000 16) 0 8 = 0 ∧ s.isStalled 0 0 = false)
    ∧ (savedS.modPart fun p => { p with poison := [(0x12FFF, ())] }).imagePoison 0x10000 0x3000 = true
    ∧ (cs id).ctx.blk ≠ none ∧ (cs id).hart.wait ≠ some .kctxr
    ∧ (savedS.part.images[(savedS.headerWord 0x10000 0x1000).toNat]?.any fun img =>
        img.tiles.isNone && img.streams.isNone && decide (img.cmds.length ≤ 256)) = true := by decide

theorem witness_WindowWrites : supS.hart.pm ≠ 0 ∧ (supS.hartAt 0).live = true ∧ appS.hart.pm = 0
    ∧ fld supS.hart.katp 60 4 = 0 ∧ (supS.hartAt 255).live = false ∧ engineOk 0x1100 = true ∧ engineOk 0x1178 = true ∧ fwS.hart.pm = 2
    ∧ (appS.mod fun v => { v with katp := 0xA000000000000000 }).hart.pm = 0
    ∧ fld (appS.mod fun v => { v with katp := 0xA000000000000000 }).hart.katp 60 4 ≠ 0
    ∧ engineOk 0x1200 = true ∧ engineOk 0x1300 = true ∧ 600 ≤ fld (2400 : Word) 0 16 ∧ tst (0x8000000000000000 : Word) 63 = true := by
  decide

theorem witness_EventsTaken :
    (let v := (hs fun v => { v with kstatus := 0x101, vfPend := true }).hart
     v.wait = none ∧ v.ie = true ∧ v.mcPend = none ∧ v.vfPend = true ∧ v.ctx.strip = none)
    ∧ (let v := (hs fun v => { v with kstatus := 0x101, mgmtPend := true, kpreq := 3 }).hart
       v.ie = true ∧ v.vfPend = false ∧ v.mgmtPend = true ∧ tst v.kpreq 0 = true)
    ∧ (let v := (hs fun v => { v with kstatus := 0x101, kpreq := 2, kdeadline := 0x8000000000000000 }).hart
       v.ie = true ∧ v.mgmtPend = false ∧ tst v.kpreq 0 = false ∧ tst v.kpreq 1 = true ∧ tst v.kdeadline 63 = true
        ∧ fld v.kdeadline 0 63 ≤ (State.reset.coreAt 0).kcycle.toNat)
    ∧ (let v := (hs fun v => { v with kdeadline := 0x8000000000000001 }).hart
       ¬ fld v.kdeadline 0 63 ≤ (State.reset.coreAt 0).kcycle.toNat)
    ∧ (hs fun v => { v with mcPend := some 9 }).hart.mcPend = some 9
    ∧ (let v := (hs fun v => { v with kbrk := 0x8000000000000040, pc := 0x40 }).hart
       tst v.kbrk 63 = true ∧ tst v.kbrk 62 = false ∧ tst v.kbrk 61 = false ∧ v.csup = false
        ∧ fld v.kbrk 2 55 = fld v.pc 2 55) := by decide

theorem witness_ClustersSettle :
    (let s := State.reset.modCore 0 fun k => { k with stalled := [{ ctx := 0, need := none }], clusters := [(1, 0)], klpr := 0x0808 }
     (s.coreAt 0).stalled = [{ ctx := 0, need := none }] ∧ s.isBecalmed 0 = false ∧ s.stranded 0 0 = false
      ∧ s.wantOf 0 { ctx := 0, need := none } ≠ 0
      ∧ s.wantOf 0 { ctx := 0, need := none } ≤ (s.freeClusters 0).length)
    ∧ (let s := State.reset.modCore 0 fun k => { k with stalled := [{ ctx := 3, need := some 2 }], kbecalm := 0x8000000000000000 }
       s.isBecalmed 0 = true) := by decide

theorem witness_BlockArithmetic :
    (cs (bs [(1, 0xFFFFFFFFFFFFFFFF)])).ctx.br 1 ≠ (cs (bs [(1, 0xFFFFFFFFFFFFFFFF)])).ctx.br 2
    ∧ ¬ ((cs (bs [(1, 0xFFFFFFFFFFFFFFFF)])).ctx.br 1).toNat < ((cs (bs [(1, 0xFFFFFFFFFFFFFFFF)])).ctx.br 2).toNat
    ∧ hasNat bkrdReads (0x032 : KNum).toNat = true ∧ (0x032 : KNum) ≠ 0x00D ∧ hasNat bkrdReads (0xFFF : KNum).toNat = false := by
  decide

/-- The block of hart 0 in a loop over its one word, counter k. -/
def loopS (k : W32) (last : Word) : State :=
  cs fun c => { c with b := [(1, 3)], lc := [k, 0, 0, 0], loops := [{ n := 0, first := 0x1000, last := last }] }

theorem witness_LoopsAndBranches :
    (loopS 2 0x1000).ctx.blk = some blk0 ∧ (∃ l, (loopS 2 0x1000).ctx.loops = l :: [] ∧ l.last = blk0.pc)
    ∧ (loopS 2 0x1000).ctx.lc.getD 0 0 - 1 ≠ 0 ∧ (loopS 1 0x1000).ctx.lc.getD 0 0 - 1 = 0
    ∧ (∀ l, l ∈ (loopS 2 0x1008).ctx.loops → l.last ≠ blk0.pc)
    ∧ (0 : W32).toInt ≤ 0 ∧ (∃ l ∈ (loopS 1 0x1008).ctx.loops, l.n = (0 : BitVec 2).toNat)
    ∧ ((loopS 1 0x1008).ctx.br 1).setWidth 32 ≠ (0 : W32) ∧ ((loopS 1 0x1008).ctx.br 2).setWidth 32 = (0 : W32)
    ∧ (∀ l ∈ (loopS 1 0x1008).ctx.loops, l.n ≠ (1 : BitVec 2).toNat)
    ∧ (blk0.pc + 8 * (2 : W32).signExtend 64).toNat > 0x1008 ∧ (blk0.pc + 8 * (1 : W32).signExtend 64).toNat ≤ 0x1008
    ∧ 4 ≤ (cs fun c => { c with loops := List.replicate 4 { n := 0, first := 0, last := 0 } }).ctx.loops.length
    ∧ condHolds .eq ((cs id).ctx.br 1) ((cs id).ctx.br 2) = true
    ∧ condHolds .ne ((cs id).ctx.br 1) ((cs id).ctx.br 2) = false := by
  refine ⟨rfl, ⟨_, rfl, rfl⟩, ?_⟩
  decide

theorem witness_BlockEnds :
    (cs id).ctx.blk = some blk0 ∧ blk0.sent < blk0.cmd.nrep ∧ (vs 0x2C id).ctx.grant.g ≠ 0
    ∧ (∀ e ∈ (vs 0x2C id).ctx.mpoison, e.1 % 8 ≠ (1 : MReg).toNat)
    ∧ (let b := { blk0 with sent := 2 }
       (cs fun c => { c with blk := some b }).ctx.blk = some b → b.cmd.nrep ≤ b.sent)
    ∧ tst (cs id).hart.kbrk 61 = false ∧ tst ((cs id).mod fun v => { v with kbrk := 0x2000000000000000 }).hart.kbrk 61 = true
    ∧ (cs id).ctx.stopped = false
    ∧ (let s := (cs id).mod fun v => { v with kbrk := 0xC000000000001000 }
       tst s.hart.kbrk 63 = true ∧ tst s.hart.kbrk 62 = true ∧ tst s.hart.kbrk 61 = false ∧ s.ctx.vsup = false
        ∧ fld s.hart.kbrk 3 54 = fld blk0.pc 3 54) := by decide

/-- No mask, no acquire, tail by vtype. -/
def ctl0 : VCtl := { mask := none, aq := false, tail := .vtype }
def mctl0 : MCtl := { mask := none, aq := false }

theorem witness_StripsOpen :
    (let s := (cs (bs [(1, 100), (3, 96), (4, 97)])).modCore 0 fun k => { k with clusters := [(0, 0)], klpr := 0x0100 }
     ¬ (tst (0x0001 : BitVec 16) 15 = true ∨ 4 ≤ fld (0x0001 : BitVec 16) 8 4 ∨ (tst (0x0001 : BitVec 16) 14 = true ∧ s.hart.inGang = false))
      ∧ (0x0001 : BitVec 16).setWidth 6 ≠ (0 : Tag) ∧ tagListed ((0x0001 : BitVec 16).setWidth 6) = true
      ∧ s.ctx.strip = none ∧ s.ctx.waiting ≠ some .clusters ∧ s.stranded 0 0 = false ∧ (s.coreAt 0).stalled = []
      ∧ (s.ctx.br 1).toNat ≠ 0 ∧ (s.ctx.br 2).toNat = 0 ∧ (s.clusterSet 0).length = s.maxOf 0 0 ∧ s.minOf 0 0 ≤ s.maxOf 0 0
      ∧ (s.sweep 0).vrows = 1 ∧ 31 + (s.sweep 0).vrows ≤ 32)
    ∧ 4 ≤ fld (0x0401 : BitVec 16) 8 4 ∧ tagListed 0x00F = false
    ∧ 32 < (31 : VReg).toNat + ((cs fun c => { c with grant := { c.grant with vtype := 0x0041 } }).sweep 0).vrows := by decide

/-- A state whose vector words may perform: v1-v4 of a tag. -/
theorem witness_vecReady (t : Tag) (l : List VReg) (r : List Nat) (h : ∀ v ∈ l, v.toNat + ((vs t id).sweep 0).vrows ≤ 32) :
    VecReady (vs t id) l none false r :=
  ⟨h, (fun _ e => by cases e), (by decide : (8 : W32) ≠ 0), rfl, fun _ _ e he => absurd he (List.not_mem_nil (a := e))⟩

theorem witness_VectorArithmetic :
    (∃ oa ob oc, VecReady (vs tagFP32 id) [31, 1, 3] none false (oa.regs ++ ob.regs ++ oc.regs) ∧ IsVec (vs tagFP32 id) 1 oa
      ∧ IsB (vs tagFP32 id) (.vec 2) oa.tag ob ∧ IsVec (vs tagFP32 id) 3 oc ∧ ctype [oa.tag, ob.tag, oc.tag] = some .fp
      ∧ destTag (vs tagFP32 id).ctx ((vs tagFP32 id).sweep 0) 31 = .ok 0
      ∧ resultTag ((vs tagFP32 id).sweep 0) [oa.tag, ob.tag, oc.tag] .fp 0 = .ok tagFP32 ∧ oa.tag ≠ tagZP
      ∧ resultTag ((vs tagFP32 id).sweep 0) [oa.tag, ob.tag] .fp 0 = .ok tagFP32
      ∧ resultTag ((vs tagFP32 id).sweep 0) [oa.tag] .fp 0 = .ok tagFP32)
    ∧ (∃ oa ob, VecReady (vs tagFP32 id) [31, 1] none false [] ∧ IsVec (vs tagFP32 id) 1 oa
      ∧ IsB ((vs tagFP32 id).modCtx 0 fun c => { c with vtags := [(1, tagFP32), (2, tagZP)] }) (.vec 2) oa.tag ob
      ∧ ctype [oa.tag, ob.tag] = none)
    ∧ 32 < (31 : VReg).toNat + ((cs fun c => { c with grant := { c.grant with vtype := 0x0040 } }).sweep 0).vrows := by
  refine ⟨⟨_, _, _, witness_vecReady _ _ _ (by decide), ⟨_, rfl, rfl⟩, ⟨rfl, rfl⟩, ⟨_, rfl, rfl⟩, rfl, rfl, rfl, by decide, rfl, rfl⟩,
    ⟨_, _, witness_vecReady _ _ _ (by decide), ⟨_, rfl, rfl⟩, ⟨rfl, rfl⟩, rfl⟩, by decide⟩

theorem witness_VectorFunctions :
    (∃ oa, VecReady (vs tagFP16 id) [31, 1] none false oa.regs ∧ IsVec (vs tagFP16 id) 1 oa
      ∧ destTag (vs tagFP16 id).ctx ((vs tagFP16 id).sweep 0) 31 = .ok 0 ∧ isFloat oa.tag = true ∧ isFloat tagFP32 = true
      ∧ ((vs tagFP16 id).sweep 0).fits tagFP32 = true ∧ cvtPairs oa.tag tagFP32 = true
      ∧ ((vs tagFP16 id).sweep 0).fits tagUINT32 = true)
    ∧ (∃ oa, VecReady (vs tagINT32 id) [31, 1] none false oa.regs ∧ IsVec (vs tagINT32 id) 1 oa
      ∧ destTag (vs tagINT32 id).ctx ((vs tagINT32 id).sweep 0) 31 = .ok 0 ∧ isFloat oa.tag = false
      ∧ cvtPairs oa.tag tagINT32 = true)
    ∧ (let s := (vs tagZP id).modCore 0 fun k => { k with primes := [3] }
       (s.coreAt 0).primes ≠ [] ∧ cvtPairs tagZP tagZP = true ∧ (s.sweep 0).fits tagZP = true)
    ∧ (∃ oa ob, VecReady (vs tagE8M0 id) [31, 1] none false (oa.regs ++ ob.regs)
      ∧ IsVec ((vs tagE8M0 id).modCtx 0 fun c => { c with vtags := [(1, tagFP32), (2, tagE8M0)] }) 1 oa
      ∧ IsB (vs tagE8M0 id) (.vec 2) tagE8M0 ob ∧ isFloat oa.tag = true ∧ ob.tag = tagE8M0) := by
  refine ⟨⟨_, witness_vecReady _ _ _ (by decide), ⟨_, rfl, rfl⟩, rfl, rfl, rfl, rfl, rfl, rfl⟩,
    ⟨_, witness_vecReady _ _ _ (by decide), ⟨_, rfl, rfl⟩, rfl, rfl, rfl⟩, by decide,
    ⟨_, _, witness_vecReady _ _ _ (by decide), ⟨_, rfl, rfl⟩, ⟨rfl, rfl⟩, rfl, rfl⟩⟩

theorem witness_VectorMoves :
    (∃ oa ob, VecReady (vs tagINT32 id) [31, 1] none false (oa.regs ++ ob.regs) ∧ IsVec (vs tagINT32 id) 1 oa
      ∧ IsB (vs tagINT32 id) (.vec 2) oa.tag ob ∧ destTag (vs tagINT32 id).ctx ((vs tagINT32 id).sweep 0) 31 = .ok 0
      ∧ logicTag ((vs tagINT32 id).sweep 0) oa.tag ob.tag 0 = .ok tagINT32 ∧ isInteger oa.tag = true ∧ isInteger ob.tag = true
      ∧ ctype [oa.tag, ob.tag] = some .int32 ∧ resultTag ((vs tagINT32 id).sweep 0) [oa.tag, ob.tag] .int32 0 = .ok tagINT32
      ∧ oa.tag ≠ tagZP ∧ oa.tag ≠ tagE8M0)
    ∧ (∃ oa ob, IsVec (vs tagE8M0 id) 1 oa ∧ IsB (vs tagE8M0 id) (.vec 2) oa.tag ob ∧ oa.tag = tagE8M0 ∧ ob.tag = oa.tag
      ∧ ((vs tagE8M0 id).sweep 0).fits oa.tag = true)
    ∧ (∃ oa, IsVec (vs tagFP32 id) 1 oa ∧ destTag (vs tagFP32 id).ctx ((vs tagFP32 id).sweep 0) 2 = .ok tagFP32
      ∧ tagFP32 ≠ tagNONE ∧ tagFP32 = oa.tag
      ∧ destTag ((vs tagFP32 id).modCtx 0 fun c => { c with vtags := [(2, tagINT32)] }).ctx ((vs tagFP32 id).sweep 0) 2 = .ok tagINT32
      ∧ tagINT32 ≠ oa.tag)
    ∧ (∃ ob, destTag (vs tagINT32 id).ctx ((vs tagINT32 id).sweep 0) 2 = .ok tagINT32 ∧ tagINT32 ≠ tagE8M0
      ∧ ((vs tagINT32 id).sweep 0).fits tagINT32 = true ∧ (VSrc.imm 7).scalar = true ∧ IsB (vs tagINT32 id) (.imm 7) tagINT32 ob) := by
  refine ⟨⟨_, _, witness_vecReady _ _ _ (by decide), ⟨_, rfl, rfl⟩, ⟨rfl, rfl⟩, rfl, rfl, rfl, rfl, rfl, rfl, by decide, by decide⟩,
    ⟨_, _, ⟨_, rfl, rfl⟩, ⟨rfl, rfl⟩, rfl, rfl, rfl⟩, ⟨_, ⟨_, rfl, rfl⟩, rfl, by decide, rfl, rfl, by decide⟩,
    ⟨_, rfl, by decide, rfl, rfl, ⟨rfl, rfl⟩⟩⟩

theorem witness_MasksWritten :
    (∃ oa ob, VecReady (vs tagINT32 id) [1] none false (oa.regs ++ ob.regs) ∧ IsVec (vs tagINT32 id) 1 oa
      ∧ IsB (vs tagINT32 id) (.vec 2) oa.tag ob ∧ ctype [oa.tag, ob.tag] = some .int32)
    ∧ VecReady (vs tagFP32 id) [] none false [] ∧ (∀ e ∈ (vs tagFP32 id).ctx.mpoison, e.1 % 8 ≠ (7 : MReg).toNat)
    ∧ (cs id).ctx.grant.g = 0 ∧ MlogOp.not = .not := by
  refine ⟨⟨_, _, witness_vecReady _ _ _ (by decide), ⟨_, rfl, rfl⟩, ⟨rfl, rfl⟩, rfl⟩,
    witness_vecReady _ _ _ (by decide), by decide, rfl, rfl⟩

/-- Hart 0 in a block with v1-v4 of a tag, and a mask 1 of which no bit is set. -/
def unmasked (t : Tag) : State := vs t fun c => { c with m := (List.range 8).map fun i => (64 * i + 1, 0) }

theorem witness_Reductions :
    (∃ oa, VecReady (vs tagINT32 id) [31, 1] none false oa.regs ∧ IsVec (vs tagINT32 id) 1 oa
      ∧ destTag (vs tagINT32 id).ctx ((vs tagINT32 id).sweep 0) 31 = .ok 0 ∧ ((vs tagINT32 id).sweep 0).vl ≠ 0
      ∧ ctype [oa.tag] = some .int32 ∧ resultTag ((vs tagINT32 id).sweep 0) [oa.tag] .int32 0 = .ok tagINT32
      ∧ (((vs tagINT32 id).sweep 0).elements.filter fun e => maskOpen (vs tagINT32 id).ctx none oa.tag e.1 e.2) ≠ []
      ∧ ((unmasked tagINT32).sweep 0).elements.filter (fun e => maskOpen (unmasked tagINT32).ctx (some 1) oa.tag e.1 e.2) = []
      ∧ oa.tag ≠ tagZP ∧ oa.tag ≠ tagE8M0 ∧ ((vs tagINT32 id).sweep 0).fits tagUINT32 = true)
    ∧ (∃ oa, IsVec (vs tagZP id) 1 oa ∧ oa.tag = tagZP
      ∧ (((vs tagZP id).modCore 0 fun k => { k with primes := [3] }).coreAt 0).primes ≠ []
      ∧ resultTag ((vs tagZP id).sweep 0) [oa.tag] .zp 0 = .ok tagZP) := by
  refine ⟨⟨_, witness_vecReady _ _ _ (by decide), ⟨_, rfl, rfl⟩, rfl, by decide, rfl, rfl, by decide, by decide, by decide,
    by decide, rfl⟩, ⟨_, ⟨_, rfl, rfl⟩, rfl, by decide, rfl⟩⟩

theorem witness_Permutes :
    (∃ oa ob, VecReady (vs tagINT32 id) [31, 1, 2] none false (oa.regs ++ ob.regs) ∧ IsVec (vs tagINT32 id) 1 oa
      ∧ IsVec (vs tagINT32 id) 2 ob ∧ isSliced oa.tag = false ∧ oa.tag ≠ tagZP ∧ (VSrc.imm 0x8000).scalar = true
      ∧ (31 : VReg).toNat + ((vs tagINT32 id).sweep 0).vrows ≤ 32 ∧ 1 + ((vs tagINT32 id).sweep 0).vrows ≤ (31 : VReg).toNat
      ∧ ob.tag = tagINT32)
    ∧ ¬ ((1 : VReg).toNat + ((vs tagINT32 id).sweep 0).vrows ≤ (1 : VReg).toNat)
    ∧ acquireOk (vs tagINT32 id).ctx none false = true := by
  refine ⟨⟨_, _, witness_vecReady _ _ _ (by decide), ⟨_, rfl, rfl⟩, ⟨_, rfl, rfl⟩, rfl, by decide, rfl, by decide, by decide, rfl⟩,
    by decide, rfl⟩

/-- Hart 0 with b1 = a in a block with v1-v4 of a tag, under a katp. -/
def memS (t : Tag) (a katp : Word) : State :=
  (vs t fun c => { c with b := [(1, a)], blk := some { blk0 with cmd := { blk0.cmd with katp := katp } } }).mod fun v =>
    { v with katp := katp }

/-- The elements of a unit-stride access of that state. -/
def unitEls (t : Tag) (a : Word) : List MemElem :=
  memElems (memS t a 0).ctx ((memS t a 0).sweep 0) t a .unit

/-- Page tables at 0x1000000 that map page 0 alone, of Sv57 (R189): a table per level, and a leaf. -/
def pagedS (a : Word) : State :=
  [(0x1000000, 0x400401), (0x1001000, 0x400801), (0x1002000, 0x400C01), (0x1003000, 0x401001), (0x1004000, 0xC7)].foldl
    (fun s (e : Nat × Nat) => s.modPart fun p => p.putBytes e.1 (bytesOf (BitVec.ofNat 64 e.2) 8))
    (memS tagFP32 a 0xA000000000001000)

def pagedEls (a : Word) : List MemElem := memElems (pagedS a).ctx ((pagedS a).sweep 0) tagFP32 a .unit

/-- A copy of n bytes of two chunks of 256 bytes. -/
def copy0 (n : Nat) (chunks : Map Chunk) : Copy :=
  { id := 5, dst := 0x1000, src := 0x2000, len := n, code := 0, cb := 3, scope := .core, window := 0, katp := 0, mode := 1
    sum := false, qpos := 0, chunks := chunks }

/-- Hart 0 in a block with b1 at the start of the scratchpad of core 0, which an outstanding copy writes. -/
def chainS : State := (memS tagFP32 0xFFF80000000000 0).modCtx 0 fun c =>
  { c with copies := [{ copy0 256 [] with dst := 0xFFF80000000000 }] }

/-- Hart 0 in a block with b1 at an address of node 1, which it reaches. -/
def farMemS : State := (memS tagFP32 0x100000001000 0).modPart fun p => { p with portst := [(0, 0x8001000000000000)] }

/-- Elements of the unit-stride access of a state from b1 on. -/
def elsOf (s : State) : List MemElem := memElems s.ctx (s.sweep 0) tagFP32 (s.ctx.br 1) .unit

/-- What a probe gives satisfies p. -/
def probeWith (r : Except VStop (Pins × State)) (p : Pins → State → Bool) : Bool :=
  match r with
  | .ok (x, s) => p x s
  | .error _ => false

theorem witness_VectorLoads :
    VecReady (memS tagFP32 0x1000 0) [1] none false [] ∧ tagListed tagFP32 = true ∧ tagFP32 ≠ tagNONE
    ∧ ((memS tagFP32 0x1000 0).sweep 0).fits tagFP32 = true ∧ isSliced tagFP32 = false
    ∧ (∀ e ∈ unitEls tagFP32 0xFFC, e.va.toNat % e.n = 0)
    ∧ (pagesOf ((memS tagFP32 0xFFC 0).vecView 0).kspb (unitEls tagFP32 0xFFC)).length = 2
    ∧ probeWith ((memS tagFP32 0xFFC 0).probe ((memS tagFP32 0xFFC 0).vecView 0) .load
        (pagesOf ((memS tagFP32 0xFFC 0).vecView 0).kspb (unitEls tagFP32 0xFFC)) [])
        (fun p s => (unitEls tagFP32 0xFFC).all fun e => (List.range e.n).all fun i =>
          !s.vecPoison 0 (s.cell (pinnedPa ((memS tagFP32 0xFFC 0).vecView 0).kspb p e i)) 1) = true
    ∧ (memS tagFP32 0xFFC 0).failing ((memS tagFP32 0xFFC 0).vecView 0) .load (unitEls tagFP32 0xFFC) = []
    ∧ (memS tagFP32 0xFFC 0).chained 0 ((memS tagFP32 0xFFC 0).vecView 0) (unitEls tagFP32 0xFFC) = false
    ∧ (unitEls tagFP32 0x1001).find? (fun e => !aligned e.va e.n) ≠ none
    ∧ (((pagedS 0xFF8).failing ((pagedS 0xFF8).vecView 0) .load (pagedEls 0xFF8)).head?.any fun e => e.c == 2) = true
    ∧ sourceTag (memS tagUINT32 0 0).ctx ((memS tagUINT32 0 0).sweep 0) 1 = .ok tagUINT32
    ∧ (let s := (memS tagUINT32 0 0).modCtx 0 fun c => { c with v := [(1, 0xBFFC)] }
       s.ctx.elem (s.sweep 0).lanes tagUINT32 1 0 = 0xBFFC) := by
  refine ⟨⟨by decide, (fun _ e => by cases e), (by decide : (8 : W32) ≠ 0), rfl, fun _ _ e he => absurd he (List.not_mem_nil (a := e))⟩, rfl, by decide, rfl, rfl, by decide, by decide,
    by decide, by decide, by decide, by decide, by decide, rfl, by decide⟩

theorem witness_VectorLoads_waits :
    chainS.chained 0 (chainS.vecView 0) (elsOf chainS) = true
    ∧ (∃ p, chainS.probe (chainS.vecView 0) .load (pagesOf (chainS.vecView 0).kspb (elsOf chainS)) [] = .ok (p, chainS))
    ∧ chainS.ctx.step = 0 ∧ farMemS.ctx.step = 0 ∧ farMemS.ctx.answered = false
    ∧ (farMemS.modCtx 0 fun c => { c with answered := true }).ctx.answered = true
    ∧ probeWith (farMemS.probe (farMemS.vecView 0) .load (pagesOf (farMemS.vecView 0).kspb (elsOf farMemS)) [])
        (fun p s => (elsOf farMemS).any fun e => (List.range e.n).any fun i =>
          (s.paKind (pinnedPa (farMemS.vecView 0).kspb p e i)).isRemote) = true
    ∧ (let l := (pagedEls 0xFF8).filter fun e => decide (e.c < 2)
       probeWith ((pagedS 0xFF8).probe ((pagedS 0xFF8).vecView 0) .load (pagesOf ((pagedS 0xFF8).vecView 0).kspb l) [])
        (fun p s => l.all fun e => (List.range e.n).all fun i =>
          !s.vecPoison 0 (s.cell (pinnedPa ((pagedS 0xFF8).vecView 0).kspb p e i)) 1) = true) :=
  ⟨by decide, ⟨_, rfl⟩, by decide⟩

/-- The strip of hart 0 buffers a byte of HBM and one of the storage window. -/
def bufStrip : Strip := { buf := [(0x40, 1), (0xC0000000000, 2)], storage := [(0xC0000000000, ())] }
def bufferedS : State := ((memS tagFP32 0x1000 0).modPart fun p => { p with hlst := 0xC000000000000000 }).modCtx 0 fun c =>
  { c with strip := some bufStrip }

theorem witness_VectorStores_keys :
    bufferedS.part.hostLost = false
    ∧ (∀ st, bufferedS.ctx.strip = some st →
      (∀ e ∈ st.buf, (bufferedS.paKind (bufferedS.paOfCell e.1)).isMem = true ∧ bufferedS.cell (bufferedS.paOfCell e.1) = e.1)
      ∧ st.buf.Pairwise (fun e f => e.1 < f.1)
      ∧ (∀ e ∈ st.storage, bufferedS.paKind (bufferedS.paOfCell e.1) = .host ∧ bufferedS.cell (bufferedS.paOfCell e.1) = e.1)
      ∧ (st.isSealed = true → st.buf = []))
    ∧ bufferedS.ctx.step = 0
    ∧ (let s := (memS tagFP32 0x1000 0).modPart fun p => { p with trans := (transS true 0).part.trans }
       (s.seal 0).part.trans.any (fun tr => tr.write) = true)
    ∧ probeWith (farMemS.probe (farMemS.vecView 0) .amo (pagesOf (farMemS.vecView 0).kspb (elsOf farMemS)) [])
        (fun p s => (elsOf farMemS).any fun e => (List.range 4).any fun i =>
          (s.paKind (pinnedPa (farMemS.vecView 0).kspb p e i)).isRemote) = true := by
  refine ⟨rfl, ?_, by decide⟩
  intro st h
  obtain rfl : bufStrip = st := Option.some.inj h
  decide

theorem witness_VectorStores :
    VecReady (memS tagFP32 0x1000 0) [1] none false [] ∧ (memS tagFP32 0x1000 0).ctx.strip = none
    ∧ tst ((memS tagFP32 0x1000 0).towerAt 0).kheat 63 = false
    ∧ groupTag (memS tagFP32 0x1000 0).ctx ((memS tagFP32 0x1000 0).sweep 0) 1 = some tagFP32
    ∧ probeWith ((memS tagFP32 0xFFC 0).probe ((memS tagFP32 0xFFC 0).vecView 0) .store
        (pagesOf ((memS tagFP32 0xFFC 0).vecView 0).kspb (unitEls tagFP32 0xFFC)) []) (fun _ _ => true) = true
    ∧ (unitEls tagFP32 0x1002).find? (fun e => !aligned e.va e.n) ≠ none
    ∧ vamoTagOk .add tagFP32 = true ∧ (∀ e ∈ unitEls tagFP32 0xFFC, e.va.toNat % 4 = 0)
    ∧ ((unitEls tagFP32 0xFFC).map fun e => e.va.toNat).Nodup := by
  refine ⟨⟨by decide, (fun _ e => by cases e), (by decide : (8 : W32) ≠ 0), rfl, fun _ _ e he => absurd he (List.not_mem_nil (a := e))⟩, rfl, by decide, rfl, by decide, by decide, rfl,
    by decide, by decide⟩

/-- Hart 0 in a block with b1, b2 and b3 = 0x1000, 0x2000 and len, and the copies given. -/
def copyS (len : Word) (l : List Copy) : State := cs fun c => { c with b := [(1, 0x1000), (2, 0x2000), (3, len)], copies := l }

theorem witness_CopiesRun :
    [(copyS 0x100 []).ctx.br 1, (copyS 0x100 []).ctx.br 2, (copyS 0x100 []).ctx.br 3].find? (fun a => a.toNat % 256 != 0) = none
    ∧ [(copyS 0x101 []).ctx.br 1, (copyS 0x101 []).ctx.br 3].find? (fun a => a.toNat % 256 != 0) = some 0x101
    ∧ 2 ^ 31 < ((copyS 0x80000100 []).ctx.br 3).toNat ∧ ¬ 2 ^ 31 < ((copyS 0x80000000 []).ctx.br 3).toNat
    ∧ (copyS 0 []).ctx.slotsUsed < 16 ∧ 16 ≤ (copyS 0 (List.replicate 16 (copy0 512 []))).ctx.slotsUsed
    ∧ (vwaitingAt 0x9080400010000000 .copySlot).vwaitingIn .copySlot = some (.cpy 8 0 4 0 1 .core none)
    ∧ (vwaitingAt 0x9100000006000000 .cpyw).vwaitingIn .cpyw = some (.cpyw 0 6)
    ∧ (∀ c ∈ (copyS 0 []).ctx.copies, c.outstanding = false) ∧ (copy0 512 []).outstanding = true
    ∧ (copy0 512 [(0, { unwritten := 0, complete := true }), (1, { unwritten := 1, faulted := true })]).isHeld = true
    ∧ (let s := copyS 0 [copy0 512 []]
       (s.openChunk 0 5 1).isSome = true ∧ s.openChunk 0 5 2 = none ∧ s.inHbm 0x2100 256 = true ∧ s.inHbm 0x1100 256 = true
        ∧ tst (copy0 512 []).window 63 = false ∧ s.hart.live = true) := by decide

/-- A copy from the hole above HBM: its first sector fails. -/
def holeS (kcpfq : Word) : State :=
  (copyS 0 [{ copy0 256 [] with src := 0xC000000000 }]).mod fun v => { v with kcpfq := kcpfq }

theorem witness_CopiesRun_order :
    (let s := copyS 0 [copy0 512 []]
     (s.openChunk 0 5 1).isSome = true ∧ ((copy0 512 []).chunkAt 0).complete = false ∧ ((copy0 512 []).chunkAt 0).faulted = false
      ∧ (∀ tr ∈ s.part.trans, tr.asker ≠ .chunk 5 1) ∧ (copy0 512 []).snap = none)
    ∧ ((transS true 0 (.chunk 5 1)).part.trans.any fun tr => tr.write && tr.hart == 0 && tr.asker == .chunk 5 1 && !tr.storage)
      = true := by decide

theorem witness_CopiesRun_faults :
    (match (holeS 0x800000000000100C).openChunk 0 5 0 with
      | some (c, ch) =>
        let r := (holeS 0x800000000000100C).runChunk 0 c 0 ch
        r.fault.isSome && (holeS 0x800000000000100C).hart.live
          && ((holeS 0x800000000000100C).awaitedSource 0 c 0 ch).isNone && tst (holeS 0x800000000000100C).hart.kcpfq 63
          && r.s.ringOk (ringSlot (fld (holeS 0x800000000000100C).hart.kcpfq 12 44 * 0x1000)
            (fld (holeS 0x800000000000100C).hart.kcpfq 0 6) 64 0)
          && !tst (ofBytes 64 (r.s.devBytes (r.s.cell 0x1038) 8) : Word) 63
      | none => false) = true ∧ tst (holeS 0).hart.kcpfq 63 = false := by decide

/-- Hart 0 owns the array with clusters 0 and 1, tile z0 of a tag, a grant of m, n, k, and v8-v16 of a tag. -/
def arrayS (t : Tag) (zt : BitVec 6) (grant : Word) : State :=
  (vs t fun c => { c with kmtile := grant, b := [(1, 0x1000), (2, 8)] }).modCore 0 fun k =>
    { k with array := { owner := some 0, last := some 0 }, tiles := [(0, { tag := zt })] }

theorem witness_MatrixState :
    (let s := (cs id).modCore 0 fun k => { k with clusters := [(0, 0)], klpr := 0x0101 }
     s.ctx.waiting ≠ some .array ∧ (s.coreAt 0).array.owner ≠ some 0 ∧ s.minOf 0 0 = s.maxOf 0 0 ∧ 1 ≤ s.maxOf 0 0
      ∧ s.maxOf 0 0 ≤ (s.sweep 0).clusters.length ∧ (s.coreAt 0).array.owner = none ∧ (s.coreAt 0).array.waiting = []
      ∧ (s.coreAt 0).array.last ≠ some 0)
    ∧ (State.reset.minOf 0 0 ≠ State.reset.maxOf 0 0)
    ∧ ((arrayS tagFP32 tileF48 0).coreAt 0).array.owner = some 0
    ∧ (let s := State.reset.modCore 0 fun k => { k with array := { owner := none, last := none, waiting := [2] } }
       (s.coreAt 0).array.owner = none ∧ (s.coreAt 0).array.waiting = 2 :: [])
    ∧ (8 : VReg).toNat % 8 = 0 ∧ (vs tagFP32 id).ctx.tagAt (1 : VReg).toNat ≠ tagNONE ∧ tileTagOk tileF48 = true
    ∧ ((arrayS tagFP32 tileF48 0).ctx.shadow = true → (15 : ZReg).toNat < 16)
    ∧ (let s := arrayS tagFP32 tileF48 0x0000000100200001
       fld s.ctx.kmtile 16 16 ≤ 32 * (s.clusterSet 0).length ∧ (s.ctx.br 1).toNat % 8 = 0 ∧ (s.ctx.br 2).toNat % 8 = 0
        ∧ tst (s.towerAt (s.towerOf 0)).kheat 63 = false ∧ (s.tile 0 0).tag ≠ tagNONE ∧ s.ctx.strip = none
        ∧ probeWith (s.probe (s.vecView 0) .load (pagesOf (s.vecView 0).kspb [{ r := 0, c := 0, va := 0x1000, n := 8, sh := 0 }]) [])
          (fun _ _ => true) = true)
    ∧ (4 : Word).toNat % 8 ≠ 0
    ∧ (let s := (arrayS tagFP32 tileF48 0x0000000100010001).modPart fun p => { p with portst := [(0, 0x8001000000000000)] }
       let e : MemElem := { r := 0, c := 0, va := 0x100000001000, n := 8, sh := 0 }
       s.ctx.answered = false
        ∧ probeWith (s.probe (s.vecView 0) .load (pagesOf (s.vecView 0).kspb [e]) [])
          (fun p s1 => (s1.paKind (pinnedPa (s.vecView 0).kspb p e 7)).isRemote) = true) := by decide

/-- The same with v1 as A and v8-v15 as B in the format of a tag. -/
def mopS (t : Tag) (zt : BitVec 6) (grant : Word) : State :=
  (arrayS t zt grant).modCtx 0 fun c => { c with vtags := [(1, t), (8, t), (9, t), (10, t), (11, t), (12, t), (13, t), (14, t), (15, t)] }

theorem witness_MatrixCompute :
    (let s := mopS 0x29 tileINT48 0x0000000200200001
     mopPairing (s.ctx.tagAt 1) (s.ctx.tagAt 8) false = some tileINT48 ∧ s.ownsArray 0 = true ∧ s.tilePoison 0 0 (fun _ _ => true) = false
      ∧ (s.tile 0 0).tag = tileINT48 ∧ (8 : VReg).toNat % 8 = 0 ∧ (∀ i, i < 8 → s.ctx.tagAt (8 + i) = s.ctx.tagAt 8)
      ∧ 32 ≤ 32 * (s.sweep 0).clusters.length ∧ 1 * 2 ≤ (s.sweep 0).capacity (s.ctx.tagAt 1)
      ∧ 2 * 32 ≤ 8 * (s.sweep 0).capacity (s.ctx.tagAt 8) ∧ s.ctx.termUpset = false ∧ s.ctx.vpoison = [])
    ∧ (let s := mopS tagFP16 tileF48 0x0000000200040001
       mopPairing (s.ctx.tagAt 1) (s.ctx.tagAt 8) false = some tileF48 ∧ (s.tile 0 0).tag = tileF48
        ∧ 1 * 2 ≤ (s.sweep 0).capacity (s.ctx.tagAt 1) ∧ 2 * 4 ≤ 8 * (s.sweep 0).capacity (s.ctx.tagAt 8))
    ∧ mopPairing tagZP tagZP false = none
    ∧ drainTagOk tagFP32 = true ∧ ((mopS tagFP16 tileF48 0).sweep 0).fits tagFP32 = true
    ∧ 255 + ((mopS tagFP16 tileF48 0).sweep 0).vrows ≤ 256
    ∧ isInteger tagINT32 = true := by decide

theorem witness_MatrixCompute_fill : ∃ oa, VecReady (vs tagFP32 id) [1] none false oa.regs ∧ IsVec (vs tagFP32 id) 1 oa
    ∧ oa.tag = tagFP32 := ⟨_, witness_vecReady _ _ _ (by decide), ⟨_, rfl, rfl⟩, rfl⟩

/-- Hart 0 owns the stream unit with one cluster and primes [5, 7]: s1, s2 of one term each, of a kind, s3 and s4 empty. -/
def streamS (kind : BitVec 4) (order : BitVec 2) : State :=
  let d (base : Word) (count : W32) : Descriptor :=
    { base := base, cap := 4, count := count, valid := if kind = 0 then 0 else 1, kind := kind, order := order, layout := 0 }
  wordsAt 0x4000 8 [0, 2] (wordsAt 0x3000 8 [0, 3] (wordsAt 0x2000 4 [5, 7] ((vs tagFP32 fun c =>
    { c with b := [(1, 0x2000), (2, 4), (3, 1), (4, 0x8000)] }).modCore 0 fun k =>
      { k with stream := { owner := some 0, last := some 0 }, primes := [5, 7]
               descs := [(1, d 0x3000 1), (2, d 0x4000 1), (3, d 0x5000 0), (4, d 0x6000 0)] })))

theorem witness_StreamDescriptors :
    (State.reset.clusterSet 0 = [])
    ∧ (let s := streamS 1 0
       (s.coreAt 0).stream.owner = some 0 ∧ s.clusterSet 0 ≠ [] ∧ Map.find (s.coreAt 0).dpoison (1 : SReg).toNat = none
        ∧ fld (s.vecView 0).katp 60 4 = 0 ∧ (s.vecView 0).mode ≠ 0 ∧ tst (s.vecView 0).kspb 63 = false ∧ s.ctx.strip = none
        ∧ (s.ctx.br 1).toNat < 2 ^ 56 ∧ s.inHbm (s.ctx.br 1).toNat 64 = true ∧ s.anyPoison (s.cell 0x2000) 64 = false
        ∧ (s.ctx.br 1).toNat % 8 = 0 ∧ (s.ctx.br 2).toNat % 8 ≠ 0
        ∧ (let e := Descriptor.ofBytes (s.devBytes (s.cell 0x7000) 64)
           e.kind.toNat < 9 ∧ e.layout ≠ 3 ∧ e.count.toNat ≤ e.cap.toNat ∧ e.base.toNat % 8 = 0)
        ∧ (s.desc 0 1).valid.toNat < 2 ^ (s.desc 0 1).kind.toNat
        ∧ s.zpInFlight 0 = false ∧ ([5, 7].all fun p => p % 2 == 1 && decide (3 ≤ p) && decide (p < 2 ^ 31)) = true
        ∧ (s.desc 0 1).count.toNat ≤ fld (s.ctx.br 2) 0 32
        ∧ areasMeet 0x8000 160 0x3000 40 = false ∧ s.cell 0x3000 + 40 ≤ s.cell 0x8000
        ∧ (s.desc 0 3).count.toNat < (s.desc 0 3).cap.toNat ∧ (s.desc 0 3).count = 0 ∧ (s.desc 0 1).count ≠ 0
        ∧ (s.desc 0 1).kind.toNat ≤ (s.coreAt 0).primes.length ∧ (s.desc 0 1).gen = (s.coreAt 0).pgen
        ∧ s.imagesOk 0 1 (s.desc 0 1).valid = true ∧ inverseMod ((s.ctx.br 3).toNat % 5) 5 ≠ none)
    ∧ (let s := (streamS 1 0).modCore 0 fun k => { k with stream := { owner := some 2, last := some 2 } }
       (s.coreAt 0).stream.owner = some 2 ∧ (2 : Nat) ≠ s.cur)
    ∧ (let s := (streamS 1 0).modCore 0 fun k => { k with stream := { owner := none, last := none, waiting := [1] } }
       (s.coreAt 0).stream.owner = none ∧ (s.coreAt 0).stream.waiting = 1 :: [])
    ∧ (let s := (streamS 1 0).modCore 0 fun k => { k with stream := {} }
       (s.coreAt 0).stream.owner = none ∧ (s.coreAt 0).stream.waiting = [] ∧ s.clusterSet 0 ≠ [])
    ∧ (let s := streamS 0 2
       (s.desc 0 3).kind = 0 ∧ (s.ctx.br 0) = (s.ctx.br 0) ∧ fld (s.ctx.br 2) 0 31 ≠ 0)
    ∧ (vwaitingAt 0xA100000000000004 .primeDrain).vwaitingIn .primeDrain = some (.sprm 0 4)
    ∧ ¬ ((4 : Nat) % 2 = 1 ∧ 3 ≤ 4 ∧ 4 < 2 ^ 31) := by decide

/-- The terms of stream e of a state under the coefficients f. -/
def termsOfS (s : State) (f : Coeffs) (e : SReg) : List Term :=
  let d := s.desc 0 e
  (List.range d.count.toNat).map fun t => f.parse d.layout.toNat (s.devBytes (s.cell (d.base.toNat + t * recSize f.k)) (recSize f.k))

theorem witness_StreamSums :
    let s := streamS 1 0
    let f : Coeffs := { k := 1, primes := [5, 7], valid := 1 }
    (s.coreAt 0).stream.owner = some 0 ∧ s.clusterSet 0 ≠ [] ∧ fld (s.vecView 0).katp 60 4 = 0 ∧ (s.vecView 0).mode ≠ 0
    ∧ tst (s.vecView 0).kspb 63 = false ∧ s.ctx.strip = none ∧ (∀ p ∈ (s.coreAt 0).primes, 3 ≤ p ∧ p < 2 ^ 31)
    ∧ (∀ e ∈ ([1, 2] : List SReg), Map.find (s.coreAt 0).dpoison e.toNat = none ∧ (s.desc 0 e).base.toNat < 2 ^ 56
      ∧ s.inHbm (s.desc 0 e).base.toNat 40 = true ∧ s.anyPoison (s.cell (s.desc 0 e).base.toNat) 40 = false
      ∧ (s.desc 0 e).kind.toNat ≤ 8 ∧ (s.desc 0 e).gen = (s.coreAt 0).pgen ∧ (s.desc 0 e).kind.toNat ≤ (s.coreAt 0).primes.length)
    ∧ s.imagesOk 0 1 1 = true ∧ termsOfS s f 1 = [{ mono := (exponents 0 0), co := [3] }]
    ∧ termsOfS s f 2 = [{ mono := (exponents 0 0), co := [2] }] ∧ (s.desc 0 1).order ≠ 3
    ∧ fitsLayout 0 (monoMul (exponents 0 0) (exponents 0 0)) = true
    ∧ 2 ≤ (s.desc 0 3).cap.toNat ∧ (s.desc 0 3).part = false ∧ s.inHbm (s.desc 0 3).base.toNat 80 = true
    ∧ areasMeet (s.desc 0 3).base 160 (s.desc 0 1).base 40 = false ∧ areasMeet (s.desc 0 3).base 160 (s.desc 0 2).base 40 = false
    ∧ s.cell 0x4000 + 40 ≤ s.cell 0x5000 ∧ f.add [3] [2] = ([0], 0) ∧ termsOfS s f 3 = [] := by decide

theorem witness_StreamSums_cut :
    (streamS 1 0).ctx.preempt = none ∧ ((streamS 1 0).modCtx 0 fun c => { c with preempt := some 0 }).ctx.preempt = some 0
    ∧ (∀ p ∈ ((streamS 1 0).coreAt 0).primes, 3 ≤ p ∧ p < 2 ^ 31)
    ∧ (streamS 1 0).imagesOk 0 1 1 = true ∧ (streamS 1 0).imagesOk 0 1 0 = false
    ∧ (let f : Coeffs := { k := 1, primes := [5, 7], valid := 1 }
       f.isZero (f.add [3] [3]).1 = false ∧ monoLt 0 (exponents 0 0) (exponents 0 1) = true)
    ∧ (let s := streamS 1 0
       (s.coreAt 0).stream.owner = some 0 ∧ s.clusterSet 0 ≠ [] ∧ (s.desc 0 1).gen = (s.coreAt 0).pgen ∧ (s.desc 0 1).kind.toNat ≤ 2
        ∧ Map.find (s.coreAt 0).dpoison (1 : SReg).toNat = none
        ∧ s.anyPoison (s.cell 0x3000) 40 = false) := by decide

theorem witness_StreamTransforms_numbers :
    (∀ e ∈ [((2 : Nat), (5 : Nat)), (3, 7)], e.1 < e.2 ∧ 2 ≤ e.2)
    ∧ [((2 : Nat), (5 : Nat)), (3, 7)].Pairwise (fun a b => Nat.Coprime a.2 b.2)
    ∧ ¬ [((2 : Nat), (5 : Nat)), (3, 5)].Pairwise (fun a b => Nat.Coprime a.2 b.2)
    ∧ chinese [(2, 5), (3, 7)] = some (17, 35) ∧ rational 17 35 ≠ some (0, 0) ∧ (0 : Nat) < 17 ∧ (17 : Nat) < 35
    ∧ (35 : Nat) < 2 ^ 248 := by decide

theorem witness_StreamTransforms :
    (let s := streamS 1 0
     let f : Coeffs := { k := 1, primes := [5, 7], valid := 1 }
     f.k ≠ 0 ∧ (s.desc 0 1).order ≠ 3 ∧ 1 ≤ (1 : BitVec 4).toNat ∧ descRun 2 1 = [2] ∧ ([3, 4] : List SReg).Nodup
      ∧ (s.desc 0 3).part = false ∧ (s.desc 0 4).part = false ∧ areasMeet (s.desc 0 3).base 40 (s.desc 0 4).base 40 = false
      ∧ s.cell (s.desc 0 3).base.toNat + 40 ≤ s.cell (s.desc 0 4).base.toNat
      ∧ monoDivides (exponents 0 0) (exponents 0 0) = true ∧ inverseMod 2 5 ≠ none
      ∧ (s.ctx.br 4).toNat % 8 = 0 ∧ s.inHbm (s.ctx.br 4).toNat 48 = true ∧ s.cell 0x3000 + 40 ≤ s.cell 0x8000)
    ∧ (let s := streamS 0 3
       (s.desc 0 1).kind = 0 ∧ (s.desc 0 1).order = 3 ∧ (s.sweep 0).fits tagFP32 = true
        ∧ (s.ctx.br 4).toNat + (s.sweep 0).g ≤ 2 ^ 64 ∧ (s.sweep 0).g ≤ (s.sweep 0).vl * (s.sweep 0).vrows
        ∧ (s.desc 0 3).part = false ∧ s.inHbm (s.desc 0 3).base.toNat (16 * (s.sweep 0).g) = true)
    ∧ (∃ oa, VecReady (vs tagFP32 id) [1] none false oa.regs ∧ IsVec (vs tagFP32 id) 1 oa ∧ oa.tag = tagFP32) := by
  refine ⟨by decide, by decide, ⟨_, witness_vecReady _ _ _ (by decide), ⟨_, rfl, rfl⟩, rfl⟩⟩

/-- Core 0 leads the gang of its slab and the next one. -/
def gangedS : State := State.reset.modPart fun p => { p with
  hoist := (List.range 68).map fun k => if k = 0 then 0xC0000F00 else if k = 1 then 0xA004FF00 else p.hoist.getD k 0 }

theorem witness_GangsOfSlabs :
    State.reset.part.gangs = [] ∧ State.reset.nextHelm 0 = some 1 ∧ State.reset.slot 0 = some 0 ∧ State.reset.slot 1 = some 1
    ∧ State.reset.ganged 0 = false ∧ State.reset.dark 0 = false ∧ State.reset.ganged 1 = false ∧ State.reset.dark 1 = false
    ∧ fld (State.reset.hoistAt 1) 14 2 ≠ 3 ∧ fld (State.reset.hoistAt 1) 12 2 ≠ 3
    ∧ 0 ≤ 1 % 17 + fld (State.reset.hoistAt 1) 14 2 ∧ 1 % 17 + fld (State.reset.hoistAt 1) 14 2 ≤ 2
    ∧ gangedS.ganged 0 = true ∧ gangedS.dark 1 = true ∧ gangedS.slot 0 = some 0 ∧ gangedS.slot 1 = some 1
    ∧ State.reset.part.power = true ∧ tst State.reset.part.kbist 63 = true
    ∧ tst (State.reset.modPart fun p => { p with kbist := 0 }).part.kbist 63 = false
    ∧ (let g : GangChange := { form := true, leader := 0, dark := 1, caller := 0 }
       let s := State.reset.modPart fun p => { p with gangs := [g] }
       s.part.gangs = [] ++ g :: [] ∧ s.gangReady g = true ∧ (cs id).gangReady g = false
        ∧ (∀ a k b, ([] : List GangChange) = a ++ k :: b → False))
    ∧ tst (gangedS.hoistAt 1) 29 = true ∧ gangedS.leaderOf (fld (gangedS.hoistAt 1) 18 6) = some 0
    ∧ State.reset.helmIdle 0 = true ∧ State.reset.helmIdle 1 = true ∧ (State.reset.coreAt 0).stalled = []
    ∧ (cs id).helmIdle 0 = false := by
  refine ⟨rfl, by decide, by decide, by decide, by decide, by decide, by decide, by decide, by decide, by decide, by decide, by decide,
    by decide, by decide, by decide, by decide, rfl, by decide, by decide, ⟨rfl, by decide, by decide, by simp⟩, by decide, by decide,
    by decide, by decide, by decide, by decide⟩

theorem witness_UnitsRetired :
    State.reset.canRetire (.cluster 0 7) = true ∧ State.reset.canRetire (.cluster 0 200) = false
    ∧ State.reset.retireReady (.helm 1) = true
    ∧ ((State.reset.modPart fun p => { p with retiring := [.cluster 0 7] }).part.retiring = [.cluster 0 7])
    ∧ (cs id).retireReady (.cluster 0 7) = false
    ∧ (let s : State := { State.reset with towers := [(0, { kheat := 0x800000000000100C, tlb := [{ vpn := 1, level := 0, asid := 0, pte := 0, unitCnt := 0x1000000 }] })] }
       (s.towerAt 0).tlb[0]?.isSome = true ∧ tst (s.towerAt 0).kheat 63 = true ∧ s.paKind 0x1000 = .hbm
        ∧ tst (ofBytes 64 (s.devBytes (s.cell 0x1018) 8) : Word) 63 = false
        ∧ ((s.towerAt 0).tlb[0]?.any fun e => decide (2 ^ 24 ≤ max e.unitCnt (max e.strided e.indexed))) = true)
    ∧ (State.reset.hartAt 0).live = true ∧ State.reset.enabled 63 = true := by decide

/-- Sixteen corrected errors in the row of address 0, and n spares of its bank used. -/
def wornS (n : Nat) : State := State.reset.modPart fun p => { p with
  rowErrors := [(Config.rowOf 0, List.replicate 16 0)], rowsUsed := [(Config.bankOf 0, n)] }

theorem witness_UnitsRetired_rows :
    max 1 ((none : Option Nat).getD 16) ≤ ((Map.get [] (wornS 8).part.rowErrors (Config.rowOf 0)).filter fun k => decide (((wornS 8).coreAt 0).hcycle.toNat < k + 2 ^ 32)).length
    ∧ Map.get 0 (wornS 8).part.rowsUsed (Config.bankOf 0) = 8 ∧ Map.get 0 (wornS 7).part.rowsUsed (Config.bankOf 0) = 7
    ∧ (0xBFFFFFFFFF : BitVec 44).toNat < 0xC000000000 ∧ (0xC000000000 : BitVec 44).toNat = 0xC000000000 := by
  refine ⟨?_, ?_, ?_, by decide, by decide⟩
  · have h : Map.get [] (wornS 8).part.rowErrors (Config.rowOf 0) = List.replicate 16 0 := by
      simp [wornS, State.modPart, Map.get]
    rw [h]
    decide
  all_goals simp [wornS, State.modPart, Map.get]

theorem witness_UnitsRetired_units :
    State.reset.enabled 0 = true ∧ State.reset.dark 0 = false ∧ State.reset.ganged 0 = false ∧ 63 / 8 ∉ (State.reset.coreAt 0).lanesOut
    ∧ State.reset.sparesCore0 3 17 true = true ∧ (3, 17, true) ∉ State.reset.part.dead
    ∧ (State.reset.coreAt 63).ccOut = false ∧ State.reset.canRetire (.helm 0) = false ∧ State.reset.canRetire (.helm 63) = true
    ∧ (State.reset.hartAt 0).live = true
    ∧ ((linkedS.modCore 0 fun k => { k with junction := [{ line := 1, bytes := [(0, 2)] }] }).junction 0).length = 1
    ∧ (jByte [{ line := 1, bytes := [(0, 2)] }] 64).isSome = true ∧ bufferedS.ctx.strip.isSome = true
    ∧ (Map.find bufStrip.buf 0x40).isSome = true ∧ (hs fun v => { v with queue := [cmd0] }).hart.queue[0]? = some cmd0 := by decide

/-- The part at the start of phase n. -/
def phaseS (n : Nat) : State := State.reset.modPart fun p => { p with kbist := BitVec.ofNat 64 (n * 2 ^ 59) }

theorem witness_BringUp :
    (State.reset.modPart fun p => { p with power := false }).part.cut = false
    ∧ (State.reset.modPart fun p => { p with power := false }).part.power = false
    ∧ (phaseS 1).atPhase 1 = true ∧ (phaseS 2).atPhase 2 = true ∧ (phaseS 3).atPhase 3 = true ∧ (phaseS 4).atPhase 4 = true
    ∧ State.reset.part.power = true ∧ tst State.reset.part.kbist 62 = false
    ∧ tst (State.reset.modPart fun p => { p with kbist := 0x4800050000000000 }).part.kbist 62 = true
    ∧ (State.reset.modPart fun p => { p with cut := true }).part.cut = true
    ∧ (phaseS 0).atPhase 0 = true ∧ ([(1, [[0]]), (2, [[1]])].map fun (e : Nat × List (List Nat)) => e.1).Nodup
    ∧ (phaseS 2).part.dead = [] ∧ (phaseS 2).part.deadHelms = [] ∧ (phaseS 2).part.deadControl = []
    ∧ (phaseS 3).part.flash.secVer ≤ (phaseS 3).part.minSec ∧ (phaseS 3).part.flash.malformed = false
    ∧ State.reset.ready = true ∧ 1 ≤ (8 : BitVec 4).toNat ∧ (8 : BitVec 4).toNat ≤ 8 ∧ fld State.reset.part.pwr 60 4 = 8
    ∧ fld State.reset.part.pwr 60 4 ≠ (1 : BitVec 4).toNat := by decide

theorem witness_LinksAct :
    (State.reset.modPart fun p => { p with portst := [(0, 0x8001000000000000)] }).paKind 0x100000001000 = .remote 1
    ∧ ((transS true 2).part.trans.find? fun y => y.id == 0).any (fun x => decide (x.tries < 3)) = true
    ∧ ((transS false 3).part.trans.find? fun y => y.id == 0 && !y.storage).any (fun x => decide (3 ≤ x.tries)) = true
    ∧ ((State.reset.part.trans.find? fun y => y.id == 0 && !y.storage) = none)
    ∧ State.reset.paKind 0x100000001000 = .bad
    ∧ (hs fun v => { v with wait := some .remote }).hart.wait = some .remote
    ∧ (cs fun c => { c with waiting := some (.remote true) }).ctx.waiting = some (.remote true)
    ∧ tst ((State.reset.modCore 0 fun k => { k with kbecalm := 0x8000000000000000 }).coreAt 0).kbecalm 63 = true
    ∧ ((copyS 0 [copy0 512 []]).ctx.copies.find? fun c => c.id == 5) = some (copy0 512 [])
    ∧ ((copy0 512 []).chunkAt 1).complete = false
    ∧ ((copy0 512 [(1, { unwritten := 0, complete := true })]).chunkAt 1).complete = true
    ∧ linkedS.hostUp = true ∧ State.reset.hostUp = false
    ∧ linkedS.paKind (0xFFF * 2 ^ 44 + 0xA0000000068) = .kwin 0 0x68 ∧ 0x68 % 8 = 0 ∧ 0x68 / 8 ∈ kregNumbers
    ∧ linkedS.paKind (0xFFF * 2 ^ 44 + 0xA0000007FF8) = .kwin 0 0x7FF8 ∧ 0x7FF8 / 8 ∉ kregNumbers
    ∧ (State.reset.hartAt 0).live = true ∧ (127 : Nat) < 128
    ∧ Map.get 0 State.reset.part.spares 0 < 2 ∧ ¬ Map.get 0 (State.reset.modPart fun p => { p with spares := [(0, 2)] }).part.spares 0 < 2
    ∧ tst (Map.get 0 State.reset.part.portst 127) 63 = false ∧ State.reset.ready = true
    ∧ (0xBFFFFFFFF8 : BitVec 44).toNat + 8 ≤ 0xC000000000 ∧ (phaseS 4).ready = false
    ∧ (let s := State.reset.modPart fun p => { p with hlst := 0xC000000000000000 }
       tst s.part.hlst 63 = true ∧ tst s.part.hlst 62 = true ∧ s.part.power = true)
    ∧ (4 : BitVec 3).toNat ≤ 4 ∧ (6 : BitVec 3) ≠ 7 ∧ (phaseS 3).isDone = false := by decide

/-- The link is up, and hart 1 has a store to the top line of the host window in its junction buffer. -/
def hostStoreS : State :=
  ((State.reset.modPart fun p => { p with hlst := 0xC000000000000000 }).modHart 1 fun v => { v with live := true }).modCore 0
    fun k => { k with junction := [{ line := 0x3FFFFFFFFF, bytes := [(0, 1)], hart := 1 }, { line := 1, bytes := [(0, 2)] }] }

theorem witness_LinksAct_lost : tst hostStoreS.part.hlst 63 = true ∧ (hostStoreS.hartAt 1).live = true
    ∧ (hostStoreS.junction (coreOf 1)).any (fun l => l.hart == 1 && inHostWindow (64 * l.line)) = true
    ∧ (hostStoreS.junction (coreOf 2)).any (fun l => l.hart == 2) = false := by decide

/-- Core 0 becalmed, with kdump. -/
def becalmedS (kdump : Word) : State := State.reset.modCore 0 fun k =>
  { k with kbecalm := 0x8000000000000000, kdump := kdump }

/-- Two writes of hart 0 to one cell of node 1, and a storage write of hart 1. -/
def pendingS : State := (hostStoreS.modPart fun p => { p with
  trans := [{ id := 0, hart := 0, write := true, pa := 0x100000001000, data := [1] },
    { id := 1, hart := 0, write := true, pa := 0x100000001000, data := [2] },
    { id := 2, hart := 1, write := true, pa := 0xFFFC0000000000, data := [3], storage := true }], nextTid := 3 })

theorem witness_LinksAct_order :
    (∃ u ∈ pendingS.part.trans, u.id < 1 ∧ u.write = true ∧ pendingS.cell 0x100000001000 < pendingS.cell u.pa + u.data.length
      ∧ pendingS.cell u.pa < pendingS.cell 0x100000001000 + 1)
    ∧ (∀ u ∈ pendingS.part.trans, ¬ u.id < 0)
    ∧ (∀ x ∈ pendingS.part.trans, x.storage = true → x.write = true ∧ 0xC0000000000 ≤ x.pa % 2 ^ 44)
    ∧ (pendingS.part.trans.find? fun y => y.storage).any (fun y => y.id == 2) = true := by decide

theorem witness_ManagementActs :
    State.reset.part.power = true ∧ State.reset.isDone = true ∧ (phaseS 2).isDone = false ∧ (phaseS 2).part.power = true
    ∧ State.reset.enabled 63 = true ∧ State.reset.isBecalmed 63 = false ∧ (becalmedS 0).isBecalmed 0 = true
    ∧ tst ((becalmedS 0).coreAt 0).kbecalm 61 = false ∧ tst ((becalmedS 0).coreAt 0).kdump 63 = false
    ∧ tst ((State.reset.modCore 0 fun k => { k with kbecalm := 0xA000000000000000 }).coreAt 0).kbecalm 61 = true
    ∧ State.reset.ready = true ∧ (phaseS 3).ready = false ∧ State.reset.paKind 0x100000 = .hbm
    ∧ (State.reset.modPart fun p => { p with power := false }).part.power = false
    ∧ tst ((becalmedS 0x8000000000100010).coreAt 0).kdump 63 = true ∧ State.reset.isLocal 0x100000 = true
    ∧ (∀ j, j < 4 → (State.reset.hartAt (4 * 1 + j)).live = false) := by decide

/-! ### Witnesses of the clauses about poison, lost data, waits and pennants -/

/-- A step of hart 0 with its word on node 1, which it reaches, and the data here or not. -/
def farFetchC (answered : Bool) : State :=
  wordsAt ((farS id).cell 0x100000001000) 4 [0x04221800]
    (farS fun v => { v with pc := 0x100000001000, answered := answered, wait := if answered then some .fetch else none })

theorem witness_StepRunsC_remote : ∃ (s s0 s1 : State) (x : Xlat), s.isDead = false ∧ s.nextMove = some (.ctl 0, s0)
    ∧ (s0.turn 0).beforeFetch = none ∧ (s0.turn 0).heldC = none ∧ (s0.turn 0).pc.toNat % 4 = 0
    ∧ (s0.turn 0).translate ((s0.turn 0).scalarView 0) .fetch (s0.turn 0).pc PaKind.isMem = .ok (x, s1)
    ∧ (s1.paKind x.pa).isRemote = true ∧ (s0.turn 0).hart.answered = false :=
  ⟨farFetchC false, _, _, _, rfl, rfl, rfl, rfl, rfl, rfl, rfl, rfl⟩

theorem witness_StepRunsC_come : ∃ (s s0 s1 : State) (x : Xlat), s.isDead = false ∧ s.nextMove = some (.ctl 0, s0)
    ∧ (s0.turn 0).beforeFetch = none ∧ (s0.turn 0).heldC = none ∧ (s0.turn 0).pc.toNat % 4 = 0
    ∧ (s0.turn 0).translate ((s0.turn 0).scalarView 0) .fetch (s0.turn 0).pc PaKind.isMem = .ok (x, s1)
    ∧ (s1.paKind x.pa).isRemote = true ∧ (s0.turn 0).hart.answered = true
    ∧ s1.scalarPoison (coreOf 0) (s1.cell x.pa) 4 = false
    ∧ (decodeC (ofBytes 32 (s1.scalarBytes (coreOf 0) (s1.cell x.pa) 4))).toOption.isSome = true :=
  ⟨farFetchC true, _, _, _, rfl, rfl, rfl, rfl, rfl, rfl, rfl, rfl, rfl, by decide⟩

theorem witness_StepRunsC_held : ∃ (s s0 : State) (t : State), s.isDead = false ∧ s.nextMove = some (.ctl 0, s0)
    ∧ (s0.turn 0).beforeFetch = none ∧ (s0.turn 0).hart.wait = some .gwait ∧ (s0.turn 0).hart.issued = some (.gwait 9)
    ∧ exec (.gwait 9) (s0.turn 0).endSuppression = .next t :=
  ⟨(waitingAt 0x8C090002 .gwait).mod fun v => { v with kgang := 0x4100000000000000, kgbar := 0x100 }, _, _, rfl, rfl, rfl, rfl, rfl, rfl⟩

/-- A step of the context of hart 0 with its word on node 1, and the data here or not. -/
def farFetchV (answered : Bool) : State :=
  let s := wordsAt ((farS id).cell 0x100000001000) 8 [0x0281010000000080] (farS id)
  { s.modCtx 0 fun c => { c with blk := some { blk0 with pc := 0x100000001000 }, answered := answered
                                 waiting := if answered then some .fetch else none } with rr := (placedV).rr, agenda := placedV.agenda }

theorem witness_StepRunsV_remote : ∃ (s s0 s1 : State) (x : Xlat), s.isDead = false ∧ s.nextMove = some (.vec 0, s0)
    ∧ (s0.turn 0).beforeWord = none ∧ (s0.turn 0).heldV = none
    ∧ (s0.turn 0).translate ((s0.turn 0).vecView 0) .fetch ((s0.turn 0).bpc 0) PaKind.isMem = .ok (x, s1)
    ∧ (s1.paKind x.pa).isRemote = true ∧ (s0.turn 0).ctx.answered = false :=
  ⟨farFetchV false, _, _, _, rfl, rfl, rfl, rfl, rfl, rfl, rfl⟩

theorem witness_StepRunsV_come : ∃ (s s0 s1 : State) (x : Xlat), s.isDead = false ∧ s.nextMove = some (.vec 0, s0)
    ∧ (s0.turn 0).beforeWord = none ∧ (s0.turn 0).heldV = none
    ∧ (s0.turn 0).translate ((s0.turn 0).vecView 0) .fetch ((s0.turn 0).bpc 0) PaKind.isMem = .ok (x, s1)
    ∧ (s1.paKind x.pa).isRemote = true ∧ (s0.turn 0).ctx.answered = true
    ∧ s1.vecPoison 0 (s1.cell x.pa) 8 = false
    ∧ (decodeV (ofBytes 64 (s1.vecBytes 0 (s1.cell x.pa) 8))).toOption.isSome = true :=
  ⟨farFetchV true, _, _, _, rfl, rfl, rfl, rfl, rfl, rfl, rfl, rfl, by decide⟩

theorem witness_StepRunsV_consumes : ∃ u t : State, (1 : BReg) ∈ bReads (.badd 8 1 (.imm 128)) ∧ BPoisoned u 1
    ∧ exec (.badd 8 1 (.imm 128)) u = .next t ∧ u.faultsBare t = false ∧ t.ctx.waiting = none :=
  ⟨placedV.modCtx 0 fun c => { c with bpoison := [(1, ())] }, _, by decide, rfl, rfl, by decide, rfl⟩

theorem witness_StepRunsV_bare : ∃ u t : State, (1 : BReg) ∈ bReads (.vreply 1) ∧ BPoisoned u 1
    ∧ exec (.vreply 1) u = .next t ∧ u.faultsBare t = true := by
  refine ⟨cs fun c => { c with bpoison := [(1, ())], blk := some { blk0 with sent := 2 } }, _, by decide, rfl, rfl, ?_⟩
  simp only [State.faultsBare, Bool.and_eq_true, Bool.or_eq_true, decide_eq_true_eq]
  exact ⟨⟨⟨⟨rfl, rfl⟩, rfl⟩, .inl rfl⟩, rfl⟩

theorem witness_StepRunsV_held : ∃ (s s0 : State), s.isDead = false ∧ s.nextMove = some (.vec 0, s0)
    ∧ (s0.turn 0).beforeWord = none ∧ (s0.turn 0).ctx.waiting = some .cpyw ∧ (s0.turn 0).ctx.issued = some (.cpyw 0 6)
    ∧ (∀ r ∈ bReads (.cpyw 0 6), ¬ (Map.find (s0.turn 0).ctx.bpoison r.toNat).isSome = true) :=
  ⟨vwaitingAt 0x9100000006000000 .cpyw, _, rfl, rfl, rfl, rfl, rfl, by decide⟩

theorem witness_DrainsAndFences_core : (2 ^ 32 : Nat) ∈ (hs fun v => { v with owed := [2 ^ 32] }).hart.owed
    ∧ (∃ l ∈ storageLine.junction 0, l.line ∈ (storageLine.mod fun v => { v with owed := [1] }).hart.owed)
    ∧ (∀ e ∈ ([(0, 2)] : Map Byte), Map.find (Map.erase [(0, ())] 0) e.1 = none)
    ∧ (∀ e ∈ ([(0, 1)] : Map Byte), Map.find ([(0, ())] : Map Unit) e.1 ≠ none) := by decide

theorem witness_RepliesAndSync_poison :
    (Map.find (hs fun v => { v with replies := [7] }).hart.replyBad 0).isSome = false
    ∧ (Map.find (hs fun v => { v with replies := [7, 8], replyBad := [(0, ())] }).hart.replyBad 0).isSome = true := by decide

/-- Hart 4 in a gang with hart 0, its barrier word at 0x100, with an arrival of its own or not. -/
def departS (pend : Bool) : State :=
  let g := fun v : Hart => { v with kgang := 0x4100000000000000, gang := 1, kgbar := 0x100 }
  { State.reset with
    harts := [(0, g resetHart0), (4, (fun v => { v with kgang := putBit v.kgang 42 pend }) (g { live := true }))], cur := 4 }

theorem witness_HartsLeave_gang : (∀ p, (departS p).hart.pendBit = p) ∧ (∀ p, (departS p).hart.inGang = true)
    ∧ (departS false).scalarPoison 1 ((departS false).cell 0x100) 8 = false
    ∧ ((departS false).gangOf 4).filter (fun j => j != 4) = [0]
    ∧ (let s := wordsAt 0x100 8 [1] (departS false)
       let old : Word := ofBytes 64 (s.devBytes (s.cell 0x100) 8)
       0 < fld old 0 32 ∧ 1 ≤ fld old 0 32 - 0)
    ∧ coreOf 0 = coreOf State.reset.cur ∧ (armed.hart.monitor ≠ none) := by decide

theorem witness_GangBarrier_poison :
    let s := (gangS 2 0x100 id).modPart fun p => { p with poison := [(0x107, ())] }
    s.hart.inGang = true ∧ s.inHbm 0x100 8 = true ∧ s.scalarPoison 0 (s.cell 0x100) 8 = true := by decide

/-- A page of an ITLB, and a copy of hart 0 of which a chunk under way is read through it. -/
def pinS : State :=
  let e : TlbEntry := { vpn := 2, level := 0, asid := 0, pte := 0 }
  (copyS 0 [{ copy0 256 [(0, { unwritten := 1, pas := [0x1000] })] with katp := 0xA000000000001000 }]).modCore 0 fun k => { k with helmTlb := [e] }

theorem witness_SystemInstructions_sinval :
    (State.reset.release .dev).chunksUsing ((State.reset.release .dev).removedEntries none none) = []
    ∧ (pinS.release .dev).chunksUsing ((pinS.release .dev).removedEntries none none) ≠ []
    ∧ pinS.chunkOpen (0, 5, 0) = true ∧ State.reset.chunkOpen (0, 5, 0) = false
    ∧ (hs fun v => { v with wait := some .sinval, pins := [(0, 5, 0)] }).hart.wait = some .sinval := by decide

theorem witness_VdispEnqueues_owed :
    (let s := (hs fun v => { v with queue := [cmd0], owed := [1] })
     (∀ l ∈ s.hart.owed, ((s.junction 0).any fun m => m.line == l) = false) ∧ s.canStart 0 = true) := by decide

/-- Hart 0 with an image at 0x10000 of another version, or of three clusters. -/
def refusedS (version held : Word) : State := wordsAt 0x10000 8 [version, 0x3000, held] State.reset

theorem witness_ContextImages_refused :
    (refusedS 2 0).imageRefused 0 0x10000 = true ∧ (refusedS 1 9).imageRefused 0 0x10000 = true
    ∧ (refusedS 2 0).inHbm 0x10000 0x1000 = true ∧ (refusedS 2 0).ctxEmpty 0 = true
    ∧ (let s := wordsAt 0x10000 8 [1, 0xC000000000, 0] State.reset
       s.imageRefused 0 0x10000 = false ∧ s.inHbm 0x10000 0x1000 = true
        ∧ s.inHbm 0x10000 (s.headerWord 0x10000 8).toNat = false)
    ∧ (let s := savedS.mod fun v => { v with scalar := true }
       s.hart.scalar = true ∧ s.imageRefused 0 0x10000 = false ∧ s.imagePoison 0x10000 0x3000 = false)
    ∧ (hs fun v => { v with wait := some .kctxr }).hart.wait = some .kctxr := by decide

/-- Hart 0 in a strip that has buffered nothing, with kpenc and a ring of 64 records at 0x100000. -/
def strip0 : Strip := {}
def pennantS (kpenc : Word) : State :=
  (cs fun c => { c with strip := some strip0 }).mod fun v => { v with kpenc := kpenc, kpen := 0x10000C }

theorem witness_BlockEnds_pennant :
    (pennantS 0).ctx.strip = some strip0 ∧ strip0.drained = strip0
    ∧ tst (pennantS 0).hart.kpenc 63 = false ∧ tst (pennantS 0x8000000000000000).hart.kpenc 63 = true
    ∧ (pennantS 0x800000000000003F).paKind (0x100000 + 64 * 63) = .hbm ∧ (pennantS 0).cur < 2 ^ 16
    ∧ fld (pennantS 0).hart.kpen 12 44 * 0x1000 / 2 ^ 12 * 2 ^ 12 = 0x100000
    ∧ (0x3F + 2 ^ 24 - 0) % 2 ^ 24 < 2 ^ (fld (pennantS 0).hart.kpen 0 6 - 6)
    ∧ ¬ (fld (0xFF00000000000040 : Word) 0 24 + 2 ^ 24 - fld (0xFF00000000000040 : Word) 24 24) % 2 ^ 24
      < 2 ^ (fld (pennantS 0).hart.kpen 0 6 - 6) := by decide

theorem witness_StripsOpen_owner :
    (let s := (cs (bs [(1, 0)])).modCore 0 fun k =>
       { k with clusters := [(0, 0)], klpr := 0x0101, array := { owner := some 0, last := some 0 } }
     (s.coreAt 0).array.owner = some s.cur ∧ (s.ctx.br 1).toNat = 0 ∧ s.ctx.waiting ≠ some .clusters ∧ (s.coreAt 0).stalled = [])
    ∧ (pennantS 0).ctx.strip = some strip0 ∧ strip0.drained = strip0 := by decide

theorem witness_StripsOpen_consume :
    (strip0.isSealed = false ∧ strip0.rewinds < 3) ∧ (pennantS 0).ctx.strip = some strip0
    ∧ (let st : Strip := { rewinds := 3 }
       (cs fun c => { c with strip := some st }).ctx.strip = some st ∧ ¬ (st.isSealed = false ∧ st.rewinds < 3))
    ∧ (let st : Strip := { isSealed := true }
       (cs fun c => { c with strip := some st }).ctx.strip = some st ∧ ¬ (st.isSealed = false ∧ st.rewinds < 3))
    ∧ (cs id).ctx.strip = none ∧ (cs id).ctx.copying = false ∧ (cs fun c => { c with copies := [copy0 256 []] }).ctx.copying = true
    ∧ tst ((State.reset.modCore 0 fun k => { k with kbecalm := 0x4000000000000000 }).coreAt 0).kbecalm 62 = true := by decide

/-- The word of hart 0 at an address of node 1, whose data are lost. -/
def lostMemS : State := farMemS.modCtx 0 fun c => { c with answered := true, lost := true }

theorem witness_VectorLoads_lost :
    lostMemS.ctx.answered = true ∧ lostMemS.ctx.lost = true ∧ lostMemS.ctx.step = 0
    ∧ probeWith (lostMemS.probe (lostMemS.vecView 0) .load (pagesOf (lostMemS.vecView 0).kspb (elsOf lostMemS)) [])
        (fun p s => (s.remoteByte (lostMemS.vecView 0).kspb p (elsOf lostMemS)).isSome) = true
    ∧ ((lostMemS.firstFailing 0 (lostMemS.vecView 0) (elsOf lostMemS)).any fun e => e.c == 0) = true := by decide

/-- The tables of `pagedS` with page 1 on node 1, whose data are lost, and b1 two elements below it. -/
def trimS : State := ((pagedS 0xFF8).modPart fun p =>
  { (p.putBytes 0x1004008 (bytesOf (0x400000004C7 : Word) 8)) with portst := [(0, 0x8001000000000000)] }).modCtx 0 fun c =>
    { c with answered := true, lost := true }

theorem witness_VectorLoads_trims :
    ((trimS.firstFailing 0 (trimS.vecView 0) (elsOf trimS)).any fun e => e.r * 8 + e.c == 2) = true
    ∧ trimS.failing (trimS.vecView 0) .load (elsOf trimS) = []
    ∧ (let l := (elsOf trimS).filter fun e => decide (e.c < 2)
       probeWith (trimS.probe (trimS.vecView 0) .load (pagesOf (trimS.vecView 0).kspb l) [])
        (fun p s => l.all fun e => (List.range e.n).all fun i =>
          !(s.paKind (pinnedPa (trimS.vecView 0).kspb p e i)).isRemote
            && !s.vecPoison 0 (s.cell (pinnedPa (trimS.vecView 0).kspb p e i)) 1) = true) := by decide

/-- The first word of a page of IO memory through the tables of `pagedS`. -/
def ioS : State := (pagedS 0).modPart fun p => p.putBytes 0x1004000 (bytesOf (0x40000000000000C7 : Word) 8)

theorem witness_VectorStores_io :
    probeWith (ioS.probe (ioS.vecView 0) .store (pagesOf (ioS.vecView 0).kspb (pagedEls 0)) [])
      (fun p _ => p.any fun e => e.2.pbmt == 2) = true := by decide

theorem witness_MatrixState_lost :
    (let s := (arrayS tagFP32 tileF48 0x0000000100010001).modPart fun p => { p with portst := [(0, 0x8001000000000000)] }
     let e : MemElem := { r := 0, c := 0, va := 0x100000001000, n := 8, sh := 0 }
     probeWith (s.probe (s.vecView 0) .load (pagesOf (s.vecView 0).kspb [e]) [])
       (fun p s1 => (s1.remoteByte (s.vecView 0).kspb p [e]).isSome) = true) := by decide

theorem witness_GangsOfSlabs_stands :
    (let i := 0; let j := 1
     State.reset.slot 0 = some i ∧ State.reset.slot 1 = some j ∧ State.reset.nextHelm 0 = some 1
      ∧ (∀ k ∈ [i, j], tst (State.reset.hoistAt k) 30 = false ∧ tst (State.reset.hoistAt k) 29 = false)
      ∧ (∀ at_ ∈ [14, 12], fld (State.reset.hoistAt j) at_ 2 ≠ 3 ∧ i % 17 ≤ j % 17 + fld (State.reset.hoistAt j) at_ 2
        ∧ j % 17 + fld (State.reset.hoistAt j) at_ 2 ≤ i % 17 + 2 ∧ j % 17 + fld (State.reset.hoistAt j) at_ 2 ≤ 17))
    ∧ tst (gangedS.hoistAt 0) 30 = true ∧ tst (gangedS.hoistAt 1) 29 = true ∧ gangedS.nextHelm 0 = some 1
    ∧ tst (State.reset.hoistAt 0) 30 = false ∧ State.reset.gangReady { form := false, leader := 0, dark := 1, caller := 0 } = true
    ∧ ({ form := false, leader := 0, dark := 1, caller := 0 } : GangChange).form ≠ true := by decide

/-- Hart 0 waits for the word at its pc, and its context for that of its block, from node 1. -/
def fetchS (tries : Nat) (k : Asker) : State :=
  ((transS false tries k).mod fun v => { v with wait := some .fetch }).modCtx 0 fun c =>
    { c with blk := some blk0, waiting := some .fetch }

theorem witness_LinksAct_fetch :
    (fetchS 3 .fetch).hart.wait = some .fetch ∧ (fetchS 3 .vfetch).ctx.waiting = some .fetch
    ∧ ((fetchS 3 .fetch).part.trans.find? fun y => y.id == 0 && !y.storage).any (fun x => x.asker == .fetch && decide (3 ≤ x.tries))
      = true
    ∧ (fetchS 3 .fetch).isBecalmed 0 = false ∧ (fetchS 3 .fetch).hart.live = true
    ∧ (∃ op vd base off vi t o m, (cs fun c => { c with issued := some (.vamo .add 6 3 0 7 4 .plain plain) }).ctx.issued
        = some (.vamo op vd base off vi t o m))
    ∧ (∀ op vd base off vi t o m, State.reset.ctx.issued ≠ some (.vamo op vd base off vi t o m)) := by
  refine ⟨by decide, by decide, by decide, by decide, by decide, ⟨_, _, _, _, _, _, _, _, rfl⟩, ?_⟩
  intro op vd base off vi t o m h
  cases h

/-- A write of kfrm of hart 0 from outside that waits for its blocks, and the same once they have ended. -/
def postedS (busy : Bool) : State := (hs fun v => { v with next := if busy then 1 else 0 }).modPart fun p =>
  { p with posted := [{ hart := 0, reg := 0x08, data := 1, sender := 3 }] }

/-- What a write of a k-register comes to: it completes, faults, or waits. -/
def kout (o : KOut) : Nat :=
  match o with
  | .ok _ => 0
  | .illegal => 1
  | .exc _ _ => 1
  | .wait _ _ => 2
  | .poison _ => 3

theorem witness_LinksAct_posted :
    (∃ p, (postedS true).part.posted = [p] ∧ ((postedS true).hartAt p.hart).live = true)
    ∧ kout ((postedS false).kwrite 0 1 3 false 0x008 1) = 0 ∧ kout ((postedS false).kwrite 0 1 3 false 0x008 6) = 1
    ∧ kout ((postedS true).kwrite 0 1 3 false 0x008 1) = 2
    ∧ linkedS.paKind (0xFFF * 2 ^ 44 + 0xA0000801200) = .engine 0x1200 := by
  exact ⟨⟨_, rfl, rfl⟩, by decide, by decide, by decide, by decide⟩

theorem witness_ManagementActs_poison :
    (let s := (becalmedS 0x8000000000100010).modHart 1 fun v => { v with xpoison := [(1, ())] }
     (1, ()) ∈ (s.hartAt 1).xpoison ∧ (s.hartAt 1).live = false) := by decide

/-- A word that reads a poisoned b1 and waits with nothing performed: an sprm behind another owner of the unit. -/
theorem witness_StepRunsV_waits : ∃ u t : State, (1 : BReg) ∈ bReads (.sprm 1 2) ∧ BPoisoned u 1 ∧ exec (.sprm 1 2) u = .next t
    ∧ t.ctx.waiting = some .unit ∧ t.ctx.step = u.ctx.step ∧ (t.coreAt 0).descs = (u.coreAt 0).descs :=
  ⟨((streamS 1 0).modCore 0 fun k => { k with stream := { owner := some 2, last := some 2 } }).modCtx 0 fun c =>
      { c with bpoison := [(1, ())] }, _, by decide, rfl, rfl, rfl, rfl, rfl⟩

/-- One that waits for clusters, its request used. -/
theorem witness_StepRunsV_clusters : ∃ u t : State, (1 : BReg) ∈ bReads (.vsetl 2 1 none 0x0001) ∧ BPoisoned u 1
    ∧ exec (.vsetl 2 1 none 0x0001) u = .next t ∧ u.faultsBare t = false ∧ t.ctx.waiting = some .clusters :=
  ⟨(cs fun c => bs [(1, 100)] { c with bpoison := [(1, ())] }).modCore 0 fun k =>
      { k with clusters := (List.range 8).map fun i => (i, 1), klpr := 0x0101 }, _, by decide, rfl, rfl, by decide, rfl⟩

/-- One that seals the open strip. -/
theorem witness_StepRunsV_seals : ∃ u t : State, (3 : BReg) ∈ bReads (.cpy 1 2 3 0 3 .core none) ∧ BPoisoned u 3
    ∧ exec (.cpy 1 2 3 0 3 .core none) u = .next t ∧ u.faultsBare t = false ∧ t.ctx.waiting = none
    ∧ (∃ st, t.ctx.strip = some st ∧ st.isSealed = true) ∧ (∃ st, u.ctx.strip = some st ∧ st.isSealed = false) :=
  ⟨(copyS 0x100 []).modCtx 0 fun c => { c with bpoison := [(3, ())], strip := some strip0 }, _, by decide, rfl, rfl, by decide,
    rfl, ⟨_, rfl, rfl⟩, ⟨_, rfl, rfl⟩⟩

/-- Tables of Sv57 at 0x1000000 whose first entry is as given (R189), and a view of them in sup mode. -/
def rootedS (pte : Word) : State := wordsAt 0x1000000 8 [pte] State.reset
def view57 : View := { State.reset.scalarView 0 with katp := 0xA000000000001000 }

theorem witness_Translation_walk :
    (windowOff view57.kspb 0 = none ∧ fld view57.katp 60 4 ≠ 0)
    ∧ (0x0100000000000000 : Word).getLsbD 57 ≠ (0x0100000000000000 : Word).getLsbD 56
    ∧ (∀ i, i < 64 → 57 ≤ i → (0xFF00000000000000 : Word).getLsbD i = (0xFF00000000000000 : Word).getLsbD 56)
    ∧ (rootedS 0xC7).l1Tlb view57 .store = [] ∧ ((rootedS 0xC7).towerAt ((rootedS 0xC7).towerOf 0)).tlb = []
    ∧ tst ((rootedS 0xC7).towerAt ((rootedS 0xC7).towerOf 0)).kheat 63 = false
    ∧ PaKind.isMem ((rootedS 0xC7).paKind 0) = true
    ∧ PaKind.isMem ((rootedS 0xC7).paKind 0xC000000000) = false ∧ (rootedS 0xC7).paKind 0xC000000000 ≠ .hostLost := by decide

/-- What the walk comes to: a leaf that permits stores and is marked, one that permits loads and is not, an entry that is not
valid, one with poison, and one outside the HBM of the node. -/
theorem witness_Translation_ends :
    WalkEnds (rootedS 0xC7) 0 5 (fld view57.katp 0 44) (.ok (0xC7, 4, 0x1000000))
    ∧ WalkEnds (rootedS 0x03) 0 5 (fld view57.katp 0 44) (.ok (0x03, 4, 0x1000000))
    ∧ WalkEnds (rootedS 0x02) 0 5 (fld view57.katp 0 44) (.error .page)
    ∧ WalkEnds ((rootedS 0x03).modPart fun p => { p with poison := [(0x1000000, ())] }) 0 5 (fld view57.katp 0 44)
      (.error (.poison 0x1000000))
    ∧ WalkEnds (rootedS 0x03) 5 5 0xC000000 (.error (.table 5)) := by
  simp only [WalkEnds]
  refine ⟨?_, ?_, ?_, ?_, ?_⟩
  · rw [if_neg (by decide), if_neg (by decide), if_neg (by decide), if_pos (by decide)]
    rfl
  · rw [if_neg (by decide), if_neg (by decide), if_neg (by decide), if_pos (by decide)]
    rfl
  · rw [if_neg (by decide), if_neg (by decide), if_pos (by decide)]
    trivial
  · rw [if_neg (by decide), if_pos (by decide)]
    rfl
  · rw [if_pos (by decide)]
    trivial

theorem witness_StoresWrite_lost :
    okWith (lostS.translate (lostS.scalarView 0) .store 0xFFFC0000000000 (scalarOk 1 8))
      (fun x s => s.paKind x.pa == .hostLost && s.hart.live) = true
    ∧ okWith (lostS.translate (lostS.scalarView 0) .store 0xFFFC0000000000 PaKind.isMem)
      (fun x s => s.paKind x.pa == .hostLost && s.hart.live) = true
    ∧ okWith (fullJunction.translate (fullJunction.scalarView 0) .store 0 PaKind.isMem)
      (fun x s => (s.paKind x.pa).isMem && s.paKind x.pa != .hostLost && junctionFull (s.junction 0) (s.cell x.pa / 64)) = true := by
  decide

theorem witness_MonitorActs_scratchpad :
    okWith ((farS id).translate ((farS id).scalarView 0) .load 0x18000000FFF8 watchable)
      (fun x s => watchable (s.paKind x.pa) && decide (0x80000000000 ≤ x.pa % 2 ^ 44 ∧ x.pa % 2 ^ 44 < 0x80010000000
        ∧ x.pa % 2 ^ 44 % 0x400000 < 0x300000)) = true
    ∧ okWith ((farS fun v => { v with answered := true }).translate (State.reset.scalarView 0) .load 0x100000001000 watchable)
      (fun x s => watchable (s.paKind x.pa) && (s.paKind x.pa).isRemote && s.hart.answered
        && !s.scalarPoison 0 (s.cell x.pa) 8 && decide (x.pa % 2 ^ 44 < 0x80000000000)) = true := by decide

theorem witness_ReturnStack_refill :
    (let s := hs fun v => { v with spill := 1, krasb := 0xC000000000 }
     s.hart.ras = [] ∧ s.hart.spill ≠ 0 ∧ failsWith (s.translate (s.scalarView s.cur) .load s.hart.krasb PaKind.isMem)
        (fun e => match e with | .access _ => true | _ => false) = true)
    ∧ (let s := (tabledCalls 0xC000000000 0x7008).mod fun v => { v with ras := [], spill := 1 }
       s.hart.ras = [] ∧ s.hart.spill ≠ 0 ∧ failsWith (s.translate (s.scalarView s.cur) .load s.hart.krasb PaKind.isMem)
        (fun e => match e with | .table t => t == 0x7008 | _ => false) = true)
    ∧ (let s := calls 32 0x80010000008 0
       failsWith (s.translate (s.scalarView 0) .store (s.hart.krasb - 8) PaKind.isMem)
        (fun e => match e with | .access _ => true | _ => false) = true
        ∧ okWith (s.translate (s.scalarView 0) .store (s.hart.krasb - 8) fun _ => true) (fun y t => t.isLocal y.pa) = true) := by
  decide

theorem witness_StallEnds_poison :
    (∀ i j : Instr, i = .cpy 8 0 4 0 1 .core none → j = .sprm 0 4 →
      (∀ r ∈ bReads i ++ bReads j, ¬ (Map.find (vwaitingAt 0 .copySlot).ctx.bpoison r.toNat).isSome = true)
        ∧ (4 : BReg) ∈ bReads i ∧ (0 : BReg) ∈ bReads j)
    ∧ BPoisoned ((vwaitingAt 0x9080400010000000 .copySlot).modCtx 0 fun c => { c with bpoison := [(4, ())] }) 4 := by
  refine ⟨?_, rfl⟩
  rintro i j rfl rfl
  decide

theorem witness_GangBarrier_waits :
    (let s := (gangS 2 0x100 fun v => { v with wait := some .gwait }).modPart fun p => { p with poison := [(0x107, ())] }
     s.hart.inGang = true ∧ s.inHbm 0x100 8 = true ∧ s.scalarPoison 0 (s.cell 0x100) 8 = true ∧ s.hart.wait = some .gwait)
    ∧ (let s := (gangS 2 0x100 fun v => { v with wait := some .gbar, kgang := v.kgang ||| 0x40000000000 }).modPart fun p =>
         { p with poison := [(0x107, ())] }
       s.hart.inGang = true ∧ s.scalarPoison 0 (s.cell 0x100) 8 = true ∧ s.hart.pendBit = true ∧ s.hart.wait = some .gbar)
    ∧ (let old (s : State) : Word := ofBytes 64 ((s.drainAll 0).devBytes ((s.drainAll 0).cell 0x100) 8)
       let last (s : State) : Prop := s.hart.members ≤ fld (old s) 0 32 + 1
       let wraps := wordsAt 0x100 8 [0xFFFFFFFF00000000] (gangS 1 0x100 id)
       (last wraps ∧ (fld (old wraps) 32 32 + 1) % 2 ^ 32 = 0)
        ∧ (last (gangS 1 0x100 id) ∧ (fld (old (gangS 1 0x100 id)) 32 32 + 1) % 2 ^ 32 ≠ 0)
        ∧ (¬ last (gangS 2 0x100 id) ∧ fld (old (gangS 2 0x100 id)) 32 32 = 0)
        ∧ let s := wordsAt 0x100 8 [0x100000000] (gangS 2 0x100 id)
          ¬ last s ∧ fld (old s) 32 32 ≠ 0 ∧ s.hart.pendBit = false)
    ∧ (gangS 2 0xC000000000 id).hart.inGang = true ∧ (gangS 2 0xC000000000 id).inHbm 0xC000000000 8 = false := by decide

theorem witness_ContextImages_strip :
    (let s := pennantS 0x8000000000000000
     s.hart.pm ≠ 0 ∧ s.inHbm 0x10000 (s.imageSize 0) = true ∧ (∀ q ∈ s.ctx.copies, q.outstanding = false) ∧ s.ctx.dying = none
      ∧ (((s.drainAll 0).seal 0).ctx.strip.any fun st => st.isSealed) = true ∧ tst ((s.drainAll 0).seal 0).hart.kpenc 63 = true
      ∧ s.hart.queue = [] ∧ s.cur < 0x10000 ∧ s.ctx.stopped = false ∧ s.ctx.blk = some blk0)
    ∧ ((State.reset.drainAll 0).seal 0).ctx.strip = none ∧ (cs fun c => { c with stopped := true }).ctx.stopped = true
    ∧ (let s := savedS
       let w0 := s.headerWord 0x10000 0
       let held := fld (s.headerWord 0x10000 16) 0 8
       ¬ (fld w0 0 16 ≠ 1 ∨ (tst w0 35 = true ∧ s.ganged 0 = false) ∨ s.clusterCount 0 < held
        ∨ fld (s.coreAt 0).klpr 8 5 < held ∨ (s.hart.scalar = true ∧ held ≠ 0)))
    ∧ (let s := refusedS 0x800000001 0
       tst (s.headerWord 0x10000 0) 35 = true ∧ s.ganged 0 = false)
    ∧ (let s := (refusedS 1 1).mod fun v => { v with scalar := true }
       s.hart.scalar = true ∧ fld (s.headerWord 0x10000 16) 0 8 ≠ 0)
    ∧ (let s := hs fun v => { v with wait := some .kctxr }
       s.hart.wait = some .kctxr ∧ s.hart.scalar = false)
    ∧ (let s := hs fun v => { v with wait := some .kctxr, scalar := true }
       ¬ (s.hart.wait = some .kctxr ∧ s.hart.scalar = false)) := by decide

theorem witness_StripsOpen_request :
    (Config.ownerReleases = true ∨ Config.ownerReleases = false)
    ∧ (let s := (cs (bs [(1, 3)])).modCore 0 fun k =>
         { k with clusters := [(0, 0)], klpr := 0x0101, array := { owner := some 0, last := some 0 } }
       (s.coreAt 0).array.owner = some s.cur ∧ (s.ctx.br 1).toNat ≠ 0 ∧ s.ctx.waiting ≠ some .clusters ∧ (s.coreAt 0).stalled = [])
    ∧ (let s := cs (bs [(1, 0)])
       (s.coreAt 0).array.owner ≠ some s.cur ∧ (s.ctx.br 1).toNat = 0)
    ∧ bufferedS.ctx.strip = some bufStrip ∧ bufStrip.buf ≠ [] :=
  ⟨by cases Config.ownerReleases <;> decide, by decide⟩

theorem witness_VectorFunctions_above :
    aboveFinite (fmtOf tagFP32) 1 1 128 = true ∧ aboveFinite (fmtOf tagFP32) 1 1 127 = false
    ∧ (fmtOf tagFP32).sat = false ∧ (fmtOf 0x0C).sat = true ∧ aboveFinite (fmtOf 0x0C) 7 1 0 = true
    ∧ ltScaled 1 1 128 ((fmtOf tagFP32).maxSig + 1) ((fmtOf tagFP32).emax - (fmtOf tagFP32).fbits) = false
    ∧ aboveFinite (fmtOf tagFP32) (2 * (fmtOf tagFP32).maxSig + 1) 2 ((fmtOf tagFP32).emax - (fmtOf tagFP32).fbits) = true
    ∧ ltScaled (2 * (fmtOf tagFP32).maxSig + 1) 2 ((fmtOf tagFP32).emax - (fmtOf tagFP32).fbits)
        ((fmtOf tagFP32).maxSig + 1) ((fmtOf tagFP32).emax - (fmtOf tagFP32).fbits) = true := by decide

theorem witness_Reductions_none :
    ∃ oa, VecReady (unmasked tagFP32) [31, 1] (some 1) false oa.regs ∧ IsVec (unmasked tagFP32) 1 oa ∧ isFloat tagFP32 = true
      ∧ ctype [oa.tag] = some .fp ∧ resultTag ((unmasked tagFP32).sweep 0) [oa.tag] .fp 0 = .ok tagFP32
      ∧ ((unmasked tagFP32).sweep 0).elements.filter (fun e => maskOpen (unmasked tagFP32).ctx (some 1) oa.tag e.1 e.2) = [] := by
  refine ⟨_, ?_, ⟨_, rfl, rfl⟩, rfl, rfl, rfl, by decide⟩
  exact ⟨by decide, (fun _ _ => ⟨(fun e => by cases e), fun _ he => absurd he (List.not_mem_nil (a := _))⟩),
    (by decide : (8 : W32) ≠ 0), rfl, fun _ _ e he => absurd he (List.not_mem_nil (a := e))⟩

theorem witness_LinksAct_outside :
    ((transS false 3 .outside).part.trans.find? fun y => y.id == 0 && !y.storage).any (fun x => x.asker == .outside) = true
    ∧ ((transS false 0 .outside).part.trans.any fun x => x.asker == .outside && decide (x.tries < 3)) = true := by decide

theorem witness_GangsOfSlabs_dissolves :
    (let g : GangChange := { form := false, leader := 0, dark := 1, caller := 0 }
     g.form = false ∧ (gangedS.coreAt g.leader).stalled = [] ∧ (gangedS.coreAt g.dark).stalled = [])
    ∧ (let s := State.reset.modCore 1 fun k => { k with stalled := [{ ctx := 0, need := none }] }
       let g : GangChange := { form := true, leader := 0, dark := 1, caller := 0 }
       (s.coreAt g.leader).stalled = [] ∧ (s.coreAt g.dark).stalled ≠ [] ∧ g.form = true) := by decide

theorem witness_VectorStores_lost : lostMemS.ctx.answered = true
    ∧ (lostMemS.modCtx 0 fun c => { c with lost := false }).ctx.lost = false := by decide

/-! ### One step each: values that the spec's own examples and tables give -/

/-- What an outcome that completes holds. -/
def after (o : Out) (p : State → Bool) : Bool :=
  match o with
  | .next t => p t
  | _ => false

/-- Hart 0 with v1 and v2 of one element each, of two tags, in a strip of one element with D's tag for v3. -/
def oneS (ta tb td : Tag) (a b : W32) : State :=
  (cs fun c => { c with
    grant := { vl := 1, vtype := 1, g := 1, f := 1 }, vtags := [(1, ta), (2, tb), (3, td)], v := [(1, a), (2, b)] }).modCore 0
    fun k => { k with clusters := [(0, 0)] }

/-- Element 0 of v3, and kflags, after a word. -/
def gives (o : Out) (t : Tag) (v : Nat) (flags : Word) : Bool :=
  after o fun u => u.ctx.elem 8 t 3 0 == v && u.hart.kflags == flags

/-- Row 0 of v3 after a word. -/
def row3 (o : Out) (t : Tag) (l : List Nat) : Bool :=
  after o fun u => (List.range l.length).map (fun c => u.ctx.elem 8 t 3 c) == l

-- R310: idiv of −7 by 2 gives −3, irem −1; idiv.u and irem.u of the same bits.
theorem test_idiv : after (exec (.idiv 3 1 2 false) (xs [(1, 0xFFFFFFFFFFFFFFF9), (2, 2)])) (fun t => t.xr 3 == 0xFFFFFFFFFFFFFFFD) = true := by decide
theorem test_irem : after (exec (.irem 3 1 2 false) (xs [(1, 0xFFFFFFFFFFFFFFF9), (2, 2)])) (fun t => t.xr 3 == 0xFFFFFFFFFFFFFFFF) = true := by decide
theorem test_idivu : after (exec (.idiv 3 1 2 true) (xs [(1, 0xFFFFFFFFFFFFFFF9), (2, 2)])) (fun t => t.xr 3 == 0x7FFFFFFFFFFFFFFC) = true := by decide
theorem test_iremu : after (exec (.irem 3 1 2 true) (xs [(1, 0xFFFFFFFFFFFFFFF9), (2, 2)])) (fun t => t.xr 3 == 1) = true := by decide

-- Table 22-1: a call on a full stack spills the oldest entry; a ret on an empty chip and SPILL 0 underflows.
theorem test_call_spills : after (exec (.call 3) ((calls 32 0x8000 0x7000).mod fun v => { v with pc := 0x100 }))
    (fun t => t.hart.spill == 1 && t.hart.krasb == 0x7FF8 && t.pc == 0x10C && t.hart.ras.headD 0 == 0x104
      && (ofBytes 64 (t.scalarBytes 0 0x7FF8 8) : Word) == 0x100) = true := by decide
theorem test_ret_underflow : after (exec .ret (calls 0 0x8000 0x7000)) (fun t => t.hart.sup.cause == 0x08) = true := by decide

-- Table 22-10: kstatus across trap #1 from app with IE = 1, and back.
theorem test_trap : after (exec (.trap 1) ((hs fun v => { v with kstatus := 1, pc := 0x40, sup := { tvec := 0x200 } })))
    (fun t => t.hart.pm == 1 && !t.hart.ie && tst t.hart.kstatus 1 && fld t.hart.kstatus 10 2 == 0 && t.pc == 0x200
      && t.hart.sup.epc == 0x44 && t.hart.sup.tval == 1) = true := by decide
theorem test_tret : after (exec .tret (hs fun v => { v with kstatus := 0x102, sup := { epc := 0x44 } }))
    (fun t => t.hart.pm == 0 && t.hart.ie && tst t.hart.kstatus 1 && t.pc == 0x44) = true := by decide

-- Table 4-2: grants of vsetl under FP32, with one cluster, and E2M1 with two.
def setlS (n : Nat) (req cap : Word) : State :=
  (cs fun c => { c with b := [(1, req), (4, cap)] }).modCore 0 fun k =>
    { k with clusters := (List.range n).map fun i => (i, 0), klpr := BitVec.ofNat 64 (256 * n) }
def grants (o : Out) (g vl : W32) : Bool := after o fun t => t.ctx.grant.g == g && t.ctx.grant.vl == vl
theorem test_vsetl_tail : grants (exec (.vsetl 2 1 (some 4) 0x0081) (setlS 1 5 1)) 5 2 = true := by decide
theorem test_vsetl_blocks : grants (exec (.vsetl 2 1 none 0x0201) (setlS 1 100 0)) 96 96 = true := by decide
theorem test_vsetl_block_past : grants (exec (.vsetl 2 1 none 0x0301) (setlS 1 40 0)) 40 40 = true := by decide
theorem test_vsetl_sliced : grants (exec (.vsetl 2 1 (some 4) 0x024C) (setlS 2 5000 3)) 3072 1536 = true := by decide

-- R301: a loop of three passes: the counter falls, and the body goes back to its first word.
theorem test_bloop : after (exec (.bloop 0 4 2) (cs fun c => { c with b := [(4, 3)] }))
    (fun t => t.ctx.lc == [3, 0, 0, 0] && t.ctx.loops == [{ n := 0, first := 0x1008, last := 0x1010 }] && t.bpc 0 == 0x1008) = true := by decide
theorem test_loop_step : after (exec (.bli 2 7) (loopS 3 0x1000)) (fun t => t.bpc 0 == 0x1000 && t.ctx.lc.headD 0 == 2) = true := by decide

-- Table 23-10: vcvt.
theorem test_vcvt_e2m1_rne : gives (exec (.vcvt 3 1 .rne ctl0) (oneS tagFP32 0 0x0C 0x40200000 0)) 0x0C 4 0x01 = true := by decide
theorem test_vcvt_e4m3_over : gives (exec (.vcvt 3 1 .rne ctl0) (oneS tagFP32 0 0x08 0x447A0000 0)) 0x08 0x7E 0x05 = true := by decide

-- Table 23-10 and R67: an E8M0 source 0x7F into FP32; bit 7 of element 0 is bit 0 of container 56 of one cluster.
theorem test_vcvt_e8m0 : gives (exec (.vcvt 3 1 .rne ctl0) ((oneS tagE8M0 0 tagFP32 0 0).modCtx 0 fun c => { c with v := [(32 * 56 + 1, 0xFFFFFFFE)] })) tagFP32 0x3F800000 0 = true := by decide

-- R359: 1 + 2^-24 is a tie that rne rounds to even; 1/0 raises DZ.
theorem test_vadd_tie : gives (exec (.vadd 3 1 (.vec 2) .rne false ctl0) (oneS tagFP32 tagFP32 tagFP32 0x3F800000 0x33800000))
    tagFP32 0x3F800000 0x01 = true := by decide
theorem test_vdiv_zero : gives (exec (.vdiv 3 1 (.vec 2) .rne ctl0) (oneS tagFP32 tagFP32 tagFP32 0x3F800000 0))
    tagFP32 0x7F800000 0x08 = true := by decide
theorem test_vadd_sat : gives (exec (.vadd 3 1 (.vec 2) .rne true ctl0) (oneS tagINT32 tagINT32 tagINT32 0x7FFFFFFF 1))
    tagINT32 0x7FFFFFFF 0x04 = true := by decide

-- Table 23-5: one row, G = 2, through the bit-string instructions.
def stringS (b6 : Word) : State :=
  (cs fun c => { c with
    b := [(6, b6)], grant := { vl := 2, vtype := 1, g := 2, f := 2 }, vtags := [(1, tagINT32)], v := [(1, 0x80000001), (33, 2)] }).modCore 0
    fun k => { k with clusters := [(0, 0)] }
theorem test_vbsl : row3 (exec (.vbsl 3 1 (.imm 4) .vtype) (stringS 0)) tagINT32 [0x10, 0x28] = true := by decide
theorem test_vbsr : row3 (exec (.vbsr 3 1 (.imm 4) .vtype) (stringS 0)) tagINT32 [0x28000000, 0] = true := by decide
theorem test_vbext : row3 (exec (.vbext 3 1 6 .vtype) (stringS 0x80000001C)) tagINT32 [0x28, 0] = true := by decide
theorem test_vfunl : row3 (exec (.vfunl 3 1 1 4 .vtype) (stringS 0)) tagINT32 [0x10, 0x28] = true := by decide

-- R370 and R374: G = 8, va = 10 … 17, selector 0, 1, 1, 0, 0, 1, 0, 1; vgath of 3, 0, 9, 7.
def packS : State :=
  (cs fun c => { c with
    grant := { vl := 8, vtype := 1, g := 8, f := 8 }, vtags := [(1, tagINT32), (2, tagINT32)]
    v := (List.range 8).flatMap fun i => [(32 * i + 1, BitVec.ofNat 32 (10 + i)), (32 * i + 2, BitVec.ofNat 32 ([3, 0, 9, 7].getD i 8))]
    m := [(1, 0), (193, 0), (257, 0), (385, 0)] }).modCore 0 fun k => { k with clusters := [(0, 0)] }
theorem test_vcomp : row3 (exec (.vcomp 3 1 { ctl0 with mask := some 1 }) packS) tagINT32 [11, 12, 15, 17] = true := by decide
theorem test_vexpd : after (exec (.vexpd 3 1 { ctl0 with mask := some 1 }) packS)
    (fun t => [1, 2, 5, 7].map (fun c => t.ctx.elem 8 tagINT32 3 c) == [10, 11, 12, 13]) = true := by decide
theorem test_vgath : row3 (exec (.vgath 3 1 2 ctl0) packS) tagINT32 [13, 10, 0, 17] = true := by decide

-- Table 6-3 and its example: terms of E2M1 1.5 and 0.5 and of SINT4 −7.
theorem test_terms : termsOf (decodeElem 0x0C 3) = 2 ∧ termsOf (decodeElem 0x0C 1) = 1 ∧ termsOf (decodeElem 0x23 9) = 2 := by decide

-- R336: a tile after mzero.
theorem test_mzero : after (exec (.mzero 0 tileF48) (arrayS tagFP32 tileINT48 0)) (fun t => (t.tile 0 0).at [0] 5 7 == 0) = true := by decide

-- R115, R331: registers and the tile all ones, so that each element is −1 + 2·(−1)·(−1) = 1; beyond the grant it stays −1.
theorem test_mop : after (exec (.mop 0 1 8 none) (mopS 0x29 tileINT48 0x0000000200040002)) (fun t =>
    (t.tile 0 0).at [0] 1 3 == 1 && (t.tile 0 0).at [0] 2 3 == 0xFFFFFFFFFFFF) = true := by decide

-- Table 1-5 and R148: a doubleword stored is read back by the same thread, lowest byte first.
theorem test_st_ld : after (exec (.st 2 1 .d 0) (xs [(1, 0x1000), (2, 0x0807060504030201)]))
    (fun t => t.scalarBytes 0 0x1000 8 == [1, 2, 3, 4, 5, 6, 7, 8]) = true := by decide
theorem test_ld_signed : after (exec (.ld 3 1 .b 0) (wordsAt 0x1000 1 [0x80] (xs [(1, 0x1000)])))
    (fun t => t.xr 3 == 0xFFFFFFFFFFFFFF80) = true := by decide
theorem test_ld_sum : after (exec (.amo 3 1 2 true .rlx .core .add) (wordsAt 0x1000 8 [40] (xs [(1, 0x1000), (2, 2)])))
    (fun t => t.xr 3 == 40 && (ofBytes 64 (t.scalarBytes 0 0x1000 8) : Word) == 42) = true := by decide

-- R43: vdisp x5, #2 puts a command with two reservations into the queue and advances NEXT.
theorem test_vdisp : after (exec (.vdisp 5 2) (dispS id))
    (fun t => t.hart.next == 1 && t.hart.rsv == 2 && (t.hart.queue.map fun c => c.addr) == [0x1000]) = true := by decide

-- R139: 3 + 2 is 0 modulo 5, so that the sum of the two one-term streams is empty.
theorem test_sadd : after (exec (.sadd 3 1 2) (streamS 1 0)) (fun t => (t.desc 0 3).count == 0 && (t.desc 0 3).kind == 1) = true := by decide
theorem test_smul : after (exec (.smul 3 1 2) (streamS 1 0))
    (fun t => (t.desc 0 3).count == 1 && (ofBytes 32 (t.devBytes 0x5008 4) : W32) == 1) = true := by decide

-- R239: a change of RATIO.
theorem test_ratio : after (exec (.ratioChange 3 true) State.reset)
    (fun t => fld t.part.pwr 60 4 == 3 && tst t.part.pwr 59 && fld t.part.mev 0 8 == 4) = true := by decide

/-- R238: the store is lost with a machine check of SRC 7, and the line of HBM stays. -/
theorem test_hostLinkDown_loses_stores :
    after (exec .hostLinkDown hostStoreS) (fun t => (t.hartAt 1).kmcheck == 0xB8FFFFFFFFFFFFC0 && (t.hartAt 1).mcPend == some 0
      && (t.junction 0).map (fun l => l.line) == [1] && t.part.hlst == 0x4000000000000000) = true := by decide

end Sys2Proof.Tests
end

/-! PROOFS. Words and their bytes, and bytes that perform (R1, R184, R206, R217, R237, R238). -/

namespace Sys2Proof.Machine

/-! ### Words and their bytes (R1) -/

/-- Bit i of the number that bytes spell is bit i mod 8 of byte i div 8. -/
theorem testBit_natOfBytes (bs : List Byte) (i : Nat) :
    (natOfBytes bs).testBit i = (bs.getD (i / 8) 0).getLsbD (i % 8) := by
  induction bs generalizing i with
  | nil => simp [natOfBytes]
  | cons b bs ih =>
    have e : natOfBytes (b :: bs) = 2 ^ 8 * natOfBytes bs + b.toNat := by
      simp only [natOfBytes]; omega
    rw [e, Nat.testBit_two_pow_mul_add _ b.isLt]
    by_cases h : i < 8
    · have h0 : i / 8 = 0 := by omega
      have h1 : i % 8 = i := by omega
      simp [h, h0, h1, BitVec.getLsbD]
    · have h0 : i / 8 = (i - 8) / 8 + 1 := by omega
      have h1 : i % 8 = (i - 8) % 8 := by omega
      rw [if_neg h, ih, h0, h1, List.getD_cons_succ]

theorem getLsbD_ofBytes (w : Nat) (bs : List Byte) (i : Nat) :
    (ofBytes w bs).getLsbD i = (decide (i < w) && (bs.getD (i / 8) 0).getLsbD (i % 8)) := by
  rw [ofBytes, BitVec.getLsbD_ofNat, testBit_natOfBytes]

theorem getD_bytesOf {w : Nat} (v : BitVec w) (n k : Nat) :
    (bytesOf v n).getD k 0 = if k < n then BitVec.ofNat 8 (v.toNat >>> (8 * k)) else 0 := by
  by_cases h : k < n <;> simp [bytesOf, h]

/-- The n low bytes of a word spell its low bits. -/
theorem getLsbD_ofBytes_bytesOf {w u : Nat} (v : BitVec u) (n i : Nat) :
    (ofBytes w (bytesOf v n)).getLsbD i = (decide (i < w) && decide (i < 8 * n) && v.getLsbD i) := by
  rw [getLsbD_ofBytes, getD_bytesOf]
  by_cases h : i / 8 < n
  · have h0 : i < 8 * n := by omega
    have h1 : i % 8 < 8 := by omega
    have h2 : 8 * (i / 8) + i % 8 = i := by omega
    rw [if_pos h, BitVec.getLsbD_ofNat, Nat.testBit_shiftRight, h2]
    simp [h0, h1, BitVec.getLsbD]
  · have h0 : ¬ i < 8 * n := by omega
    simp [h, h0]

/-! ### Poison under new data (R206) -/

theorem Map.isSome_find_erase {α : Type} (m : Map α) (j k : Nat) :
    (Map.find (Map.erase m k) j).isSome = ((Map.find m j).isSome && decide (j ≠ k)) := by
  by_cases h : j = k
  · subst h; simp [Map.find_erase_self]
  · simp [Map.find_erase_ne m h, h]

/-- Bytes written lose their poison, and no other byte does. -/
theorem Part.putBytes_poison (p : Part) (k j : Nat) (bs : List Byte) :
    (Map.find (p.putBytes k bs).poison j).isSome =
      ((Map.find p.poison j).isSome && !decide (k ≤ j ∧ j < k + bs.length)) := by
  induction bs generalizing p k with
  | nil =>
    rw [List.length_nil, decide_eq_false (by omega)]
    simp [Part.putBytes]
  | cons b bs ih =>
    show (Map.find ((p.putByte k b).putBytes (k + 1) bs).poison j).isSome = _
    rw [ih]
    show ((Map.find (Map.erase p.poison k) j).isSome && _) = _
    rw [Map.isSome_find_erase, Bool.and_assoc, List.length_cons]
    congr 1
    rw [Bool.eq_iff_iff]
    simp only [Bool.and_eq_true, Bool.not_eq_true', decide_eq_true_eq, decide_eq_false_iff_not]
    omega

@[simp] theorem Part.putBytes_trans (p : Part) (k : Nat) (bs : List Byte) : (p.putBytes k bs).trans = p.trans := by
  induction bs generalizing p k with
  | nil => rfl
  | cons b bs ih => exact ih (p.putByte k b) (k + 1)

/-- The same of data that leaves as a transaction. -/
theorem Part.cleanse_poison (p : Part) (k n j : Nat) :
    (Map.find (p.cleanse k n).poison j).isSome =
      ((Map.find p.poison j).isSome && !decide (k ≤ j ∧ j < k + n)) := by
  show (Map.find ((List.range n).foldl (fun m i => Map.erase m (k + i)) p.poison) j).isSome = _
  induction n with
  | zero =>
    rw [decide_eq_false (by omega)]
    simp
  | succ n ih =>
    rw [List.range_succ, List.foldl_append, List.foldl_cons, List.foldl_nil, Map.isSome_find_erase, ih, Bool.and_assoc]
    congr 1
    rw [Bool.eq_iff_iff]
    simp only [Bool.and_eq_true, Bool.not_eq_true', decide_eq_true_eq, decide_eq_false_iff_not]
    omega

/-! ### Monitors woken by a write (R184) -/

section Wake
variable (s : State)

@[simp] theorem State.wake_towers (l : Nat) (p : Nat → Bool) : (s.wake l p).towers = s.towers := rfl
@[simp] theorem State.wake_tick (l : Nat) (p : Nat → Bool) : (s.wake l p).tick = s.tick := rfl

/-- A hart as the write of a line leaves it: woken, where its monitor is armed on the line. -/
theorem State.hartAt_wake (l : Nat) (p : Nat → Bool) (j : Nat) :
    (s.wake l p).hartAt j =
      { s.hartAt j with monHit := (s.hartAt j).monHit || (p j && (s.hartAt j).monitor == some l) } := by
  unfold State.hartAt State.wake
  induction s.harts with
  | nil => simp [Map.get]
  | cons e m ih =>
    by_cases h : e.1 = j
    · simp [Map.get, h]
    · simpa [Map.get, h] using ih

/-- The lines of a range, those that `c` picks of them, written in turn. -/
def State.wakeLines (s : State) (ls : List Nat) (c : Nat → Bool) (n : Nat → Nat) (p : Nat → Bool) : State :=
  ls.foldl (fun t i => if c i then t.wake (n i) p else t) s

theorem State.hartAt_wakeLines (ls : List Nat) (c : Nat → Bool) (n : Nat → Nat) (p : Nat → Bool) (j : Nat) :
    (s.wakeLines ls c n p).hartAt j =
      { s.hartAt j with
        monHit := (s.hartAt j).monHit || (p j && ls.any fun i => c i && (s.hartAt j).monitor == some (n i)) } := by
  induction ls generalizing s with
  | nil => simp [State.wakeLines]
  | cons i ls ih =>
    show ((if c i then s.wake (n i) p else s).wakeLines ls c n p).hartAt j = _
    rw [ih]
    by_cases h : c i
    · simp only [h, if_true, State.hartAt_wake, List.any_cons, Bool.true_and]
      congr 1
      cases p j <;> simp [Bool.or_assoc]
    · simp [h]

/-- Waking harts changes harts alone. -/
theorem State.wakeLines_frame (ls : List Nat) (c : Nat → Bool) (n : Nat → Nat) (p : Nat → Bool) :
    let t := s.wakeLines ls c n p
    t.part = s.part ∧ t.cores = s.cores ∧ t.towers = s.towers ∧ t.cur = s.cur ∧ t.tick = s.tick := by
  induction ls generalizing s with
  | nil => exact ⟨rfl, rfl, rfl, rfl, rfl⟩
  | cons i ls ih =>
    show let t := (if c i then s.wake (n i) p else s).wakeLines ls c n p
      t.part = s.part ∧ t.cores = s.cores ∧ t.towers = s.towers ∧ t.cur = s.cur ∧ t.tick = s.tick
    by_cases h : c i
    · simpa [h] using ih (s.wake (n i) p)
    · simpa [h] using ih s

end Wake

/-! ### Bytes that perform -/

section Perform
variable (s : State) (h : Nat) (a : Asker) (addr : Word) (st : Bool) (pa : Nat) (bs : List Byte) (woken : Nat → Bool)

/-- Over a lost host link a write changes nothing but its hart (R238). -/
theorem State.performAs_hostLost (hl : s.paKind pa = .hostLost) :
    s.performAs h a addr st pa bs woken = s.writeLost h pa := by
  simp [State.performAs, hl]

/-- Else bytes change the part, and wake the monitors on the lines they touch. -/
theorem State.performAs_eq_wakeLines (hl : s.paKind pa ≠ .hostLost) :
    ∃ f : Part → Part, s.performAs h a addr st pa bs woken =
      (s.modPart f).wakeLines (List.range (bs.length / 64 + 2))
        (fun i => decide (s.cell pa / 64 + i ≤ (s.cell pa + bs.length - 1) / 64)) (fun i => s.cell pa / 64 + i) woken := by
  simp only [State.performAs, hl, if_false, State.wakeLines, decide_eq_true_eq]
  split
  · exact ⟨_, rfl⟩
  · exact ⟨_, rfl⟩

/-- Bytes that perform change nothing but the part and the harts. -/
theorem State.performAs_frame :
    let t := s.performAs h a addr st pa bs woken
    t.cores = s.cores ∧ t.towers = s.towers ∧ t.cur = s.cur ∧ t.tick = s.tick := by
  by_cases hl : s.paKind pa = .hostLost
  · rw [State.performAs_hostLost _ _ _ _ _ _ _ _ hl]
    unfold State.writeLost
    split <;> exact ⟨rfl, rfl, rfl, rfl⟩
  · obtain ⟨f, e⟩ := State.performAs_eq_wakeLines s h a addr st pa bs woken hl
    rw [e]
    obtain ⟨-, hc, ht, hu, hk⟩ := State.wakeLines_frame (s.modPart f) (List.range (bs.length / 64 + 2))
      (fun i => decide (s.cell pa / 64 + i ≤ (s.cell pa + bs.length - 1) / 64)) (fun i => s.cell pa / 64 + i) woken
    exact ⟨hc, ht, hu, hk⟩

/-- The harts after bytes have performed: as before, but for the monitors woken. -/
theorem State.performAs_hartAt (hl : s.paKind pa ≠ .hostLost) (j : Nat) :
    (s.performAs h a addr st pa bs woken).hartAt j =
      { s.hartAt j with
        monHit := (s.hartAt j).monHit || (woken j && (List.range (bs.length / 64 + 2)).any fun i =>
          decide (s.cell pa / 64 + i ≤ (s.cell pa + bs.length - 1) / 64)
            && (s.hartAt j).monitor == some (s.cell pa / 64 + i)) } := by
  obtain ⟨f, e⟩ := State.performAs_eq_wakeLines s h a addr st pa bs woken hl
  rw [e, State.hartAt_wakeLines]
  rfl

/-- A monitor armed on a line that the bytes touch is hit (R184). -/
theorem State.performAs_monHit (hl : s.paKind pa ≠ .hostLost) {j line : Nat} (hm : (s.hartAt j).monitor = some line)
    (hw : woken j = true) (h1 : s.cell pa / 64 ≤ line) (h2 : line ≤ (s.cell pa + bs.length - 1) / 64) :
    ((s.performAs h a addr st pa bs woken).hartAt j).monHit = true := by
  rw [State.performAs_hartAt _ _ _ _ _ _ _ _ hl]
  have hit : (List.range (bs.length / 64 + 2)).any (fun i =>
      decide (s.cell pa / 64 + i ≤ (s.cell pa + bs.length - 1) / 64)
        && (s.hartAt j).monitor == some (s.cell pa / 64 + i)) = true := by
    refine List.any_eq_true.mpr ⟨line - s.cell pa / 64, List.mem_range.mpr (by omega), ?_⟩
    have e : s.cell pa / 64 + (line - s.cell pa / 64) = line := by omega
    simp [e, hm, h2]
  simp [hw, hit]

/-- Bytes that perform lose their poison, and no other byte does (R206). -/
theorem State.performAs_poisonAt (hl : s.paKind pa ≠ .hostLost) (j : Nat) :
    (s.performAs h a addr st pa bs woken).poisonAt j =
      (s.poisonAt j && !decide (s.cell pa ≤ j ∧ j < s.cell pa + bs.length)) := by
  unfold State.poisonAt
  rw [State.performAs_part, if_neg hl]
  split
  · exact Part.putBytes_poison ..
  · exact Part.cleanse_poison ..

/-- A write over a lost host link leaves its hart a machine check of SRC 7 (R219, R238). -/
theorem State.checked_writeLost (hv : (s.hartAt h).live = true) :
    Claims.Checked (s.hartAt h) ((s.writeLost h pa).hartAt h) 7 pa 0
      ∧ ∀ j, j ≠ h → (s.writeLost h pa).hartAt j = s.hartAt j := by
  unfold State.writeLost
  rw [if_pos hv]
  refine ⟨?_, fun j hj => State.hartAt_modHart_ne _ _ hj⟩
  rw [State.postMcheck, State.hartAt_modHart_self]
  refine ⟨rfl, ?_, ?_, ?_, ?_, rfl⟩
  · simp [mcheckRecord, tst_putFld, tst_putBit]
  · simp only [mcheckRecord]
    rw [fld_putFld_ne _ _ (by omega), fld_putBit_ne _ _ (by omega), fld_putFld_ne _ _ (by omega),
      fld_putFld_self _ _ _ _ (by omega)]
    rfl
  · simp [mcheckRecord, tst_putFld, tst_putBit]
  · simp only [mcheckRecord]
    rw [fld_putFld_self _ _ _ _ (by omega)]

end Perform

end Sys2Proof.Machine

namespace Sys2Proof.Claims
open Sys2Proof.Machine

/-- What bytes do where they perform: to memory, or to the transactions. -/
theorem performs_perform (s : State) (h pa : Nat) (bs : List Byte) (woken : Nat → Bool) :
    Performs s (s.perform h pa bs woken) h pa bs := by
  unfold Performs State.byteAt
  rw [State.perform_part]
  by_cases hl : s.paKind pa = .hostLost
  · simp [hl]
  · rw [if_neg hl, if_neg hl]
    by_cases hc : s.isLocal pa = true ∧ s.inStorage pa = false ∧ s.awaited (s.cell pa) bs.length = false
    · obtain ⟨h1, h2, h3⟩ := hc
      rw [if_pos ⟨h1, h2, h3⟩, if_pos (by simp [h1, h2, h3])]
      exact ⟨fun j => Part.putBytes_read .., Part.putBytes_trans ..⟩
    · rw [if_neg hc, if_neg (by simpa using hc)]
      exact ⟨fun _ => rfl, rfl⟩

/-- Settles O15. -/
theorem bytesPerformed : Obligations.BytesPerformed := by
  refine ⟨⟨fun v n i hn => ?_, fun bs i hi => ?_⟩, fun s h pa bs woken _ => ⟨performs_perform .., fun hl => ?_, fun hl hv => ?_, ?_⟩⟩
  · rw [getLsbD_ofBytes_bytesOf]
    by_cases hi : i < 8 * n
    · have : i < 64 := by omega
      simp [hi, this]
    · simp [hi]
  · rw [getLsbD_ofBytes, decide_eq_true hi, Bool.true_and]
  · refine ⟨State.performAs_poisonAt _ _ _ _ _ _ _ _ hl, fun j => ?_, fun j line _ hm hw h1 h2 => ?_⟩
    · rw [State.perform, State.performAs_hartAt _ _ _ _ _ _ _ _ hl]
    · exact State.performAs_monHit _ _ _ _ _ _ _ _ hl hm hw h1 h2
  · rw [State.perform, State.performAs_hostLost _ _ _ _ _ _ _ _ hl]
    exact State.checked_writeLost _ _ _ hv
  · exact State.performAs_frame ..

end Sys2Proof.Claims

/-! PROOFS. What bring-up leaves (R4, R226, R228). -/

namespace Sys2Proof.Claims
open Sys2Proof.Machine

/-- Settles O8. -/
theorem resetMemory : Obligations.ResetMemory := State.reset_inv

/-! ### What bring-up leaves -/

/-- After reset only hart 0 is there. -/
theorem reset_hartAt_live (h : Nat) : (State.reset.hartAt h).live = decide (h = 0) := by
  by_cases n : h = 0
  · subst n; rfl
  · simp [State.hartAt, State.reset, Map.get, n, Ne.symm n]

/-- No x register is listed after reset: each reads 0 (log 6). -/
theorem reset_xr (r : XReg) : State.reset.xr r = 0 := by
  show State.reset.hart.xr r = 0
  unfold Hart.xr
  split
  · rfl
  · rfl

/-- Settles O9: the closed values are read off the reset state, and what no map of it lists reads its default. -/
theorem resetValues : Obligations.ResetValues := by
  unfold Obligations.ResetValues
  refine ⟨reset_hartAt_live, by decide, by decide, by decide, by decide, by decide, by decide, by decide, by decide,
    by decide, by decide, by decide, by decide, by decide, by decide, reset_xr, fun n c => ⟨rfl, ?_⟩, fun _ _ _ => rfl⟩
  rfl

end Sys2Proof.Claims

/-! PROOFS. Every operation of the part keeps memory canonical: the operations over the state. -/

namespace Sys2Proof.Machine

/-! ### Results that carry states -/

/-- A result meets A, or its error meets E. -/
def Ends {ε α : Type} (E : ε → Prop) (A : α → Prop) : Except ε α → Prop
  | .ok a => A a
  | .error e => E e

section Ends
variable {ε α β : Type} {E : ε → Prop} {A : α → Prop} {B : β → Prop}

/-- What runs after a result meets what it must, from what the result meets. -/
theorem Ends.bind {r : Except ε α} {f : α → Except ε β} (h : Ends E A r) (k : ∀ a, A a → Ends E B (f a)) :
    Ends E B (r >>= f) := by
  cases r with
  | ok a => exact k a h
  | error e => exact h

theorem Ends.ite {c : Prop} [Decidable c] {a b : Except ε α} (ha : Ends E A a) (hb : Ends E A b) :
    Ends E A (if c then a else b) := by
  split
  · exact ha
  · exact hb

/-- A result that asks nothing of its errors. -/
theorem Ends.of_ok {r : Except ε α} (h : ∀ a, r = .ok a → A a) : Ends (fun _ => True) A r := by
  cases r with
  | ok a => exact h a rfl
  | error e => trivial

theorem Ends.ok {r : Except ε α} {a : α} (h : Ends E A r) (e : r = .ok a) : A a := by
  subst e; exact h

theorem Ends.error {r : Except ε α} {x : ε} (h : Ends E A r) (e : r = .error x) : E x := by
  subst e; exact h

end Ends

/-- A choice between two states of which both have canonical memory. -/
theorem State.ite_inv {c : Prop} [Decidable c] {t u : State} (ht : t.Inv) (hu : u.Inv) : (if c then t else u).Inv := by
  split
  · exact ht
  · exact hu

variable {s : State}

/-! ### Clusters changing hands (R28-R34) -/

theorem State.setChange_inv (c t n : Nat) (hs : s.Inv) : (s.setChange c t n).Inv :=
  State.ite_inv hs hs

theorem State.releaseHighest_inv (c t n : Nat) (hs : s.Inv) : (s.releaseHighest c t n).Inv :=
  State.setChange_inv _ _ _ hs

theorem State.transferHighest_inv (c t r n : Nat) (hs : s.Inv) : (s.transferHighest c t r n).Inv :=
  State.setChange_inv _ _ _ (State.setChange_inv _ _ _ hs)

theorem State.takeLowestFree_inv (c t n : Nat) (hs : s.Inv) : (s.takeLowestFree c t n).Inv :=
  State.setChange_inv _ _ _ hs

theorem State.feedFree_inv (c : Nat) (hs : s.Inv) : (s.feedFree c).Inv :=
  State.foldl_inv _ (fun _ _ ht => State.takeLowestFree_inv _ _ _ ht) _ hs

theorem State.donateFrom_inv (c t : Nat) (hs : s.Inv) : (s.donateFrom c t).Inv :=
  State.foldl_inv _ (fun _ _ hu => State.ite_inv hu (State.transferHighest_inv _ _ _ _ hu)) _ hs

theorem State.donate_inv (c : Nat) (hs : s.Inv) : (s.donate c).Inv :=
  State.foldl_inv _ (fun _ _ hu => State.ite_inv (State.donateFrom_inv _ _ hu) hu) _ hs

theorem State.settle_inv (c : Nat) (hs : s.Inv) : (s.settle c).Inv :=
  State.ite_inv hs (State.modCore_inv _ _ (State.donate_inv _ (State.feedFree_inv _ hs)))

theorem State.joinStalled_inv (c t : Nat) (need : Option Nat) (hs : s.Inv) : (s.joinStalled c t need).Inv :=
  State.ite_inv hs hs

theorem State.giveStalled_inv (c t : Nat) (hs : s.Inv) : (s.giveStalled c t).Inv :=
  State.foldl_inv _ (fun _ _ ht => State.transferHighest_inv _ _ _ _ ht) _ hs

theorem State.clusterStep_inv (c t : Nat) (hs : s.Inv) : (s.clusterStep c t).Inv := by
  have h2 : (((((s.releaseHighest c t ((s.held c t).length - s.maxOf c t)).settle c)).giveStalled c t).settle c).Inv :=
    State.settle_inv _ (State.giveStalled_inv _ _ (State.settle_inv _ (State.releaseHighest_inv _ _ _ hs)))
  exact State.ite_inv (State.takeLowestFree_inv _ _ _ h2) h2

theorem State.releaseAll_inv (c t : Nat) (hs : s.Inv) : (s.releaseAll c t).Inv :=
  State.settle_inv _ (State.releaseHighest_inv _ _ _ hs)

/-! ### Translation (R165, R188-R194) -/

theorem State.appendHeat_inv (t : Nat) (e : TlbEntry) (b : Bool) (hs : s.Inv) : (s.appendHeat t e b).Inv :=
  State.ite_inv (State.modTower_inv _ _ (State.perform_inv _ _ _ _ hs)) hs

theorem State.fillL1_inv (v : View) (a : Acc) (e : TlbEntry) (hs : s.Inv) : (s.fillL1 v a e).Inv := hs

theorem State.fillL2_inv (t : Nat) (e : TlbEntry) (hs : s.Inv) : (s.fillL2 t e).Inv := by
  unfold State.fillL2
  dsimp only
  split
  · exact hs
  · refine State.modTower_inv _ _ ?_
    split
    · split
      · exact State.appendHeat_inv _ _ _ hs
      · exact hs
    · exact hs

/-- A translation that gives an address keeps memory canonical: its walk writes A and D at most (R190). -/
theorem State.translate_inv (v : View) (a : Acc) (va : Word) (ok : PaKind → Bool) (hs : s.Inv) :
    Ends (fun _ => True) (fun x : Xlat × State => x.2.Inv) (s.translate v a va ok) := by
  have any : ∀ {α : Type} (r : Except AccErr α), Ends (fun _ => True) (fun _ => True) r :=
    fun r => Ends.of_ok fun _ _ => trivial
  unfold State.translate
  split
  · split
    · exact hs
    · trivial
  · split
    · split
      · trivial
      · dsimp only
        split
        · exact hs
        · trivial
    · split
      · trivial
      · dsimp only
        split
        · exact Ends.bind (any _) fun _ _ => hs
        · split
          · exact Ends.bind (any _) fun _ _ => hs
          · refine Ends.bind (any _) fun ⟨pte, level, addr⟩ _ => Ends.bind (any _) fun _ _ => ?_
            exact State.fillL1_inv _ _ _ (State.fillL2_inv _ _ (State.ite_inv hs (State.perform_inv _ _ _ _ hs)))

theorem State.translate_ok_inv {v : View} {a : Acc} {va : Word} {ok : PaKind → Bool} {x : Xlat} {s1 : State}
    (hs : s.Inv) (e : s.translate v a va ok = .ok (x, s1)) : s1.Inv :=
  (State.translate_inv v a va ok hs).ok e

theorem State.invalL2_inv (t : Nat) (va : Option Word) (asid : Option (BitVec 16)) (hs : s.Inv) :
    (s.invalL2 t va asid).Inv :=
  State.modTower_inv _ _ (State.foldl_inv _ (fun _ _ hu => State.appendHeat_inv _ _ _ hu) _ hs)

theorem State.inval_inv (va : Option Word) (asid : Option (BitVec 16)) (hs : s.Inv) : (s.inval va asid).Inv := by
  refine State.foldl_inv _ (fun _ _ hu => State.invalL2_inv _ _ _ hu) _ ?_
  exact hs

/-! ### Strips: closing, rewind and kill (R82, R83, R207, R208) -/

theorem State.pennant_inv (h : Nat) (st : Strip) (cut killed discarded : Bool) (hs : s.Inv) :
    (s.pennant h st cut killed discarded).Inv := by
  exact State.ite_inv hs (State.ite_inv (State.modHart_inv _ _ (State.perform_inv _ _ _ _ hs)) hs)

theorem State.closeStrip_inv (h : Nat) (killed discarded : Bool) (hs : s.Inv) :
    (s.closeStrip h killed discarded).Inv := by
  unfold State.closeStrip
  split
  · exact hs
  · exact State.modCtx_inv _ _ (State.pennant_inv _ _ _ _ _ (State.releaseBuf_inv _ _ hs))

theorem State.vfault_inv (h sub : Nat) (t : Word) (b : Bool) (hs : s.Inv) : (s.vfault h sub t b).Inv := hs

theorem State.becalm_inv (c why : Nat) (hs : s.Inv) : (s.becalm c why).Inv := hs

theorem State.rewind_inv (h : Nat) (st : Strip) (hs : s.Inv) : (s.rewind h st).Inv :=
  State.modCtx_inv _ _ (State.ite_inv hs hs)

theorem State.emptyCtx_inv (h : Nat) (hs : s.Inv) : (s.emptyCtx h).Inv :=
  State.modHart_inv _ _ (State.releaseAll_inv _ _ hs)

theorem State.killNow_inv (h src pa : Nat) (hs : s.Inv) : (s.killNow h src pa).Inv := by
  have h1 : ((s.modStrip h Strip.drained).closeStrip h true false).Inv := State.closeStrip_inv _ _ _ hs
  have h3 := State.emptyCtx_inv h (State.ite_inv (c :=
    ((s.modStrip h Strip.drained).closeStrip h true false).ownsArray h)
    (State.modCore_inv (coreOf h) (fun k => { k with tiles := [], zpoison := [], counters := [] }) h1) h1)
  exact State.ite_inv h3 h3

theorem State.kill_inv (h src pa : Nat) (hs : s.Inv) : (s.kill h src pa).Inv :=
  State.ite_inv hs (State.killNow_inv _ _ _ hs)

/-- A word that consumes an uncorrectable error keeps memory canonical, whether its strip rewinds or it kills (R207). -/
theorem State.consume_inv (h src pa : Nat) (hs : s.Inv) : (s.consume h src pa).Inv := by
  unfold State.consume
  split
  · split
    · exact State.kill_inv _ _ _ hs
    · exact State.rewind_inv _ _ hs
  · exact State.kill_inv _ _ _ hs

end Sys2Proof.Machine

namespace Sys2Proof.Machine
variable {s : State}

/-! ### The command queue (R43-R52) -/

theorem State.ringWrite_inv (h k : Nat) (c : Command) (hs : s.Inv) : (s.ringWrite h k c).Inv :=
  State.ite_inv (State.perform_inv _ _ _ _ hs) (State.perform_inv _ _ _ _ hs)

theorem State.pushCommand_inv (h : Nat) (c : Command) (hs : s.Inv) : (s.pushCommand h c).Inv :=
  State.ite_inv hs (State.modHart_inv _ _ (State.ringWrite_inv _ _ _ hs))

theorem State.refill_inv (h : Nat) (hs : s.Inv) : (s.refill h).Inv :=
  State.ite_inv hs (State.ite_inv (State.ite_inv hs hs) hs)

theorem State.startBlock_inv (h : Nat) (hs : s.Inv) : (s.startBlock h).Inv := by
  unfold State.startBlock
  split <;> exact hs

theorem State.beginBlock_inv (h : Nat) (hs : s.Inv) : (s.beginBlock h).Inv :=
  State.ite_inv (State.consume_inv _ _ _ (State.startBlock_inv _ hs)) (State.startBlock_inv _ hs)

/-! ### Saving and restoring a context (R203-R205) -/

/-- The state of an act that may stall has canonical memory. -/
def Slow.Inv : Slow → Prop
  | .done s => s.Inv
  | .wait s => s.Inv

theorem Slow.ite_inv {c : Prop} [Decidable c] {a b : Slow} (ha : a.Inv) (hb : b.Inv) : (if c then a else b).Inv := by
  split
  · exact ha
  · exact hb

theorem State.spillQueue_inv (h room : Nat) (l : List Command) (hs : s.Inv) : (s.spillQueue h room l).Inv := by
  induction l generalizing s room with
  | nil => unfold State.spillQueue; exact hs
  | cons c cs ih =>
    unfold State.spillQueue
    cases room with
    | zero => exact hs
    | succ n => exact ih n (State.modHart_inv _ _ (State.ringWrite_inv _ _ _ hs))

theorem State.keepImage_inv (h : Nat) (img : Image) (hs : s.Inv) : (s.keepImage h img).Inv :=
  State.ite_inv hs hs

theorem State.saveCtx_inv (h pa : Nat) (hs : s.Inv) : (s.saveCtx h pa).Inv := by
  have h1 : ((s.drainAll (coreOf h)).seal h).Inv := State.seal_inv _ (State.drainAll_inv _ hs)
  refine Slow.ite_inv hs (State.emptyCtx_inv _ (State.keepImage_inv _ _ (State.perform_inv _ _ _ _
    (State.spillQueue_inv _ _ _ ?_))))
  split
  · exact State.pennant_inv _ _ _ _ _ h1
  · exact h1

theorem State.loadImage_inv (h : Nat) (kvf tval : Word) (img : Image) (hs : s.Inv) :
    (s.loadImage h kvf tval img).Inv := by
  refine State.foldl_inv _ (fun _ _ ht => ?_) _ (by exact hs)
  exact State.ite_inv (State.modHart_inv _ _ (State.ringWrite_inv _ _ _ ht)) ht

theorem State.restoreCtx_inv (h pa : Nat) (hs : s.Inv) : (s.restoreCtx h pa).Inv := by
  unfold State.restoreCtx
  generalize s.headerWord pa = word
  lift_lets
  extract_lets c t held img s1 s2 s3
  have h1 : s1.Inv := State.ite_inv (State.ite_inv (State.settle_inv _ hs)
    (State.settle_inv _ (State.joinStalled_inv _ _ _ hs))) hs
  have h2 : s2.Inv := State.ite_inv (State.modCore_inv _ _ h1) h1
  have h3 : s3.Inv := State.ite_inv (State.modCore_inv _ _ h2) h2
  exact Slow.ite_inv hs (Slow.ite_inv h1 (Slow.ite_inv h2 (Slow.ite_inv h3 (Slow.ite_inv h3
    (State.settle_inv _ (State.loadImage_inv _ _ _ _ h3))))))

theorem State.abandonRestore_inv (h : Nat) (hs : s.Inv) : (s.abandonRestore h).Inv :=
  State.releaseAll_inv _ _ hs

/-! ### Accesses of a thread -/

theorem State.scalarPoisoned_inv (h pa : Nat) (hs : s.Inv) : (s.scalarPoisoned h pa).Inv := hs

theorem State.ask_inv (h : Nat) (a : Asker) (addr : Word) (pa : Nat) (hs : s.Inv) : (s.ask h a addr pa).Inv :=
  State.ite_inv hs hs

theorem State.awaitNaming_inv {addr : Word} {pa : Nat} {t : State} (hs : s.Inv) (e : s.awaitNaming addr pa = some t) :
    t.Inv := by
  unfold State.awaitNaming at e
  split at e
  · cases e; exact State.mod_inv _ (State.ask_inv _ _ _ _ hs)
  · cases e

theorem State.awaitRemote_inv {va : Word} {pa : Nat} {t : State} (hs : s.Inv) (e : s.awaitRemote va pa = some t) :
    t.Inv := State.awaitNaming_inv hs e

theorem State.writeMem_inv {h pa pbmt : Nat} {bs : List Byte} {t : State} (hs : s.Inv)
    (e : s.writeMem h pa pbmt bs = some t) : t.Inv := by
  unfold State.writeMem at e
  dsimp only at e
  split at e
  · cases e; exact State.writeLost_inv _ _ hs
  · split at e
    · cases e
    · cases e; exact State.ite_inv (State.drainOwn_inv _ _ hs) hs

theorem State.storeMem_inv {h : Nat} {va : Word} {bs : List Byte} {ok : PaKind → Bool} {t : State} (hs : s.Inv)
    (e : s.storeMem h va bs ok = .ok (some t)) : t.Inv := by
  have hm : Ends (fun _ => True) (fun o : Option State => ∀ u, o = some u → u.Inv) (s.storeMem h va bs ok) :=
    Ends.bind (State.translate_inv _ _ _ _ hs) fun _ h1 _ e1 => State.writeMem_inv h1 e1
  exact hm.ok e t rfl

/-- The state of a push has canonical memory. -/
def PushOut.Inv : PushOut → Prop
  | .ok s => s.Inv
  | .exc s _ => s.Inv
  | .stall s => s.Inv
  | .poison s => s.Inv

theorem State.spillOldest_inv (h : Nat) (hs : s.Inv) : (s.spillOldest h).Inv := by
  unfold State.spillOldest
  dsimp only
  split
  · exact hs
  · split
    · exact hs
    · split
      case h_5 e => exact State.modHart_inv _ _ (State.storeMem_inv hs e)
      all_goals exact hs

theorem State.push_inv (h : Nat) (a : Word) (hs : s.Inv) : (s.push h a).Inv := by
  have hp := State.spillOldest_inv h hs
  unfold State.push
  dsimp only
  split
  · exact hs
  · split
    all_goals
      next e => rw [e] at hp; exact hp

theorem State.flushRas_inv (h n : Nat) (hs : s.Inv) : (s.flushRas h n).Inv := by
  induction n generalizing s with
  | zero => exact hs
  | succ n ih =>
    have hp := State.spillOldest_inv h hs
    unfold State.flushRas
    split
    case h_1 e => rw [e] at hp; exact ih hp
    all_goals
      next e => rw [e] at hp; exact hp

/-! ### Writes of k-registers -/

/-- The state that a k-register write answers has canonical memory. -/
def KOut.Inv : KOut → Prop
  | .ok s => s.Inv
  | .illegal => True
  | .exc s _ => s.Inv
  | .wait _ s => s.Inv
  | .poison s => s.Inv

theorem KOut.ite_inv {c : Prop} [Decidable c] {a b : KOut} (ha : a.Inv) (hb : b.Inv) : (if c then a else b).Inv := by
  split
  · exact ha
  · exact hb

theorem kGuard_inv (b : Bool) (hs : s.Inv) : (kGuard b s).Inv := KOut.ite_inv trivial hs

theorem kwriteLpr_inv (h : Nat) (v : Word) (hs : s.Inv) : (kwriteLpr s h v).Inv :=
  kGuard_inv _ (State.settle_inv _ hs)

theorem State.discard_inv (h n : Nat) (hs : s.Inv) : (s.discard h n).Inv :=
  State.settle_inv _ (State.modCore_inv _ _ (State.modHart_inv _ _ (State.closeStrip_inv _ _ _ hs)))

theorem kwriteVq_inv (h mode : Nat) (v : Word) (hs : s.Inv) : (kwriteVq s h mode v).Inv :=
  KOut.ite_inv trivial (KOut.ite_inv hs (State.discard_inv _ _ hs))

theorem kwriteCtx_inv (h : Nat) (v : Word) (hs : s.Inv) : (kwriteCtx s h v).Inv := by
  have hd := State.saveCtx_inv h v.toNat hs
  refine KOut.ite_inv hs (KOut.ite_inv hs ?_)
  split
  all_goals
    next e => rw [e] at hd; exact hd

theorem kwriteCtxr_inv (h : Nat) (again : Bool) (v : Word) (hs : s.Inv) : (kwriteCtxr s h again v).Inv := by
  have hd := State.restoreCtx_inv h v.toNat hs
  refine KOut.ite_inv trivial (KOut.ite_inv hs (KOut.ite_inv hs (KOut.ite_inv trivial (KOut.ite_inv hs
    (KOut.ite_inv hs ?_)))))
  split
  all_goals
    next e => rw [e] at hd; exact hd

theorem kwriteRas_inv (h : Nat) (v : Word) (hs : s.Inv) : (kwriteRas s h v).Inv := by
  have hf := State.flushRas_inv h (s.hartAt h).ras.length
    (State.modHart_inv h (fun y => { y with spill := BitVec.ofNat 32 (fld v 32 32) }) hs)
  refine KOut.ite_inv trivial (KOut.ite_inv ?_ hs)
  split
  case h_3 => exact hs
  all_goals
    next e => rw [e] at hf; exact hf

theorem State.kwrite_inv (h mode by_ : Nat) (again : Bool) (n : Nat) (v : Word) (hs : s.Inv) :
    (s.kwrite h mode by_ again n v).Inv := by
  unfold State.kwrite
  split
  case h_8 => exact KOut.ite_inv hs hs
  case h_9 => exact KOut.ite_inv trivial (KOut.ite_inv hs hs)
  case h_10 => exact kwriteRas_inv _ _ hs
  case h_16 => exact kwriteLpr_inv _ _ hs
  case h_17 => exact kwriteVq_inv _ _ _ hs
  case h_20 => exact KOut.ite_inv trivial hs
  case h_22 => exact kwriteCtx_inv _ _ hs
  case h_23 => exact kwriteCtxr_inv _ _ _ hs
  case h_7 | h_11 | h_14 | h_18 | h_25 | h_27 | h_30 | h_31 | h_32 | h_35 => exact kGuard_inv _ hs
  all_goals exact hs

end Sys2Proof.Machine

namespace Sys2Proof.Machine
variable {s : State}

/-! ### Outcomes -/

/-- The next state of an outcome, if it has one, has canonical memory. -/
def OutInv : Host.Outcome State Fault Refusal → Prop
  | .next t => t.Inv
  | .fault _ => True
  | .refused _ => True

theorem OutInv.ite {c : Prop} [Decidable c] {a b : Host.Outcome State Fault Refusal} (ha : OutInv a) (hb : OutInv b) :
    OutInv (if c then a else b) := by
  split
  · exact ha
  · exact hb

/-! ### Loads and stores of a thread (R17, R317, R354) -/

theorem State.engineWrite_inv (mode off : Nat) (v : Word) (hs : s.Inv) : (s.engineWrite mode off v).Inv :=
  State.ite_inv hs (State.ite_inv (State.ite_inv hs (State.ite_inv hs hs)) (State.ite_inv hs hs))

theorem State.endWrite_inv (i : Instr) {f : State → State} (hf : ∀ t : State, t.Inv → (f t).Inv) {o : KOut} (hs : s.Inv)
    (ho : o.Inv) : (s.endWrite i f o).Inv := by
  cases o with
  | ok s1 => exact State.advance_inv (hf _ ho)
  | illegal => exact State.raise_inv _ hs
  | exc s1 e => exact State.raise_inv _ ho
  | wait w s1 => exact State.mod_inv _ ho
  | poison s1 => exact State.advance_inv ho

/-- The state that a load answers has canonical memory. -/
def LoadOut.Inv : LoadOut → Prop
  | .value _ s => s.Inv
  | .exc _ => True
  | .poison s => s.Inv
  | .wait s => s.Inv

theorem State.scalarLoad_inv (i : Instr) (a : Acc) (va : Word) (n : Nat) (ok : PaKind → Bool) (hs : s.Inv) :
    (s.scalarLoad i a va n ok).Inv := by
  unfold State.scalarLoad
  dsimp only
  split
  · exact hs
  · trivial
  · next x s1 e =>
    have h1 : s1.Inv := State.translate_ok_inv hs e
    split
    · split
      · exact h1
      · trivial
    · exact h1
    · split
      · next s2 e2 => exact State.awaitRemote_inv h1 e2
      · split
        · exact h1
        · exact h1

theorem State.scalarStore_inv (i : Instr) (va v : Word) (n : Nat) (ok : PaKind → Bool) (hs : s.Inv) :
    (s.scalarStore i va v n ok).Inv := by
  unfold State.scalarStore
  dsimp only
  split
  · exact hs
  · exact hs
  · next x s1 e =>
    have h1 : s1.Inv := State.translate_ok_inv hs e
    split
    · split
      · exact State.endWrite_inv _ (fun _ ht => ht) h1 (State.kwrite_inv _ _ _ _ _ _ h1)
      · exact h1
    · exact State.advance_inv (State.engineWrite_inv _ _ _ h1)
    · split
      · next s2 e2 => exact State.advance_inv (State.writeMem_inv h1 e2)
      · exact h1

/-! ### Asynchronous events (R202) -/

theorem State.takeMcheck_inv (h : Nat) (t : Word) (hs : s.Inv) : (s.takeMcheck h t).Inv :=
  State.takeTrap_inv _ _ _ _ (State.modHart_inv _ _ (State.ite_inv (State.abandonRestore_inv _ hs) hs))

theorem State.deliverVfault_inv (h : Nat) (hs : s.Inv) : (s.deliverVfault h).Inv :=
  State.takeTrap_inv _ _ _ _ (State.modHart_inv _ _ (State.seal_inv _ hs))

theorem State.takeEvent_inv (h cause : Nat) (hs : s.Inv) : (s.takeEvent h cause).Inv := by
  unfold State.takeEvent
  split
  · exact State.deliverVfault_inv _ hs
  all_goals exact hs

theorem State.boundary_inv {h : Nat} {t : State} (hs : s.Inv) (e : s.boundary h = some t) : t.Inv := by
  unfold State.boundary at e
  dsimp only at e
  split at e
  · split at e
    · cases e
    · cases e; exact State.takeMcheck_inv _ _ hs
  · split at e
    · split at e
      · cases e; exact State.takeEvent_inv _ _ hs
      · cases e
    · cases e

/-! ### The fetch of either stream -/

/-- The state that a fetch of the C-stream answers has canonical memory. -/
def FetchOut.Inv : FetchOut → Prop
  | .word _ s => s.Inv
  | .exc _ => True
  | .poison s => s.Inv
  | .wait s => s.Inv

theorem State.fetchC_inv (h : Nat) (hs : s.Inv) : (s.fetchC h).Inv := by
  unfold State.fetchC
  dsimp only
  split
  · trivial
  · split
    · exact hs
    · trivial
    · next x s1 e =>
      have h1 : s1.Inv := State.translate_ok_inv hs e
      split
      · exact State.modHart_inv _ _ (State.ask_inv _ _ _ _ h1)
      · split
        · exact h1
        · exact h1

/-- The state that a fetch of the V-stream answers has canonical memory. -/
def VFetchOut.Inv : VFetchOut → Prop
  | .word _ s => s.Inv
  | .fault _ _ => True
  | .poison _ _ => True
  | .wait s => s.Inv

theorem State.fetchV_inv (h : Nat) (hs : s.Inv) : (s.fetchV h).Inv := by
  unfold State.fetchV
  dsimp only
  split
  · trivial
  · trivial
  · trivial
  · trivial
  · next x s1 e =>
    have h1 : s1.Inv := State.translate_ok_inv hs e
    split
    · exact State.modCtx_inv _ _ (State.ask_inv _ _ _ _ h1)
    · split
      · trivial
      · exact h1

/-! ### Instructions of the C-stream -/

theorem writeX_inv (d : XReg) (w : Word) (hs : s.Inv) : OutInv (writeX s d w) := hs

theorem State.endLoad_inv (d : XReg) (f : Word → Word) {o : LoadOut} (hs : s.Inv) (ho : o.Inv) :
    (s.endLoad d f o).Inv := by
  cases o with
  | value v s1 => exact State.done_inv _ _ ho
  | exc e => exact State.raise_inv _ hs
  | poison s1 => exact State.advance_inv ho
  | wait s1 => exact ho

theorem State.release_inv (sc : Scope) (hs : s.Inv) : (s.release sc).Inv := by
  cases sc with
  | core => exact hs
  | dev => exact State.drainAll_inv _ hs
  | sys => exact State.drainAll_inv _ hs

theorem State.atomicWrite_inv (pa : Nat) (bs : List Byte) (rel : Bool) (sc : Scope) (hs : s.Inv) :
    Ends State.Inv State.Inv (s.atomicWrite pa bs rel sc) := by
  have h1 : (if rel then s.release sc else s).Inv := State.ite_inv (State.release_inv _ hs) hs
  exact Ends.ite (State.mod_inv _ h1) (State.perform_inv _ _ _ _ (State.drainOwn_inv _ _ h1))

theorem State.atomic_inv (d : XReg) (va : Word) (dbl : Bool) (o : MemOrd) (sc : Scope) (f : Word → Option Word)
    (hs : s.Inv) : (s.atomic d va dbl o sc f).Inv := by
  unfold State.atomic
  dsimp only
  split
  · exact hs
  · split
    · exact hs
    · exact hs
    · next x s1 e =>
      have h1 : s1.Inv := State.translate_ok_inv hs e
      split
      · next s2 e2 => exact State.awaitRemote_inv h1 e2
      · split
        · exact h1
        · split
          · exact h1
          · split
            · split
              · exact h1
              · next s2 e2 => exact State.done_inv _ _ (State.writeMem_inv h1 e2)
            · have hw := fun pa bs => State.atomicWrite_inv pa bs (isRelease o) (s1.atomScope x sc) h1
              split
              · next s2 e2 => exact (hw _ _).error e2
              · next s2 e2 => exact State.done_inv _ _ ((hw _ _).ok e2)

theorem execLd_inv (d a : XReg) (wd : LdWidth) (o : BitVec 13) (hs : s.Inv) : OutInv (execLd d a wd o s) :=
  OutInv.ite (State.endLoad_inv _ _ hs (State.scalarLoad_inv _ _ _ _ _ hs)) hs

theorem execSt_inv (d a : XReg) (wd : StWidth) (o : BitVec 13) (hs : s.Inv) : OutInv (execSt d a wd o s) :=
  OutInv.ite (State.scalarStore_inv _ _ _ _ _ hs) hs

theorem execLdacq_inv (d a : XReg) (dbl : Bool) (sc : Scope) (hs : s.Inv) : OutInv (execLdacq d a dbl sc s) :=
  OutInv.ite (State.endLoad_inv _ _ hs (State.scalarLoad_inv _ _ _ _ _ hs)) hs

theorem execStrel_inv (a b : XReg) (dbl : Bool) (sc : Scope) (hs : s.Inv) : OutInv (execStrel a b dbl sc s) := by
  refine OutInv.ite (OutInv.ite (State.scalarStore_inv _ _ _ _ _ hs) ?_) hs
  split
  · exact hs
  · exact hs
  · next x s1 e =>
    have h2 : (s1.release sc).Inv := State.release_inv _ (State.translate_ok_inv hs e)
    exact OutInv.ite (State.advance_inv (State.perform_inv _ _ _ _ h2)) (State.mod_inv _ h2)

theorem execMwatch_inv (d a : XReg) (hs : s.Inv) : OutInv (execMwatch d a s) := by
  refine OutInv.ite ?_ hs
  split
  · exact hs
  · exact hs
  · next x s1 e =>
    have h1 : s1.Inv := State.translate_ok_inv hs e
    refine OutInv.ite hs ?_
    split
    · next s2 e2 => exact State.awaitRemote_inv h1 e2
    · split
      · exact h1
      · exact h1

theorem execMwait_inv (hs : s.Inv) : OutInv (execMwait s) := OutInv.ite hs hs

theorem execMwaitWake_inv (hs : s.Inv) : OutInv (execMwaitWake s) := OutInv.ite hs hs

theorem execJunctionLineDrain_inv (core line : Nat) (hs : s.Inv) : OutInv (execJunctionLineDrain core line s) := by
  unfold execJunctionLineDrain
  split
  · exact State.drainLine_inv _ _ hs
  · exact hs

theorem execFsv_inv (hs : s.Inv) : OutInv (execFsv s) := State.advance_inv (State.release_inv _ hs)

theorem execFvs_inv (hs : s.Inv) : OutInv (execFvs s) := OutInv.ite hs hs

theorem State.fallOrders_inv (sc : Scope) (hs : s.Inv) : (s.fallOrders sc).Inv := by
  cases sc with
  | core => exact hs
  | dev => exact State.release_inv _ hs
  | sys => exact State.release_inv _ hs

theorem execFall_inv (sc : Scope) (hs : s.Inv) : OutInv (execFall sc s) := by
  have h1 : (if s.blocksEnded then s.fallOrders sc else s).Inv := State.ite_inv (State.fallOrders_inv _ hs) hs
  exact OutInv.ite (State.advance_inv h1) (State.mod_inv _ h1)

theorem execFenceStallEnd_inv (hs : s.Inv) : OutInv (execFenceStallEnd s) := by
  unfold execFenceStallEnd
  split
  · exact execFall_inv _ hs
  · exact execFvs_inv hs
  · exact hs

/-! ### Jumps, calls and returns (R195, R303) -/

theorem State.callTo_inv (t : Word) (hs : s.Inv) : (s.callTo t).Inv := by
  have hp := State.push_inv s.cur (s.pc + 4) hs
  unfold State.callTo
  split
  all_goals
    next e => rw [e] at hp; exact hp

theorem execJr_inv (a : XReg) (hs : s.Inv) : OutInv (execJr a s) := OutInv.ite hs hs

theorem execCallr_inv (a : XReg) (hs : s.Inv) : OutInv (execCallr a s) := OutInv.ite (State.callTo_inv _ hs) hs

theorem State.refillRet_inv (hs : s.Inv) : s.refillRet.Inv := by
  unfold State.refillRet
  dsimp only
  split
  · exact hs
  · exact hs
  · exact hs
  · exact hs
  · next x s1 e =>
    have h1 : s1.Inv := State.translate_ok_inv hs e
    split
    · next s2 e2 => exact State.awaitNaming_inv h1 e2
    · split
      · exact h1
      · exact State.ite_inv h1 h1

theorem execRet_inv (hs : s.Inv) : OutInv (execRet s) := by
  unfold execRet
  split
  · exact hs
  · exact OutInv.ite hs (State.refillRet_inv hs)

theorem execBcc_inv (a b : XReg) (c : Cond) (o : BitVec 13) (hs : s.Inv) :
    OutInv (execBcc a b c o s) := OutInv.ite hs hs

/-! ### vdisp and the replies (R43-R59) -/

theorem State.dispatch_inv (a : Word) (n : Nat) (hs : s.Inv) : (s.dispatch a n).Inv :=
  State.mod_inv _ (State.pushCommand_inv _ _ hs)

theorem execVdisp_inv (a : XReg) (n : BitVec 6) (hs : s.Inv) : OutInv (execVdisp a n s) :=
  OutInv.ite hs (OutInv.ite hs (OutInv.ite hs (OutInv.ite hs (State.advance_inv (State.dispatch_inv _ _ hs)))))

theorem execVdispStallEnd_inv (hs : s.Inv) : OutInv (execVdispStallEnd s) := by
  unfold execVdispStallEnd
  split
  · exact execVdisp_inv _ _ hs
  · exact hs

theorem execRqget_inv (d : XReg) (hs : s.Inv) : OutInv (execRqget d s) := by
  unfold execRqget
  split
  · exact State.ite_inv hs hs
  · exact hs

theorem execRqgetWake_inv (hs : s.Inv) : OutInv (execRqgetWake s) := by
  unfold execRqgetWake
  split
  · exact execRqget_inv _ hs
  · exact hs

end Sys2Proof.Machine

namespace Sys2Proof.Machine
variable {s : State}

/-! ### Harts and gangs of harts (R20-R27) -/

theorem State.setMembers_inv (l : List Nat) (n : Nat) (hs : s.Inv) : (s.setMembers l n).Inv :=
  State.foldl_inv _ (fun _ _ ht => State.modHart_inv _ _ ht) _ hs

theorem State.barrierUpdate_inv (h pa : Nat) (f : Word → Word) (hs : s.Inv) : (s.barrierUpdate h pa f).2.Inv :=
  State.perform_inv _ _ _ _ (State.drainAll_inv _ hs)

/-- The state of an arrival has canonical memory. -/
def Arrival.Inv : Arrival → Prop
  | .gen _ s => s.Inv
  | .exc _ => True
  | .poison s => s.Inv

theorem State.arrive_inv (hs : s.Inv) : s.arrive.Inv := by
  unfold State.arrive
  split
  · trivial
  · next pa _ =>
    have hb := State.barrierUpdate_inv s.cur pa (fun w => arrived w s.hart.members) hs
    split
    · exact hs
    · generalize s.barrierUpdate s.cur pa (fun w => arrived w s.hart.members) = u at hb
      exact hb

theorem State.waitGen_inv (w : Wait) (g : Nat) (hs : s.Inv) : (s.waitGen w g).Inv := by
  unfold State.waitGen
  split
  · exact hs
  · exact State.ite_inv (State.ite_inv hs hs) (State.ite_inv hs hs)

theorem execGarr_inv (d : XReg) (hs : s.Inv) : OutInv (execGarr d s) := by
  have ha := State.arrive_inv hs
  refine OutInv.ite hs ?_
  split
  · next e => rw [e] at ha; exact State.done_inv _ _ ha
  · exact hs
  · next e => rw [e] at ha; exact State.advance_inv ha

theorem execGwait_inv (a : XReg) (hs : s.Inv) : OutInv (execGwait a s) :=
  OutInv.ite hs (State.mod_inv _ (State.waitGen_inv _ _ hs))

theorem execGbar_inv (d : XReg) (hs : s.Inv) : OutInv (execGbar d s) := by
  have ha := State.arrive_inv hs
  refine OutInv.ite hs (OutInv.ite (State.waitGen_inv _ _ hs) ?_)
  split
  · exact hs
  · next e => rw [e] at ha; exact State.advance_inv ha
  · next e => rw [e] at ha; exact State.waitGen_inv _ _ (State.mod_inv _ (State.mod_inv _ ha))

theorem execGwaitWake_inv (hs : s.Inv) : OutInv (execGwaitWake s) := by
  unfold execGwaitWake
  split
  · exact execGwait_inv _ hs
  · split
    · exact execGbar_inv _ hs
    · exact hs

theorem State.depart_inv (h : Nat) (hs : s.Inv) : (s.depart h).Inv := by
  refine State.ite_inv hs (State.setMembers_inv _ _ ?_)
  split
  · exact State.ite_inv hs (State.barrierUpdate_inv _ _ _ hs)
  · exact hs

theorem State.exitHart_inv (h : Nat) (hs : s.Inv) : (s.exitHart h).Inv :=
  State.modCtx_inv _ _ (State.modHart_inv _ _ (State.modCore_inv _ _ (State.emptyCtx_inv _ (State.depart_inv _ hs))))

theorem execHexit_inv (hs : s.Inv) : OutInv (execHexit s) :=
  OutInv.ite hs (OutInv.ite (State.exitHart_inv _ hs) hs)

theorem execHexitComplete_inv (hs : s.Inv) : OutInv (execHexitComplete s) := OutInv.ite (State.exitHart_inv _ hs) hs

theorem State.endYields_inv (h : Nat) (hs : s.Inv) : (s.endYields h).Inv :=
  State.foldl_inv _ (fun _ _ ht => State.ite_inv (State.modHart_inv _ _ ht) ht) _ hs

theorem State.pin_inv (h n : Nat) (hs : s.Inv) : (s.pin h n).Inv := State.settle_inv _ (State.modCore_inv _ _ hs)

theorem State.joinGang_inv (h : Nat) (hs : s.Inv) : (s.joinGang h).Inv :=
  State.ite_inv (State.pin_inv _ _ (State.modHart_inv _ _ (State.setMembers_inv _ _ hs)))
    (State.pin_inv _ _ (State.pin_inv _ _ (State.modHart_inv _ _ (State.modHart_inv _ _ hs))))

theorem execHspawn_inv (d a b : XReg) (hs : s.Inv) : OutInv (execHspawn d a b s) := by
  unfold execHspawn
  split
  · exact hs
  · exact State.done_inv _ _ (State.ite_inv (State.joinGang_inv _ (State.modHart_inv _ _ hs))
      (State.modHart_inv _ _ hs))

theorem execVsyncWake_inv (hs : s.Inv) : OutInv (execVsyncWake s) := OutInv.ite (OutInv.ite hs hs) hs

theorem execBlockStart_inv (hs : s.Inv) : OutInv (execBlockStart s) := OutInv.ite (State.beginBlock_inv _ hs) hs

/-! ### System instructions and k-registers -/

theorem execSinval_inv (a b : XReg) (hs : s.Inv) : OutInv (execSinval a b s) :=
  OutInv.ite hs (OutInv.ite (State.ite_inv hs hs)
    (State.ite_inv (State.advance_inv (State.inval_inv _ _ (State.release_inv _ hs)))
      (State.mod_inv _ (State.mod_inv _ (State.inval_inv _ _ (State.release_inv _ hs))))))

theorem State.writeK_inv (i : Instr) (n : Nat) (w : Word) {f : State → State} (hf : ∀ t : State, t.Inv → (f t).Inv)
    (hs : s.Inv) : (s.writeK i n w f).Inv := by
  unfold State.writeK
  split
  · exact hs
  · exact State.endWrite_inv _ hf hs (State.kwrite_inv _ _ _ _ _ _ hs)

theorem execKread_inv (d : XReg) (k : KNum) (hs : s.Inv) : OutInv (execKread d k s) := by
  unfold execKread
  split <;> exact hs

theorem execKwrite_inv (a : XReg) (k : KNum) (hs : s.Inv) : OutInv (execKwrite a k s) :=
  State.writeK_inv _ _ _ (fun _ ht => ht) hs

theorem State.fieldAccess_inv (i : Instr) (d : XReg) (n : Nat) (f : Word → Word) (hs : s.Inv) :
    (s.fieldAccess i d n f).Inv := by
  unfold State.fieldAccess
  split
  · exact hs
  · exact State.writeK_inv _ _ _ (fun _ ht => State.mod_inv _ ht) hs

/-- A write of a k-register that the opcode table names as an event of its own. -/
theorem State.writeNamed_inv (n : Nat) (a : XReg) (hs : s.Inv) : (s.writeNamed n a).Inv :=
  State.writeK_inv _ _ _ (fun _ ht => ht) hs

theorem execKrasFlush_inv (hs : s.Inv) : OutInv (execKrasFlush s) := State.writeK_inv _ _ _ (fun _ ht => ht) hs

theorem State.windowFault_inv (pa : Nat) (hs : s.Inv) : (s.windowFault pa).Inv := State.ite_inv hs hs

theorem State.storeKpreq_inv (target : Nat) (w : Word) (hs : s.Inv) : (s.storeKpreq target w).Inv :=
  State.ite_inv (State.windowFault_inv _ hs) (State.endWrite_inv _ (fun _ ht => ht) hs
    (State.kwrite_inv _ _ _ _ _ _ hs))

theorem execEngineWindowWrite_inv (off : Nat) (v : Word) (hs : s.Inv) : OutInv (execEngineWindowWrite off v s) :=
  OutInv.ite (State.windowFault_inv _ hs) (State.advance_inv (State.engineWrite_inv _ _ _ hs))

theorem execStoreStallEnd_inv (hs : s.Inv) : OutInv (execStoreStallEnd s) := by
  unfold execStoreStallEnd
  split
  · exact execSt_inv _ _ _ _ hs
  · exact execStrel_inv _ _ _ _ hs
  · exact State.atomic_inv _ _ _ _ _ _ hs
  · exact State.atomic_inv _ _ _ _ _ _ hs
  · exact State.callTo_inv _ hs
  · exact execCallr_inv _ hs
  · exact execKwrite_inv _ _ hs
  · exact State.fieldAccess_inv _ _ _ _ hs
  · exact State.fieldAccess_inv _ _ _ _ hs
  · exact hs

/-! ### Breakpoints and events of a hart (R202, R223) -/

theorem State.hitC_inv (hs : s.Inv) : s.hitC.Inv := State.ite_inv hs hs

theorem State.hitV_inv (h : Nat) (hs : s.Inv) : (s.hitV h).Inv := State.ite_inv hs hs

theorem execBreakpointHit_inv (vs : Bool) (hs : s.Inv) : OutInv (execBreakpointHit vs s) :=
  OutInv.ite (OutInv.ite (State.hitV_inv _ hs) hs) (OutInv.ite (State.hitC_inv hs) hs)

theorem State.pastWfi_inv (hs : s.Inv) : s.pastWfi.Inv := State.ite_inv hs hs

theorem execAsyncEventTaken_inv (hs : s.Inv) : OutInv (execAsyncEventTaken s) := by
  refine OutInv.ite hs ?_
  show ((s.pastWfi.boundary s.cur).getD s).Inv
  cases e : s.pastWfi.boundary s.cur with
  | none => exact hs
  | some t => exact State.boundary_inv (State.pastWfi_inv hs) e

theorem execVectorFaultDelivery_inv (hs : s.Inv) : OutInv (execVectorFaultDelivery s) :=
  OutInv.ite (State.deliverVfault_inv _ (State.pastWfi_inv hs)) hs

theorem execMachineCheckTaken_inv (hs : s.Inv) : OutInv (execMachineCheckTaken s) := by
  unfold execMachineCheckTaken
  dsimp only
  split
  · exact OutInv.ite hs (State.takeMcheck_inv _ _ (State.pastWfi_inv hs))
  · exact hs

theorem execCStreamFetchFault_inv (f : FetchFault) (hs : s.Inv) : OutInv (execCStreamFetchFault f s) := by
  have hf := State.fetchC_inv s.cur hs
  unfold execCStreamFetchFault
  split
  · exact hs
  · exact hs
  · split
    · next e => rw [e] at hf; exact hf
    · exact hs

end Sys2Proof.Machine

namespace Sys2Proof.Machine
variable {s : State}

/-! ### How a word of the V-stream ends (R60, R207, R285) -/

/-- The states that a stopped word has reached have canonical memory. -/
def VStop.Inv : VStop → Prop
  | .fault _ _ => True
  | .partly s _ _ => s.Inv
  | .segment s _ _ => s.Inv
  | .poison _ _ => True
  | .poisoned s _ _ => s.Inv
  | .wait _ s => s.Inv
  | .far _ _ => True

/-- A word that keeps memory canonical, in its state and in those where it stops. -/
abbrev Keeps (r : Except VStop State) : Prop := Ends VStop.Inv State.Inv r

/-- A check of a word, which stops it in states with canonical memory alone. -/
abbrev Checks {α : Type} (r : Except VStop α) : Prop := Ends VStop.Inv (fun _ => True) r

/-- What follows a check, or any result of which nothing is asked. -/
theorem Ends.seq {ε α β : Type} {E : ε → Prop} {B : β → Prop} {r : Except ε α} {f : α → Except ε β}
    (h : Ends E (fun _ => True) r) (k : ∀ a, Ends E B (f a)) : Ends E B (r >>= f) := h.bind fun a _ => k a

theorem State.passWord_inv (h : Nat) (hs : s.Inv) : (s.passWord h).Inv := hs

theorem State.countIssue_inv (h : Nat) (hs : s.Inv) : (s.countIssue h).Inv := hs

theorem State.stopWord_inv (h : Nat) {e : VStop} (hs : s.Inv) (he : e.Inv) : (s.stopWord h e).Inv := by
  cases e with
  | fault sub t => exact State.modCtx_inv _ _ (State.vfault_inv _ _ _ _ hs)
  | partly s1 sub t => exact State.modCtx_inv _ _ (State.vfault_inv _ _ _ _ he)
  | segment s1 sub t => exact State.modCtx_inv _ _ (State.vfault_inv _ _ _ _ he)
  | poison src pa => exact State.consume_inv _ _ _ hs
  | poisoned s1 src pa => exact State.consume_inv _ _ _ he
  | wait w s1 => exact State.modCtx_inv _ _ he
  | far a pa => exact State.modCtx_inv _ _ (State.ask_inv _ _ _ _ hs)

theorem endB_inv {r : Except VStop State} (hs : s.Inv) (hr : Keeps r) : OutInv (endB s r) := by
  cases r with
  | ok s1 => exact State.passWord_inv _ hr
  | error e => exact State.stopWord_inv _ hs hr

theorem endV_inv {r : Except VStop State} (hs : s.Inv) (hr : Keeps r) : OutInv (endV s r) := by
  cases r with
  | ok s1 => exact endB_inv (r := .ok _) hs (State.countIssue_inv s1.cur hr)
  | error e =>
    cases e with
    | poison src pa => exact endB_inv (r := .error (.poisoned _ _ _)) hs (State.countIssue_inv s.cur hs)
    | poisoned s1 src pa => exact endB_inv (r := .error (.poisoned _ _ _)) hs (State.countIssue_inv s1.cur hr)
    | fault _ _ | partly _ _ _ | segment _ _ _ | wait _ _ | far _ _ => exact endB_inv hs hr

theorem State.consumeB_inv {t : State} (i : Instr) (hs : s.Inv) (ht : t.Inv) : (s.consumeB t i).Inv := by
  have h1 : ∀ {c : Prop} [Decidable c], (if c then s.seal s.cur else s).Inv :=
    State.ite_inv (State.seal_inv _ hs) hs
  exact State.ite_inv ht (State.consume_inv _ _ _ (State.ite_inv (State.countIssue_inv _ h1) h1))

theorem State.guardB_inv (i : Instr) {o : Host.Outcome State Fault Refusal} (hs : s.Inv) (ho : OutInv o) :
    OutInv (s.guardB i o) := by
  refine OutInv.ite ?_ ho
  cases o with
  | next t => exact State.consumeB_inv i hs ho
  | fault f => exact ho
  | refused r => exact ho

/-! ### The checks of a word (R64, R65, R91, R285) -/

theorem need_checks (c : Bool) {f : VStop} (hf : f.Inv) : Checks (need c f) := by
  unfold need
  split
  · trivial
  · exact hf

/-- A check whose stop is a vector fault with nothing performed. -/
theorem need_fault (c : Bool) (sub : Nat) (t : Word) : Checks (need c (.fault sub t)) := need_checks c trivial

theorem sourceTag_checks (x : VCtx) (w : Sweep) (v : VReg) : Checks (sourceTag x w v) := by
  unfold sourceTag
  split
  · split <;> trivial
  · trivial

theorem destTag_checks (x : VCtx) (w : Sweep) (v : VReg) : Checks (destTag x w v) := by
  unfold destTag
  split <;> trivial

theorem sourceB_checks (x : VCtx) (w : Sweep) (b : VSrc) (t : Tag) : Checks (sourceB x w b t) := by
  cases b with
  | vec v => exact (sourceTag_checks x w v).seq fun _ => trivial
  | breg r => trivial
  | imm i => trivial

theorem resultTag_checks (w : Sweep) (l : List Tag) (ct : CType) (d : Tag) : Checks (resultTag w l ct d) :=
  Ends.ite trivial trivial

theorem elementChecks_checks (x : VCtx) (w : Sweep) (c : VCtl) (l : List VReg) : Checks (elementChecks x w c l) :=
  need_fault _ _ _

theorem logicTag_checks (w : Sweep) (ta tb d : Tag) : Checks (logicTag w ta tb d) := by
  unfold logicTag
  split
  · split
    · exact Ends.ite trivial trivial
    · trivial
  · exact Ends.ite trivial trivial

theorem State.noZp_checks (h : Nat) (va : VReg) : Checks (s.noZp h va) := need_fault _ _ _

theorem State.reduceChecks_checks (h : Nat) (vd va : VReg) (c : VCtl) : Checks (s.reduceChecks h vd va c) :=
  (elementChecks_checks _ _ _ _).seq fun _ => sourceTag_checks _ _ _

theorem containerTag_checks (x : VCtx) (w : Sweep) (v : VReg) : Checks (containerTag x w v) :=
  (sourceTag_checks _ _ _).seq fun _ => (need_fault _ _ _).seq fun _ => trivial

theorem permuteChecks_checks (x : VCtx) (w : Sweep) (vd : VReg) (l : List VReg) (c : VCtl) :
    Checks (permuteChecks x w vd l c) :=
  (elementChecks_checks _ _ _ _).seq fun _ => need_fault _ _ _

/-! ### The sweep (R65, R71, R81) -/

theorem State.touch_inv (h : Nat) (t : Touch) (hs : s.Inv) : (s.touch h t).Inv := by
  unfold State.touch
  dsimp only
  split
  · exact hs
  · exact State.ite_inv hs (State.ite_inv (State.seal_inv _ (State.modStrip_inv _ _ (State.modStrip_inv _ _ hs)))
      (State.modStrip_inv _ _ (State.modStrip_inv _ _ hs)))

theorem State.laneChecked_inv (h : Nat) (c : Bool) (hs : s.Inv) : Keeps (s.laneChecked h c) := Ends.ite hs hs

theorem State.sweepTouch_inv (h : Nat) (w : Sweep) (t : Touch) (hs : s.Inv) : Keeps (s.sweepTouch h w t) :=
  Ends.ite (State.touch_inv _ _ hs) (State.touch_inv _ _ hs)

theorem State.sweepApply_inv (h : Nat) (w : Sweep) (vd : VReg) (t : Tag) (u : Bool) (fate : Nat → Nat → Fate)
    (rsto : Bool) (val : Nat → Nat → Nat → Nat × Events) (hs : s.Inv) : Keeps (s.sweepApply h w vd t u fate rsto val) :=
  State.laneChecked_inv _ _ (State.raiseFlags_inv _ _ (State.modCtx_inv _ _ hs))

theorem State.sweepWrite_inv (h : Nat) (w : Sweep) (vd : VReg) (t : Tag) (reads : Touch) (fate : Nat → Nat → Fate)
    (rsto : Bool) (val : Nat → Nat → Nat → Nat × Events) (hs : s.Inv) :
    Keeps (s.sweepWrite h w vd t reads fate rsto val) :=
  Ends.ite hs ((State.sweepTouch_inv _ _ _ hs).bind fun _ h1 => State.sweepApply_inv _ _ _ _ _ _ _ _ h1)

theorem State.maskWrite_inv (h : Nat) (w : Sweep) (md : Nat) (reads : Touch) (ev : Events)
    (val : Nat → Nat → Option Bool) (hs : s.Inv) : Keeps (s.maskWrite h w md reads ev val) :=
  Ends.ite hs ((State.sweepTouch_inv _ _ _ hs).bind fun _ h1 =>
    State.laneChecked_inv _ _ (State.raiseFlags_inv _ _ (State.modCtx_inv _ _ h1)))

/-! ### Element-wise words -/

/-- The computation type of sources, or a tag fault. -/
theorem ctype_checks (l : List Tag) :
    Checks (match ctype l with
      | some t => .ok t
      | none => .error tagFault : Except VStop CType) := by
  split <;> trivial

theorem State.elementwise_inv (h : Nat) (vd : VReg) (a b c : Source) (used : List Source) (rm : Rm) (sat : Bool)
    (ctl : VCtl) (op : EOp) (hs : s.Inv) : Keeps (s.elementwise h vd a b c used rm sat ctl op) :=
  (ctype_checks _).seq fun _ => (need_fault _ _ _).seq fun _ => (destTag_checks _ _ _).seq fun _ =>
    (resultTag_checks _ _ _ _).seq fun _ => State.sweepWrite_inv _ _ _ _ _ _ _ _ hs

theorem State.binary_inv (h : Nat) (vd va : VReg) (b : VSrc) (rm : Rm) (sat : Bool) (ctl : VCtl) (op : EOp)
    (hs : s.Inv) : Keeps (s.binary h vd va b rm sat ctl op) :=
  (need_fault _ _ _).seq fun _ => (elementChecks_checks _ _ _ _).seq fun _ => (sourceTag_checks _ _ _).seq fun _ =>
    (sourceB_checks _ _ _ _).seq fun _ => State.elementwise_inv _ _ _ _ _ _ _ _ _ _ hs

theorem State.ternary_inv (h : Nat) (vd va : VReg) (b : VSrc) (vc : VReg) (rm : Rm) (ctl : VCtl) (op : EOp)
    (hs : s.Inv) : Keeps (s.ternary h vd va b vc rm ctl op) :=
  (need_fault _ _ _).seq fun _ => (elementChecks_checks _ _ _ _).seq fun _ => (sourceTag_checks _ _ _).seq fun _ =>
    (sourceB_checks _ _ _ _).seq fun _ => (sourceTag_checks _ _ _).seq fun _ =>
      State.elementwise_inv _ _ _ _ _ _ _ _ _ _ hs

theorem State.unary_inv (h : Nat) (vd va : VReg) (rm : Rm) (ctl : VCtl) (op : EOp) (hs : s.Inv) :
    Keeps (s.unary h vd va rm ctl op) :=
  (elementChecks_checks _ _ _ _).seq fun _ => (sourceTag_checks _ _ _).seq fun _ =>
    State.elementwise_inv _ _ _ _ _ _ _ _ _ _ hs

theorem State.minmax_inv (h : Nat) (vd va : VReg) (b : VSrc) (rm : Rm) (c : VCtl) (big p : Bool) (hs : s.Inv) :
    Keeps (s.minmax h vd va b rm c big p) :=
  (need_fault _ _ _).seq fun _ => (elementChecks_checks _ _ _ _).seq fun _ => (State.noZp_checks _ _).seq fun _ =>
    State.binary_inv _ _ _ _ _ _ _ _ hs

theorem State.logic_inv (h : Nat) (vd va : VReg) (b : VSrc) (c : VCtl) (f : Nat → Nat → Nat) (hs : s.Inv) :
    Keeps (s.logic h vd va b c f) :=
  (need_fault _ _ _).seq fun _ => (elementChecks_checks _ _ _ _).seq fun _ => (sourceTag_checks _ _ _).seq fun _ =>
    (sourceB_checks _ _ _ _).seq fun _ => (destTag_checks _ _ _).seq fun _ => (logicTag_checks _ _ _ _).seq fun _ =>
      State.sweepWrite_inv _ _ _ _ _ _ _ _ hs

theorem State.shift_inv (h : Nat) (vd va : VReg) (b : VSrc) (c : VCtl) (sat : Bool) (f : W32 → Nat → W32) (hs : s.Inv) :
    Keeps (s.shift h vd va b c sat f) :=
  (need_fault _ _ _).seq fun _ => (elementChecks_checks _ _ _ _).seq fun _ => (sourceTag_checks _ _ _).seq fun _ =>
    (sourceB_checks _ _ _ _).seq fun _ => (need_fault _ _ _).seq fun _ => (ctype_checks _).seq fun _ =>
      (destTag_checks _ _ _).seq fun _ => (resultTag_checks _ _ _ _).seq fun _ => (need_fault _ _ _).seq fun _ =>
        State.sweepWrite_inv _ _ _ _ _ _ _ _ hs

theorem State.compare_inv (h : Nat) (cc : VCond) (md : MReg) (va : VReg) (b : VSrc) (c : MCtl) (hs : s.Inv) :
    Keeps (s.compare h cc md va b c) :=
  (need_fault _ _ _).seq fun _ => (sourceTag_checks _ _ _).seq fun _ => (sourceB_checks _ _ _ _).seq fun _ =>
    (ctype_checks _).seq fun _ => (need_fault _ _ _).seq fun _ => State.maskWrite_inv _ _ _ _ _ _ hs

theorem State.select_inv (h : Nat) (vd va : VReg) (b : VSrc) (c : VCtl) (hs : s.Inv) :
    Keeps (s.select h vd va b c) := by
  refine (need_fault _ _ _).seq fun _ => (elementChecks_checks _ _ _ _).seq fun _ =>
    (sourceTag_checks _ _ _).seq fun _ =>
    (sourceB_checks _ _ _ _).seq fun _ => (destTag_checks _ _ _).seq fun _ => Ends.seq (Ends.ite ?_ ?_) fun _ =>
      (need_fault _ _ _).seq fun _ => State.sweepWrite_inv _ _ _ _ _ _ _ _ hs
  · exact Ends.ite trivial trivial
  · split
    · exact resultTag_checks _ _ _ _
    · trivial

theorem State.convert_inv (h : Nat) (vd va : VReg) (rm : Rm) (c : VCtl) (hs : s.Inv) : Keeps (s.convert h vd va rm c) :=
  (elementChecks_checks _ _ _ _).seq fun _ => (sourceTag_checks _ _ _).seq fun _ => (destTag_checks _ _ _).seq fun _ =>
    (need_fault _ _ _).seq fun _ => State.sweepWrite_inv _ _ _ _ _ _ _ _ hs

theorem State.scale_inv (h : Nat) (vd va : VReg) (b : VSrc) (rm : Rm) (c : VCtl) (hs : s.Inv) :
    Keeps (s.scale h vd va b rm c) :=
  (need_fault _ _ _).seq fun _ => (elementChecks_checks _ _ _ _).seq fun _ => (sourceTag_checks _ _ _).seq fun _ =>
    (sourceB_checks _ _ _ _).seq fun _ => (need_fault _ _ _).seq fun _ => (destTag_checks _ _ _).seq fun _ =>
      (need_fault _ _ _).seq fun _ => State.sweepWrite_inv _ _ _ _ _ _ _ _ hs

theorem State.function_inv (h : Nat) (vd va : VReg) (rm : Rm) (c : VCtl) (m : Bool) (f : Draw → Num → FnRes)
    (hs : s.Inv) : Keeps (s.function h vd va rm c m f) :=
  (elementChecks_checks _ _ _ _).seq fun _ => (sourceTag_checks _ _ _).seq fun _ => (destTag_checks _ _ _).seq fun _ =>
    (need_fault _ _ _).seq fun _ => State.sweepWrite_inv _ _ _ _ _ _ _ _ hs

theorem execVabs_inv (vd va : VReg) (rm : Rm) (c : VCtl) (hs : s.Inv) : OutInv (execVabs vd va rm c s) :=
  endV_inv hs ((elementChecks_checks _ _ _ _).seq fun _ => (State.noZp_checks _ _).seq fun _ =>
    State.unary_inv _ _ _ _ _ _ hs)

theorem execVmov_inv (vd va : VReg) (c : VCtl) (hs : s.Inv) : OutInv (execVmov vd va c s) :=
  endV_inv hs ((elementChecks_checks _ _ _ _).seq fun _ => (sourceTag_checks _ _ _).seq fun _ =>
    (destTag_checks _ _ _).seq fun _ => (need_fault _ _ _).seq fun _ => State.sweepWrite_inv _ _ _ _ _ _ _ _ hs)

theorem execVbcast_inv (vd : VReg) (b : VSrc) (c : VCtl) (hs : s.Inv) : OutInv (execVbcast vd b c s) :=
  endV_inv hs ((elementChecks_checks _ _ _ _).seq fun _ => (destTag_checks _ _ _).seq fun _ =>
    (need_fault _ _ _).seq fun _ => (need_fault _ _ _).seq fun _ => (sourceB_checks _ _ _ _).seq fun _ =>
      State.sweepWrite_inv _ _ _ _ _ _ _ _ hs)

theorem execVid_inv (vd : VReg) (c : VCtl) (hs : s.Inv) : OutInv (execVid vd c s) :=
  endV_inv hs ((elementChecks_checks _ _ _ _).seq fun _ => (destTag_checks _ _ _).seq fun _ =>
    (need_fault _ _ _).seq fun _ => State.sweepWrite_inv _ _ _ _ _ _ _ _ hs)

theorem execVclass_inv (vd va : VReg) (c : VCtl) (hs : s.Inv) : OutInv (execVclass vd va c s) :=
  endV_inv hs ((elementChecks_checks _ _ _ _).seq fun _ => (sourceTag_checks _ _ _).seq fun _ =>
    (destTag_checks _ _ _).seq fun _ => (need_fault _ _ _).seq fun _ => State.sweepWrite_inv _ _ _ _ _ _ _ _ hs)

/-! ### Reductions, permutations and masks -/

theorem State.reduceWrite_inv (h : Nat) (w : Sweep) (vd va : VReg) (t : Tag) (c : VCtl) (z : Reduced) (hs : s.Inv) :
    Keeps (s.reduceWrite h w vd va t c z) :=
  (State.sweepWrite_inv _ _ _ _ _ _ _ _ hs).bind fun _ h1 =>
    Ends.ite h1 (State.laneChecked_inv _ _ (State.raiseFlags_inv _ _ (State.modCtx_inv _ _ h1)))

theorem State.reduce_inv (h : Nat) (vd va : VReg) (rm : Rm) (tree : Bool) (c : VCtl) (kind : Option Bool) (hs : s.Inv) :
    Keeps (s.reduce h vd va rm tree c kind) :=
  (State.reduceChecks_checks _ _ _ _).seq fun _ => (ctype_checks _).seq fun _ => (need_fault _ _ _).seq fun _ =>
    (destTag_checks _ _ _).seq fun _ => (resultTag_checks _ _ _ _).seq fun _ =>
      Ends.ite (State.reduceWrite_inv _ _ _ _ _ _ _ hs) (State.reduceWrite_inv _ _ _ _ _ _ _ hs)

theorem State.reduceBits_inv (h : Nat) (vd va : VReg) (c : VCtl) (hs : s.Inv) : Keeps (s.reduceBits h vd va c) :=
  (State.reduceChecks_checks _ _ _ _).seq fun _ => (need_fault _ _ _).seq fun _ => (destTag_checks _ _ _).seq fun _ =>
    (need_fault _ _ _).seq fun _ => State.reduceWrite_inv _ _ _ _ _ _ _ hs

theorem execVslide_inv (vd va : VReg) (b : VSrc) (c : VCtl) (hs : s.Inv) : OutInv (execVslide vd va b c s) :=
  endV_inv hs ((need_fault _ _ _).seq fun _ => (permuteChecks_checks _ _ _ _ _).seq fun _ =>
    (containerTag_checks _ _ _).seq fun _ => State.sweepWrite_inv _ _ _ _ _ _ _ _ hs)

theorem execVgath_inv (vd va vb : VReg) (c : VCtl) (hs : s.Inv) : OutInv (execVgath vd va vb c s) :=
  endV_inv hs ((permuteChecks_checks _ _ _ _ _).seq fun _ => (containerTag_checks _ _ _).seq fun _ =>
    (sourceTag_checks _ _ _).seq fun _ => (need_fault _ _ _).seq fun _ => State.sweepWrite_inv _ _ _ _ _ _ _ _ hs)

theorem execVcomp_inv (vd va : VReg) (c : VCtl) (hs : s.Inv) : OutInv (execVcomp vd va c s) :=
  endV_inv hs ((permuteChecks_checks _ _ _ _ _).seq fun _ => (containerTag_checks _ _ _).seq fun _ =>
    State.sweepWrite_inv _ _ _ _ _ _ _ _ hs)

theorem execVexpd_inv (vd va : VReg) (c : VCtl) (hs : s.Inv) : OutInv (execVexpd vd va c s) :=
  endV_inv hs ((permuteChecks_checks _ _ _ _ _).seq fun _ => (containerTag_checks _ _ _).seq fun _ =>
    State.sweepWrite_inv _ _ _ _ _ _ _ _ hs)

theorem forM_checks {α : Type} (f : α → Except VStop PUnit) (hf : ∀ a, Checks (f a)) (l : List α) :
    Checks (l.forM f) := by
  induction l with
  | nil => trivial
  | cons a l ih => exact (hf a).seq fun _ => ih

theorem State.bitStrings_inv (h : Nat) (vd va : VReg) (more : List VReg) (tl : Tail) (f : Nat → Nat → Nat → Nat)
    (hs : s.Inv) : Keeps (s.bitStrings h vd va more tl f) := by
  refine (need_fault _ _ _).seq fun _ => (containerTag_checks _ _ _).seq fun _ =>
    Ends.seq (forM_checks _ (fun v => ?_) _) fun _ => State.sweepWrite_inv _ _ _ _ _ _ _ _ hs
  exact (containerTag_checks _ _ v).seq fun _ => trivial

theorem execVbsl_inv (vd va : VReg) (b : VSrc) (t : Tail) (hs : s.Inv) : OutInv (execVbsl vd va b t s) :=
  endV_inv hs ((need_fault _ _ _).seq fun _ => State.bitStrings_inv _ _ _ _ _ _ hs)

theorem execVbsr_inv (vd va : VReg) (b : VSrc) (t : Tail) (hs : s.Inv) : OutInv (execVbsr vd va b t s) :=
  endV_inv hs ((need_fault _ _ _).seq fun _ => State.bitStrings_inv _ _ _ _ _ _ hs)

theorem State.bw_inv (bd : BReg) (w : Word) (hs : s.Inv) : (s.bw bd w).Inv := hs

theorem State.maskTest_inv (bd : BReg) (ma : MReg) (f : List (Nat × Nat) → Word) (hs : s.Inv) :
    Keeps (s.maskTest bd ma f) := by
  unfold State.maskTest
  exact (State.sweepTouch_inv _ _ _ hs).bind fun _ h1 => State.bw_inv _ _ h1

theorem State.aboutFirst_inv (md ma : MReg) (f : Nat → Option Nat → Bool) (hs : s.Inv) :
    Keeps (s.aboutFirst md ma f) := by
  unfold State.aboutFirst
  exact State.maskWrite_inv _ _ _ _ _ _ hs

/-! ### Block instructions and the opening of a strip (R53-R57, R68-R74, R297-R301) -/

theorem State.blockOp_inv (bd ba : BReg) (src : BSrc) (f : Word → Word → Word) (hs : s.Inv) :
    OutInv (s.blockOp bd ba src f) := endB_inv hs (State.modCtx_inv _ _ hs)

theorem State.endBranch_inv (t : Word) (hs : s.Inv) : (s.endBranch t).Inv := hs

theorem execBbr_inv (c : Cond) (ba bb : BReg) (off : W32) (hs : s.Inv) : OutInv (execBbr c ba bb off s) :=
  OutInv.ite (endB_inv hs trivial) (OutInv.ite (State.endBranch_inv _ hs) (endB_inv hs hs))

theorem execBjmp_inv (off : W32) (hs : s.Inv) : OutInv (execBjmp off s) :=
  OutInv.ite (endB_inv hs trivial) (State.endBranch_inv _ hs)

theorem execBloop_inv (n : BitVec 2) (ba : BReg) (off : W32) (hs : s.Inv) : OutInv (execBloop n ba off s) :=
  OutInv.ite (endB_inv hs trivial) (State.modCtx_inv _ _ hs)

theorem State.endBlock_inv (h : Nat) (hs : s.Inv) : (s.endBlock h).Inv :=
  State.settle_inv _ (State.modCore_inv _ _ (State.modCtx_inv _ _ (State.modHart_inv _ _
    (State.closeStrip_inv _ _ _ hs))))

theorem State.reply_inv (w : Word) (hs : s.Inv) : (s.reply w).Inv := State.mod_inv _ (State.seal_inv _ hs)

theorem State.replyMask_inv (m : MReg) (f : Nat → Nat) (hs : s.Inv) : Keeps (s.replyMask m f) :=
  (need_fault _ _ _).seq fun _ => (State.sweepTouch_inv _ _ _ (State.seal_inv _ hs)).bind fun _ h1 =>
    State.reply_inv _ h1

theorem execVreply_inv (n : BReg) (hs : s.Inv) : OutInv (execVreply n s) :=
  endB_inv hs (Ends.ite (State.reply_inv _ hs) trivial)

theorem execBkrd_inv (bd : BReg) (k : KNum) (hs : s.Inv) : OutInv (execBkrd bd k s) :=
  endB_inv hs (Ends.ite (State.modCtx_inv _ _ hs) trivial)

theorem execVmark_inv (imm : W32) (hs : s.Inv) : OutInv (execVmark imm s) := endB_inv hs (State.modCtx_inv _ _ hs)

theorem execVbrk_inv (hs : s.Inv) : OutInv (execVbrk s) := OutInv.ite hs hs

theorem execIllegalWord_inv (hs : s.Inv) : OutInv (execIllegalWord s) :=
  State.stopWord_inv _ (State.modCtx_inv _ _ hs) trivial

theorem execBlockWordFetchFault_inv (f : FetchFault) (hs : s.Inv) : OutInv (execBlockWordFetchFault f s) := by
  refine OutInv.ite hs ?_
  split
  · exact State.stopWord_inv _ (State.modCtx_inv _ _ hs) trivial
  · exact State.stopWord_inv _ (State.modCtx_inv _ _ hs) trivial
  · split
    · exact State.consume_inv _ _ _ hs
    · exact State.consume_inv _ _ _ hs

theorem State.vsetlClusters_inv (h n : Nat) (hs : s.Inv) : Ends State.Inv State.Inv (s.vsetlClusters h n) := by
  have hc : ∀ {c : Prop} [Decidable c], (if c
      then ((s.clusterStep (coreOf h) (ctxOf h)).joinStalled (coreOf h) (ctxOf h) none).settle (coreOf h)
      else s.clusterStep (coreOf h) (ctxOf h)).Inv :=
    State.ite_inv (State.settle_inv _ (State.joinStalled_inv _ _ _ (State.clusterStep_inv _ _ hs)))
      (State.clusterStep_inv _ _ hs)
  unfold State.vsetlClusters
  dsimp only
  refine Ends.ite ?_ ?_ <;>
  exact State.ite_inv hs (State.ite_inv (State.settle_inv _ hs) (State.ite_inv (State.joinStalled_inv _ _ _ hs)
    (State.ite_inv (State.releaseAll_inv _ _ hs) hc)))

theorem State.vsetlGrant_inv (h : Nat) (bd ba : BReg) (cap : Option BReg) (vt : BitVec 16) (hs : s.Inv) :
    (s.vsetlGrant h bd ba cap vt).Inv := hs

theorem execVsetl_inv (bd ba : BReg) (cap : Option BReg) (vt : BitVec 16) (hs : s.Inv) :
    OutInv (execVsetl bd ba cap vt s) := by
  have hv := State.vsetlClusters_inv s.cur (s.ctx.br ba).toNat (State.closeStrip_inv s.cur false false hs)
  refine OutInv.ite (endV_inv hs trivial) (OutInv.ite (endV_inv hs trivial) ?_)
  dsimp only
  split
  · next e => exact endV_inv hs (hv.error e)
  · next e => exact State.vsetlGrant_inv _ _ _ _ _ (hv.ok e)

theorem State.retag_inv (h : Nat) (vd : VReg) (t : Tag) (hs : s.Inv) : (s.retag h vd t).Inv :=
  State.modCtx_inv _ _ (State.touch_inv _ _ hs)

theorem execVtag_inv (vd : VReg) (t : Tag) (hs : s.Inv) : OutInv (execVtag vd t s) :=
  endV_inv hs ((need_fault _ _ _).seq fun _ => (need_fault _ _ _).seq fun _ => State.retag_inv _ _ _ hs)

theorem execVrseed_inv (src : BSrc) (hs : s.Inv) : OutInv (execVrseed src s) :=
  endV_inv (r := .ok _) hs (State.modCtx_inv _ _ hs)

end Sys2Proof.Machine

/-! PROOFS. Every operation of the part keeps memory canonical: vector loads and stores, and the copy engine. -/

namespace Sys2Proof.Machine
variable {s : State}

/-- A check that is made on a condition, and what follows it either way. -/
theorem Ends.when {ε β : Type} {E : ε → Prop} {B : β → Prop} {c : Prop} [Decidable c] {r : Except ε PUnit}
    {f : PUnit → Except ε β} (h : Ends E (fun _ => True) r) (k : ∀ a, Ends E B (f a)) :
    Ends E B (if c then r >>= f else f ⟨⟩) := Ends.ite (h.seq k) (k _)

/-! ### Pages, heat and the bytes of an element (R62, R65, R67, R166) -/

/-- A result whose state has canonical memory, beside whatever else it holds. -/
abbrev Carries {α : Type} (r : Except VStop (α × State)) : Prop := Ends VStop.Inv (fun x => x.2.Inv) r

theorem State.probePage_inv (v : View) (a : Acc) (key : Nat) (e : MemElem) (hs : s.Inv) :
    Ends (fun _ => True) (fun x : Xlat × State => x.2.Inv) (s.probePage v a key e) :=
  (State.translate_inv _ _ _ _ hs).bind fun _ h1 => h1

theorem probeStop_inv (a : Acc) (e : MemElem) (f : AccErr) : (probeStop s a e f).Inv := by
  cases f <;> trivial

theorem State.probe_inv (v : View) (a : Acc) (m : Map MemElem) (p : Pins) (hs : s.Inv) : Carries (s.probe v a m p) := by
  induction m generalizing s p with
  | nil => exact hs
  | cons e m ih =>
    obtain ⟨k, e⟩ := e
    have hp := State.probePage_inv v a k e hs
    unfold State.probe
    split
    · exact probeStop_inv _ _ _
    · next x s1 he => exact ih _ (hp.ok he)

theorem State.heatEntry_inv (t i : Nat) (e : TlbEntry) (hs : s.Inv) : (s.heatEntry t i e).Inv :=
  State.modTower_inv _ _ (State.ite_inv (State.appendHeat_inv _ _ _ hs) hs)

theorem State.heatPage_inv (v : View) (k : HeatKind) (page : Nat × Nat) (n : Nat) (hs : s.Inv) :
    (s.heatPage v k page n).Inv := by
  unfold State.heatPage
  dsimp only
  split
  · exact State.heatEntry_inv _ _ _ hs
  · exact hs

theorem State.heat_inv (v : View) (k : HeatKind) (p : Pins) (l : List MemElem) (hs : s.Inv) : (s.heat v k p l).Inv :=
  State.foldl_inv _ (fun _ _ ht => State.heatPage_inv _ _ _ _ ht) _ hs

theorem State.readElem_checks (h : Nat) (kspb : Word) (p : Pins) (e : MemElem) : Checks (s.readElem h kspb p e) := by
  unfold State.readElem
  dsimp only
  split <;> trivial

theorem State.vecStore_inv (h pa : Nat) (bs ms : List Byte) (bad : Bool) (hs : s.Inv) :
    (s.vecStore h pa bs ms bad).Inv :=
  State.ite_inv (State.writeLost_inv _ _ hs) (State.ite_inv (State.modStrip_inv _ _ hs)
    (Part.markAll_wf _ _ (State.vecPerform_inv _ _ _ hs)))

theorem State.sealIO_inv (h : Nat) (p : Pins) (hs : s.Inv) :
    (s.sealIO h p).Inv := State.ite_inv (State.seal_inv _ hs) hs

theorem State.makeRoom_inv (h n : Nat) (hs : s.Inv) : (s.makeRoom h n).Inv := by
  unfold State.makeRoom
  split
  · exact State.ite_inv (State.seal_inv _ hs) (State.modStrip_inv _ _ hs)
  · exact hs

theorem State.writeElem_inv (h : Nat) (kspb : Word) (p : Pins) (t : Tag) (bits : Nat) (bad : Bool) (e : MemElem)
    (hs : s.Inv) : (s.writeElem h kspb p t bits bad e).Inv :=
  State.ite_inv (State.vecStore_inv _ _ _ _ _ hs) (State.foldl_inv _
    (fun _ _ hu => State.vecStore_inv _ _ _ _ _ hu) _ hs)

theorem State.awaitData_checks (h : Nat) (v : View) (p : Pins) (zp : Bool) (els : List MemElem) (hs : s.Inv) :
    Checks (s.awaitData h v p zp els) := by
  refine Ends.ite trivial ?_
  split
  · trivial
  · exact Ends.ite trivial (State.ask_inv _ _ _ _ hs)

theorem mapM_checks {α β : Type} (f : α → Except VStop β) (hf : ∀ a, Checks (f a)) (l : List α) :
    Checks (l.mapM f) := by
  induction l with
  | nil => trivial
  | cons a l ih =>
    rw [List.mapM_cons]
    exact (hf a).seq fun _ => ih.seq fun _ => trivial

theorem State.readElems_checks {α : Type} (h : Nat) (kspb : Word) (p : Pins) (f : MemElem → List Byte → α)
    (els : List MemElem) (hs : s.Inv) : Checks (s.readElems h kspb p f els) := by
  refine mapM_checks _ (fun e => ?_) _
  have hr := State.readElem_checks (s := s) h kspb p e
  split
  · trivial
  · exact hs
  · next q he => exact hr.error he

/-! ### The forms of an access -/

theorem indexTag_checks (x : VCtx) (w : Sweep) (vi : VReg) : Checks (indexTag x w vi) :=
  (sourceTag_checks _ _ _).seq fun _ => (need_fault _ _ _).seq fun _ => trivial

theorem checkForm_checks (x : VCtx) (w : Sweep) (f : AddrForm) : Checks (checkForm x w f) := by
  cases f with
  | unit => trivial
  | stride b => trivial
  | index vi b => exact (indexTag_checks _ _ _).seq fun _ => trivial

theorem alignCheck_checks (t : Tag) (l : List MemElem) : Checks (alignCheck t l) := by
  refine Ends.ite trivial ?_
  split <;> trivial

theorem tableFaults_checks (x : VCtx) (w : Sweep) (vi : VReg) (l : List (Nat × Nat)) :
    Checks (tableFaults x w vi l) := by
  unfold tableFaults
  dsimp only
  split
  · trivial
  · split <;> trivial

theorem State.setStep_inv (h k : Nat) (hs : s.Inv) : (s.setStep h k).Inv := hs

theorem runSegments_inv (h : Nat) (many : Bool) (f : State → Segment → Except VStop State)
    (hf : ∀ t g, t.Inv → Keeps (f t g)) (l : List Segment) (hs : s.Inv) : Keeps (runSegments h many f s l) := by
  induction l generalizing s with
  | nil => exact hs
  | cons g gs ih =>
    have hg := hf s g hs
    unfold runSegments
    split
    · next e => exact ih (hg.ok e)
    · cases many <;> exact State.setStep_inv _ _ hs
    · exact hs
    · next e => exact State.setStep_inv _ _ (hg.error e)
    · next e => exact hg.error e

/-! ### Vector loads (R65, R376, R396) -/

theorem State.loadSegment_inv (h : Nat) (v : View) (w : Sweep) (vd : VReg) (t : Tag) (k : HeatKind) (reads : Touch)
    (fate : Nat → Nat → Fate) (mine : Nat → Nat → Bool) (els : List MemElem) (hs : s.Inv) :
    Keeps (s.loadSegment h v w vd t k reads fate mine els) :=
  (State.probe_inv _ _ _ _ hs).bind fun _ h1 => (State.awaitData_checks _ _ _ _ _ h1).seq fun _ =>
    (State.sweepTouch_inv _ _ _ h1).bind fun _ h2 => (State.readElems_checks _ _ _ _ _ h2).seq fun _ =>
      State.sweepApply_inv _ _ _ _ _ _ _ _ (State.heat_inv _ _ _ _ h2)

theorem State.vload_inv (h : Nat) (vd : VReg) (base : BReg) (off : BitVec 16) (form : AddrForm) (t : Tag) (c : VCtl)
    (hs : s.Inv) : Keeps (s.vload h vd base off form t c) :=
  (elementChecks_checks _ _ _ _).seq fun _ => (need_fault _ _ _).seq fun _ => (checkForm_checks _ _ _).seq fun _ =>
    (need_fault _ _ _).seq fun _ => Ends.ite hs <| (alignCheck_checks _ _).seq fun _ =>
      (need_checks (f := .wait _ _) _ hs).seq fun _ =>
      runSegments_inv _ _ _ (fun _ _ ht => State.loadSegment_inv _ _ _ _ _ _ _ _ _ _ ht) _ hs

theorem State.vloadFirst_inv (h : Nat) (vd : VReg) (base : BReg) (off : BitVec 16) (t : Tag) (c : VCtl)
    (hs : s.Inv) : Keeps (s.vloadFirst h vd base off t c) := by
  refine (elementChecks_checks _ _ _ _).seq fun _ => (need_fault _ _ _).seq fun _ => Ends.ite hs <|
    (alignCheck_checks _ _).seq fun _ => ?_
  dsimp only
  split
  · exact State.loadSegment_inv _ _ _ _ _ _ _ _ _ _ hs
  · refine Ends.ite ?_ ?_
    · exact (State.probe_inv _ _ _ _ hs).bind fun _ h1 => (State.awaitData_checks _ _ _ _ _ h1).seq fun _ => h1
    · exact (State.loadSegment_inv _ _ _ _ _ _ _ _ _ _ hs).bind fun _ h1 => State.modCtx_inv _ _ h1

theorem execVld_inv (vd : VReg) (base : BReg) (off : BitVec 16) (t : Tag) (o : Option Scope) (c : VCtl) (hs : s.Inv) :
    OutInv (execVld vd base off t o c s) := endV_inv hs (State.vload_inv _ _ _ _ _ _ _ hs)

theorem execVlds_inv (vd : VReg) (base : BReg) (off : BitVec 16) (bs : BReg) (t : Tag) (o : Option Scope) (c : VCtl)
    (hs : s.Inv) : OutInv (execVlds vd base off bs t o c s) := endV_inv hs (State.vload_inv _ _ _ _ _ _ _ hs)

theorem execVldx_inv (vd : VReg) (base : BReg) (off : BitVec 16) (vi : VReg) (t : Tag) (o : Option Scope) (c : VCtl)
    (hs : s.Inv) : OutInv (execVldx vd base off vi t o c s) := endV_inv hs (State.vload_inv _ _ _ _ _ _ _ hs)

theorem execVldff_inv (vd : VReg) (base : BReg) (off : BitVec 16) (t : Tag) (o : Option Scope) (c : VCtl)
    (hs : s.Inv) : OutInv (execVldff vd base off t o c s) := endV_inv hs (State.vloadFirst_inv _ _ _ _ _ _ hs)

/-! ### Vector stores (R67, R377, R399) -/

theorem State.vecRelease_inv (h : Nat) (o : Option Scope) (hs : s.Inv) : Keeps (s.vecRelease h o) := by
  have h1 : (if releases o then s.seal h else s).Inv := State.ite_inv (State.seal_inv _ hs) hs
  exact Ends.ite h1 h1

theorem State.markRead_inv (h : Nat) (l : List Nat) (hs : s.Inv) : (s.markRead h l).Inv := State.touch_inv _ _ hs

theorem State.storeSegment_inv (h : Nat) (v : View) (w : Sweep) (vs : VReg) (t : Tag) (k : HeatKind) (o : Option Scope)
    (reads : Touch) (els : List MemElem) (hs : s.Inv) : Keeps (s.storeSegment h v w vs t k o reads els) :=
  (State.probe_inv _ _ _ _ hs).bind fun _ h1 => (State.vecRelease_inv _ _ (State.sealIO_inv _ _ h1)).bind fun _ h2 =>
    (State.sweepTouch_inv _ _ _ h2).bind fun _ h3 => State.heat_inv _ _ _ _ <|
      State.foldl_inv _ (fun _ _ hu => State.writeElem_inv _ _ _ _ _ _ _ hu) _ <|
        State.makeRoom_inv _ _ (State.markRead_inv _ _ h3)

theorem State.vstore_inv (h : Nat) (vs : VReg) (base : BReg) (off : BitVec 16) (form : AddrForm) (t : Tag)
    (o : Option Scope) (c : MCtl) (hs : s.Inv) : Keeps (s.vstore h vs base off form t o c) :=
  (need_fault _ _ _).seq fun _ => (need_fault _ _ _).seq fun _ => (checkForm_checks _ _ _).seq fun _ =>
    (need_fault _ _ _).seq fun _ => Ends.ite hs <| (alignCheck_checks _ _).seq fun _ =>
      runSegments_inv _ _ _ (fun _ _ ht => State.storeSegment_inv _ _ _ _ _ _ _ _ _ ht) _ hs

theorem execVst_inv (vd : VReg) (base : BReg) (off : BitVec 16) (t : Tag) (o : Option Scope) (c : MCtl) (hs : s.Inv) :
    OutInv (execVst vd base off t o c s) := endV_inv hs (State.vstore_inv _ _ _ _ _ _ _ _ hs)

theorem execVsts_inv (vd : VReg) (base : BReg) (off : BitVec 16) (bs : BReg) (t : Tag) (o : Option Scope) (c : MCtl)
    (hs : s.Inv) : OutInv (execVsts vd base off bs t o c s) := endV_inv hs (State.vstore_inv _ _ _ _ _ _ _ _ hs)

theorem execVstx_inv (vd : VReg) (base : BReg) (off : BitVec 16) (vi : VReg) (t : Tag) (o : Option Scope) (c : MCtl)
    (hs : s.Inv) : OutInv (execVstx vd base off vi t o c s) := endV_inv hs (State.vstore_inv _ _ _ _ _ _ _ _ hs)

/-! ### The table and vector atomics (R378, R379, R397) -/

theorem State.tableLoad_inv (h : Nat) (vd vi : VReg) (t : Tag) (c : VCtl) (hs : s.Inv) :
    Keeps (s.tableLoad h vd vi t c) := by
  refine (elementChecks_checks _ _ _ _).seq fun _ => (need_fault _ _ _).seq fun _ =>
    (indexTag_checks _ _ _).seq fun _ =>
    (need_fault _ _ _).seq fun _ => Ends.ite hs <| (tableFaults_checks _ _ _ _).seq fun _ =>
      (State.sweepTouch_inv _ _ _ hs).bind fun _ h1 => ?_
  split
  · exact h1
  · exact State.sweepApply_inv _ _ _ _ _ _ _ _ h1

theorem State.tableStore_inv (h : Nat) (vs vi : VReg) (t : Tag) (c : MCtl) (hs : s.Inv) :
    Keeps (s.tableStore h vs vi t c) :=
  (need_fault _ _ _).seq fun _ => (need_fault _ _ _).seq fun _ => (indexTag_checks _ _ _).seq fun _ =>
    (need_fault _ _ _).seq fun _ => Ends.ite hs <| (tableFaults_checks _ _ _ _).seq fun _ =>
      (State.sweepTouch_inv _ _ _ hs).bind fun _ h1 =>
        State.foldl_inv _ (fun _ _ hu => State.vecStore_inv _ _ _ _ _ hu) _
          (State.makeRoom_inv _ _ (State.markRead_inv _ _ h1))

theorem State.vamoRun_inv (h : Nat) (kspb : Word) (p : Pins) (x : VCtx) (w : Sweep) (op : VAmoOp) (vd : VReg) (t : Tag)
    (l : List MemElem) (hs : s.Inv) :
    Ends VStop.Inv (fun y : List (Nat × Nat) × Events × State => y.2.2.Inv) (s.vamoRun h kspb p x w op vd t l) := by
  induction l generalizing s with
  | nil => exact hs
  | cons e es ih =>
    unfold State.vamoRun
    refine Ends.ite hs ?_
    dsimp only
    split
    · next he =>
      have h1 := (ih (State.perform_inv _ _ _ _ hs)).ok he
      exact h1
    · next he => exact (ih (State.perform_inv _ _ _ _ hs)).error he

theorem State.vamo_inv (h : Nat) (op : VAmoOp) (vd : VReg) (base : BReg) (off : BitVec 16) (vi : VReg) (t : Tag)
    (o : VmOrd) (c : VCtl) (hs : s.Inv) : Keeps (s.vamo h op vd base off vi t o c) := by
  refine (elementChecks_checks _ _ _ _).seq fun _ => (need_fault _ _ _).seq fun _ =>
    (indexTag_checks _ _ _).seq fun _ =>
    (need_fault _ _ _).seq fun _ => Ends.ite hs <| (alignCheck_checks _ _).seq fun _ => (need_fault _ _ _).seq fun _ =>
      (State.probe_inv _ _ _ _ hs).bind fun ⟨p, s1⟩ h1 => ?_
  generalize List.filter _ _ = els
  dsimp -zeta only
  extract_lets reads fate jp
  have hj : ∀ a, Keeps (jp a) := fun _ => by
    refine (State.vecRelease_inv _ _ (State.seal_inv _ h1)).bind fun _ h2 => (State.sweepTouch_inv _ _ _ h2).bind
      fun _ h3 => (State.vamoRun_inv _ _ _ _ _ _ _ _ _ h3).bind fun ⟨vals, ev, s4⟩ h4 => ?_
    have h5 := State.heat_inv (s.vecView h) .indexed p els h4
    dsimp -zeta only
    generalize State.heat _ _ _ _ _ = s5 at h5 ⊢
    exact (State.sweepApply_inv _ _ _ _ _ _ _ _ h5).bind fun _ h6 => State.raiseFlags_inv _ _ h6
  exact Ends.when (State.awaitData_checks _ _ _ _ _ h1) hj

theorem execVamo_inv (op : VAmoOp) (vd : VReg) (base : BReg) (off : BitVec 16) (vi : VReg) (t : Tag) (o : VmOrd)
    (c : VCtl) (hs : s.Inv) : OutInv (execVamo op vd base off vi t o c s) :=
  endV_inv hs (State.vamo_inv _ _ _ _ _ _ _ _ _ hs)

end Sys2Proof.Machine

namespace Sys2Proof.Machine
variable {s : State}

/-! ### The copy engine (R37, R156-R163, R304, R305) -/

theorem State.issueCopy_inv (h : Nat) (cp : Copy) (mk : Option MReg) (hs : s.Inv) : (s.issueCopy h cp mk).Inv :=
  State.modCtx_inv _ _ (State.modCore_inv _ _ hs)

theorem State.cpy_inv (h : Nat) (bd bs bl : BReg) (code : BitVec 3) (cb : BitVec 2) (sc : Scope) (mk : Option MReg)
    (hs : s.Inv) : Keeps (s.cpy h bd bs bl code cb sc mk) := by
  unfold State.cpy
  dsimp only
  split
  · trivial
  · exact (need_fault _ _ _).seq fun _ => (need_checks (f := .wait _ _) _ hs).seq fun _ =>
      State.issueCopy_inv _ _ _ (State.seal_inv _ hs)

theorem execCpy_inv (bd bs bl : BReg) (code : BitVec 3) (cb : BitVec 2) (sc : Scope) (mk : Option MReg) (hs : s.Inv) :
    OutInv (execCpy bd bs bl code cb sc mk s) := endV_inv hs (State.cpy_inv _ _ _ _ _ _ _ _ hs)

theorem execCpyStallEnd_inv (hs : s.Inv) : OutInv (execCpyStallEnd s) := by
  unfold execCpyStallEnd
  split
  · exact State.guardB_inv _ hs (execCpy_inv _ _ _ _ _ _ _ hs)
  · exact hs

theorem execCpyw_inv (cb : BitVec 2) (bst : BReg) (hs : s.Inv) : OutInv (execCpyw cb bst s) :=
  endV_inv hs (Ends.ite (State.seal_inv _ hs) (State.bw_inv _ _ (State.seal_inv _ hs)))

theorem execCpywWake_inv (hs : s.Inv) : OutInv (execCpywWake s) := by
  unfold execCpywWake
  split
  · exact execCpyw_inv _ _ hs
  · exact hs

theorem execCpyr_inv (cb : BitVec 2) (hs : s.Inv) : OutInv (execCpyr cb s) :=
  endV_inv (r := .ok _) hs (State.modCtx_inv _ _ (State.seal_inv _ hs))

theorem execCpyq_inv (cb : BitVec 2) (bst : BReg) (hs : s.Inv) : OutInv (execCpyq cb bst s) :=
  endV_inv (r := .ok _) hs (State.bw_inv _ _ (State.seal_inv _ hs))

/-- The state in which a sector has been written has canonical memory. -/
def SectorOut.Inv : SectorOut → Prop
  | .written _ s => s.Inv
  | .failed _ _ => True

theorem State.sector_inv (h : Nat) (c : Copy) (k : Nat) (lost : Bool) (i : Nat) (hs : s.Inv) :
    (s.sector h c k lost i).Inv := by
  unfold State.sector
  dsimp only
  split
  · trivial
  next e1 =>
    have h1 := State.translate_ok_inv hs e1
    split
    · trivial
    split
    · trivial
    next e2 =>
      have h2 := State.translate_ok_inv h1 e2
      split
      · trivial
      · exact Part.markAll_wf _ _ (State.performAs_inv _ _ _ _ _ _ _ h2)

theorem State.runChunk_inv (h : Nat) (c : Copy) (k : Nat) (ch : Chunk) (hs : s.Inv) : (s.runChunk h c k ch).s.Inv := by
  unfold State.runChunk
  refine List.foldlRecOn (motive := fun r : ChunkRun => r.s.Inv) _ _ hs fun r hr i _ => ?_
  have hi := State.sector_inv h c k ch.lost i hr
  split
  · split
    · next e =>
      rw [e] at hi
      exact hi
    · exact hr
  · exact hr

theorem State.setChunk_inv (h id k : Nat) (ch : Chunk) (hs : s.Inv) : (s.setChunk h id k ch).Inv := hs

theorem State.recordFault_inv (h : Nat) (bs : List Byte) (hs : s.Inv) : (s.recordFault h bs).Inv :=
  State.ite_inv hs (State.ite_inv (State.modHart_inv _ _ (State.perform_inv _ _ _ _ hs)) (State.modHart_inv _ _ hs))

theorem completeChunk_inv (h : Nat) (c : Copy) (k : Nat) {r : ChunkRun} (hr : r.s.Inv) :
    (completeChunk h c k r).Inv := hr

theorem faultChunk_inv (h : Nat) (c : Copy) (k : Nat) {r : ChunkRun} (f : Nat × Word) (hr : r.s.Inv) :
    (faultChunk h c k r f).Inv := State.modCtx_inv _ _ (State.recordFault_inv _ _ hr)

theorem execCopyChunkComplete_inv (copy chunk : Nat) (hs : s.Inv) : OutInv (execCopyChunkComplete copy chunk s) := by
  unfold execCopyChunkComplete
  dsimp only
  split
  · exact hs
  next c ch _ =>
    have hr := State.runChunk_inv s.cur c chunk ch hs
    split
    · exact State.ite_inv hs (State.setChunk_inv _ _ _ _ (State.ask_inv _ _ _ _ hs))
    · exact OutInv.ite hs (OutInv.ite (State.setChunk_inv _ _ _ _ hr) (completeChunk_inv _ _ _ hr))

theorem execCopySectorFault_inv (copy chunk : Nat) (hs : s.Inv) : OutInv (execCopySectorFault copy chunk s) := by
  unfold execCopySectorFault
  dsimp only
  split
  · exact hs
  split
  · exact OutInv.ite (faultChunk_inv _ _ _ _ (State.runChunk_inv _ _ _ _ hs)) hs
  · exact hs

/-! ### Tiles and the rows that a strip holds (R104-R108, R322-R336) -/

theorem State.modTile_inv (h : Nat) (z : ZReg) (f : Tile → Tile) (hs : s.Inv) : (s.modTile h z f).Inv := hs

theorem State.cleanTile_inv (h : Nat) (z : ZReg) (p : Nat → Nat → Bool) (hs : s.Inv) : (s.cleanTile h z p).Inv := hs

theorem State.shadowRows_inv (h : Nat) (st : Strip) (z : Nat) (wr : BitVec 256) (hs : s.Inv) :
    (s.shadowRows h st z wr).Inv :=
  State.ite_inv hs (State.modStrip_inv _ _ (State.modCore_inv _ _ hs))

theorem State.touchRows_inv (h : Nat) (z : ZReg) (rd wr : BitVec 256) (hs : s.Inv) : (s.touchRows h z rd wr).Inv := by
  unfold State.touchRows
  split
  · exact hs
  · exact State.ite_inv (State.shadowRows_inv _ _ _ _ hs) (State.ite_inv hs
      (State.ite_inv (State.modStrip_inv _ _ hs) (State.seal_inv _ (State.modStrip_inv _ _ hs))))

theorem State.entered_inv (h : Nat) (shadow : Bool) (hs : s.Inv) : (s.entered h shadow).Inv :=
  State.modCtx_inv _ _ (State.modStrip_inv _ _ hs)

theorem execMmodeEnter_inv (shadow : Bool) (hs : s.Inv) : OutInv (execMmodeEnter shadow s) := by
  have h1 : (if s.ownsArray s.cur then s else s.modCore (coreOf s.cur) fun k => k.queueArray s.cur).Inv :=
    State.ite_inv hs (State.modCore_inv _ _ hs)
  exact OutInv.ite (endV_inv hs trivial) (endV_inv hs (Ends.ite (State.entered_inv _ _ h1) h1))

theorem execMmodeLeave_inv (hs : s.Inv) : OutInv (execMmodeLeave s) :=
  endV_inv hs (Ends.ite (State.modCtx_inv _ _ (State.modCore_inv _ _ hs)) trivial)

theorem execMatrixArrayGrant_inv (hs : s.Inv) : OutInv (execMatrixArrayGrant s) := State.modCore_inv _ _ hs

theorem execMsettile_inv (bd bs : BReg) (va vb : VReg) (hs : s.Inv) : OutInv (execMsettile bd bs va vb s) :=
  endV_inv hs ((need_fault _ _ _).seq fun _ => (need_fault _ _ _).seq fun _ => (need_fault _ _ _).seq fun _ =>
    State.modCtx_inv _ _ hs)

theorem execMzero_inv (z : ZReg) (tag : Tag) (hs : s.Inv) : OutInv (execMzero z tag s) :=
  endV_inv hs ((need_fault _ _ _).seq fun _ => (need_fault _ _ _).seq fun _ =>
    State.modCore_inv _ _ (State.modTile_inv _ _ _ (State.touchRows_inv _ _ _ _ hs)))

theorem execMtag_inv (z : ZReg) (tag : Tag) (hs : s.Inv) : OutInv (execMtag z tag s) :=
  endV_inv hs ((need_fault _ _ _).seq fun _ => (need_fault _ _ _).seq fun _ =>
    State.modTile_inv _ _ _ (State.ite_inv hs (State.touchRows_inv _ _ _ _ hs)))

theorem execMchk_inv (sel : ChkSel) (clr : Bool) (bd : BReg) (z : ZReg) (hs : s.Inv) :
    OutInv (execMchk sel clr bd z s) :=
  endV_inv hs ((need_fault _ _ _).seq fun _ =>
    State.ite_inv (State.modTile_inv _ _ _ (State.bw_inv _ _ hs)) (State.bw_inv _ _ hs))

theorem State.tileRegion_inv (h : Nat) (b1 b2 : BReg) (acc : Acc) (hs : s.Inv) :
    Ends VStop.Inv (fun y : List MemElem × Pins × State => y.2.2.Inv) (s.tileRegion h b1 b2 acc) :=
  (need_fault _ _ _).seq fun _ => (need_fault _ _ _).seq fun _ => (need_fault _ _ _).seq fun _ =>
    (State.probe_inv _ _ _ _ hs).bind fun _ h1 => h1

theorem execMldz_inv (z : ZReg) (b1 b2 : BReg) (tag : Tag) (hs : s.Inv) : OutInv (execMldz z b1 b2 tag s) :=
  endV_inv hs ((need_fault _ _ _).seq fun _ => (need_fault _ _ _).seq fun _ =>
    (State.tileRegion_inv _ _ _ _ hs).bind fun _ h1 => (State.awaitData_checks _ _ _ _ _ h1).seq fun _ =>
      (State.readElems_checks _ _ _ _ _ (State.touchRows_inv _ _ _ _ h1)).seq fun _ =>
        State.modTile_inv _ _ _ (State.cleanTile_inv _ _ _ (State.heat_inv _ _ _ _ (State.touchRows_inv _ _ _ _ h1))))

theorem execMstz_inv (z : ZReg) (b1 b2 : BReg) (hs : s.Inv) : OutInv (execMstz z b1 b2 s) :=
  endV_inv hs ((need_fault _ _ _).seq fun _ => (need_fault _ _ _).seq fun _ =>
    (State.tileRegion_inv _ _ _ _ hs).bind fun _ h1 => State.heat_inv _ _ _ _ <|
      State.foldl_inv _ (fun _ _ hu => State.vecStore_inv _ _ _ _ _ hu) _ <| State.makeRoom_inv _ _ <|
        State.touchRows_inv _ _ _ _ (State.sealIO_inv _ _ h1))

/-! ### Outer products, draining and filling (R109-R118, R123-R125) -/

theorem State.countTerms_inv (h : Nat) (e : MopEnv) (hs : s.Inv) : (s.countTerms h e).Inv :=
  State.foldl_inv _ (fun _ _ hu => State.modStrip_inv _ _ (State.modCore_inv _ _ hu)) _ hs

/-- The tag that a table gives, or a tag fault. -/
theorem tagOf_checks (o : Option Tag) :
    Checks (match o with
      | some t => .ok t
      | none => .error tagFault : Except VStop Tag) := by
  cases o <;> trivial

theorem State.mop_inv (h : Nat) (z : ZReg) (va vb : VReg) (sc : Option (VReg × VReg)) (hs : s.Inv) :
    Keeps (s.mop h z va vb sc) :=
  (need_fault _ _ _).seq fun _ => (need_fault _ _ _).seq fun _ => (need_fault _ _ _).seq fun _ =>
    (tagOf_checks _).seq fun _ => (need_fault _ _ _).seq fun _ => (need_fault _ _ _).seq fun _ =>
      (need_fault _ _ _).seq fun _ =>
        have h1 := State.touchRows_inv _ _ _ _ (State.touch_inv _ _ hs)
        Ends.ite h1 <| (need_checks (f := .poisoned _ _ _) _ h1).seq fun _ =>
          (need_checks (f := .poisoned _ _ _) _ h1).seq fun _ =>
            have h2 := State.modTile_inv _ _ _ (State.countTerms_inv _ _ h1)
            Ends.ite (State.modCtx_inv _ _ h2) h2

theorem execMop_inv (z : ZReg) (va vb : VReg) (sc : Option (VReg × VReg)) (hs : s.Inv) :
    OutInv (execMop z va vb sc s) :=
  endV_inv hs (State.mop_inv _ _ _ _ _ hs)

theorem State.drainTile_inv (h : Nat) (vd : VReg) (z : ZReg) (bn : BReg) (tag : Tag) (rm : Rm) (hs : s.Inv) :
    Keeps (s.drainTile h vd z bn tag rm) :=
  (need_fault _ _ _).seq fun _ => (need_fault _ _ _).seq fun _ => (need_fault _ _ _).seq fun _ =>
    (need_fault _ _ _).seq fun _ => (need_fault _ _ _).seq fun _ => Ends.ite hs <|
      (State.sweepTouch_inv _ _ _ (State.touchRows_inv _ _ _ _ hs)).bind fun _ h1 =>
        (need_checks (f := .poisoned _ _ _) _ h1).seq fun _ =>
          State.sweepApply_inv _ _ _ _ _ _ _ _ (State.raiseFlags_inv _ _ h1)

theorem execMdrain_inv (vd : VReg) (z : ZReg) (bn : BReg) (tag : Tag) (rm : Rm) (hs : s.Inv) :
    OutInv (execMdrain vd z bn tag rm s) := endV_inv hs (State.drainTile_inv _ _ _ _ _ _ hs)

theorem State.fillTile_inv (h : Nat) (z : ZReg) (va : VReg) (bn : BReg) (hs : s.Inv) : Keeps (s.fillTile h z va bn) :=
  (need_fault _ _ _).seq fun _ => (sourceTag_checks _ _ _).seq fun _ => (tagOf_checks _).seq fun _ =>
    (need_fault _ _ _).seq fun _ => (need_fault _ _ _).seq fun _ => (need_fault _ _ _).seq fun _ => Ends.ite hs <|
      (need_checks (f := .poisoned _ _ _) _ (State.touchRows_inv _ _ _ _ (State.touch_inv _ _ hs))).seq fun _ =>
        State.modTile_inv _ _ _ (State.cleanTile_inv _ _ _ (State.touchRows_inv _ _ _ _ (State.touch_inv _ _ hs)))

theorem execMfill_inv (z : ZReg) (va : VReg) (bn : BReg) (hs : s.Inv) : OutInv (execMfill z va bn s) :=
  endV_inv hs (State.fillTile_inv _ _ _ _ hs)

end Sys2Proof.Machine

/-! PROOFS. Every operation of the part keeps memory canonical: the stream unit. -/

namespace Sys2Proof.Machine
variable {s : State}

theorem Ends.fail {ε α : Type} {E : ε → Prop} {A : α → Prop} {e : ε} (h : E e) : Ends E A (.error e) := h

/-- Either of two results, and what follows both. -/
theorem Ends.choose {ε α β : Type} {E : ε → Prop} {A : α → Prop} {B : β → Prop} {c : Prop} [Decidable c]
    {a b : Except ε α} {f : α → Except ε β} (ha : Ends E A a) (hb : Ends E A b) (k : ∀ x, A x → Ends E B (f x)) :
    Ends E B (if c then a >>= f else b >>= f) := Ends.ite (ha.bind k) (hb.bind k)

/-! ### What a stream instruction may stop with (R134-R137) -/

/-- A stop inside an instruction, which holds no state, and a result with a state of canonical memory. -/
abbrev Reads {α : Type} (r : Except SStop (α × State)) : Prop := Ends (fun _ => True) (fun x => x.2.Inv) r

/-- A state of canonical memory, or a stop inside an instruction. -/
abbrev Writes (r : Except SStop State) : Prop := Ends (fun _ => True) State.Inv r

/-- An instruction that is cut in a state of canonical memory. -/
abbrev Cut.Inv (c : Cut) : Prop := c.s.Inv

theorem State.modDesc_inv (h : Nat) (d : SReg) (f : Descriptor → Descriptor) (hs : s.Inv) : (s.modDesc h d f).Inv := hs

theorem State.putDesc_inv (h : Nat) (d : SReg) (x : Descriptor) (hs : s.Inv) : (s.putDesc h d x).Inv := hs

theorem keepDone_inv (h : Nat) {r : Except VStop State} (hs : s.Inv) (hr : Keeps r) : Keeps (keepDone s h r) := by
  unfold keepDone
  split
  · exact State.ask_inv _ _ _ _ hs
  · exact hs
  · exact hs
  · exact hr

theorem State.withUnit_inv (h : Nat) {early : Except VStop Unit} {f : State → Except VStop State} (hs : s.Inv)
    (he : Checks early) (hf : ∀ t, t.Inv → Keeps (f t)) : Keeps (s.withUnit h early f) := by
  have h1 : (if s.ownsStream h then s else s.modCore (coreOf h) fun k => k.queueStream h).Inv :=
    State.ite_inv hs (State.modCore_inv _ _ hs)
  exact he.seq fun _ => (need_fault _ _ _).seq fun _ => Ends.ite (keepDone_inv _ h1 (hf _ h1)) h1

theorem State.primesOk_checks (h : Nat) (l : List SReg) : Checks (s.primesOk h l) :=
  (need_fault _ _ _).seq fun _ => need_fault _ _ _

theorem State.descsClean_checks (h : Nat) (l : List SReg) : Checks (s.descsClean h l) := need_checks _ trivial

theorem State.descsTaken_checks (h : Nat) (l : List SReg) (hs : s.Inv) : Checks (s.descsTaken h l) :=
  need_checks (f := .poisoned _ _ _) _ (State.seal_inv _ hs)

theorem State.streamChecks_checks (h : Nat) (dsts srcs : List SReg) (tagOk : Descriptor → Bool) :
    Checks (s.streamChecks h dsts srcs tagOk) :=
  (need_fault _ _ _).seq fun _ => (need_fault _ _ _).seq fun _ => (need_fault _ _ _).seq fun _ =>
    State.primesOk_checks _ _

theorem State.needImages_checks (h kind : Nat) (v : BitVec 8) (d : SReg) (hs : s.Inv) :
    Checks (s.needImages h kind v d) :=
  need_checks (f := .partly _ _ _) _ (State.modDesc_inv _ _ _ (State.seal_inv _ hs))

theorem endPlain_inv (hs : s.Inv) (e : SStop) : (endPlain s e).Inv := by
  cases e with
  | far a pa => trivial
  | limit _ | mem _ _ | halt _ | poison _ _ | cut => exact hs

theorem endStream_inv (h : Nat) (d : SReg) (sig flags : Word) {r : Except Cut State} (hr : Ends Cut.Inv State.Inv r) :
    Keeps (endStream h d sig flags r) := by
  cases r with
  | ok s => exact hr
  | error c =>
    obtain ⟨t, why, cur⟩ := c
    cases why with
    | far a pa => trivial
    | limit _ | mem _ _ | halt _ | poison _ _ | cut => exact hr

theorem orCut_inv {α : Type} {A : α → Prop} (cur : Word) {r : Except SStop α} (hs : s.Inv)
    (hr : Ends (fun _ => True) A r) : Ends Cut.Inv A (orCut s cur r) := by
  cases r with
  | ok a => exact hr
  | error e => exact hs

theorem SStop.before_inv (e : SStop) : e.before.Inv := by
  cases e <;> trivial

theorem orStop_inv {α : Type} {A : α → Prop} {r : Except SStop α} (hr : Ends (fun _ => True) A r) :
    Ends VStop.Inv A (orStop r) := by
  cases r with
  | ok a => exact hr
  | error e => exact SStop.before_inv e

theorem orSealed_inv {α : Type} {A : α → Prop} {r : Except SStop α} (hs : s.Inv) (hr : Ends (fun _ => True) A r) :
    Ends VStop.Inv A (orSealed s r) := by
  cases r with
  | ok a => exact hr
  | error e =>
    cases e with
    | cut => trivial
    | far a pa => trivial
    | limit _ | mem _ _ | halt _ | poison _ _ => exact hs

/-! ### Records read and written (R128-R133) -/

theorem State.streamBytes_inv (h : Nat) (v : View) (p : Pins) (els : List MemElem) (hs : s.Inv) :
    Reads (s.streamBytes h v p els) := by
  unfold State.streamBytes
  split
  · trivial
  · exact hs

theorem State.streamElems_inv (h : Nat) (els : List MemElem) (hs : s.Inv) : Reads (s.streamElems h els) := by
  unfold State.streamElems
  dsimp only
  split
  · trivial
  next e =>
    have h1 := (State.probe_inv _ _ _ _ hs).ok e
    split
    · exact Ends.ite trivial (Ends.ite trivial (State.streamBytes_inv _ _ _ _ h1))
    · exact State.streamBytes_inv _ _ _ _ h1

theorem State.streamRead_inv (h : Nat) (va : Word) (n : Nat) (hs : s.Inv) : Reads (s.streamRead h va n) :=
  State.streamElems_inv _ _ hs

theorem State.streamWrite_inv (h : Nat) (va : Word) (bs : List Byte) (hs : s.Inv) : Writes (s.streamWrite h va bs) := by
  unfold State.streamWrite
  dsimp only
  split
  · trivial
  next e =>
    have h1 := (State.probe_inv _ _ _ _ hs).ok e
    exact Ends.ite (State.vecStore_inv _ _ _ _ _ h1)
      (State.foldl_inv _ (fun _ _ hu => State.vecStore_inv _ _ _ _ _ hu) _ h1)

theorem State.countRecord_inv (h : Nat) (hs : s.Inv) : (s.countRecord h).Inv := State.modStrip_inv _ _ hs

theorem State.readTerm_inv (h : Nat) (q : SReg) (f : Coeffs) (t : Nat) (hs : s.Inv) : Reads (s.readTerm h q f t) :=
  (State.streamRead_inv _ _ _ hs).bind fun _ h1 => h1

theorem State.readNext_inv (h : Nat) (q : SReg) (f : Coeffs) (t : Nat) (prev : Option (List Nat)) (hs : s.Inv) :
    Reads (s.readNext h q f t prev) := by
  refine (State.readTerm_inv _ _ _ _ hs).bind fun ⟨x, s1⟩ h1 => ?_
  cases prev with
  | none => exact h1
  | some m => exact Ends.ite h1 trivial

theorem State.readTerms_inv (h : Nat) (q : SReg) (f : Coeffs) (ordered : Bool) (n t : Nat) (prev : Option (List Nat))
    (hs : s.Inv) : Reads (s.readTerms h q f ordered n t prev) := by
  induction n generalizing s t prev with
  | zero => exact hs
  | succ n ih => exact (State.readNext_inv _ _ _ _ _ hs).bind fun _ h1 => (ih _ _ h1).bind fun _ h2 => h2

theorem State.readAll_inv (h : Nat) (q : SReg) (f : Coeffs) (ordered : Bool) (hs : s.Inv) :
    Reads (s.readAll h q f ordered) := State.readTerms_inv _ _ _ _ _ _ _ hs

theorem State.append_inv (h : Nat) (d : SReg) (f : Coeffs) (m : Word) (co : List Nat) (hs : s.Inv) :
    Writes (s.append h d f m co) := by
  refine Ends.ite trivial ?_
  split
  · trivial
  next e => exact State.countRecord_inv _ (State.modDesc_inv _ _ _ ((State.streamWrite_inv _ _ _ hs).ok e))

theorem State.appendTerm_inv (h : Nat) (d : SReg) (f : Coeffs) (m : Word) (co : List Nat) (hs : s.Inv) :
    Writes (s.appendTerm h d f m co) := by
  have ha := State.append_inv h d f m co hs
  unfold State.appendTerm
  split
  · exact ha
  · trivial
  · split
    · trivial
    next e => exact State.modCtx_inv _ _ (ha.ok e)

theorem State.beginStream_inv (h : Nat) (dsts : List SReg) (x : Descriptor) (valid : BitVec 8) (resume : Bool)
    (hs : s.Inv) : (s.beginStream h dsts x valid resume).Inv :=
  State.foldl_inv _ (fun _ _ ht => State.modDesc_inv _ _ _ ht) _ (State.seal_inv _ hs)

theorem State.headOf_inv (h : Nat) (q : SReg) (f : Coeffs) (t : Nat) (prev : Option (List Nat)) (hs : s.Inv) :
    Reads (s.headOf h q f t prev) :=
  Ends.ite hs ((State.readNext_inv _ _ _ _ _ hs).bind fun _ h1 => h1)

theorem State.monoBefore_inv (h : Nat) (q : SReg) (f : Coeffs) (t : Nat) (hs : s.Inv) : Reads (s.monoBefore h q f t) :=
  Ends.ite hs ((State.readTerm_inv _ _ _ _ hs).bind fun _ h1 => h1)

theorem State.startHead_inv (h : Nat) (q : SReg) (f : Coeffs) (t : Nat) (hs : s.Inv) : Reads (s.startHead h q f t) :=
  (State.monoBefore_inv _ _ _ _ hs).bind fun _ h1 => State.headOf_inv _ _ _ _ _ h1

/-- The frame of an instruction that can be cut and taken up again. -/
theorem State.resumable_inv (h op imm : Nat) (dsts srcs : List SReg) (regs : List Word) (tagOk : Descriptor → Bool)
    (setup : Descriptor → Descriptor) {run : State → Coeffs → Option Word → Except Cut State} (hs : s.Inv)
    (hrun : ∀ t f cur, t.Inv → Ends Cut.Inv State.Inv (run t f cur)) :
    Keeps (s.resumable h op imm dsts srcs regs tagOk setup run) :=
  State.withUnit_inv _ hs trivial fun _ h1 => (State.streamChecks_checks _ _ _ _).seq fun _ =>
    (State.needImages_checks _ _ _ _ h1).seq fun _ => (State.descsTaken_checks _ _ h1).seq fun _ =>
      endStream_inv _ _ _ _ (hrun _ _ _ (State.beginStream_inv _ _ _ _ _ h1))

/-! ### Sums and products (R138-R141, R341-R344) -/

theorem mergeLoop_inv (h : Nat) (sd sa sb : SReg) (f : Coeffs) (minus : Bool) (n : Nat) (g : Merge) (hs : s.Inv) :
    Ends Cut.Inv State.Inv (mergeLoop h sd sa sb f minus n s g) := by
  induction n generalizing s g with
  | zero => exact hs
  | succ n ih =>
    unfold mergeLoop
    dsimp only
    split
    · exact hs
    · next m co ev da db _ =>
      refine Ends.choose (A := State.Inv) hs (orCut_inv _ hs (State.appendTerm_inv _ _ _ _ _ hs)) fun s1 h1 => ?_
      have h2 : (s1.raiseFlags h ev).Inv := State.raiseFlags_inv _ _ h1
      refine Ends.choose (A := fun x : Option Term × State => x.2.Inv) (orCut_inv _ h2
        (State.headOf_inv _ _ _ _ _ h2)) h2
        fun _ h3 => ?_
      exact Ends.choose (A := fun x : Option Term × State => x.2.Inv) (orCut_inv _ h3
        (State.headOf_inv _ _ _ _ _ h3)) h3
        fun _ h4 => ih _ h4

theorem State.merge_inv (h : Nat) (sd sa sb : SReg) (f : Coeffs) (minus : Bool) (i j : Nat) (hs : s.Inv) :
    Ends Cut.Inv State.Inv (s.merge h sd sa sb f minus i j) :=
  (orCut_inv _ hs (State.startHead_inv _ _ _ _ hs)).bind fun _ h1 =>
    (orCut_inv _ h1 (State.startHead_inv _ _ _ _ h1)).bind fun _ h2 => mergeLoop_inv _ _ _ _ _ _ _ _ h2

theorem State.sumStreams_inv (h op : Nat) (minus : Bool) (sd sa sb : SReg) (hs : s.Inv) :
    Keeps (s.sumStreams h op minus sd sa sb) :=
  State.resumable_inv _ _ _ _ _ _ _ _ hs fun _ _ _ h1 => State.merge_inv _ _ _ _ _ _ _ _ h1

theorem emitGroups_inv {α : Type} (h : Nat) (sd : SReg) (f : Coeffs) (layout : Nat) (comb : List α → List Nat × Events)
    (l : List (List Nat × List α)) (last : Word) (hs : s.Inv) :
    Ends Cut.Inv State.Inv (emitGroups h sd f layout comb l s last) := by
  induction l generalizing s last with
  | nil => exact hs
  | cons g gs ih =>
    unfold emitGroups
    refine Ends.ite hs (Ends.ite (ih _ (State.raiseFlags_inv _ _ hs)) ?_)
    split
    · exact hs
    next e => exact ih _ (State.raiseFlags_inv _ _ ((State.appendTerm_inv _ _ _ _ _ hs).ok e))

theorem State.emit_inv {α : Type} (h : Nat) (sd : SReg) (f : Coeffs) (comb : List α → List Nat × Events)
    (cur : Option Word) (gs : List (List Nat × List α)) (hs : s.Inv) :
    Ends Cut.Inv State.Inv (s.emit h sd f comb cur gs) := emitGroups_inv _ _ _ _ _ _ _ hs

theorem execSord_inv (sd sa : SReg) (o : BitVec 2) (hs : s.Inv) : OutInv (execSord sd sa o s) :=
  endV_inv hs <| State.resumable_inv _ _ _ _ _ _ _ _ hs fun _ _ _ h1 =>
    (orCut_inv _ h1 (State.readAll_inv _ _ _ _ h1)).bind fun _ h2 => State.emit_inv _ _ _ _ _ _ h2

theorem execSmul_inv (sd sa sb : SReg) (hs : s.Inv) : OutInv (execSmul sd sa sb s) :=
  endV_inv hs <| State.resumable_inv _ _ _ _ _ _ _ _ hs fun _ _ _ h1 =>
    (orCut_inv _ h1 (State.readAll_inv _ _ _ _ h1)).bind fun _ h2 =>
      (orCut_inv _ h2 (State.readAll_inv _ _ _ _ h2)).bind fun _ h3 => State.emit_inv _ _ _ _ _ _ h3

theorem execSmulm_inv (sd sa : SReg) (ba bb : BReg) (hs : s.Inv) : OutInv (execSmulm sd sa ba bb s) :=
  endV_inv hs <| State.resumable_inv _ _ _ _ _ _ _ _ hs fun _ _ _ h1 =>
    (orCut_inv _ h1 (State.readAll_inv _ _ _ _ h1)).bind fun _ h2 => State.emit_inv _ _ _ _ _ _ h2

/-! ### Division (R142, R346) -/

theorem State.discardImage_inv (h : Nat) (dsts : List SReg) (i : Nat) (hs : s.Inv) : (s.discardImage h dsts i).Inv :=
  State.foldl_inv _ (fun _ _ ht => State.modDesc_inv _ _ _ ht) _ hs

theorem divLoop_inv (h : Nat) (sd : SReg) (dsts : List SReg) (divs : List Divisor) (done : Option (List Nat)) (n : Nat)
    (f : Coeffs) (l : List Term) (last : Word) (hs : s.Inv) :
    Ends Cut.Inv State.Inv (divLoop h sd dsts divs done n s f l last) := by
  induction n generalizing s f l last with
  | zero => exact hs
  | succ n ih =>
    cases l with
    | nil => exact hs
    | cons t p =>
      unfold divLoop
      dsimp only
      split
      · exact Ends.bind (A := State.Inv) (Ends.ite hs (orCut_inv _ hs
          (State.appendTerm_inv _ _ _ _ _ hs))) fun _ h1 => ih _ _ _ h1
      · next g d _ =>
        have h1 : ((deadImages f g).foldl (fun u i => u.discardImage h dsts i) s).Inv :=
          State.foldl_inv _ (fun _ _ hu => State.discardImage_inv _ _ _ hu) _ hs
        exact Ends.ite h1 (Ends.ite h1 (Ends.bind (A := State.Inv) (Ends.ite h1 (orCut_inv _ h1
          (State.appendTerm_inv _ _ _ _ _ h1)))
          fun _ h2 => ih _ _ _ h2))

theorem State.readDivisors_inv (h : Nat) (f : Coeffs) (l : List (SReg × SReg)) (hs : s.Inv) :
    Reads (s.readDivisors h f l) := by
  induction l generalizing s with
  | nil => exact hs
  | cons q l ih => exact (State.readAll_inv _ _ _ _ hs).bind fun _ h1 => (ih h1).bind fun _ h2 => h2

theorem execSdiv_inv (sd sa sb q : SReg) (n : BitVec 4) (hs : s.Inv) : OutInv (execSdiv sd sa sb q n s) :=
  endV_inv hs <| State.resumable_inv _ _ _ _ _ _ _ _ hs fun _ _ _ h1 =>
    (orCut_inv _ h1 (State.readAll_inv _ _ _ _ h1)).bind fun _ h2 =>
      (orCut_inv _ h2 (State.readDivisors_inv _ _ _ h2)).bind fun _ h3 => divLoop_inv _ _ _ _ _ _ _ _ _ h3

theorem dropLoop_inv (h : Nat) (sd sa : SReg) (f : Coeffs) (n t : Nat) (prev : Option (List Nat)) (hs : s.Inv) :
    Ends Cut.Inv State.Inv (dropLoop h sd sa f n t prev s) := by
  induction n generalizing s t prev with
  | zero => exact hs
  | succ n ih =>
    exact (orCut_inv _ hs (State.readNext_inv _ _ _ _ _ hs)).bind fun _ h1 =>
      Ends.choose (A := State.Inv) h1 (orCut_inv _ h1 (State.appendTerm_inv _ _ _ _ _ h1)) fun _ h2 => ih _ _ h2

theorem execSdrop_inv (sd sa : SReg) (hs : s.Inv) : OutInv (execSdrop sd sa s) :=
  endV_inv hs <| State.resumable_inv _ _ _ _ _ _ _ _ hs fun _ _ _ h1 => Ends.ite h1 <|
    (orCut_inv _ h1 (State.monoBefore_inv _ _ _ _ h1)).bind fun _ h2 => dropLoop_inv _ _ _ _ _ _ _ h2

end Sys2Proof.Machine

namespace Sys2Proof.Machine
variable {s : State}

/-! ### The other stream instructions (R127-R145, R339-R355) -/

theorem execSlt_inv (sd sa : SReg) (ba : BReg) (hs : s.Inv) : OutInv (execSlt sd sa ba s) := by
  refine endV_inv hs <| State.withUnit_inv _ hs trivial fun s0 h0 => (State.streamChecks_checks _ _ _ _).seq fun _ =>
    (State.needImages_checks _ _ _ _ h0).seq fun _ => (State.descsTaken_checks _ _ h0).seq fun _ => ?_
  have h1 : (s0.seal s.cur).Inv := State.seal_inv _ h0
  refine Ends.ite h1 (Ends.ite (Ends.fail (endPlain_inv h1 _)) ?_)
  dsimp only
  split
  · exact endPlain_inv h1 _
  next e1 =>
    have h2 := (State.readTerm_inv _ _ _ _ h1).ok e1
    refine Ends.ite h2 ?_
    split
    · exact endPlain_inv h2 _
    next e2 =>
      have h3 := (State.streamWrite_inv _ _ _ h2).ok e2
      exact State.modCtx_inv _ _ (State.modDesc_inv _ _ _ (State.countRecord_inv _ h3))

theorem execSnew_inv (sd : SReg) (ba bb : BReg) (ctl : BitVec 8) (hs : s.Inv) : OutInv (execSnew sd ba bb ctl s) :=
  endV_inv hs <| State.withUnit_inv _ hs trivial fun _ h0 => (need_fault _ _ _).seq fun _ =>
    State.putDesc_inv _ _ _ (State.seal_inv _ h0)

theorem execSld_inv (sd : SReg) (ba : BReg) (hs : s.Inv) : OutInv (execSld sd ba s) :=
  endV_inv hs <| State.withUnit_inv _ hs trivial fun _ h0 => (need_fault _ _ _).seq fun _ =>
    (orSealed_inv (State.seal_inv _ h0) (State.streamRead_inv _ _ _ (State.seal_inv _ h0))).bind fun _ h1 =>
      (need_fault _ _ _).seq fun _ => (need_fault _ _ _).seq fun _ => State.putDesc_inv _ _ _ h1

theorem execSst_inv (sa : SReg) (ba : BReg) (hs : s.Inv) : OutInv (execSst sa ba s) :=
  endV_inv hs <| State.withUnit_inv _ hs trivial fun _ h0 => (need_fault _ _ _).seq fun _ =>
    (orSealed_inv (State.seal_inv _ h0) (State.streamWrite_inv _ _ _ (State.seal_inv _ h0))).bind fun _ h1 =>
      (State.descsTaken_checks _ _ h0).seq fun _ => h1

theorem execSstat_inv (ba : BReg) (sa : SReg) (sel : BitVec 3) (hs : s.Inv) : OutInv (execSstat ba sa sel s) :=
  endV_inv hs <| State.withUnit_inv _ hs trivial fun _ h0 => (State.descsClean_checks _ _).seq fun _ =>
    State.bw_inv _ _ h0

theorem State.setPrimes_inv (h : Nat) (l : List Nat) (hs : s.Inv) : (s.setPrimes h l).Inv := hs

theorem execSprm_inv (ba : BReg) (n : BitVec 4) (hs : s.Inv) : OutInv (execSprm ba n s) :=
  endV_inv hs <| State.withUnit_inv _ hs trivial fun _ h0 => (need_fault _ _ _).seq fun _ =>
    (orStop_inv (State.streamElems_inv _ _ h0)).bind fun _ h1 => (need_fault _ _ _).seq fun _ =>
      (need_checks (f := .wait _ _) _ h1).seq fun _ => State.setPrimes_inv _ _ h1

theorem execSprmDrainEnd_inv (hs : s.Inv) : OutInv (execSprmDrainEnd s) := by
  unfold execSprmDrainEnd
  split
  · exact State.guardB_inv _ hs (execSprm_inv _ _ hs)
  · exact hs

theorem growLoop_inv (h : Nat) (sd : SReg) (dst : Word) (n t : Nat) (hs : s.Inv) : Keeps (growLoop h sd dst n t s) := by
  induction n generalizing s t with
  | zero => exact hs
  | succ n ih =>
    unfold growLoop
    dsimp only
    split
    · exact endPlain_inv hs _
    next e1 =>
      have h1 := (State.streamRead_inv _ _ _ hs).ok e1
      split
      · exact endPlain_inv h1 _
      next e2 => exact ih _ (State.countRecord_inv _ ((State.streamWrite_inv _ _ _ h1).ok e2))

theorem execSgrow_inv (sd : SReg) (ba bb : BReg) (hs : s.Inv) : OutInv (execSgrow sd ba bb s) :=
  endV_inv hs <| State.withUnit_inv _ hs trivial fun _ h0 => (need_fault _ _ _).seq fun _ =>
    (need_fault _ _ _).seq fun _ =>
    (need_fault _ _ _).seq fun _ => (State.descsTaken_checks _ _ h0).seq fun _ =>
      (growLoop_inv _ _ _ _ _ (State.seal_inv _ h0)).bind fun _ h1 => State.modDesc_inv _ _ _ h1

theorem execSterm_inv (sd : SReg) (ba bb bc : BReg) (hs : s.Inv) : OutInv (execSterm sd ba bb bc s) := by
  refine endV_inv hs <| State.withUnit_inv _ hs trivial fun s0 h0 => (need_fault _ _ _).seq fun _ =>
    (State.primesOk_checks _ _).seq fun _ => (State.needImages_checks _ _ _ _ h0).seq fun _ =>
      (State.descsTaken_checks _ _ h0).seq fun _ => ?_
  have h1 : (s0.seal s.cur).Inv := State.seal_inv _ h0
  refine Ends.bind (A := fun x : Option (List Nat) × State => x.2.Inv) ?_ fun _ h2 =>
    (need_checks (f := .partly _ _ _) _ h2).seq fun _ => ?_
  · split
    · exact endPlain_inv h1 _
    next e => exact (State.monoBefore_inv _ _ _ _ h1).ok e
  · have h3 : ∀ l, (List.foldl (fun u i => State.discardImage u s.cur [sd] i) _ l).Inv :=
      fun l => State.foldl_inv _ (fun _ _ hu => State.discardImage_inv _ _ _ hu) l h2
    refine (State.needImages_checks _ _ _ _ (h3 _)).seq fun _ => Ends.ite (h3 _) ?_
    split
    · exact endPlain_inv (h3 _) _
    next e => exact (State.append_inv _ _ _ _ _ (h3 _)).ok e

theorem ratLoop_inv (h : Nat) (sa : SReg) (f : Coeffs) (dst : Word) (n t : Nat) (hs : s.Inv) :
    Keeps (ratLoop h sa f dst n t s) := by
  induction n generalizing s t with
  | zero => exact hs
  | succ n ih =>
    unfold ratLoop
    dsimp only
    split
    · exact endPlain_inv hs _
    next e1 =>
      have h1 := (State.readTerm_inv _ _ _ _ hs).ok e1
      split
      · exact endPlain_inv h1 _
      next e2 =>
        have h2 := (State.streamWrite_inv _ _ _ h1).ok e2
        exact ih _ (State.ite_inv (State.modDesc_inv _ _ _ h2) h2)

theorem execSrat_inv (sa : SReg) (ba : BReg) (hs : s.Inv) : OutInv (execSrat sa ba s) :=
  endV_inv hs <| State.withUnit_inv _ hs trivial fun _ h0 => (need_fault _ _ _).seq fun _ =>
    (State.primesOk_checks _ _).seq fun _ => (need_fault _ _ _).seq fun _ =>
      (State.descsTaken_checks _ _ h0).seq fun _ =>
      ratLoop_inv _ _ _ _ _ _ (State.modDesc_inv _ _ _ (State.seal_inv _ h0))

theorem readSome_inv (h : Nat) (q : SReg) (f : Coeffs) (n t : Nat) (l : List Term) (hs : s.Inv) :
    (readSome h q f n t s l).2.1.Inv := by
  induction n generalizing s t l with
  | zero => exact hs
  | succ n ih =>
    unfold readSome
    split
    · exact hs
    next e => exact ih _ _ ((State.readTerm_inv _ _ _ _ hs).ok e)

theorem execSexp_inv (vd : VReg) (sa : SReg) (ba : BReg) (hs : s.Inv) : OutInv (execSexp vd sa ba s) := by
  refine endV_inv hs <| State.withUnit_inv _ hs ((need_fault _ _ _).seq fun _ => need_fault _ _ _) fun s0 h0 =>
    (need_fault _ _ _).seq fun _ => (State.descsClean_checks _ _).seq fun _ => Ends.ite h0 ?_
  have hr := readSome_inv s.cur sa ((s0.desc s.cur sa).coeffs []) (s0.desc s.cur sa).count.toNat 0 [] h0
  revert hr
  generalize readSome _ _ _ _ _ _ _ = r
  intro hr
  obtain ⟨l, s1, stop⟩ := r
  cases stop with
  | none => exact State.sweepWrite_inv _ _ _ _ _ _ _ _ hr
  | some e => exact endPlain_inv (State.modCtx_inv _ _ (State.touch_inv _ _ hr)) _

theorem compressLoop_inv (h : Nat) (sd : SReg) (layout : Nat) (base : Word) (bits : Nat → Nat) (n : Nat) (hs : s.Inv) :
    Ends Cut.Inv State.Inv (compressLoop h sd layout base bits n s) := by
  induction n generalizing s with
  | zero => exact hs
  | succ n ih =>
    exact Ends.choose (A := State.Inv) hs (orCut_inv _ hs (State.appendTerm_inv _ _ _ _ _ hs)) fun _ h1 => ih h1

theorem execScmp_inv (sd : SReg) (vd : VReg) (ba : BReg) (hs : s.Inv) : OutInv (execScmp sd vd ba s) :=
  endV_inv hs <| State.withUnit_inv _ hs ((need_fault _ _ _).seq fun _ => need_fault _ _ _) fun _ h0 =>
    (need_fault _ _ _).seq fun _ => (State.descsTaken_checks _ _ h0).seq fun _ =>
      have h1 := State.modDesc_inv _ _ _ (State.seal_inv _ h0)
      (need_checks (f := .poisoned _ _ _) _ h1).seq fun _ =>
        endStream_inv _ _ _ _ (compressLoop_inv _ _ _ _ _ _ (State.touch_inv _ _ h1))

theorem execStreamUnitGrant_inv (hs : s.Inv) : OutInv (execStreamUnitGrant s) := State.modCore_inv _ _ hs

end Sys2Proof.Machine

/-! PROOFS. Every operation of the part keeps memory canonical: the management processor, bring-up and the fabric. -/

namespace Sys2Proof.Machine
variable {s : State}

/-! ### Ganging (R12-R14, R224) -/

theorem State.answer_inv (bs : List Byte) (hs : s.Inv) : (s.answer bs).Inv := hs

theorem State.postMev_inv (reason page : Nat) (hs : s.Inv) : (s.postMev reason page).Inv := hs

theorem execHoistMapRead_inv (hs : s.Inv) : OutInv (execHoistMapRead s) := State.ite_inv (State.answer_inv _ hs) hs

theorem State.modHoist_inv (i : Nat) (f : W32 → W32) (hs : s.Inv) : (s.modHoist i f).Inv := hs

theorem State.clearHelm_inv (c : Nat) (hs : s.Inv) : (s.clearHelm c).Inv :=
  State.modCore_inv _ _ (State.foldl_inv _ (fun _ _ hu => State.modCtx_inv _ _ hu) _ hs)

theorem execGangRequest_inv (leader : Nat) (hs : s.Inv) : OutInv (execGangRequest leader s) := by
  refine OutInv.ite hs ?_
  split
  · exact State.answer_inv _ hs
  · exact hs

theorem execUngangRequest_inv (leader : Nat) (hs : s.Inv) : OutInv (execUngangRequest leader s) := by
  refine OutInv.ite hs ?_
  split
  · exact OutInv.ite hs (State.answer_inv _ hs)
  · exact State.answer_inv _ hs

theorem State.modHarts_inv (c : Nat) (f : Hart → Hart) (hs : s.Inv) : (s.modHarts c f).Inv :=
  State.foldl_inv _ (fun _ _ hu => State.modHart_inv _ _ hu) _ hs

theorem State.findRetired_inv (c : Nat) (hs : s.Inv) : (s.findRetired c).Inv := hs

theorem State.formGang_inv (c d : Nat) (hs : s.Inv) : (s.formGang c d).Inv := by
  unfold State.formGang
  split
  · exact State.modCore_inv _ _ (State.modHarts_inv _ _ (State.findRetired_inv _ (State.findRetired_inv _
      (State.modHoist_inv _ _ (State.modHoist_inv _ _ hs)))))
  · exact hs

theorem State.dissolveGang_inv (c d : Nat) (hs : s.Inv) : (s.dissolveGang c d).Inv := by
  unfold State.dissolveGang
  split
  · exact State.modHarts_inv _ _ (State.findRetired_inv _ (State.findRetired_inv _
      (State.modHoist_inv _ _ (State.modHoist_inv _ _ hs))))
  · exact hs

theorem State.changeGang_inv (g : GangChange) (hs : s.Inv) : (s.changeGang g).Inv :=
  have h1 := State.clearHelm_inv g.dark (State.clearHelm_inv g.leader hs)
  State.settle_inv _ (State.settle_inv _ (State.ite_inv (State.formGang_inv _ _ h1) (State.dissolveGang_inv _ _ h1)))

theorem execGangChangeEffect_inv (hs : s.Inv) : OutInv (execGangChangeEffect s) := by
  unfold execGangChangeEffect
  split
  · exact hs
  · next g rest _ =>
    have h1 : (s.modPart fun p => { p with gangs := rest }).Inv := hs
    exact State.ite_inv (State.answer_inv _ (State.changeGang_inv _ h1)) (State.answer_inv _ h1)

/-! ### Retirement and poison (R206, R213-R216) -/

theorem State.dropHarts_inv (c : Nat) (hs : s.Inv) : (s.dropHarts c).Inv :=
  State.foldl_inv _ (fun _ _ hu => State.exitHart_inv _ hu) _ hs

theorem State.breakGang_inv (c : Nat) (hs : s.Inv) : (s.breakGang c).Inv := by
  refine State.ite_inv ?_ ?_
  · split
    · exact State.dissolveGang_inv _ _ (State.clearHelm_inv _ hs)
    · exact hs
  · split
    · exact State.dissolveGang_inv _ _ (State.clearHelm_inv _ hs)
    · exact hs

theorem State.disableHelm_inv (c : Nat) (hs : s.Inv) : (s.disableHelm c).Inv := by
  have h1 := State.dropHarts_inv c (State.clearHelm_inv c (State.breakGang_inv c hs))
  unfold State.disableHelm
  dsimp only
  split
  · exact State.modHoist_inv _ _ h1
  · exact h1

theorem State.bindPair_inv (i : Nat) (p : Pair) (hs : s.Inv) : (s.bindPair i p).Inv := by
  refine State.ite_inv ?_ hs
  split
  · exact State.modHoist_inv _ _ hs
  · exact hs

theorem State.applyRemap_inv (e : Nat × Option Pair) (hs : s.Inv) : (s.applyRemap e).Inv := by
  unfold State.applyRemap
  dsimp only
  split
  · exact State.ite_inv hs (State.modCore_inv _ _ (State.findRetired_inv _ (State.clearHelm_inv _
      (State.clearHelm_inv _ (State.bindPair_inv _ _ hs)))))
  · exact State.disableHelm_inv _ hs

theorem State.bumpBist_inv (lo : Nat) (hs : s.Inv) : (s.bumpBist lo).Inv := hs

theorem execRetirement_inv (u : RUnit) (hs : s.Inv) : OutInv (execRetirement u s) := OutInv.ite hs hs

theorem State.retire_inv (u : RUnit) (hs : s.Inv) : (s.retire u).Inv := by
  cases u with
  | workingLane c l => exact hs
  | cluster c x => exact State.modCore_inv _ _ (State.modCore_inv _ _ (State.clearHelm_inv c hs))
  | halfSlab t x up => exact State.bumpBist_inv _ (State.foldl_inv _ (fun _ _ hu => State.applyRemap_inv _ hu) _ hs)
  | helm c => exact State.bumpBist_inv _ (State.disableHelm_inv _ hs)
  | controlCore c => exact State.bumpBist_inv _ (State.modCore_inv _ _ (State.dropHarts_inv _ hs))

theorem execRetirementEffect_inv (hs : s.Inv) : OutInv (execRetirementEffect s) := by
  unfold execRetirementEffect
  split
  · exact hs
  · next u rest _ =>
    have h1 : (s.modPart fun p => { p with retiring := rest }).Inv := hs
    exact OutInv.ite (State.postMev_inv _ _ (State.retire_inv u h1)) h1

theorem execHbmRowSpare_inv (addr : BitVec 44) (limit : Option Nat) (hs : s.Inv) :
    OutInv (execHbmRowSpare addr limit s) := OutInv.ite (State.ite_inv hs hs) hs

theorem execHeatRecordAppend_inv (tower entry : Nat) (threshold : Bool) (hs : s.Inv) :
    OutInv (execHeatRecordAppend tower entry threshold s) := by
  unfold execHeatRecordAppend
  split
  · exact hs
  · next e _ =>
    have h1 := fun b => State.appendHeat_inv tower e b hs
    exact OutInv.ite (OutInv.ite (State.modTower_inv _ _ (h1 true)) hs) (State.modTower_inv _ _ (h1 false))

theorem State.poisonCells_inv (k n : Nat) (hs : s.Inv) : (s.poisonCells k n).Inv := Part.markAll_wf _ _ hs

theorem State.poison_inv (loc : EccLoc) (hs : s.Inv) : (s.poison loc).Inv := by
  cases loc with
  | mem pa =>
    unfold State.poison
    dsimp only
    split
    · exact State.poisonCells_inv _ _ hs
    · exact State.poisonCells_inv _ _ hs
    · exact State.poisonCells_inv _ _ hs
    · exact hs
  | vreg h v i => exact State.ite_inv hs hs
  | mreg h m r p => exact State.ite_inv hs hs
  | breg h b => exact State.ite_inv hs hs
  | xreg h x => exact State.ite_inv hs hs
  | tile c z r j => exact State.ite_inv hs hs
  | desc c d => exact State.ite_inv hs hs
  | junction c pa => exact hs
  | strip h pa => exact State.modStrip_inv _ _ hs
  | queue h n => exact hs
  | reply h n => exact State.ite_inv hs hs

theorem State.countCorrected_inv (loc : EccLoc) (hs : s.Inv) : (s.countCorrected loc).Inv := hs

theorem execEccError_inv (loc : EccLoc) (u : Bool) (hs : s.Inv) : OutInv (execEccError loc u s) :=
  State.ite_inv (State.poison_inv _ hs) (State.countCorrected_inv _ hs)

/-! ### Bring-up and power (R10-R12, R226-R231, R239) -/

theorem State.toPhase_inv (n : Nat) (hs : s.Inv) : (s.toPhase n).Inv := hs

theorem State.failBringup_inv (code : Nat) (hs : s.Inv) : (s.failBringup code).Inv := hs

/-- Memory without power holds nothing. -/
theorem State.powerDown_inv : s.powerDown.Inv := rfl

theorem State.fromPhase0_inv : s.fromPhase0.Inv := rfl

theorem execPowerGood_inv (ok : Bool) (hs : s.Inv) : OutInv (execPowerGood ok s) :=
  OutInv.ite hs (OutInv.ite (State.ite_inv (State.toPhase_inv _ State.fromPhase0_inv)
    (State.failBringup_inv _ State.fromPhase0_inv)) hs)

theorem execBringupPhase1_inv (code : Byte) (strap : BitVec 12) (links : LinkTraining) (hs : s.Inv) :
    OutInv (execBringupPhase1 code strap links s) :=
  OutInv.ite hs (OutInv.ite (State.failBringup_inv _ hs) (OutInv.ite (State.failBringup_inv _ hs)
    (State.toPhase_inv _ hs)))

theorem State.applyRetired_inv (c : Nat) (hs : s.Inv) : (s.applyRetired c).Inv :=
  State.modCore_inv _ _ (State.findRetired_inv _ hs)

theorem execBringupPhase2_inv (hoist : List W32) (hs : s.Inv) : OutInv (execBringupPhase2 hoist s) := by
  refine OutInv.ite hs ?_
  generalize s.part.applyHoist _ _ _ _ = l
  have h1 : (s.modPart fun p => { p with hoist := l, measured := l }).Inv := hs
  have h2 := State.foldl_inv State.applyRetired (fun _ _ hu => State.applyRetired_inv _ hu) (List.range 64) h1
  exact State.ite_inv (State.failBringup_inv _ h2) (State.toPhase_inv _ h2)

theorem execBringupPhase3_inv (serial validity nonce : List Byte) (hs : s.Inv) :
    OutInv (execBringupPhase3 serial validity nonce s) :=
  OutInv.ite hs <| OutInv.ite (State.failBringup_inv _ hs) <| OutInv.ite (State.failBringup_inv _ hs) <|
    OutInv.ite (State.failBringup_inv _ hs) <| OutInv.ite (State.failBringup_inv _ hs) (State.toPhase_inv _ hs)

theorem execBringupPhase4_inv (hs : s.Inv) : OutInv (execBringupPhase4 s) :=
  OutInv.ite hs (Part.putBytes_wf _ _ hs)

theorem execManagementReset_inv (hs : s.Inv) : OutInv (execManagementReset s) := OutInv.ite State.fromPhase0_inv hs

theorem execPowerLoss_inv : OutInv (execPowerLoss s) := State.powerDown_inv

theorem execThermalCutoff_inv (hs : s.Inv) : OutInv (execThermalCutoff s) := OutInv.ite (State.powerDown_inv (s :=
  s)) hs

theorem execCooledRestart_inv (hs : s.Inv) : OutInv (execCooledRestart s) := OutInv.ite State.fromPhase0_inv hs

theorem execRatioChange_inv (ratio : BitVec 4) (thr : Bool) (hs : s.Inv) : OutInv (execRatioChange ratio thr s) :=
  OutInv.ite hs hs

/-! ### Rencon and the host link (R15, R17, R217-R219, R235-R238) -/

theorem execRenconTransaction_inv (write : Bool) (pa : BitVec 56) (data : Word) (hs : s.Inv) :
    OutInv (execRenconTransaction write pa data s) := by
  unfold execRenconTransaction
  split
  · exact OutInv.ite (State.perform_inv _ _ _ _ hs) hs
  · exact hs

theorem State.answerWord_inv (h : Nat) (hs : s.Inv) : (s.answerWord h).Inv := hs

theorem State.loseWord_inv (h : Nat) (hs : s.Inv) : (s.loseWord h).Inv := hs

theorem State.answerThread_inv (h : Nat) (hs : s.Inv) : (s.answerThread h).Inv := hs

theorem State.vectorUnreachable_inv (h : Nat) (t : Transaction) (hs : s.Inv) : (s.vectorUnreachable h t).Inv := by
  unfold State.vectorUnreachable
  split
  · exact State.answerWord_inv _ (State.writeLost_inv _ _ hs)
  · exact State.loseWord_inv _ hs

theorem State.unreachable_inv (t : Transaction) (hs : s.Inv) : (s.unreachable t).Inv := by
  have h1 := State.dropTrans_inv t.id hs
  refine State.ite_inv h1 ?_
  split
  · exact State.loseChunk_inv _ _ _ _ h1
  · exact State.ite_inv (State.writeLost_inv _ _ h1) (State.ite_inv (State.takeTrap_inv _ _ _ _ h1) h1)
  · exact State.ite_inv (State.writeLost_inv _ _ h1) (State.ite_inv (State.vectorUnreachable_inv _ _ h1) h1)
  · exact State.ite_inv (State.takeTrap_inv _ _ _ _ h1) h1
  · exact State.ite_inv (State.stopWord_inv _ (State.modCtx_inv _ _ h1) trivial) h1
  · exact h1

theorem execRenconRetransmit_inv (id : Nat) (hs : s.Inv) : OutInv (execRenconRetransmit id s) := by
  unfold execRenconRetransmit
  split
  · exact hs
  · exact OutInv.ite hs (State.ite_inv hs (State.unreachable_inv _ hs))

theorem State.deliver_inv (t : Transaction) (hs : s.Inv) : (s.deliver t).Inv := by
  unfold State.deliver
  dsimp only
  split
  · exact State.ite_inv (State.answerThread_inv _ hs) hs
  · exact State.ite_inv (State.answerThread_inv _ hs) hs
  · exact State.ite_inv (State.answerWord_inv _ hs) hs
  · exact State.ite_inv (State.answerWord_inv _ hs) hs
  · split
    · exact State.setChunk_inv _ _ _ _ hs
    · exact hs
  · exact hs

theorem execRenconAcknowledgement_inv (id : Nat) (hs : s.Inv) : OutInv (execRenconAcknowledgement id s) := by
  unfold execRenconAcknowledgement
  split
  · exact hs
  · exact OutInv.ite hs (OutInv.ite (State.dropTrans_inv _ (State.land_inv _ hs))
      (State.deliver_inv _ (State.dropTrans_inv _ hs)))

theorem State.modPort_inv (p : Nat) (f : Word → Word) (hs : s.Inv) : (s.modPort p f).Inv := hs

theorem State.flitCorrected_inv (port : Nat) (hs : s.Inv) : (s.flitCorrected port).Inv :=
  State.ite_inv (State.modPort_inv _ _ hs) hs

theorem execSpareLaneSwitch_inv (port : Nat) (hs : s.Inv) : OutInv (execSpareLaneSwitch port s) :=
  OutInv.ite hs (OutInv.ite hs hs)

theorem execRenconPortRejoin_inv (port : Nat) (hs : s.Inv) : OutInv (execRenconPortRejoin port s) := OutInv.ite hs hs

theorem execHostLinkDown_inv (hs : s.Inv) : OutInv (execHostLinkDown s) := State.linkDown_inv hs

theorem execHostLinkTrain_inv (cxl : Bool) (width rate : BitVec 3) (hs : s.Inv) :
    OutInv (execHostLinkTrain cxl width rate s) := OutInv.ite hs hs

theorem State.post_inv (p : Posted) (hs : s.Inv) : (s.post p).Inv := by
  have hk := State.kwrite_inv p.hart 1 p.sender p.stalled p.reg p.data hs
  refine State.ite_inv hs ?_
  cases e : s.kwrite p.hart 1 p.sender p.stalled p.reg p.data with
  | ok s1 | poison s1 | wait w s1 =>
    rw [e] at hk
    exact hk
  | illegal => exact hs
  | exc s1 x => exact hs

theorem State.runPosted_inv (hs : s.Inv) : s.runPosted.Inv :=
  State.foldl_inv _ (fun _ _ hu => State.post_inv _ hu) _ hs

theorem State.outsideKreg_inv (write : Bool) (h off : Nat) (data : Word) (hs : s.Inv) :
    (s.outsideKreg write h off data).Inv :=
  State.ite_inv hs (State.ite_inv (State.post_inv _ hs) (State.answer_inv _ hs))

theorem execFabricPeerAccess_inv (write : Bool) (addr : BitVec 44) (data : Word) (hs : s.Inv) :
    OutInv (execFabricPeerAccess write addr data s) := by
  refine OutInv.ite hs ?_
  split
  · exact State.outsideKreg_inv _ _ _ _ hs
  · exact State.ite_inv hs (State.ite_inv (State.engineWrite_inv _ _ _ hs) (State.answer_inv _ hs))
  · exact OutInv.ite (State.ite_inv (State.performAs_inv _ _ _ _ _ _ _ hs) (State.answer_inv _ hs)) hs

theorem execHostCxlMemRequest_inv (write : Bool) (addr : BitVec 44) (data : Word) (hs : s.Inv) :
    OutInv (execHostCxlMemRequest write addr data s) := by
  refine OutInv.ite (OutInv.ite (State.ite_inv (State.perform_inv _ _ _ _ hs) (State.answer_inv _ hs)) ?_) hs
  split
  · exact State.outsideKreg_inv _ _ _ _ hs
  · exact hs

theorem execHostStatusRead_inv (off : Nat) (hs : s.Inv) : OutInv (execHostStatusRead off s) :=
  OutInv.ite hs (State.answer_inv _ hs)

/-! ### Management answers, becalm and dump (R224, R225, R229-R233) -/

theorem State.manage_inv (bs : List Byte) (hs : s.Inv) :
    OutInv (s.manage bs) := State.ite_inv (State.answer_inv _ hs) hs

theorem execPldmFirmwareUpdate_inv (img : Firmware) (hs : s.Inv) : OutInv (execPldmFirmwareUpdate img s) :=
  OutInv.ite (State.answer_inv _ hs) (State.manage_inv _ hs)

theorem State.spdm_inv (code : Byte) (payload : List Byte) (hs : s.Inv) : OutInv (s.spdm code payload) :=
  State.manage_inv _ hs

theorem execBecalmHold_inv (core : Nat) (hs : s.Inv) : OutInv (execBecalmHold core s) :=
  OutInv.ite (State.becalm_inv _ _ hs) hs

theorem execDebuggerAttach_inv (core : Nat) (hs : s.Inv) : OutInv (execDebuggerAttach core s) := OutInv.ite hs hs

theorem State.unbecalm_inv (core : Nat) (hs : s.Inv) : (s.unbecalm core).Inv :=
  State.settle_inv _ (State.modCore_inv _ _ hs)

theorem execDebuggerRelease_inv (core : Nat) (hs : s.Inv) : OutInv (execDebuggerRelease core s) :=
  OutInv.ite (State.unbecalm_inv _ hs) hs

theorem State.dumpImages_inv (last : Nat) (l : List Nat) (pa n : Nat) (hs : s.Inv) :
    (s.dumpImages last l pa n).1.Inv := by
  induction l generalizing s pa n with
  | nil => exact hs
  | cons h l ih =>
    unfold State.dumpImages
    split
    · exact ih _ _ (State.keepImage_inv _ _ (State.perform_inv _ _ _ _ hs))
    · exact hs

theorem State.dump_inv (c : Nat) (hs : s.Inv) : (s.dump c).Inv :=
  Part.markAll_wf _ _ (State.perform_inv _ _ _ _ (State.dumpImages_inv _ _ _ _ hs))

theorem execDumpLimitExpiry_inv (core : Nat) (hs : s.Inv) : OutInv (execDumpLimitExpiry core s) :=
  have h1 := State.modCore_inv core _ hs
  OutInv.ite (State.postMev_inv _ _ (State.unbecalm_inv _ (State.ite_inv (State.dump_inv _ h1) h1))) hs

end Sys2Proof.Machine

/-! PROOFS. Every step keeps memory canonical. -/

namespace Sys2Proof.Machine
variable {s : State}

/-! ### Every instruction and every event -/

theorem execBshl_inv (bd ba : BReg) (src : BSrc) (hs : s.Inv) : OutInv (execBshl bd ba src s) := by
  unfold execBshl
  exact State.blockOp_inv _ _ _ _ hs

theorem execBshr_inv (bd ba : BReg) (src : BSrc) (hs : s.Inv) : OutInv (execBshr bd ba src s) := by
  unfold execBshr
  exact State.blockOp_inv _ _ _ _ hs

theorem execBset_inv (c : Cond) (bd ba : BReg) (src : BSrc) (hs : s.Inv) : OutInv (execBset c bd ba src s) := by
  unfold execBset
  exact State.blockOp_inv _ _ _ _ hs

/-- Each arm by the lemma of its own operation, or of the operation that it shares with others. -/
theorem exec_inv (i : Instr) (hs : s.Inv) : OutInv (exec i s) := by
  cases i with
  | iadd | isub | iand | ior | ixor | ishl | ishr | isar | imul | imulh | idiv | irem | imin | imax | iclz
  | ipop | iset | iaddImm | iandImm | iorImm | ixorImm | ishlImm | ishrImm | isarImm | isetImm | imovz | imovk
  | ipcrel => exact writeX_inv _ _ hs
  | ld => exact execLd_inv _ _ _ _ hs
  | st => exact execSt_inv _ _ _ _ hs
  | amo | acas => exact State.atomic_inv _ _ _ _ _ _ hs
  | ldacq => exact execLdacq_inv _ _ _ _ hs
  | strel => exact execStrel_inv _ _ _ _ hs
  | fall => exact execFall_inv _ hs
  | mwatch => exact execMwatch_inv _ _ hs
  | jmp | rqpoll | vqpos | illegalInstruction | hostBarWrite | fvv | hyield | deadlineExpiry => exact hs
  | call => exact State.callTo_inv _ hs
  | jr => exact execJr_inv _ hs
  | callr => exact execCallr_inv _ hs
  | bcc => exact execBcc_inv _ _ _ _ hs
  | vdisp => exact execVdisp_inv _ _ hs
  | rqget => exact execRqget_inv _ hs
  | hspawn => exact execHspawn_inv _ _ _ hs
  | gbar => exact execGbar_inv _ hs
  | garr => exact execGarr_inv _ hs
  | gwait => exact execGwait_inv _ hs
  | trap | vsync | hyieldEnd | tret | wfi => exact OutInv.ite hs hs
  | kread => exact execKread_inv _ _ hs
  | kwrite => exact execKwrite_inv _ _ hs
  | kset | kclr => exact State.fieldAccess_inv _ _ _ _ hs
  | sinval => exact execSinval_inv _ _ hs
  | junctionLineDrain => exact execJunctionLineDrain_inv _ _ hs
  | kctxSave | kctxrRestore | kvqDiscard | kfrmWrite | kflagsWrite | klprWrite | kgangWrite | ksqbWrite
  | kcpfqWrite | kheatWrite | kpenWrite | kdeadlineWrite | katpWrite | ktermWrite | kminimgWrite | kdumpWrite
  | krasbWrite | kvfaultResume => exact State.writeNamed_inv _ _ hs
  | kpreqPre | kpreqIhi => exact State.storeKpreq_inv _ _ hs
  | breakpointHit => exact execBreakpointHit_inv _ hs
  | bli => exact endB_inv (r := .ok _) hs (State.bw_inv _ _ hs)
  | badd | bsub | bmul | band | bor | bxor => exact State.blockOp_inv _ _ _ _ hs
  | bshl => exact execBshl_inv _ _ _ hs
  | bshr => exact execBshr_inv _ _ _ hs
  | bset => exact execBset_inv _ _ _ _ hs
  | bloop => exact execBloop_inv _ _ _ hs
  | bbr => exact execBbr_inv _ _ _ _ hs
  | bjmp => exact execBjmp_inv _ hs
  | vreply => exact execVreply_inv _ hs
  | vreplyAny | vreplyNone | vreplyPop => exact endB_inv hs (State.replyMask_inv _ _ hs)
  | bkrd => exact execBkrd_inv _ _ hs
  | vmark => exact execVmark_inv _ hs
  | vsetl => exact execVsetl_inv _ _ _ _ hs
  | vtag => exact execVtag_inv _ _ hs
  | vrseed => exact execVrseed_inv _ hs
  | vadd | vsub | vmul | vdiv => exact endV_inv hs (State.binary_inv _ _ _ _ _ _ _ _ hs)
  | vmadd | vmsub => exact endV_inv hs (State.ternary_inv _ _ _ _ _ _ _ _ hs)
  | vmin | vmax => exact endV_inv hs (State.minmax_inv _ _ _ _ _ _ _ _ hs)
  | vabs => exact execVabs_inv _ _ _ _ hs
  | vneg => exact endV_inv hs (State.unary_inv _ _ _ _ _ _ hs)
  | vand | vor | vxor => exact endV_inv hs (State.logic_inv _ _ _ _ _ _ hs)
  | vshl | vshr | vsar => exact endV_inv hs (State.shift_inv _ _ _ _ _ _ _ hs)
  | vcmp => exact endV_inv hs (State.compare_inv _ _ _ _ _ _ hs)
  | vsel => exact endV_inv hs (State.select_inv _ _ _ _ _ hs)
  | vmov => exact execVmov_inv _ _ _ hs
  | vbcast => exact execVbcast_inv _ _ _ hs
  | vid => exact execVid_inv _ _ hs
  | vcvt => exact endV_inv hs (State.convert_inv _ _ _ _ _ hs)
  | vsqrt | vrsqrt | vrcp | vexp2 | vlog2 | vtanh => exact endV_inv hs (State.function_inv _ _ _ _ _ _ _ hs)
  | vclass => exact execVclass_inv _ _ _ hs
  | vscale => exact endV_inv hs (State.scale_inv _ _ _ _ _ _ hs)
  | vrsum | vrmax | vrmin => exact endV_inv hs (State.reduce_inv _ _ _ _ _ _ _ hs)
  | vrbit => exact endV_inv hs (State.reduceBits_inv _ _ _ _ hs)
  | vslide => exact execVslide_inv _ _ _ _ hs
  | vgath => exact execVgath_inv _ _ _ _ hs
  | vcomp => exact execVcomp_inv _ _ _ hs
  | vexpd => exact execVexpd_inv _ _ _ hs
  | vbsl => exact execVbsl_inv _ _ _ _ hs
  | vbsr => exact execVbsr_inv _ _ _ _ hs
  | vfunl | vfunr | vbext | vbins => exact endV_inv hs (State.bitStrings_inv _ _ _ _ _ _ hs)
  | mlog => exact endV_inv hs (State.maskWrite_inv _ _ _ _ _ _ hs)
  | mpop | mfirst | mtest => exact endV_inv hs (State.maskTest_inv _ _ _ hs)
  | mbef | minc | monly => exact endV_inv hs (State.aboutFirst_inv _ _ _ hs)
  | vld vd base off t o => exact execVld_inv _ _ _ _ o _ hs
  | vlds vd base off bs t o => exact execVlds_inv _ _ _ _ _ o _ hs
  | vldx vd base off vi t o => exact execVldx_inv _ _ _ _ _ o _ hs
  | vldff vd base off t o => exact execVldff_inv _ _ _ _ o _ hs
  | vst => exact execVst_inv _ _ _ _ _ _ hs
  | vsts => exact execVsts_inv _ _ _ _ _ _ _ hs
  | vstx => exact execVstx_inv _ _ _ _ _ _ _ hs
  | vtld => exact endV_inv hs (State.tableLoad_inv _ _ _ _ _ hs)
  | vtst => exact endV_inv hs (State.tableStore_inv _ _ _ _ _ hs)
  | vamo => exact execVamo_inv _ _ _ _ _ _ _ _ hs
  | mmodeEnter => exact execMmodeEnter_inv _ hs
  | msettile => exact execMsettile_inv _ _ _ _ hs
  | mzero => exact execMzero_inv _ _ hs
  | mldz => exact execMldz_inv _ _ _ _ hs
  | mstz => exact execMstz_inv _ _ _ hs
  | mop => exact execMop_inv _ _ _ _ hs
  | mdrain => exact execMdrain_inv _ _ _ _ _ hs
  | mfill => exact execMfill_inv _ _ _ hs
  | mtag => exact execMtag_inv _ _ hs
  | mchk => exact execMchk_inv _ _ _ _ hs
  | cpy => exact execCpy_inv _ _ _ _ _ _ _ hs
  | cpyw => exact execCpyw_inv _ _ hs
  | cpyr => exact execCpyr_inv _ hs
  | cpyq => exact execCpyq_inv _ _ hs
  | copyChunkComplete => exact execCopyChunkComplete_inv _ _ hs
  | copySectorFault => exact execCopySectorFault_inv _ _ hs
  | sord => exact execSord_inv _ _ _ hs
  | sprm => exact execSprm_inv _ _ hs
  | snew => exact execSnew_inv _ _ _ _ hs
  | sld => exact execSld_inv _ _ hs
  | sst => exact execSst_inv _ _ hs
  | sterm => exact execSterm_inv _ _ _ _ hs
  | sadd | ssub => exact endV_inv hs (State.sumStreams_inv _ _ _ _ _ _ hs)
  | smul => exact execSmul_inv _ _ _ hs
  | smulm => exact execSmulm_inv _ _ _ _ hs
  | sdiv => exact execSdiv_inv _ _ _ _ _ hs
  | slt => exact execSlt_inv _ _ _ hs
  | sdrop => exact execSdrop_inv _ _ hs
  | srat => exact execSrat_inv _ _ hs
  | sexp => exact execSexp_inv _ _ _ hs
  | scmp => exact execScmp_inv _ _ _ hs
  | sstat => exact execSstat_inv _ _ _ hs
  | sgrow => exact execSgrow_inv _ _ _ hs
  | heatRecordAppend => exact execHeatRecordAppend_inv _ _ _ hs
  | gangRequest => exact execGangRequest_inv _ hs
  | ungangRequest => exact execUngangRequest_inv _ hs
  | retirement => exact execRetirement_inv _ hs
  | hbmRowSpare => exact execHbmRowSpare_inv _ _ hs
  | renconTransaction => exact execRenconTransaction_inv _ _ _ hs
  | renconRetransmit => exact execRenconRetransmit_inv _ hs
  | spareLaneSwitch => exact execSpareLaneSwitch_inv _ hs
  | hostLinkTrain => exact execHostLinkTrain_inv _ _ _ hs
  | hostCxlMemRequest => exact execHostCxlMemRequest_inv _ _ _ hs
  | hostStatusRead => exact execHostStatusRead_inv _ hs
  | engineWindowWrite => exact execEngineWindowWrite_inv _ _ hs
  | powerGood => exact execPowerGood_inv _ hs
  | bringupPhase1 => exact execBringupPhase1_inv _ _ _ hs
  | bringupPhase2 => exact execBringupPhase2_inv _ hs
  | bringupPhase3 => exact execBringupPhase3_inv _ _ _ hs
  | ratioChange => exact execRatioChange_inv _ _ hs
  | pldmFirmwareUpdate => exact execPldmFirmwareUpdate_inv _ hs
  | becalmHold => exact execBecalmHold_inv _ hs
  | debuggerAttach => exact execDebuggerAttach_inv _ hs
  | debuggerRelease => exact execDebuggerRelease_inv _ hs
  | dumpLimitExpiry => exact execDumpLimitExpiry_inv _ hs
  | cStreamFetchFault => exact execCStreamFetchFault_inv _ hs
  | blockWordFetchFault => exact execBlockWordFetchFault_inv _ hs
  | eccError => exact execEccError_inv _ _ hs
  | renconAcknowledgement => exact execRenconAcknowledgement_inv _ hs
  | fabricPeerAccess => exact execFabricPeerAccess_inv _ _ _ hs
  | renconPortRejoin => exact execRenconPortRejoin_inv _ hs
  | fsv => exact execFsv_inv hs
  | fvs => exact execFvs_inv hs
  | fenceStallEnd => exact execFenceStallEnd_inv hs
  | mwait => exact execMwait_inv hs
  | mwaitWake => exact execMwaitWake_inv hs
  | ret => exact execRet_inv hs
  | vdispStallEnd => exact execVdispStallEnd_inv hs
  | squallRefill => exact State.refill_inv _ hs
  | rqgetWake => exact execRqgetWake_inv hs
  | vsyncWake => exact execVsyncWake_inv hs
  | hexit => exact execHexit_inv hs
  | hexitComplete => exact execHexitComplete_inv hs
  | gwaitWake => exact execGwaitWake_inv hs
  | brk => exact OutInv.ite (State.becalm_inv _ _ (State.advance_inv hs)) (State.raise_inv _ hs)
  | storeStallEnd => exact execStoreStallEnd_inv hs
  | krasFlush => exact execKrasFlush_inv hs
  | asyncEventTaken => exact execAsyncEventTaken_inv hs
  | vectorFaultDelivery => exact execVectorFaultDelivery_inv hs
  | machineCheckTaken => exact execMachineCheckTaken_inv hs
  | blockStart => exact execBlockStart_inv hs
  | clusterStallRelease => exact State.settle_inv _ hs
  | vend => exact State.endBlock_inv _ hs
  | vbrk => exact execVbrk_inv hs
  | fvvV => exact endV_inv (r := .ok s) hs hs
  | mmodeLeave => exact execMmodeLeave_inv hs
  | matrixArrayGrant => exact execMatrixArrayGrant_inv hs
  | cpyStallEnd => exact execCpyStallEnd_inv hs
  | cpywWake => exact execCpywWake_inv hs
  | sprmDrainEnd => exact execSprmDrainEnd_inv hs
  | streamUnitGrant => exact execStreamUnitGrant_inv hs
  | hoistMapRead => exact execHoistMapRead_inv hs
  | gangChangeEffect => exact execGangChangeEffect_inv hs
  | retirementEffect => exact execRetirementEffect_inv hs
  | hostLinkDown => exact execHostLinkDown_inv hs
  | bringupPhase4 => exact execBringupPhase4_inv hs
  | managementReset => exact execManagementReset_inv hs
  | thermalCutoff => exact execThermalCutoff_inv hs
  | pldmGetStatus | pldmMonitoring => exact State.manage_inv _ hs
  | getVersion | getCapabilities | negotiateAlgorithms | getDigests | getCertificate | challenge
  | getMeasurements => exact State.spdm_inv _ _ hs
  | illegalWord => exact execIllegalWord_inv hs
  | powerLoss => exact execPowerLoss_inv
  | cooledRestart => exact execCooledRestart_inv hs

/-! ### The turn of a thread and of a vector context (R197, R207-R211) -/

theorem State.turn_inv (h : Nat) (hs : s.Inv) : (s.turn h).Inv := hs

/-- The state, where there is one, has canonical memory. -/
def InvOpt : Option State → Prop
  | some t => t.Inv
  | none => True

theorem InvOpt.ite {c : Prop} [Decidable c] {a b : Option State} (ha : InvOpt a) (hb : InvOpt b) :
    InvOpt (if c then a else b) := by
  split
  · exact ha
  · exact hb

theorem State.beforeFetch_inv (hs : s.Inv) : InvOpt s.beforeFetch := by
  refine InvOpt.ite hs (InvOpt.ite hs (InvOpt.ite (State.exitHart_inv _ hs) ?_))
  split
  · next e => exact State.boundary_inv hs e
  · exact InvOpt.ite (State.hitC_inv hs) trivial

/-- The states that a fetch leads to have canonical memory. -/
def Fetched.Inv : Fetched → Prop
  | .run _ s => s.Inv
  | .done s => s.Inv

theorem State.fetched_inv (hs : s.Inv) : s.fetched.Inv := by
  have hf := State.fetchC_inv s.cur hs
  unfold State.fetched
  cases e : s.fetchC s.cur with
  | exc x => exact hs
  | poison s1 | wait s1 =>
    rw [e] at hf
    exact hf
  | word w s1 =>
    rw [e] at hf
    dsimp only
    split
    · exact hf
    · exact hf

theorem State.issue_inv (i : Instr) (hs : s.Inv) : (s.issue i).Inv :=
  State.mod_inv _ (State.endYields_inv _ hs)

theorem State.keepSuppression_inv (csup : Bool) (hs : s.Inv) : (s.keepSuppression csup).Inv := State.ite_inv hs hs

theorem State.beforeWord_inv (hs : s.Inv) : InvOpt s.beforeWord := by
  refine InvOpt.ite hs ?_
  split
  · exact State.ite_inv hs (State.killNow_inv _ _ _ hs)
  · exact InvOpt.ite (State.refill_inv _ hs) <| InvOpt.ite hs <|
      InvOpt.ite (State.ite_inv (State.beginBlock_inv _ hs) hs) <| InvOpt.ite (State.hitV_inv _ hs) trivial

theorem State.issueV_inv (i : Option Instr) (hs : s.Inv) : (s.issueV i).Inv := hs

theorem State.fetchedV_inv (hs : s.Inv) : s.fetchedV.Inv := by
  have hf := State.fetchV_inv s.cur hs
  unfold State.fetchedV
  cases e : s.fetchV s.cur with
  | fault sub t => exact State.stopWord_inv _ (State.issueV_inv _ hs) trivial
  | poison src pa => exact State.consume_inv _ _ _ hs
  | wait s1 =>
    rw [e] at hf
    exact hf
  | word w s1 =>
    rw [e] at hf
    dsimp only
    split
    · exact hf
    · exact State.stopWord_inv _ (State.issueV_inv _ hf) trivial

/-! ### A step (R1, R16) -/

theorem afterC_inv (csup : Bool) {o : Host.Outcome State Fault Refusal} (ho : OutInv o) : OutInv (afterC csup o) := by
  cases o with
  | next t => exact State.keepSuppression_inv _ ho
  | fault f => exact ho
  | refused r => exact ho

theorem runC_inv (i : Instr) (csup : Bool) (hs : s.Inv) : OutInv (runC i csup s) :=
  OutInv.ite (State.scalarPoisoned_inv s.cur 0 hs) (afterC_inv _ (exec_inv i hs))

theorem runV_inv (i : Instr) (hs : s.Inv) : OutInv (runV i s) := State.guardB_inv _ hs (exec_inv i hs)

theorem stepCtl_inv (hs : s.Inv) : OutInv (stepCtl s) := by
  have hb := State.beforeFetch_inv hs
  have hf := State.fetched_inv hs
  unfold stepCtl
  split
  · next e =>
    rw [e] at hb
    exact hb
  split
  · exact runC_inv _ _ hs
  split
  · next e =>
    rw [e] at hf
    exact runC_inv _ _ (State.issue_inv _ hf)
  · next e =>
    rw [e] at hf
    exact hf

theorem stepVec_inv (hs : s.Inv) : OutInv (stepVec s) := by
  have hb := State.beforeWord_inv hs
  have hf := State.fetchedV_inv hs
  unfold stepVec
  split
  · next e =>
    rw [e] at hb
    exact hb
  split
  · exact runV_inv _ hs
  split
  · next e =>
    rw [e] at hf
    exact runV_inv _ (State.issueV_inv _ hf)
  · next e =>
    rw [e] at hf
    exact hf

theorem stepEvent_inv (i : Instr) (hs : s.Inv) : OutInv (stepEvent i s) := OutInv.ite hs (exec_inv i hs)

theorem State.upset_inv (h : Nat) (term : Bool) (hs : s.Inv) : (s.upset h term).Inv := hs

theorem State.pass_inv (hs : s.Inv) : s.pass.Inv := hs

theorem stepMove_inv (m : Move) (hs : s.Inv) : OutInv (stepMove m s) := by
  cases m with
  | ctl h => exact stepCtl_inv (State.turn_inv _ hs)
  | vec h => exact stepVec_inv (State.turn_inv _ hs)
  | event h i => exact stepEvent_inv _ (State.turn_inv _ hs)
  | upset h term => exact State.upset_inv _ _ (State.turn_inv _ hs)
  | preempt h n => exact State.modCtx_inv _ _ (State.turn_inv _ hs)
  | persist => exact State.persist_inv (State.pass_inv hs)
  | hostPowerFail => exact State.hostPowerFail_inv (State.pass_inv hs)
  | flitCorrected p => exact State.flitCorrected_inv _ (State.pass_inv hs)
  | posted => exact State.runPosted_inv (State.pass_inv hs)

/-- Which move comes next is no change of the part. -/
theorem State.nextMove_part {m : Move} {t : State} (e : s.nextMove = some (m, t)) : t.part = s.part := by
  unfold State.nextMove at e
  split at e
  · cases e
    rfl
  · obtain ⟨_, _, e⟩ := Option.map_eq_some_iff.mp e
    cases e
    rfl

theorem step_inv (hs : s.Inv) : OutInv (step s) := by
  refine OutInv.ite trivial ?_
  split
  · next e => exact stepMove_inv _ (State.inv_of_part (State.nextMove_part e) hs)
  · exact State.pass_inv hs

end Sys2Proof.Machine

namespace Sys2Proof.Claims
open Sys2Proof.Machine

/-- Settles O7: every operation of the part keeps memory canonical, by the lemma of each, and a step is one of them. -/
theorem stepKeepsMemory : Obligations.StepKeepsMemory := by
  unfold Obligations.StepKeepsMemory
  intro s t hs e
  have h := step_inv hs
  rw [e] at h
  exact h

end Sys2Proof.Claims

/-! PROOFS. What the memory reads of a state rest on, and what a hart reads after a change. -/

namespace Sys2Proof.Machine

/-! ### Harts and cores after a change -/

section Changes
variable (s : State)

theorem State.hartAt_modHart (h j : Nat) (f : Hart → Hart) :
    (s.modHart h f).hartAt j = if j = h then f (s.hartAt j) else s.hartAt j := by
  by_cases n : j = h
  · subst n; simp
  · rw [if_neg n, State.hartAt_modHart_ne _ _ n]

theorem State.coreAt_modCore (c j : Nat) (f : Core → Core) :
    (s.modCore c f).coreAt j = if j = c then f (s.coreAt j) else s.coreAt j := by
  by_cases n : j = c
  · subst n; simp
  · rw [if_neg n, State.coreAt_modCore_ne _ _ n]

@[simp] theorem State.advance_part : s.advance.part = s.part := rfl
@[simp] theorem State.advance_cores : s.advance.cores = s.cores := rfl

theorem State.advance_hartAt (j : Nat) :
    s.advance.hartAt j =
      if j = s.cur then { s.hartAt j with pc := (s.hartAt j).pc + 4, wait := none, answered := false } else s.hartAt j :=
  State.hartAt_modHart s s.cur j _

theorem State.advance_pc : s.advance.pc = s.pc + 4 := by simp [State.pc, State.advance]

end Changes

/-! ### Management events (R233) -/

section Mev
variable (s : State) (reason page : Nat)

@[simp] theorem State.postMev_cores : (s.postMev reason page).cores = s.cores := rfl

theorem State.postMev_hartAt (j : Nat) :
    (s.postMev reason page).hartAt j = if j = 0 then { s.hartAt j with mgmtPend := true } else s.hartAt j :=
  State.hartAt_modHart (s.modPart _) 0 j _

/-- What a management event changes outside the harts: MEV alone. -/
theorem State.postMev_part : ∃ w, (s.postMev reason page).part = { s.part with mev := w }
    ∧ tst w 63 = true ∧ fld w 0 8 = reason % 256 := by
  refine ⟨_, rfl, ?_, ?_⟩
  · simp [tst_putFld, tst_putBit]
  · exact fld_putFld_self _ _ _ _ (by omega)

end Mev

end Sys2Proof.Machine

namespace Sys2Proof.Claims
open Sys2Proof.Machine

/-- Memory reads alike in two states with the same bytes, transactions and node number, and the same junction buffers. -/
theorem sameMemory_of_mem {s t : State} (hm : t.part.mem = s.part.mem) (ht : t.part.trans = s.part.trans)
    (hn : t.part.node = s.part.node) (hj : ∀ c, (t.coreAt c).junction = (s.coreAt c).junction) : SameMemory s t := by
  have hb : ∀ k, t.byteAt k = s.byteAt k := fun k => by simp only [State.byteAt, hm]
  have hl : ∀ a, t.isLocal a = s.isLocal a := fun a => by simp only [State.isLocal, hn]
  have hk : ∀ a, t.cell a = s.cell a := fun a => by simp only [State.cell, hl]
  refine ⟨hb, fun c k => ?_⟩
  have hv : ∀ x, t.covers x k = s.covers x k := fun x => by simp only [State.covers, hk]
  have hd : t.devByte k = s.devByte k := by simp only [State.devByte, hv, ht, hk, hb]
  simp only [State.scalarByte, State.junction, hj, hd]

end Sys2Proof.Claims

/-! PROOFS. Stores to the k-register and engine windows (R17, R200, R234). -/

namespace Sys2Proof.Claims
open Sys2Proof.Machine

/-! ### kpreq through the k-register window -/

/-- A store to kpreq of a live hart by a mode that reaches the window: its bits are set there, the sender noted for IHI. -/
theorem storeKpreq_live (s : State) (target : Nat) (w : Word) (hm : s.hart.pm ≠ 0) (hl : (s.hartAt target).live = true) :
    s.storeKpreq target w = (s.modHart target fun y =>
      { y with kpreq := y.kpreq ||| BitVec.ofNat 2 (fld w 0 2), ihiFrom := if tst w 1 then s.cur else y.ihiFrom }).advance := by
  simp only [State.storeKpreq, hm, hl, Bool.not_true, or_self, Bool.false_eq_true, if_false]
  rfl

theorem storeKpreq_hartAt (s : State) (target : Nat) (w : Word) (hm : s.hart.pm ≠ 0) (hl : (s.hartAt target).live = true)
    (j : Nat) : ∃ v : Hart, (s.storeKpreq target w).hartAt j =
        (if j = s.cur then { v with pc := v.pc + 4, wait := none, answered := false } else v)
      ∧ v = if j = target then { s.hartAt j with
          kpreq := (s.hartAt j).kpreq ||| BitVec.ofNat 2 (fld w 0 2)
          ihiFrom := if tst w 1 then s.cur else (s.hartAt j).ihiFrom } else s.hartAt j := by
  rw [storeKpreq_live s target w hm hl, State.advance_hartAt, State.hartAt_modHart]
  exact ⟨_, rfl, rfl⟩

/-- Such a store is one act on kpreq of its target, and the next word follows. -/
theorem storeKpreq_sets (s : State) (target : Nat) (w : Word) (hm : s.hart.pm ≠ 0) (hl : (s.hartAt target).live = true) :
    let t := s.storeKpreq target w
    (t.pc = s.pc + 4 ∧ SameX s t ∧ t.part = s.part ∧ t.cores = s.cores
        ∧ (t.hartAt target).kpreq = (s.hartAt target).kpreq ||| BitVec.ofNat 2 (fld w 0 2)
        ∧ ∀ j, j ≠ target → j ≠ s.cur → t.hartAt j = s.hartAt j)
      ∧ (t.hartAt target).ihiFrom = if tst w 1 then s.cur else (s.hartAt target).ihiFrom := by
  have hh := storeKpreq_hartAt s target w hm hl
  have hc : (s.storeKpreq target w).cur = s.cur := by rw [storeKpreq_live s target w hm hl]; rfl
  obtain ⟨v, ev, hv⟩ := hh s.cur
  obtain ⟨u, eu, hu⟩ := hh target
  have ecur : (s.storeKpreq target w).hart = { v with pc := v.pc + 4, wait := none, answered := false } := by
    rw [State.hart, hc, ev, if_pos rfl]
  have hx : v.x = s.hart.x ∧ v.xpoison = s.hart.xpoison ∧ v.pc = s.pc := by
    rw [hv]; split <;> exact ⟨rfl, rfl, rfl⟩
  refine ⟨⟨?_, ⟨fun r => ?_, ?_⟩, ?_, ?_, ?_, fun j hj hjc => ?_⟩, ?_⟩
  · rw [State.pc, ecur]; exact congrArg (· + 4) hx.2.2
  · rw [State.xr, ecur]; exact Hart.xr_eq_of_x hx.1 r
  · rw [ecur]; exact hx.2.1
  · rw [storeKpreq_live s target w hm hl]; rfl
  · rw [storeKpreq_live s target w hm hl]; rfl
  · rw [eu, hu, if_pos rfl]; split <;> rfl
  · obtain ⟨y, ey, hy⟩ := hh j
    rw [ey, hy, if_neg hjc, if_neg hj]
  · rw [eu, hu, if_pos rfl]; split <;> rfl

/-- A store to a window that faults under MODE 0 names the physical address, which is its own virtual one. -/
theorem traps_windowFault_bare (s : State) (pa : Nat) (hb : fld s.hart.katp 60 4 = 0) :
    Traps s (if s.hart.pm = 0 then 0x05 else 0x07) s.pc (BitVec.ofNat 64 pa) (.next (s.windowFault pa)) := by
  rw [State.windowFault, if_pos hb]
  exact traps_raise s _

/-- Else it is an access fault at an address that is not stated (log 113). -/
theorem traps_windowFault (s : State) (pa : Nat) (hb : fld s.hart.katp 60 4 ≠ 0) :
    ∃ tval, Traps s 0x07 s.pc tval (.next (s.windowFault pa)) := by
  rw [State.windowFault, if_neg hb]
  exact ⟨_, traps_raise s { cause := 0x07, tval := Config.freeWord s.tick 46 }⟩

/-! ### The registers of an engine window -/

theorem putBit_false_63 (w : Word) : putBit w 63 false = w &&& 0x7FFFFFFFFFFFFFFF := by
  refine eq_of_tst _ fun i hi => ?_
  rw [tst_putBit]
  have hd : ∀ i < 64, (0x7FFFFFFFFFFFFFFF : Word).getLsbD i = decide (i ≠ 63) := by decide
  rw [tst, tst, BitVec.getLsbD_and, hd i hi]
  by_cases n : i = 63 <;> simp [n]

/-- A power cap as it is stored (Table 12-7; log 29). -/
theorem fld_capOf (p : Word) (n : Nat) :
    fld (putFld p 0 16 (capOf n)) 0 16 = if 600 ≤ n ∧ n ≤ 2400 then n else 2400 := by
  rw [fld_putFld_self _ _ _ _ (by omega), capOf]
  split <;> split <;> omega

section Engine
variable (s : State) (mode off : Nat) (v : Word)

/-- A write of an engine window register changes the part alone, and of it storage ranges, the power cap and MEV at most. -/
theorem engineWrite_eq : ∃ b l p m, s.engineWrite mode off v =
    { s with part := { s.part with srb := b, srl := l, pwr := p, mev := m } } := by
  unfold State.engineWrite
  split
  · exact ⟨_, _, _, _, rfl⟩
  split
  · split
    · exact ⟨_, _, _, _, rfl⟩
    · split <;> exact ⟨_, _, _, _, rfl⟩
  split <;> exact ⟨_, _, _, _, rfl⟩

theorem engineWrite_readOnly (h : off < 0x1100 ∨ off < 0x1180 ∧ mode ≠ 2) : s.engineWrite mode off v = s := by
  unfold State.engineWrite
  by_cases h1 : off < 0x1100
  · rw [if_pos h1]
  · obtain ⟨h2, h3⟩ := h.resolve_left h1
    rw [if_neg h1, if_pos h2, if_pos h3]

theorem engineWrite_storage (h1 : 0x1100 ≤ off) (h2 : off < 0x1180) : (s.engineWrite 2 off v).part =
    if off % 16 = 0 then { s.part with srb := Map.put s.part.srb ((off - 0x1100) / 16) (v &&& 0x80000FFFFFFFF000) }
    else { s.part with srl := Map.put s.part.srl ((off - 0x1100) / 16) (v &&& 0x00000FFFFFFFF000) } := by
  rw [State.engineWrite, if_neg (by omega), if_pos h2, if_neg (by omega)]
  split <;> rfl

theorem engineWrite_power : (s.engineWrite mode 0x1200 v).part =
    { s.part with pwr := putFld s.part.pwr 0 16 (capOf (fld v 0 16)) } := rfl

theorem engineWrite_mev : (s.engineWrite mode 0x1300 v).part =
    { s.part with mev := if tst v 63 then s.part.mev &&& 0x7FFFFFFFFFFFFFFF else s.part.mev } := by
  rw [← putBit_false_63]; rfl

/-- The machine after such a write by an instruction: the next word, and the write. -/
theorem engineWrite_advance : let t := (s.engineWrite mode off v).advance
    t.pc = s.pc + 4 ∧ SameX s t ∧ SameMemory s t ∧ t.part = (s.engineWrite mode off v).part := by
  obtain ⟨b, l, p, m, e⟩ := engineWrite_eq s mode off v
  rw [e]
  exact ⟨State.advance_pc _, sameX_mod _ _ rfl rfl, sameMemory_of_mem rfl rfl rfl fun _ => rfl, rfl⟩

theorem execEngineWindowWrite_reached (hm : s.hart.pm ≠ 0) (ho : engineOk off = true) :
    exec (.engineWindowWrite off v) s = .next (s.engineWrite s.hart.pm off v).advance := by
  show execEngineWindowWrite off v s = _
  simp [execEngineWindowWrite, hm, ho]

theorem execEngineWindowWrite_app (hm : s.hart.pm = 0) :
    exec (.engineWindowWrite off v) s = .next (s.windowFault (0xFFFA0000800000 + off)) := by
  show execEngineWindowWrite off v s = _
  simp [execEngineWindowWrite, hm]

end Engine

/-- Settles O35, from what a store to kpreq and a write of an engine register change, and from the fault of app mode. -/
theorem windowWrites : Obligations.WindowWrites := by
  unfold Obligations.WindowWrites
  intro s target off v live bare setsBit
  refine ⟨fun hm hl => ?_, fun hm hl => ?_, fun hb hm hl => ?_, fun hm ho => ?_, fun hm => ⟨fun hb => ?_, fun hb => ?_⟩⟩
  · obtain ⟨hs, hi⟩ := storeKpreq_sets s target 1 hm hl
    exact ⟨_, rfl, hs, hi⟩
  · obtain ⟨hs, hi⟩ := storeKpreq_sets s target 2 hm hl
    exact ⟨_, rfl, hs, hi⟩
  · have e : s.storeKpreq target 1 = s.windowFault (0xFFFA0000000000 + 0x8000 * target + 0x1A8) := by
      rw [State.storeKpreq, if_pos (.inr (by simpa [live] using hl)), kwinPa]
      congr 1; omega
    have h := traps_windowFault_bare s (0xFFFA0000000000 + 0x8000 * target + 0x1A8) hb
    rw [if_neg hm, ← e] at h
    exact h
  · obtain ⟨hpc, hx, hmem, hp⟩ := engineWrite_advance s s.hart.pm off v
    refine ⟨_, execEngineWindowWrite_reached s off v hm ho, hpc, hx, hmem, fun h => ?_, fun h1 h2 h3 => ?_, fun h => ?_,
      fun h => ?_⟩
    · rw [hp, engineWrite_readOnly _ _ _ _ h]
    · rw [hp, h3, engineWrite_storage _ _ _ h1 h2]
    · subst h
      rw [hp, engineWrite_power]
      exact ⟨fld_capOf _ _, fun i hi => by rw [tst_putFld, if_neg (by omega)], rfl⟩
    · subst h
      rw [hp, engineWrite_mev]
  · have h := traps_windowFault_bare s (0xFFFA0000800000 + off) hb
    rwa [if_pos hm, ← execEngineWindowWrite_app s off v hm] at h
  · have h := traps_windowFault s (0xFFFA0000800000 + off) hb
    rwa [← execEngineWindowWrite_app s off v hm] at h

end Sys2Proof.Claims

/-! PROOFS. Translation: what it gives, and what it leaves unchanged (R15-R17, R154, R188-R191). -/

namespace Sys2Proof.Machine

/-! ### Fields by their bits -/

section Bits
variable {w : Nat} (v : BitVec w)

/-- A field is its lowest bit and twice the rest. -/
theorem fld_succ (lo len : Nat) : fld v lo (len + 1) = natOf (tst v lo) + 2 * fld v (lo + 1) len := by
  have hb : natOf (tst v lo) = v.toNat >>> lo % 2 := by
    rw [tst, BitVec.getLsbD, Nat.testBit_eq_decide_div_mod_eq, Nat.shiftRight_eq_div_pow, natOf]
    by_cases h : v.toNat / 2 ^ lo % 2 = 1 <;> simp [h]; omega
  rw [hb, fld, fld, Nat.pow_succ', Nat.mod_mul, Nat.shiftRight_succ]

@[simp] theorem fld_zero_len (lo : Nat) : fld v lo 0 = 0 := Nat.mod_one _

theorem fld_two_eq_three (lo : Nat) : fld v lo 2 = 3 ↔ tst v lo = true ∧ tst v (lo + 1) = true := by
  rw [fld_succ, fld_succ, fld_zero_len]
  cases tst v lo <;> cases tst v (lo + 1) <;> simp [natOf]

theorem fld_three_ne_zero (lo : Nat) :
    fld v lo 3 ≠ 0 ↔ tst v lo = true ∨ tst v (lo + 1) = true ∨ tst v (lo + 2) = true := by
  rw [fld_succ, fld_succ, fld_succ, fld_zero_len]
  cases tst v lo <;> cases tst v (lo + 1) <;> cases tst v (lo + 1 + 1) <;> simp_all [natOf]

end Bits

/-! ### Harts but for the wake-ups of monitors -/

/-- From s to t no hart changes but by a monitor woken, and the agenda stays. -/
def Woken (s t : State) : Prop :=
  (∀ h, ∃ m, t.hartAt h = { s.hartAt h with monHit := m })
    ∧ t.agenda = s.agenda ∧ t.rr = s.rr ∧ t.cur = s.cur ∧ t.tick = s.tick

theorem Woken.refl (s : State) : Woken s s := ⟨fun _ => ⟨_, rfl⟩, rfl, rfl, rfl, rfl⟩

theorem Woken.trans {s t u : State} (h : Woken s t) (g : Woken t u) : Woken s u := by
  obtain ⟨h1, h2, h3, h4, h5⟩ := h
  obtain ⟨g1, g2, g3, g4, g5⟩ := g
  refine ⟨fun j => ?_, g2.trans h2, g3.trans h3, g4.trans h4, g5.trans h5⟩
  obtain ⟨m, hm⟩ := h1 j
  obtain ⟨n, hn⟩ := g1 j
  exact ⟨n, by rw [hn, hm]⟩

theorem woken_modTower (s : State) (t : Nat) (f : Tower → Tower) : Woken s (s.modTower t f) := Woken.refl s

theorem woken_modCore (s : State) (c : Nat) (f : Core → Core) : Woken s (s.modCore c f) := Woken.refl s

theorem woken_wakeLines (s : State) (ls : List Nat) (c : Nat → Bool) (n : Nat → Nat) (p : Nat → Bool) :
    Woken s (s.wakeLines ls c n p) := by
  obtain ⟨-, -, -, hu, hk⟩ := State.wakeLines_frame s ls c n p
  have key : (s.wakeLines ls c n p).agenda = s.agenda ∧ (s.wakeLines ls c n p).rr = s.rr := by
    clear hu hk
    induction ls generalizing s with
    | nil => exact ⟨rfl, rfl⟩
    | cons i ls ih =>
      have e : (s.wakeLines (i :: ls) c n p) = (if c i then s.wake (n i) p else s).wakeLines ls c n p := rfl
      rw [e]
      obtain ⟨h1, h2⟩ := ih (if c i then s.wake (n i) p else s)
      rw [h1, h2]
      split <;> exact ⟨rfl, rfl⟩
  exact ⟨fun h => ⟨_, State.hartAt_wakeLines s ls c n p h⟩, key.1, key.2, hu, hk⟩

/-- Bytes that perform, but over a lost host link, change no hart but by a monitor woken. -/
theorem woken_performAs (s : State) (h : Nat) (a : Asker) (addr : Word) (st : Bool) (pa : Nat) (bs : List Byte)
    (woken : Nat → Bool) (hl : s.paKind pa ≠ .hostLost) : Woken s (s.performAs h a addr st pa bs woken) := by
  obtain ⟨f, e⟩ := State.performAs_eq_wakeLines s h a addr st pa bs woken hl
  rw [e]
  exact woken_wakeLines (s.modPart f) _ _ _ _

theorem Woken.hartsKept {s t : State} (h : Woken s t) : Claims.HartsKept s t := by
  obtain ⟨h1, h2, h3, h4, h5⟩ := h
  refine ⟨fun j _ => ?_, ?_, h2, h3, h4, h5⟩
  · obtain ⟨m, e⟩ := h1 j
    rw [e]
  · obtain ⟨m, e⟩ := h1 s.cur
    have e' : t.hart = { s.hart with monHit := m } := by rw [State.hart, h4, e]; rfl
    rw [e']

/-! ### Cores but for their first-level TLBs -/

/-- From s to t no core changes but in its first-level TLBs. -/
def CoresButTlbs (s t : State) : Prop :=
  ∀ c, ∃ i d l, t.coreAt c = { s.coreAt c with itlb := i, dtlb := d, helmTlb := l }

theorem coresButTlbs_fillL1 {s t : State} (v : View) (a : Acc) (e : TlbEntry) (h : t.cores = s.cores) :
    CoresButTlbs s (t.fillL1 v a e) := fun c => by
  have hc : t.coreAt c = s.coreAt c := by rw [State.coreAt, h, State.coreAt]
  rw [State.fillL1, State.coreAt_modCore, hc]
  split
  · split
    · exact ⟨_, _, _, rfl⟩
    · split <;> exact ⟨_, _, _, rfl⟩
  · exact ⟨_, _, _, rfl⟩

/-! ### The pieces of a walk -/

/-- The entry of a leaf that the walk has found, with A and D as the access leaves them. -/
def leafEntry (v : View) (a : Acc) (va : Word) (pte : Word) (level : Nat) : TlbEntry :=
  { vpn := fld va 12 45 / pageUnits level * pageUnits level, level := level,
    asid := BitVec.ofNat 16 (fld v.katp 44 16), pte := markAD a pte }

/-- The machine after A and D of a leaf have been set, where they were not (R190). -/
def State.markLeaf (s : State) (a : Acc) (pte : Word) (addr : Nat) : State :=
  if markAD a pte = pte then s else s.perform s.cur addr (bytesOf (markAD a pte) 8) fun _ => true

/-- The machine after a walk whose leaf serves the access: the leaf marked, and filled into both TLBs. -/
def State.afterWalk (s : State) (v : View) (a : Acc) (va : Word) (pte : Word) (level addr : Nat) : State :=
  ((s.markLeaf a pte addr).fillL2 (s.towerOf v.core) (leafEntry v a va pte level)).fillL1 v a (leafEntry v a va pte level)

/-- An address is canonical when bits 57-63 are bit 56 (R189). -/
theorem canonical_iff (va : Word) :
    BitVec.signExtend 64 (va.setWidth 57) = va ↔ ∀ i, 57 ≤ i → i < 64 → va.getLsbD i = va.getLsbD 56 := by
  have hb : ∀ i, i < 64 → (BitVec.signExtend 64 (va.setWidth 57)).getLsbD i =
      if i < 57 then va.getLsbD i else va.getLsbD 56 := fun i hi => by
    rw [BitVec.getLsbD_signExtend, BitVec.msb_eq_getLsbD_last, BitVec.getLsbD_setWidth, BitVec.getLsbD_setWidth]
    by_cases h : i < 57 <;> simp [hi, h]
  refine ⟨fun h i h1 h2 => ?_, fun h => BitVec.eq_of_getLsbD_eq fun i hi => ?_⟩
  · have e := hb i h2
    rwa [if_neg (by omega), h] at e
  · rw [hb i hi]
    split
    · rfl
    · exact (h i (by omega) hi).symm

section Cases
variable (s : State) (v : View) (a : Acc) (va : Word) (ok : PaKind → Bool)

/-- An address in the scratchpad window reaches the scratchpad of the core, or is an access fault. -/
theorem State.translate_window {o : Nat} (h : windowOff v.kspb va = some o) :
    s.translate v a va ok =
      if s.enabled v.core = true ∧ o < 0x300000 then .ok ({ pa := spadPa v.core o, pbmt := 0, page := none }, s)
      else .error (.access (if v.vec = true ∨ fld v.katp 60 4 = 0 then BitVec.ofNat 64 (spadPa v.core o) else va)) := by
  simp only [State.translate, h, Bool.and_eq_true, Bool.or_eq_true, decide_eq_true_eq]

theorem State.translate_bare (hw : windowOff v.kspb va = none) (hb : fld v.katp 60 4 = 0) :
    s.translate v a va ok =
      if v.mode = 0 then .error .page
      else if reach v a ok (s.paKind (fld va 0 56)) = true then .ok ({ pa := fld va 0 56, pbmt := 0, page := none }, s)
      else .error (.access (BitVec.ofNat 64 (fld va 0 56))) := by
  simp only [State.translate, hw, hb, if_true]

variable (hw : windowOff v.kspb va = none) (hb : fld v.katp 60 4 ≠ 0)
include hw hb

theorem State.translate_noncanonical (hc : BitVec.signExtend 64 (va.setWidth 57) ≠ va) :
    s.translate v a va ok = .error .page := by
  simp only [State.translate, hw, hb, hc, if_false, ne_eq, not_false_eq_true, if_true]

variable (hc : BitVec.signExtend 64 (va.setWidth 57) = va)
include hc

/-- An entry of the first-level TLB serves the access. -/
theorem State.translate_l1 {e : TlbEntry}
    (h1 : ((s.l1Tlb v a).find? fun e => e.hits va (BitVec.ofNat 16 (fld v.katp 44 16)) && usable a e) = some e) :
    s.translate v a va ok = (useEntry s v a va ok e).map fun x => (x, s) := by
  simp only [State.translate, hw, hb, hc, if_false, ne_eq, not_true_eq_false, h1]
  cases useEntry s v a va ok e <;> rfl

variable (h1 : ((s.l1Tlb v a).find? fun e => e.hits va (BitVec.ofNat 16 (fld v.katp 44 16)) && usable a e) = none)
include h1

/-- An entry of the L2 TLB of the tower serves it, and is filled into the first level. -/
theorem State.translate_l2 {e : TlbEntry}
    (h2 : ((s.towerAt (s.towerOf v.core)).tlb.find? fun e =>
      e.hits va (BitVec.ofNat 16 (fld v.katp 44 16)) && usable a e) = some e) :
    s.translate v a va ok = (useEntry s v a va ok e).map fun x =>
      (x, s.fillL1 v a { e with unitCnt := 0, strided := 0, indexed := 0 }) := by
  simp only [State.translate, hw, hb, hc, if_false, ne_eq, not_true_eq_false, h1, h2]
  cases useEntry s v a va ok e <;> rfl

variable (h2 : ((s.towerAt (s.towerOf v.core)).tlb.find? fun e =>
  e.hits va (BitVec.ofNat 16 (fld v.katp 44 16)) && usable a e) = none)
include h2

theorem State.translate_walk_error {f : AccErr} (hk : s.walk va 5 (fld v.katp 0 44) = .error f) :
    s.translate v a va ok = .error f := by
  simp only [State.translate, hw, hb, hc, if_false, ne_eq, not_true_eq_false, h1, h2, hk]
  rfl

theorem State.translate_walk_ok {pte : Word} {level addr : Nat}
    (hk : s.walk va 5 (fld v.katp 0 44) = .ok (pte, level, addr)) :
    s.translate v a va ok = (useEntry s v a va ok (leafEntry v a va pte level)).map fun x =>
      (x, s.afterWalk v a va pte level addr) := by
  simp only [State.translate, hw, hb, hc, if_false, ne_eq, not_true_eq_false, h1, h2, hk]
  show (useEntry s v a va ok (leafEntry v a va pte level)).bind _ = _
  cases useEntry s v a va ok (leafEntry v a va pte level) <;> rfl

end Cases

/-- How a translation that gives an address has come to it: through the window or without one, or by an entry of a TLB or the
leaf of a walk. -/
theorem State.translate_ok {s s1 : State} {v : View} {a : Acc} {va : Word} {ok : PaKind → Bool} {x : Xlat}
    (h : s.translate v a va ok = .ok (x, s1)) :
    (∃ o, windowOff v.kspb va = some o ∧ x.pa = spadPa v.core o ∧ s1 = s)
    ∨ (x.pa = fld va 0 56 ∧ s1 = s)
    ∨ ∃ e, useEntry s v a va ok e = .ok x
      ∧ (s1 = s ∨ (∃ e', s1 = s.fillL1 v a e')
        ∨ ∃ pte level addr, s.walk va 5 (fld v.katp 0 44) = .ok (pte, level, addr) ∧ s1 = s.afterWalk v a va pte level addr) := by
  have used : ∀ (e : TlbEntry) (t : State), (useEntry s v a va ok e).map (fun y => (y, t)) = .ok (x, s1) →
      useEntry s v a va ok e = .ok x ∧ s1 = t := fun e t h => by
    cases hu : useEntry s v a va ok e with
    | error f => rw [hu] at h; cases h
    | ok y => rw [hu] at h; cases h; exact ⟨rfl, rfl⟩
  cases hw : windowOff v.kspb va with
  | some o =>
    rw [State.translate_window s v a va ok hw] at h
    split at h
    · cases h; exact .inl ⟨o, rfl, rfl, rfl⟩
    · cases h
  | none =>
    by_cases hb : fld v.katp 60 4 = 0
    · rw [State.translate_bare s v a va ok hw hb] at h
      split at h
      · cases h
      · split at h
        · cases h; exact .inr (.inl ⟨rfl, rfl⟩)
        · cases h
    by_cases hc : BitVec.signExtend 64 (va.setWidth 57) = va
    · refine .inr (.inr ?_)
      cases h1 : (s.l1Tlb v a).find? fun e => e.hits va (BitVec.ofNat 16 (fld v.katp 44 16)) && usable a e with
      | some e =>
        rw [State.translate_l1 s v a va ok hw hb hc h1] at h
        obtain ⟨hu, rfl⟩ := used _ _ h
        exact ⟨e, hu, .inl rfl⟩
      | none =>
        cases h2 : (s.towerAt (s.towerOf v.core)).tlb.find? fun e =>
          e.hits va (BitVec.ofNat 16 (fld v.katp 44 16)) && usable a e with
        | some e =>
          rw [State.translate_l2 s v a va ok hw hb hc h1 h2] at h
          obtain ⟨hu, rfl⟩ := used _ _ h
          exact ⟨e, hu, .inr (.inl ⟨_, rfl⟩)⟩
        | none =>
          cases hk : s.walk va 5 (fld v.katp 0 44) with
          | error f =>
            rw [State.translate_walk_error s v a va ok hw hb hc h1 h2 hk] at h
            cases h
          | ok r =>
            obtain ⟨pte, level, addr⟩ := r
            rw [State.translate_walk_ok s v a va ok hw hb hc h1 h2 hk] at h
            obtain ⟨hu, rfl⟩ := used _ _ h
            exact ⟨_, hu, .inr (.inr ⟨pte, level, addr, rfl, rfl⟩)⟩
    · rw [State.translate_noncanonical s v a va ok hw hb hc] at h
      cases h

/-! ### The offset in the page is kept -/

/-- The window lies at a multiple of its size. -/
theorem windowBase_mod (kspb : Word) : (windowBase kspb).toNat % 0x1000 = 0 := by
  rw [windowBase, BitVec.toNat_signExtend, BitVec.toNat_setWidth_of_le (by omega), BitVec.toNat_ofNat]
  split <;> omega

/-- Taking a multiple of the page size away from a 64-bit number keeps the offset in the page. -/
theorem offset_of_sub {b n : Nat} (hb : b % 0x1000 = 0) (hn : b < 0x10000000000000000) :
    (0x10000000000000000 - b + n) % 0x10000000000000000 % 0x1000 = n % 0x1000 := by omega

theorem windowOff_mod {kspb va : Word} {o : Nat} (h : windowOff kspb va = some o) : o % 0x1000 = va.toNat % 0x1000 := by
  unfold windowOff at h
  split at h
  · rw [← Option.some.inj h, BitVec.toNat_sub]
    exact offset_of_sub (windowBase_mod kspb) (windowBase kspb).isLt
  · cases h

theorem leafPa_mod (pte : Word) (level : Nat) (va : Word) : leafPa pte level va % 0x1000 = va.toNat % 0x1000 := by
  rw [leafPa, Nat.add_mod, Nat.mul_mod_left, Nat.zero_add, Nat.mod_mod,
    Nat.mod_mod_of_dvd _ (Dvd.intro_left (pageUnits level) rfl)]

/-- The address that an entry gives. -/
theorem useEntry_pa {s : State} {v : View} {a : Acc} {va : Word} {ok : PaKind → Bool} {e : TlbEntry} {x : Xlat}
    (h : useEntry s v a va ok e = .ok x) : x.pa = leafPa e.pte e.level va := by
  unfold useEntry at h
  split at h
  · cases h
  · dsimp only at h
    split at h
    · cases h; rfl
    · cases h

theorem State.translate_offset {s s1 : State} {v : View} {a : Acc} {va : Word} {ok : PaKind → Bool} {x : Xlat}
    (h : s.translate v a va ok = .ok (x, s1)) : x.pa % 0x1000 = va.toNat % 0x1000 := by
  rcases State.translate_ok h with ⟨o, ho, hx, -⟩ | ⟨hx, -⟩ | ⟨e, hu, -⟩
  · have := windowOff_mod ho
    rw [hx, spadPa]; omega
  · rw [hx, fld]; simp only [Nat.shiftRight_zero]; omega
  · rw [useEntry_pa hu, leafPa_mod]

/-! ### What a translation leaves unchanged -/

/-- The address of the entry of a table that a walk reads for the level n. -/
def pteAddr (table : Nat) (va : Word) (n : Nat) : Nat := table * 0x1000 + 8 * fld va (12 + 9 * n) 9

/-- The page table entry at an address. -/
def State.pteAt (s : State) (addr : Nat) : Word := ofBytes 64 (s.devBytes (s.cell addr) 8)

/-- A ring slot, and an entry of a page table, lie in the HBM of this node or in the host window (R161, R189). -/
theorem State.ringOk_iff (s : State) (pa : Nat) : s.ringOk pa = true ↔ s.paKind pa = .hbm ∨ s.paKind pa = .host := by
  unfold State.ringOk
  cases s.paKind pa <;> simp

/-- One level of the walk (R189). -/
theorem State.walk_succ (s : State) (va : Word) (n table : Nat) :
    s.walk va (n + 1) table =
      if (!s.ringOk (pteAddr table va n)) = true then .error (.table va)
      else if s.anyPoison (s.cell (pteAddr table va n)) 8 = true then .error (.poison (pteAddr table va n))
      else if pteBad (s.pteAt (pteAddr table va n)) n = true then .error .page
      else if (fld (s.pteAt (pteAddr table va n)) 1 3 != 0) = true then
        .ok (s.pteAt (pteAddr table va n), n, pteAddr table va n)
      else s.walk va n (ptePpn (s.pteAt (pteAddr table va n))) := rfl

/-- A walk ends at an entry in the HBM of this node or in the host window. -/
theorem State.walk_ok_kind {s : State} {va : Word} {n table level addr : Nat} {pte : Word}
    (h : s.walk va n table = .ok (pte, level, addr)) : s.paKind addr = .hbm ∨ s.paKind addr = .host := by
  induction n generalizing table with
  | zero => cases h
  | succ n ih =>
    rw [State.walk_succ] at h
    split at h
    · cases h
    next hr =>
    split at h
    · cases h
    split at h
    · cases h
    split at h
    · rw [← (Prod.mk.inj (Prod.mk.inj (Except.ok.inj h)).2).2]
      exact (s.ringOk_iff _).mp (by simpa using hr)
    · exact ih h

theorem ne_hostLost_of_kind {k : PaKind} (h : k = .hbm ∨ k = .host) : k ≠ .hostLost := by
  rcases h with rfl | rfl <;> decide

/-- A heat record, or its drop, wakes monitors at most, and changes no core. -/
theorem State.appendHeat_frame (s : State) (t : Nat) (e : TlbEntry) (b : Bool) :
    Woken s (s.appendHeat t e b) ∧ (s.appendHeat t e b).cores = s.cores := by
  unfold State.appendHeat
  dsimp only
  split
  · next hf =>
    simp only [Bool.and_eq_true] at hf
    have hk := ne_hostLost_of_kind ((s.ringOk_iff _).mp hf.1.2)
    exact ⟨(woken_performAs s _ _ _ _ _ _ _ hk).trans (woken_modTower _ _ _), (State.performAs_frame s _ _ _ _ _ _ _).1⟩
  · exact ⟨woken_modTower _ _ _, rfl⟩

/-- Without a ring a heat record is only counted as dropped. -/
theorem State.appendHeat_part {s : State} {t : Nat} (e : TlbEntry) (b : Bool) (h : tst (s.towerAt t).kheat 63 = false) :
    (s.appendHeat t e b).part = s.part := by
  simp [State.appendHeat, h]

/-- The L2 TLB of a tower is filled after a heat record at most. -/
theorem State.fillL2_cases (s : State) (t : Nat) (e : TlbEntry) :
    ∃ (s1 : State) (f : Tower → Tower), s.fillL2 t e = s1.modTower t f ∧ (s1 = s ∨ ∃ g, s1 = s.appendHeat t g false) := by
  unfold State.fillL2
  dsimp only
  split
  · exact ⟨s, _, rfl, .inl rfl⟩
  · split
    · split
      · exact ⟨_, _, rfl, .inr ⟨_, rfl⟩⟩
      · exact ⟨_, _, rfl, .inl rfl⟩
    · exact ⟨_, _, rfl, .inl rfl⟩

theorem State.fillL2_frame (s : State) (t : Nat) (e : TlbEntry) : Woken s (s.fillL2 t e) ∧ (s.fillL2 t e).cores = s.cores := by
  obtain ⟨s1, f, he, rfl | ⟨g, rfl⟩⟩ := s.fillL2_cases t e
  · rw [he]; exact ⟨woken_modTower _ _ _, rfl⟩
  · rw [he]
    obtain ⟨hw, hc⟩ := s.appendHeat_frame t g false
    exact ⟨hw.trans (woken_modTower _ _ _), hc⟩

theorem State.fillL2_part {s : State} {t : Nat} (e : TlbEntry) (h : tst (s.towerAt t).kheat 63 = false) :
    (s.fillL2 t e).part = s.part := by
  obtain ⟨s1, f, he, rfl | ⟨g, rfl⟩⟩ := s.fillL2_cases t e
  · rw [he]; rfl
  · rw [he]; exact State.appendHeat_part g false h

theorem State.markLeaf_frame {s : State} {a : Acc} {pte : Word} {addr : Nat} (hk : s.paKind addr = .hbm ∨ s.paKind addr = .host) :
    Woken s (s.markLeaf a pte addr) ∧ (s.markLeaf a pte addr).cores = s.cores ∧ (s.markLeaf a pte addr).towers = s.towers := by
  unfold State.markLeaf
  split
  · exact ⟨.refl s, rfl, rfl⟩
  · obtain ⟨hc, ht, -, -⟩ := State.performAs_frame s s.cur .scalar 0 (s.inStorage addr) addr (bytesOf (markAD a pte) 8) fun _ => true
    exact ⟨woken_performAs s _ _ _ _ _ _ _ (ne_hostLost_of_kind hk), hc, ht⟩

/-- A translation changes no hart but by a monitor woken, and of the cores the first-level TLBs alone. -/
theorem State.translate_frame {s s1 : State} {v : View} {a : Acc} {va : Word} {ok : PaKind → Bool} {x : Xlat}
    (h : s.translate v a va ok = .ok (x, s1)) : Woken s s1 ∧ CoresButTlbs s s1 := by
  have same : Woken s s ∧ CoresButTlbs s s := ⟨.refl s, fun _ => ⟨_, _, _, rfl⟩⟩
  rcases State.translate_ok h with ⟨o, -, -, rfl⟩ | ⟨-, rfl⟩ | ⟨e, -, rfl | ⟨e', rfl⟩ | ⟨pte, level, addr, hk, rfl⟩⟩
  · exact same
  · exact same
  · exact same
  · exact ⟨woken_modCore _ _ _, coresButTlbs_fillL1 _ _ _ rfl⟩
  · obtain ⟨hw, hc, -⟩ := State.markLeaf_frame (a := a) (pte := pte) (State.walk_ok_kind hk)
    obtain ⟨hw2, hc2⟩ := (s.markLeaf a pte addr).fillL2_frame (s.towerOf v.core) (leafEntry v a va pte level)
    exact ⟨(hw.trans hw2).trans (woken_modCore _ _ _), coresButTlbs_fillL1 _ _ _ (hc2.trans hc)⟩

/-! ### The leaf of a walk, marked (R190) -/

section Marks
variable (a : Acc) (pte : Word)

theorem markAD_eq : markAD a pte = pte ||| if a = .store ∨ a = .amo then 0xC0 else 0x40 := by
  cases a <;> simp [markAD, BitVec.or_assoc]

theorem tst_markAD (i : Nat) :
    tst (markAD a pte) i = (tst pte i || decide (i = 6) || (decide (i = 7) && decide (a = .store ∨ a = .amo))) := by
  have h40 : ∀ i, (0x40 : Word).getLsbD i = decide (i = 6) := fun i => by
    by_cases h : i < 64
    · revert i; decide
    · rw [BitVec.getLsbD_of_ge _ _ (by omega), decide_eq_false (by omega)]
  have hC0 : ∀ i, (0xC0 : Word).getLsbD i = (decide (i = 6) || decide (i = 7)) := fun i => by
    by_cases h : i < 64
    · revert i; decide
    · rw [BitVec.getLsbD_of_ge _ _ (by omega), decide_eq_false (by omega), decide_eq_false (by omega)]; rfl
  rw [markAD_eq, tst, BitVec.getLsbD_or]
  split
  · next h => rw [hC0]; simp [h, tst, Bool.or_assoc]
  · next h => rw [h40]; simp [h, tst]

theorem tst_markAD_ne {i : Nat} (h6 : i ≠ 6) (h7 : i ≠ 7) : tst (markAD a pte) i = tst pte i := by
  simp [tst_markAD, h6, h7]

theorem fld_markAD {lo len : Nat} (h : 8 ≤ lo) : fld (markAD a pte) lo len = fld pte lo len :=
  fld_eq_of_tst _ fun i h1 _ => tst_markAD_ne a pte (by omega) (by omega)

/-- A and D are as the access leaves them exactly when they were before. -/
theorem markAD_eq_self : markAD a pte = pte ↔ tst pte 6 = true ∧ (a = .store ∨ a = .amo → tst pte 7 = true) := by
  constructor
  · intro h
    rw [← h]
    exact ⟨by simp [tst_markAD], fun hw => by simp [tst_markAD, hw]⟩
  · rintro ⟨h6, h7⟩
    refine eq_of_tst _ fun i _ => ?_
    rw [tst_markAD]
    by_cases e6 : i = 6
    · simp [e6, h6]
    · by_cases e7 : i = 7
      · subst e7
        by_cases hw : a = .store ∨ a = .amo
        · simp [h7 hw]
        · simp [hw]
      · simp [e6, e7]

/-- The permission of a leaf does not rest on A and D. -/
theorem permits_markAD (v : View) : permits v a (markAD a pte) = permits v a pte := by
  simp [permits, tst_markAD]

end Marks

/-- What an entry of a leaf comes to. -/
theorem useEntry_leaf (s : State) (v : View) (a : Acc) (va : Word) (ok : PaKind → Bool) (pte : Word) (level : Nat) :
    useEntry s v a va ok (leafEntry v a va pte level) =
      if permits v a pte = true then
        if reach v a ok (s.paKind (leafPa pte level va)) = true then
          .ok { pa := leafPa pte level va, pbmt := fld pte 61 2, page := some (fld va 12 45 / pageUnits level * pageUnits level, level) }
        else .error (.access va)
      else .error .page := by
  have hp : leafPa (markAD a pte) level va = leafPa pte level va := by
    simp only [leafPa, ptePpn, fld_markAD a pte (show 8 ≤ 10 by omega)]
  simp only [useEntry, leafEntry, permits_markAD, hp, fld_markAD a pte (show 8 ≤ 61 by omega)]
  cases permits v a pte <;> rfl

end Sys2Proof.Machine

namespace Sys2Proof.Claims
open Sys2Proof.Machine

/-! ### The walk as the statement has it -/

/-- A PTE that ends the walk in a page fault (R189). -/
theorem pteBad_iff (pte : Word) (n : Nat) : pteBad pte n = true ↔
    let bit (i : Nat) : Prop := pte.getLsbD i = true
    let leaf := bit 1 ∨ bit 2 ∨ bit 3
    ¬ bit 0 ∨ (bit 2 ∧ ¬ bit 1) ∨ fld pte 54 7 ≠ 0 ∨ bit 63 ∨ (bit 61 ∧ bit 62) ∨ (n = 0 ∧ ¬ leaf)
      ∨ (leaf ∧ fld pte 10 44 % 512 ^ n ≠ 0) := by
  have h61 : fld pte 61 2 = 3 ↔ pte.getLsbD 61 = true ∧ pte.getLsbD 62 = true := fld_two_eq_three pte 61
  have hl : fld pte 1 3 ≠ 0 ↔ pte.getLsbD 1 = true ∨ pte.getLsbD 2 = true ∨ pte.getLsbD 3 = true := fld_three_ne_zero pte 1
  have hl0 : fld pte 1 3 = 0 ↔ ¬ (pte.getLsbD 1 = true ∨ pte.getLsbD 2 = true ∨ pte.getLsbD 3 = true) := by
    rw [← hl, not_not]
  simp only [pteBad, Bool.or_eq_true, Bool.and_eq_true, Bool.not_eq_true', ← Bool.not_eq_true, bne_iff_ne, beq_iff_eq,
    tst, ptePpn, pageUnits, h61, hl, hl0, or_assoc]

/-- The model's walk comes to what the statement says. -/
theorem walk_of_walkEnds {s : State} {va : Word} {n table : Nat} {r : Except AccErr (Word × Nat × Nat)}
    (h : WalkEnds s va n table r) : s.walk va n table = r := by
  induction n generalizing table with
  | zero => exact h.symm
  | succ n ih =>
    have ha : table * 0x1000 + 8 * (va.toNat / 2 ^ (12 + 9 * n) % 512) = pteAddr table va n := by
      rw [pteAddr, fld, Nat.shiftRight_eq_div_pow, show 2 ^ 9 = 512 from rfl]
    have hp : (ofBytes 64 (s.devBytes (s.cell (pteAddr table va n)) 8) : Word) = s.pteAt (pteAddr table va n) := rfl
    have hr : (!s.ringOk (pteAddr table va n)) = true ↔
        s.paKind (pteAddr table va n) ≠ .hbm ∧ s.paKind (pteAddr table va n) ≠ .host := by
      rw [Bool.not_eq_true', ← Bool.not_eq_true, s.ringOk_iff, not_or]
    rw [WalkEnds, ha, hp] at h
    rw [State.walk_succ]
    generalize s.pteAt (pteAddr table va n) = pte at h ⊢
    dsimp only at h
    split at h
    · next hk => rw [if_pos (hr.mpr hk), h]
    next hk =>
    rw [if_neg fun e => hk (hr.mp e)]
    split at h
    · next hp => rw [if_pos hp, h]
    next hp =>
    rw [if_neg hp]
    split at h
    · next hb => rw [if_pos ((pteBad_iff pte n).mpr hb), h]
    next hb =>
    rw [if_neg fun e => hb ((pteBad_iff pte n).mp e)]
    split at h
    · next hl => rw [if_pos (bne_iff_ne.mpr ((fld_three_ne_zero pte 1).mpr hl)), h]
    · next hl => rw [if_neg fun e => hl ((fld_three_ne_zero pte 1).mp (bne_iff_ne.mp e))]; exact ih h

/-- No entry that hits serves the access: a store needs D = 1 (R190). -/
theorem find_serving_none {a : Acc} {va : Word} {asid : BitVec 16} {l : List TlbEntry}
    (h : ∀ e ∈ l, e.hits va asid = true → (a = .store ∨ a = .amo) ∧ e.pte.getLsbD 7 = false) :
    (l.find? fun e => e.hits va asid && usable a e) = none := by
  refine List.find?_eq_none.mpr fun e he hs => ?_
  obtain ⟨hh, hu⟩ := Bool.and_eq_true_iff.mp hs
  obtain ⟨rfl | rfl, hd⟩ := h e he hh
  · exact absurd (hd.symm.trans hu) Bool.false_ne_true
  · exact absurd (hd.symm.trans hu) Bool.false_ne_true

/-- What a leaf permits (R189). -/
theorem permits_iff (v : View) (a : Acc) (pte : Word) : permits v a pte = true ↔
    let bit (i : Nat) : Prop := pte.getLsbD i = true
    (match a with
      | .fetch => bit 3
      | .load => bit 1
      | .store => bit 2
      | .amo => bit 1 ∧ bit 2) ∧ if v.mode = 0 then bit 4 else ¬ bit 4 ∨ (v.sum = true ∧ a ≠ .fetch) := by
  by_cases hm : v.mode = 0 <;> cases a <;> simp [permits, tst, hm, and_assoc]

/-- What bytes do where they perform rests on the part alone. -/
theorem performs_of_part {s t u : State} {h pa : Nat} {bs : List Byte} (e : u.part = t.part) (p : Performs s t h pa bs) :
    Performs s u h pa bs := by
  unfold Performs State.byteAt at *
  rw [e]
  exact p

theorem reach_of_ok {v : View} {a : Acc} {ok : PaKind → Bool} {k : PaKind} (h : ok k = true) : reach v a ok k = true := by
  simp [reach, h]

/-- What an access may not reach: with the host link lost, the host window of one that needs its data. -/
theorem not_reach {v : View} {a : Acc} {ok : PaKind → Bool} {k : PaKind} (h : ok k = false)
    (hl : k = .hostLost → ok .host = false ∨ a = .load ∨ a = .fetch ∨ (a = .amo ∧ v.vec = false)) :
    ¬ reach v a ok k = true := by
  by_cases hk : k = .hostLost
  · rcases hl hk with h' | rfl | rfl | ⟨rfl, hv⟩
    · simp [reach, h, h']
    · simp [reach, h]
    · simp [reach, h]
    · simp [reach, h, hv]
  · simp [reach, h, hk]

/-- The part after a walk whose leaf serves, with no heat ring: A and D set at most (R190). -/
theorem afterWalk_part {s : State} {v : View} {a : Acc} {va pte : Word} {level addr : Nat}
    (hk : s.paKind addr = .hbm ∨ s.paKind addr = .host) (hh : tst (s.towerAt (s.towerOf v.core)).kheat 63 = false) :
    (s.afterWalk v a va pte level addr).part = (s.markLeaf a pte addr).part := by
  obtain ⟨-, -, ht⟩ := State.markLeaf_frame (a := a) (pte := pte) hk
  refine State.fillL2_part (s := s.markLeaf a pte addr) (leafEntry v a va pte level) ?_
  rwa [State.towerAt, ht]

/-- A leaf that the walk finds, where no TLB entry serves (R189, R190). -/
theorem translate_leaf {s : State} {v : View} {a : Acc} {va : Word} {ok : PaKind → Bool} {pte : Word} {level addr : Nat}
    (hk : s.paKind addr = .hbm ∨ s.paKind addr = .host)
    (ht : s.translate v a va ok = (useEntry s v a va ok (leafEntry v a va pte level)).map fun x =>
      (x, s.afterWalk v a va pte level addr)) :
    (permits v a pte = false → s.translate v a va ok = .error .page)
    ∧ (permits v a pte = true → ok (s.paKind (leafPa pte level va)) = false → s.paKind (leafPa pte level va) ≠ .hostLost →
      s.translate v a va ok = .error (.access va))
    ∧ (permits v a pte = true → ok (s.paKind (leafPa pte level va)) = true →
      tst (s.towerAt (s.towerOf v.core)).kheat 63 = false →
      ∃ x u, s.translate v a va ok = .ok (x, u) ∧ x.pa = leafPa pte level va ∧ x.pbmt = fld pte 61 2
        ∧ (markAD a pte = pte → u.part = s.part)
        ∧ (markAD a pte ≠ pte → Performs s u s.cur addr (bytesOf (markAD a pte) 8))) := by
  rw [ht, useEntry_leaf]
  refine ⟨fun hp => ?_, fun hp ho hl => ?_, fun hp ho hh => ?_⟩
  · rw [if_neg (by simp [hp])]; rfl
  · rw [if_pos hp, if_neg (not_reach ho fun e => absurd e hl)]; rfl
  · rw [if_pos hp, if_pos (reach_of_ok ho)]
    have hpart := afterWalk_part (a := a) (va := va) (pte := pte) (level := level) hk hh
    refine ⟨_, _, rfl, rfl, rfl, fun hm => ?_, fun hm => ?_⟩
    · rw [hpart, State.markLeaf, if_pos hm]
    · refine performs_of_part hpart ?_
      rw [State.markLeaf, if_neg hm]
      exact performs_perform _ _ _ _ _

/-- Settles O16, by where a translation comes from: the window, bare mode, a TLB, or the walk with its leaf. -/
theorem translation : Obligations.Translation := by
  have f56 : ∀ va : Word, fld va 0 56 = va.toNat % 2 ^ 56 := fun va => by rw [fld, Nat.shiftRight_zero]
  refine ⟨⟨fun s s1 v a va ok x h => State.translate_offset h, fun s v a va ok o ho => State.translate_window s v a va ok ho,
    fun s v a va ok hw hb hm ho => ?_, fun s v a va ok hw hb hm ho hl => ?_, fun s v va ok hw hb hm ho hl => ?_,
    fun s v a va ok hw hb hm => ?_, fun s v a va ok hw hb hc => ?_, ?_⟩, fun s s1 v a va ok x h => ?_⟩
  · rw [State.translate_bare s v a va ok hw hb, if_neg hm, f56, if_pos (reach_of_ok ho)]
  · rw [State.translate_bare s v a va ok hw hb, if_neg hm, f56, if_neg (not_reach ho hl)]
  · rw [State.translate_bare s v .store va ok hw hb, if_neg hm, f56, hl, if_pos (by simp [reach, ho])]
  · rw [State.translate_bare s v a va ok hw hb, if_pos hm]
  · obtain ⟨i, h1, h2, h3⟩ := hc
    exact State.translate_noncanonical s v a va ok hw hb fun e => h3 ((canonical_iff va).mp e i h1 h2)
  · intro s v a va ok r writes tower hw hb hc hn hr
    have hc' := (canonical_iff va).mpr hc
    have h1 := find_serving_none fun e he => hn e (List.mem_append_left _ he)
    have h2 := find_serving_none fun e he => hn e (List.mem_append_right _ he)
    have hk := walk_of_walkEnds hr
    refine ⟨fun f e => State.translate_walk_error s v a va ok hw hb hc' h1 h2 (hk.trans e), fun pte level addr e => ?_⟩
    have hk' := hk.trans e
    have ht := State.translate_walk_ok s v a va ok hw hb hc' h1 h2 hk'
    obtain ⟨hpage, hacc, hok⟩ := translate_leaf (State.walk_ok_kind hk') ht
    have hpa : leafPa pte level va = fld pte 10 44 * 0x1000 + va.toNat % (0x1000 * 512 ^ level) := by
      rw [leafPa, ptePpn, pageUnits, Nat.mul_comm (512 ^ level)]
    rw [hpa] at hacc hok
    intro bit may pa marked
    have hmay : permits v a pte = true ↔ may := permits_iff v a pte
    have hmark : markAD a pte = pte ↔ marked := markAD_eq_self a pte
    refine ⟨fun h => hpage (by rw [← Bool.not_eq_true, hmay]; exact h), fun h => hacc (hmay.mpr h), fun h ho hh => ?_⟩
    obtain ⟨x, u, ex, h3, h4, h5, h6⟩ := hok (hmay.mpr h) ho hh
    refine ⟨x, u, ex, h3, h4, fun hm => h5 (hmark.mpr hm), fun hm => ?_⟩
    have := h6 fun e => hm (hmark.mp e)
    rwa [markAD_eq] at this
  · obtain ⟨hw, hc⟩ := State.translate_frame h
    refine ⟨hw.hartsKept, fun j => ?_, fun c => ?_⟩
    · obtain ⟨m, e⟩ := hw.1 j
      rw [e]
      exact ⟨rfl, rfl⟩
    · obtain ⟨i, d, l, e⟩ := hc c
      rw [e]

end Sys2Proof.Claims

/-! PROOFS. Bring-up, power and the clock ratio (R10-R12, R213, R226-R231, R239). -/

namespace Sys2Proof.Machine

/-! ### Maps made and changed entry by entry -/

section MapsMade
variable {α β : Type}

/-- What a map reads after a change of every value, the default with them. -/
theorem Map.get_map (f : α → β) (d : α) (m : Map α) (k : Nat) :
    Map.get (f d) (m.map fun e => (e.1, f e.2)) k = f (Map.get d m k) := by
  induction m with
  | nil => rfl
  | cons e m ih =>
    by_cases h : e.1 = k
    · simp [Map.get, h]
    · simpa [Map.get, h] using ih

/-- What a map reads that gives each key of a list its value. -/
theorem Map.get_of_mem (f : Nat → α) (d : α) {l : List Nat} {k : Nat} (h : k ∈ l) :
    Map.get d (l.map fun i => (i, f i)) k = f k := by
  induction l with
  | nil => cases h
  | cons i l ih =>
    by_cases e : i = k
    · subst e; simp [Map.get]
    · have hk : k ∈ l := (List.mem_cons.mp h).resolve_left (Ne.symm e)
      simpa [Map.get, e] using ih hk

/-- Entries put in turn leave every other key as it was. -/
theorem Map.get_foldl_put_ne (f : β → α) (d : α) (key : β → Nat) (l : List β) (m : Map α) {k : Nat}
    (h : ∀ e ∈ l, key e ≠ k) : Map.get d (l.foldl (fun m e => Map.put m (key e) (f e)) m) k = Map.get d m k := by
  induction l generalizing m with
  | nil => rfl
  | cons e l ih =>
    rw [List.foldl_cons, ih _ fun x hx => h x (List.mem_cons_of_mem _ hx),
      Map.get_put_ne _ _ _ (Ne.symm (h e List.mem_cons_self))]

/-- Entries of different keys put in turn are all there. -/
theorem Map.get_foldl_put (f : β → α) (d : α) (key : β → Nat) (l : List β) (m : Map α) (hn : (l.map key).Nodup) {e : β}
    (h : e ∈ l) : Map.get d (l.foldl (fun m e => Map.put m (key e) (f e)) m) (key e) = f e := by
  induction l generalizing m with
  | nil => cases h
  | cons x l ih =>
    obtain ⟨hx, hl⟩ := List.nodup_cons.mp hn
    rw [List.foldl_cons]
    rcases List.mem_cons.mp h with rfl | h
    · rw [Map.get_foldl_put_ne f d key l _ fun y hy e' => hx (List.mem_map.mpr ⟨y, hy, e'⟩), Map.get_put_self]
    · exact ih _ hl h

end MapsMade

/-! ### kbist (Table 12-2) -/

section Bist
variable (k : Word) (n : Nat)

theorem tst_phaseBist {i : Nat} (h : 32 ≤ i ∧ i < 59 ∨ 62 ≤ i) : tst (phaseBist k n) i = false := by
  have hm : ∀ i, 32 ≤ i → (0xFFFFFFFF : Word).getLsbD i = false := fun i hi => by
    by_cases h : i < 64
    · revert i; decide
    · exact BitVec.getLsbD_of_ge _ _ (by omega)
  rw [phaseBist, tst_putFld, if_neg (by omega), tst, BitVec.getLsbD_and, hm i (by omega), Bool.and_false]

theorem fld_phaseBist : fld (phaseBist k n) 59 3 = n % 8 := fld_putFld_self _ _ _ _ (by omega)

theorem fld_phaseBist_code : fld (phaseBist k n) 40 8 = 0 := by
  rw [← show fld (0 : Word) 40 8 = 0 by decide]
  exact fld_eq_of_tst _ fun i h1 h2 => by rw [tst_phaseBist k n (.inl (by omega))]; exact BitVec.getLsbD_zero.symm

end Bist

/-- Bring-up stands at a phase when the part has power, DONE and FAIL are 0, and PHASE says so. -/
theorem State.atPhase_iff (s : State) (n : Nat) : s.atPhase n = true ↔
    s.part.power = true ∧ tst s.part.kbist 63 = false ∧ tst s.part.kbist 62 = false ∧ fld s.part.kbist 59 3 = n := by
  simp [State.atPhase, State.isDone, Part.phase, and_assoc]

/-- kid tells the node number and the number of enabled cores (Table 12-1). -/
theorem State.kid_node (s : State) : fld s.kid 52 12 = s.part.node.toNat := by
  have h : ∀ n c : Nat, n < 4096 → c < 128 →
      (n * 2 ^ 52 + c * 2 ^ 45 + 0x10 * 2 ^ 32 + 0x64080768) % 2 ^ 64 / 2 ^ 52 % 2 ^ 12 = n := by omega
  rw [State.kid, fld, BitVec.toNat_ofNat, Nat.shiftRight_eq_div_pow]
  exact h _ _ s.part.node.isLt (Nat.mod_lt _ (by omega))

theorem State.kid_cores (s : State) : fld s.kid 45 7 = s.coresEnabled % 128 := by
  have h : ∀ n c : Nat, n < 4096 → c < 128 →
      (n * 2 ^ 52 + c * 2 ^ 45 + 0x10 * 2 ^ 32 + 0x64080768) % 2 ^ 64 / 2 ^ 45 % 2 ^ 7 = c := by omega
  rw [State.kid, fld, BitVec.toNat_ofNat, Nat.shiftRight_eq_div_pow]
  exact h _ _ s.part.node.isLt (Nat.mod_lt _ (by omega))

end Sys2Proof.Machine

namespace Sys2Proof.Claims
open Sys2Proof.Machine

/-! ### Phases held, and a part that starts afresh -/

/-- Bring-up is held at a phase with a code, and nothing of the phase has been applied. -/
def Held (s t : State) (phase code : Nat) : Prop :=
  tst t.part.kbist 62 = true ∧ fld t.part.kbist 59 3 = phase ∧ fld t.part.kbist 40 8 = code ∧ tst t.part.kbist 63 = false
    ∧ t.part.hoist = s.part.hoist ∧ t.part.identity = s.part.identity

theorem held_failBringup {s : State} {n : Nat} (h : s.atPhase n = true) {code : Nat} (hc : code < 256) :
    Held s (s.failBringup code) n code := by
  obtain ⟨-, hd, -, hp⟩ := (s.atPhase_iff n).mp h
  refine ⟨?_, ?_, ?_, ?_, rfl, rfl⟩
  · simp [State.failBringup, tst_putFld, tst_putBit]
  · simp only [State.failBringup, State.modPart_part]
    rw [fld_putFld_ne _ _ (by omega), fld_putBit_ne _ _ (by omega), hp]
  · simp only [State.failBringup, State.modPart_part]
    rw [fld_putFld_self _ _ _ _ (by omega)]
    exact Nat.mod_eq_of_lt hc
  · simpa [State.failBringup, tst_putFld, tst_putBit] using hd

/-- The part has just come to phase 0 or passed it: nothing runs, memory is empty, and the ROM has derived the identity. -/
def Fresh (s t : State) : Prop :=
  t.part.power = true ∧ (∀ h, (t.hartAt h).live = false) ∧ (∀ k, t.byteAt k = 0)
    ∧ t.part.cut = false ∧ tst t.part.kbist 63 = false ∧ t.part.flash = s.part.flash ∧ t.part.dead = s.part.dead
    ∧ t.part.identity.cdi = Config.deriveCdi Config.deviceSecret Config.romDigest
    ∧ t.part.identity.deviceKey = Config.deriveKey (Config.deriveCdi Config.deviceSecret Config.romDigest) []

theorem fresh_fromPhase0 (s : State) (f : Word → Word) (hf : ∀ k, tst (f (phaseBist k 0)) 63 = false) :
    Fresh s (s.fromPhase0.modPart fun p => { p with kbist := f p.kbist }) :=
  ⟨rfl, fun _ => rfl, fun _ => rfl, rfl, hf _, rfl, rfl, rfl, rfl⟩

theorem fromPhase0_kbist (s : State) : s.fromPhase0.part.kbist = phaseBist s.part.kbist 0 := rfl

theorem fresh_self (s : State) : Fresh s s.fromPhase0 := fresh_fromPhase0 s id fun k => tst_phaseBist k 0 (.inr (by omega))

/-- Phase 0 passes, or is held with code 1 (R227). -/
theorem powerGood_fresh (s : State) (ok : Bool) (hc : s.part.cut = false)
    (h : s.part.power = false ∨ s.atPhase 0 = true) :
    ∃ t, exec (.powerGood ok) s = .next t ∧ Fresh s t
      ∧ tst t.part.kbist 62 = !ok ∧ fld t.part.kbist 59 3 = (if ok then 1 else 0)
      ∧ fld t.part.kbist 40 8 = if ok then 0 else 1 := by
  have e : exec (.powerGood ok) s =
      .next (if ok then s.fromPhase0.toPhase 1 else s.fromPhase0.failBringup 0x01) := by
    show execPowerGood ok s = _
    have h' : (!s.part.power || s.atPhase 0) = true := by simpa using h
    rw [execPowerGood, hc, if_neg (by simp), if_pos h']
  refine ⟨_, e, ?_⟩
  cases ok
  · have h62 : ∀ k : Word, tst (putFld (putBit k 62 true) 40 8 0x01) 62 = true := fun k => by simp [tst_putFld, tst_putBit]
    refine ⟨fresh_fromPhase0 s (fun k => putFld (putBit k 62 true) 40 8 0x01) fun k => ?_, h62 _, ?_, ?_⟩
    · rw [tst_putFld, if_neg (by omega), tst_putBit, if_neg (by omega), tst_phaseBist k 0 (.inr (by omega))]
    · show fld (putFld (putBit (phaseBist s.part.kbist 0) 62 true) 40 8 0x01) 59 3 = 0
      rw [fld_putFld_ne _ _ (by omega), fld_putBit_ne _ _ (by omega), fld_phaseBist]
    · exact fld_putFld_self _ _ _ _ (by omega)
  · exact ⟨fresh_fromPhase0 s (fun k => phaseBist k 1) fun k => tst_phaseBist _ 1 (.inr (by omega)),
      tst_phaseBist _ 1 (.inr (by omega)), fld_phaseBist _ 1, fld_phaseBist_code _ 1⟩

/-! ### Phase 1: the strap, the links, the routing tables -/

/-- What the host link may have trained to (Table 12-5). -/
theorem linkOk_iff (w : Word) :
    linkOk w = true ↔ fld w 59 3 ≤ 4 ∧ fld w 56 3 ≠ 7 ∧ (tst w 62 = true → tst w 63 = true) := by
  simp only [linkOk, Bool.and_eq_true, Bool.or_eq_true, Bool.not_eq_true', decide_eq_true_eq]
  cases tst w 62 <;> simp [and_comm, and_left_comm]

theorem trainedPort_fields (s : State) (q : Nat) : fld (s.trainedPort q) 61 2 ≤ 2 ∧ tst (s.trainedPort q) 60 = false
    ∧ fld (s.trainedPort q) 0 32 = 0 := by
  simp only [State.trainedPort]
  generalize Config.freeWord s.tick q = w
  refine ⟨?_, ?_, ?_⟩
  · rw [fld_putFld_ne _ _ (by omega), fld_putFld_self _ _ _ _ (by omega)]
    omega
  · rw [tst_putFld, if_neg (by omega), tst_putFld, if_neg (by omega), tst_putBit, if_neg (by omega)]
    decide
  · rw [fld_putFld_ne _ _ (by omega), fld_putFld_ne _ _ (by omega), fld_putBit_ne _ _ (by omega)]
    decide

theorem get_routesOf {l : List (Nat × List (List Nat))} (hn : (l.map fun e => e.1).Nodup) {e : Nat × List (List Nat)}
    (h : e ∈ l) : Map.get [] (routesOf l) e.1 = e.2.take 4 :=
  Map.get_foldl_put (fun x : Nat × List (List Nat) => x.2.take 4) [] (fun x => x.1) l [] hn h

/-- Phase 1 as Table 12-3 has it. -/
theorem bringupPhase1_spec (s : State) (code : Byte) (strap : BitVec 12) (hl : Word)
    (routes : List (Nat × List (List Nat))) (hp : s.atPhase 1 = true) (hn : (routes.map fun e => e.1).Nodup) :
    ∃ t, exec (.bringupPhase1 code strap { hlst := hl, routes := routes }) s = .next t ∧ t.harts = s.harts
      ∧ (∀ k, t.byteAt k = s.byteAt k)
      ∧ if code = 2 ∨ code = 3 ∨ code = 4 then Held s t 1 code.toNat
        else if strap = 0xFFF then Held s t 1 5
        else fld t.part.kbist 59 3 = 2 ∧ tst t.part.kbist 62 = false ∧ t.part.node = strap ∧ fld t.kid 52 12 = strap.toNat
          ∧ t.part.hlst = (if fld hl 59 3 ≤ 4 ∧ fld hl 56 3 ≠ 7 ∧ (tst hl 62 = true → tst hl 63 = true)
              then hl &&& 0xFF00000000000000 else 0)
          ∧ (∀ e, e ∈ routes → Map.get [] t.part.routes e.1 = e.2.take 4)
          ∧ ∀ q, q < 128 → fld (Map.get 0 t.part.portst q) 61 2 ≤ 2 ∧ tst (Map.get 0 t.part.portst q) 60 = false
            ∧ fld (Map.get 0 t.part.portst q) 0 32 = 0 := by
  show ∃ t, execBringupPhase1 code strap _ s = .next t ∧ _
  rw [execBringupPhase1, hp, if_neg (by simp)]
  split
  · exact ⟨_, rfl, rfl, fun _ => rfl, held_failBringup hp code.isLt⟩
  split
  · exact ⟨_, rfl, rfl, fun _ => rfl, held_failBringup hp (by omega)⟩
  refine ⟨_, rfl, rfl, fun _ => rfl, fld_phaseBist _ 2, tst_phaseBist _ 2 (.inr (by omega)), rfl, State.kid_node _, ?_,
    fun e he => get_routesOf hn he, fun q hq => ?_⟩
  · simp only [State.toPhase, State.modPart_part, linkOk_iff]
  · have e : Map.get 0 ((List.range 128).map fun i => (i, s.trainedPort i)) q = s.trainedPort q :=
      Map.get_of_mem s.trainedPort 0 (List.mem_range.mpr hq)
    have h := trainedPort_fields s q
    rwa [← e] at h

/-! ### Phases 3 and 4, resets and losses of power -/

theorem rsaOk_iff (f : Firmware) : rsaOk f = true ↔
    Config.sha384 f.rsaKey = Config.rsaKeyHash ∧ Config.rsaVerifies f.rsaKey (fwMeasure f) f.rsaSig = true := by
  simp [rsaOk]

theorem slhOk_iff (f : Firmware) : slhOk f = true ↔
    Config.sha384 f.slhKey = Config.slhKeyHash ∧ Config.slhVerifies f.slhKey (fwMeasure f) f.slhSig = true := by
  simp [slhOk]

/-- Phase 3: the checks of the image in their order (log 61), and the identity of its measurement. -/
theorem bringupPhase3_spec (s : State) (serial validity nonce : List Byte) (hp : s.atPhase 3 = true) :
    ∃ t, exec (.bringupPhase3 serial validity nonce) s = .next t
      ∧ let f := s.part.flash
        let m := fwMeasure f
        let rsa := rsaOk f = true
        let slh := slhOk f = true
        (¬ rsa → Held s t 3 8) ∧ (rsa → ¬ slh → Held s t 3 9) ∧ (rsa → slh → f.secVer < s.part.minSec → Held s t 3 10)
        ∧ (rsa → slh → s.part.minSec ≤ f.secVer → f.malformed = true → Held s t 3 11)
        ∧ (rsa → slh → s.part.minSec ≤ f.secVer → f.malformed = false → fld t.part.kbist 59 3 = 4
          ∧ tst t.part.kbist 62 = false ∧ t.part.identity.cdi = s.part.identity.cdi
          ∧ t.part.identity.deviceKey = s.part.identity.deviceKey ∧ t.part.identity.fwDigest = m
          ∧ t.part.identity.aliasKey = Config.deriveKey s.part.identity.cdi m
          ∧ let body := Config.publicKey t.part.identity.aliasKey ++ (serial ++ validity)
            t.part.identity.aliasCert = body ++ Config.sign s.part.identity.deviceKey body nonce) := by
  show ∃ t, execBringupPhase3 serial validity nonce s = .next t ∧ _
  rw [execBringupPhase3, hp, if_neg (by simp)]
  dsimp only
  by_cases hr : rsaOk s.part.flash = true
  swap
  · rw [if_pos (by simpa using hr)]
    exact ⟨_, rfl, fun _ => held_failBringup hp (by omega), fun h => absurd h hr, fun h => absurd h hr,
      fun h => absurd h hr, fun h => absurd h hr⟩
  rw [if_neg (by simp [hr])]
  by_cases hs : slhOk s.part.flash = true
  swap
  · rw [if_pos (by simpa using hs)]
    exact ⟨_, rfl, fun h => absurd hr h, fun _ _ => held_failBringup hp (by omega), fun _ h => absurd h hs,
      fun _ h => absurd h hs, fun _ h => absurd h hs⟩
  rw [if_neg (by simp [hs])]
  by_cases hv : s.part.flash.secVer < s.part.minSec
  · rw [if_pos hv]
    exact ⟨_, rfl, fun h => absurd hr h, fun _ h => absurd hs h, fun _ _ _ => held_failBringup hp (by omega),
      fun _ _ h => by omega, fun _ _ h => by omega⟩
  rw [if_neg hv]
  cases hm : s.part.flash.malformed
  · exact ⟨_, rfl, fun h => absurd hr h, fun _ h => absurd hs h, fun _ _ h => absurd h hv, fun _ _ _ h => absurd h Bool.false_ne_true,
      fun _ _ _ _ => ⟨fld_phaseBist _ 4, tst_phaseBist _ 4 (.inr (by omega)), rfl, rfl, rfl, rfl, rfl⟩⟩
  · exact ⟨_, rfl, fun h => absurd hr h, fun _ h => absurd hs h, fun _ _ h => absurd h hv,
      fun _ _ _ _ => held_failBringup hp (by omega), fun _ _ _ h => absurd h.symm Bool.false_ne_true⟩

theorem resetPort_eq (w : Word) : resetPort w = w &&& 0xEFFFFFFF00000000 := by
  refine eq_of_tst _ fun i hi => ?_
  have hd : ∀ i < 64, (0xEFFFFFFF00000000 : Word).getLsbD i = (decide (32 ≤ i) && decide (i ≠ 60)) := by decide
  rw [resetPort, tst_putFld, tst_putBit, tst, tst, BitVec.getLsbD_and, hd i hi]
  by_cases h : i < 32
  · rw [if_pos (by omega), decide_eq_false (by omega : ¬ 32 ≤ i)]; simp
  · rw [if_neg (by omega), decide_eq_true (by omega : 32 ≤ i)]
    by_cases h60 : i = 60 <;> simp [h60]

@[simp] theorem putBytes_portst (p : Part) (k : Nat) (bs : List Byte) : (p.putBytes k bs).portst = p.portst := by
  induction bs generalizing p k with
  | nil => rfl
  | cons b bs ih => exact ih (p.putByte k b) (k + 1)

@[simp] theorem putBytes_hoist (p : Part) (k : Nat) (bs : List Byte) : (p.putBytes k bs).hoist = p.hoist := by
  induction bs generalizing p k with
  | nil => rfl
  | cons b bs ih => exact ih (p.putByte k b) (k + 1)

/-- Phase 4: the image in memory, hart 0 at its entry, and nothing left of before (R228). -/
theorem bringupPhase4_spec (s : State) (hp : s.atPhase 4 = true) :
    ∃ t, exec .bringupPhase4 s = .next t ∧ tst t.part.kbist 63 = true
      ∧ (∀ k, t.byteAt k = if s.part.flash.base.toNat ≤ k ∧ k < s.part.flash.base.toNat + s.part.flash.bytes.length
          then s.part.flash.bytes.getD (k - s.part.flash.base.toNat) 0 else s.byteAt k)
      ∧ (t.hartAt 0).live = true ∧ (t.hartAt 0).pm = 1 ∧ (t.hartAt 0).katp = 0 ∧ (t.hartAt 0).pc = s.part.flash.supEntry
      ∧ (t.hartAt 0).fw.tvec = s.part.flash.fwEntry ∧ (∀ h, h ≠ 0 → (t.hartAt h).live = false)
      ∧ t.part.mev = 0 ∧ t.part.gangs = [] ∧ t.part.retiring = [] ∧ t.part.posted = [] ∧ t.part.hoist = s.part.hoist
      ∧ (∀ q, Map.get 0 t.part.portst q = Map.get 0 s.part.portst q &&& 0xEFFFFFFF00000000) ∧ t.part.spares = []
      ∧ ∀ c, (t.coreAt c).kcycle = 0 ∧ (t.coreAt c).hcycle = 0 ∧ (t.coreAt c).retired = (s.coreAt c).retired
        ∧ (t.coreAt c).lanesOut = (s.coreAt c).lanesOut ∧ (t.coreAt c).ccOut = (s.coreAt c).ccOut := by
  show ∃ t, execBringupPhase4 s = .next t ∧ _
  rw [execBringupPhase4, hp, if_neg (by simp)]
  refine ⟨_, rfl, ?_, fun k => Part.putBytes_read _ _ _ _, rfl, (by decide : fld (0x100 : Word) 8 2 = 1), rfl, rfl, rfl, fun h h0 => ?_, rfl, rfl, rfl, rfl,
    putBytes_hoist _ _ _, fun q => ?_, rfl, fun c => ?_⟩
  · simp [tst_putBit]
  · have e : Map.get ({} : Hart) [(0, startedHart0 s.part.flash)] h = {} := by simp [Map.get, Ne.symm h0]
    exact congrArg Hart.live e
  · rw [← resetPort_eq]
    exact Map.get_map resetPort 0 s.part.portst q
  · have e := Map.get_map (fun k : Core => ({ retired := k.retired, lanesOut := k.lanesOut, ccOut := k.ccOut } : Core)) {}
      s.cores c
    have hr := congrArg Core.retired e
    have hl := congrArg Core.lanesOut e
    have hc := congrArg Core.ccOut e
    exact ⟨congrArg Core.kcycle e, congrArg Core.hcycle e, hr, hl, hc⟩

/-- A change of RATIO is told with reason 4, and changes nothing else (R239). -/
theorem ratioChange_spec (s : State) (r : BitVec 4) (thr : Bool) (hr : s.ready = true) (h1 : 1 ≤ r.toNat) (h8 : r.toNat ≤ 8)
    (hn : fld s.part.pwr 60 4 ≠ r.toNat) :
    ∃ t, exec (.ratioChange r thr) s = .next t ∧ fld t.part.pwr 60 4 = r.toNat ∧ tst t.part.pwr 59 = thr
        ∧ fld t.part.pwr 0 59 = fld s.part.pwr 0 59 ∧ tst t.part.mev 63 = true ∧ fld t.part.mev 0 8 = 4
        ∧ (t.hartAt 0).mgmtPend = true ∧ SameMemory s t ∧ t.cores = s.cores ∧ ∀ h, h ≠ 0 → t.hartAt h = s.hartAt h := by
  have e : exec (.ratioChange r thr) s = .next ((s.modPart fun p =>
      { p with pwr := putBit (putFld p.pwr 60 4 r.toNat) 59 thr }).postMev 4 0) := by
    show execRatioChange r thr s = _
    simp [execRatioChange, hr, h1, h8, hn]
  obtain ⟨w, hw, h63, hf⟩ := (s.modPart fun p => { p with pwr := putBit (putFld p.pwr 60 4 r.toNat) 59 thr }).postMev_part 4 0
  refine ⟨_, e, ?_⟩
  rw [hw]
  refine ⟨?_, ?_, ?_, h63, hf, ?_, sameMemory_of_mem rfl rfl rfl fun _ => rfl, rfl, fun h h0 => ?_⟩
  · simp only [State.modPart_part]
    rw [fld_putBit_ne _ _ (by omega), fld_putFld_self _ _ _ _ (by omega)]
    exact Nat.mod_eq_of_lt r.isLt
  · simp [tst_putBit]
  · simp only [State.modPart_part]
    rw [fld_putBit_ne _ _ (by omega), fld_putFld_ne _ _ (by omega)]
  · rw [State.postMev_hartAt, if_pos rfl]
  · rw [State.postMev_hartAt, if_neg h0]; rfl

end Sys2Proof.Claims

/-! PROOFS. Phase 2: the hoist map and the retirements applied (R10-R12, R213, R227). -/

namespace Sys2Proof.Machine

/-! ### The entries of an applied hoist map -/

/-- The enabled entries of a map below an index, with their indices. -/
def enabledBelow (a : List W32) (i : Nat) : List (Nat × W32) :=
  ((List.range i).filter fun j => tst (a.getD j 0) 31).map fun j => (j, a.getD j 0)

/-- What an entry becomes when it is applied as that of core c. -/
def boundEntry (e : W32) (c : Nat) : W32 := putFld (putFld (0x80000F00 : W32) 18 6 c) 12 4 (fld e 12 4)

/-- Whether phase 2 enables the helm of an entry, whose lower neighbours are given. -/
def Part.enables (p : Part) (i : Nat) (e : W32) (lower : List (Nat × W32)) : Bool :=
  p.appliedEntry i e lower && decide ((lower.filter fun x => x.1 / 17 == i / 17).length < 16)

/-- The entry of an index as phase 2 leaves it. -/
def Part.entryOf (p : Part) (i : Nat) (e : W32) (lower : List (Nat × W32)) : W32 :=
  if p.enables i e lower then boundEntry e lower.length else 0xFF00

section Bound
variable (e : W32) (c : Nat)

theorem tst_boundEntry {i : Nat} (h : 24 ≤ i ∨ i < 12) : tst (boundEntry e c) i = tst (0x80000F00 : W32) i := by
  rw [boundEntry, tst_putFld, if_neg (by omega), tst_putFld, if_neg (by omega)]

theorem fld_boundEntry_core : fld (boundEntry e c) 18 6 = c % 64 := by
  rw [boundEntry, fld_putFld_ne _ _ (by omega)]
  exact fld_putFld_self _ _ _ _ (by omega)

/-- The codes of the pair of slabs are those of the entry applied. -/
theorem fld_boundEntry_codes {lo len : Nat} (h1 : 12 ≤ lo) (h2 : lo + len ≤ 16) :
    fld (boundEntry e c) lo len = fld e lo len := by
  refine fld_eq_of_tst _ fun i hi1 hi2 => ?_
  rw [boundEntry, tst_putFld, if_pos (by omega), testBit_fld, decide_eq_true (by omega), Bool.true_and,
    Nat.add_sub_cancel' (by omega)]

theorem fld_boundEntry_none : fld (boundEntry e c) 8 4 = 15 := by
  rw [boundEntry, fld_putFld_ne _ _ (by omega), fld_putFld_ne _ _ (by omega)]
  decide

end Bound

section Entry
variable (p : Part) (i : Nat) (e : W32) (lower : List (Nat × W32))

theorem tst_entryOf_enabled : tst (p.entryOf i e lower) 31 = p.enables i e lower := by
  unfold Part.entryOf
  cases p.enables i e lower
  · rw [if_neg Bool.false_ne_true]; decide
  · rw [if_pos rfl, tst_boundEntry _ _ (.inl (by omega))]; decide

/-- No entry leads a gang of slabs, is dark, or has a second pair (R12). -/
theorem entryOf_no_gang : tst (p.entryOf i e lower) 30 = false ∧ tst (p.entryOf i e lower) 29 = false
    ∧ fld (p.entryOf i e lower) 8 4 = 15 := by
  unfold Part.entryOf
  cases p.enables i e lower
  · rw [if_neg Bool.false_ne_true]; decide
  · rw [if_pos rfl, tst_boundEntry _ _ (.inl (by omega)), tst_boundEntry _ _ (.inl (by omega)), fld_boundEntry_none]
    decide

end Entry

/-! ### The applied map, entry by entry -/

theorem getD_append_lt {α : Type} (a b : List α) (d : α) {j : Nat} (h : j < a.length) : (a ++ b).getD j d = a.getD j d := by
  rw [List.getD_eq_getElem?_getD, List.getD_eq_getElem?_getD, List.getElem?_append_left h]

/-- The enabled entries below an index rest on the entries below it alone. -/
theorem enabledBelow_append (a b : List W32) {i : Nat} (h : i ≤ a.length) :
    enabledBelow (a ++ b) i = enabledBelow a i := by
  have hg : ∀ j ∈ List.range i, (a ++ b).getD j 0 = a.getD j 0 := fun j hj =>
    getD_append_lt a b 0 (by have := List.mem_range.mp hj; omega)
  unfold enabledBelow
  rw [List.filter_congr fun j hj => by rw [hg j hj]]
  exact List.map_congr_left fun j hj => by rw [hg j (List.mem_filter.mp hj).1]

/-- One more entry: it joins the enabled ones if it is one. -/
theorem enabledBelow_concat (a : List W32) (x : W32) :
    enabledBelow (a ++ [x]) (a.length + 1) =
      enabledBelow a a.length ++ if tst x 31 then [(a.length, x)] else [] := by
  have hx : (a ++ [x]).getD a.length 0 = x := by
    rw [List.getD_eq_getElem?_getD, List.getElem?_concat_length]; rfl
  have hl := enabledBelow_append a [x] (le_refl a.length)
  unfold enabledBelow at hl ⊢
  rw [List.range_succ, List.filter_append, List.map_append, hl]
  congr 1
  rw [List.filter_singleton, hx]
  cases tst x 31
  · rfl
  · exact congrArg (fun y => [(a.length, y)]) hx

/-- The next entry that phase 2 applies, after those of a list. -/
theorem applyHoist_cons (p : Part) (a rest : List W32) (e : W32) :
    p.applyHoist (e :: rest) a.length (enabledBelow a a.length).length (enabledBelow a a.length) =
      let b := a ++ [p.entryOf a.length e (enabledBelow a a.length)]
      p.entryOf a.length e (enabledBelow a a.length)
        :: p.applyHoist rest b.length (enabledBelow b b.length).length (enabledBelow b b.length) := by
  have ht := tst_entryOf_enabled p a.length e (enabledBelow a a.length)
  dsimp only
  rw [List.length_append, List.length_singleton, enabledBelow_concat, ht, Part.applyHoist]
  unfold Part.entryOf
  cases h : p.enables a.length e (enabledBelow a a.length)
  · rw [if_neg (by rw [← Part.enables, h]; simp)]
    simp
  · rw [if_pos (by rw [← Part.enables, h])]
    simp [boundEntry]

/-- What phase 2 makes of the entries of a list, after those of another: each as the enabled ones below it leave it. -/
theorem applyHoist_getD (p : Part) (l a : List W32) :
    let r := a ++ p.applyHoist l a.length (enabledBelow a a.length).length (enabledBelow a a.length)
    r.length = a.length + l.length
      ∧ ∀ i, a.length ≤ i → i < a.length + l.length →
        r.getD i 0 = p.entryOf i (l.getD (i - a.length) 0) (enabledBelow r i) := by
  induction l generalizing a with
  | nil =>
    refine ⟨by simp [Part.applyHoist], fun i h1 h2 => ?_⟩
    rw [List.length_nil] at h2
    omega
  | cons e l ih =>
    have hc := applyHoist_cons p a l e
    dsimp only at hc ih ⊢
    rw [hc, ← List.singleton_append, ← List.append_assoc]
    generalize hx : p.entryOf a.length e (enabledBelow a a.length) = x
    obtain ⟨hl, hi⟩ := ih (a ++ [x])
    generalize p.applyHoist l (a ++ [x]).length _ _ = r at hl hi ⊢
    have hn : (a ++ [x]).length = a.length + 1 := by simp
    have hlen : (e :: l).length = l.length + 1 := rfl
    refine ⟨by rw [hl, hn, hlen]; omega, fun i h1 h2 => ?_⟩
    by_cases h : i = a.length
    · subst h
      rw [getD_append_lt _ _ _ (by omega), enabledBelow_append _ _ (by omega), enabledBelow_append _ _ (le_refl _),
        List.getD_eq_getElem?_getD, List.getElem?_concat_length, Nat.sub_self]
      exact hx.symm
    · rw [hi i (by omega) (by omega), hn, show i - a.length = i - (a.length + 1) + 1 by omega, List.getD_cons_succ]

/-- A hoist map cut, or filled up with disabled entries, to 68. -/
def padded (l : List W32) : List W32 := (l.take 68) ++ List.replicate (68 - l.length) 0xFF00

theorem padded_length (l : List W32) : (padded l).length = 68 := by
  rw [padded, List.length_append, List.length_take, List.length_replicate]
  omega

theorem padded_getD (l : List W32) {i : Nat} (h : i < 68) : (padded l).getD i 0 = l.getD i 0xFF00 := by
  rw [padded, List.getD_eq_getElem?_getD, List.getD_eq_getElem?_getD]
  by_cases hs : i < l.length
  · simp [List.getElem?_append, h, hs]
  · have h2 : ¬ i < min 68 l.length := by omega
    have h3 : i - min 68 l.length < 68 - l.length := by omega
    simp [List.getElem?_append, h2, h3, hs]

/-- The map of 68 entries that phase 2 makes of a list (log 77). -/
def Part.appliedMap (p : Part) (l : List W32) : List W32 := p.applyHoist (padded l) 0 0 []

theorem appliedMap_spec (p : Part) (l : List W32) : (p.appliedMap l).length = 68
    ∧ ∀ i, i < 68 → (p.appliedMap l).getD i 0 = p.entryOf i (l.getD i 0xFF00) (enabledBelow (p.appliedMap l) i) := by
  obtain ⟨hl, hi⟩ := applyHoist_getD p (padded l) []
  rw [List.length_nil, padded_length] at hl
  refine ⟨hl, fun i h => ?_⟩
  have e := hi i (Nat.zero_le _) (by rw [List.length_nil, padded_length]; omega)
  rw [List.length_nil, Nat.sub_zero, padded_getD l h] at e
  exact e

/-! ### Counting the enabled helms -/

/-- The entry of an index is enabled. -/
def enabledAt (a : List W32) (j : Nat) : Bool := tst (a.getD j 0) 31

/-- How many enabled helms lie below an index, and how many of them in its tower. -/
def countBelow (a : List W32) (i : Nat) : Nat := (List.range i).countP (enabledAt a)
def countBeside (a : List W32) (t i : Nat) : Nat := (List.range i).countP fun j => decide (j / 17 = t) && enabledAt a j

theorem countBelow_succ (a : List W32) (i : Nat) : countBelow a (i + 1) = countBelow a i + natOf (enabledAt a i) := by
  unfold countBelow natOf
  rw [List.range_succ, List.countP_append, List.countP_singleton]

theorem countBeside_succ (a : List W32) (t i : Nat) :
    countBeside a t (i + 1) = countBeside a t i + natOf (decide (i / 17 = t) && enabledAt a i) := by
  unfold countBeside natOf
  rw [List.range_succ, List.countP_append, List.countP_singleton]

/-- No helm of a tower lies below its first index. -/
theorem countBeside_eq_zero (a : List W32) {t i : Nat} (h : i ≤ 17 * t) : countBeside a t i = 0 := by
  refine List.countP_eq_zero.mpr fun j hj => ?_
  have := List.mem_range.mp hj
  have : ¬ j / 17 = t := by omega
  simp [this]

theorem enabledBelow_length (a : List W32) (i : Nat) : (enabledBelow a i).length = countBelow a i := by
  rw [enabledBelow, List.length_map, countBelow, List.countP_eq_length_filter]
  rfl

theorem enabledBelow_beside (a : List W32) (t i : Nat) :
    ((enabledBelow a i).filter fun x => x.1 / 17 == t).length = countBeside a t i := by
  rw [enabledBelow, List.filter_map, List.length_map, List.filter_filter, countBeside, List.countP_eq_length_filter]
  rfl

/-- With at most 16 helms of a tower, each enabled helm has at most 16 of every lower tower below it. -/
theorem countBelow_le {a : List W32} (h : ∀ j, j < 68 → enabledAt a j = true → countBeside a (j / 17) j < 16) {i : Nat}
    (hi : i ≤ 68) : countBelow a i ≤ 16 * (i / 17) + countBeside a (i / 17) i ∧ countBeside a (i / 17) i ≤ 16 := by
  induction i with
  | zero => exact ⟨Nat.zero_le _, Nat.zero_le _⟩
  | succ i ih =>
    obtain ⟨h1, h2⟩ := ih (by omega)
    have hs : countBeside a (i / 17) i + natOf (enabledAt a i) ≤ 16 := by
      cases e : enabledAt a i
      · exact h2
      · have := h i (by omega) e
        simp only [natOf, if_true]; omega
    rw [countBelow_succ]
    by_cases ht : (i + 1) / 17 = i / 17
    · rw [ht, countBeside_succ, decide_eq_true rfl, Bool.true_and]
      omega
    · rw [countBeside_eq_zero a (show i + 1 ≤ 17 * ((i + 1) / 17) by omega)]
      omega

/-- Core numbers rise with the index. -/
theorem countBelow_lt (a : List W32) {j i : Nat} (h : j < i) (he : enabledAt a j = true) : countBelow a j < countBelow a i := by
  have hs : countBelow a (j + 1) = countBelow a j + 1 := by rw [countBelow_succ, he]; rfl
  have hm : countBelow a (j + 1) ≤ countBelow a i := List.Sublist.countP_le (List.range_sublist.mpr (by omega))
  omega

end Sys2Proof.Machine

namespace Sys2Proof.Machine

/-! ### Halves in reach and not taken -/

theorem slabOf_eq_some {i : Nat} {e : W32} {at_ k : Nat} :
    slabOf i e at_ = some k ↔ fld e at_ 2 ≠ 3 ∧ i % 17 + fld e at_ 2 = k := by
  unfold slabOf
  split
  · next h => simp [h]
  · next h => simp [h]

/-- A half that the helm of an index may bind (R10, R213). -/
def Part.halfFree (p : Part) (i : Nat) (e : W32) (lower : List (Nat × W32)) (at_ : Nat) (up : Bool) : Prop :=
  fld e at_ 2 ≠ 3 ∧ i % 17 + fld e at_ 2 ≤ 17 ∧ (i / 17, i % 17 + fld e at_ 2, up) ∉ p.dead
    ∧ ∀ x ∈ lower, x.1 / 17 = i / 17 → tst x.2 31 = true → slabOf x.1 x.2 at_ ≠ some (i % 17 + fld e at_ 2)

theorem appliedEntry_iff (p : Part) (i : Nat) (e : W32) (lower : List (Nat × W32)) :
    p.appliedEntry i e lower = true ↔
      tst e 31 = true ∧ i ∉ p.deadHelms ∧ p.halfFree i e lower atL0 false ∧ p.halfFree i e lower atU0 true := by
  have free : ∀ (at_ : Nat) (up : Bool), (match slabOf i e at_ with
      | some k => inReach i k && !(p.dead.any fun d => d == (i / 17, k, up))
          && !lower.any fun x => x.1 / 17 == i / 17 && tst x.2 31 && slabOf x.1 x.2 at_ == some k
      | none => false) = true ↔ p.halfFree i e lower at_ up := fun at_ up => by
    have hf : fld e at_ 2 < 4 := fld_lt e at_ 2
    unfold Part.halfFree
    cases h : slabOf i e at_ with
    | none =>
      have h3 : fld e at_ 2 = 3 := by
        by_contra hn
        rw [slabOf, if_neg hn] at h
        cases h
      simp [h3]
    | some k =>
      obtain ⟨h3, rfl⟩ := slabOf_eq_some.mp h
      have hr : inReach i (i % 17 + fld e at_ 2) = true ↔ i % 17 + fld e at_ 2 ≤ 17 := by
        simp only [inReach, Bool.and_eq_true, decide_eq_true_eq]; omega
      simp only [Bool.and_eq_true, hr, h3, ne_eq, not_false_eq_true, true_and, and_assoc, Bool.not_eq_true',
        List.any_eq_false, beq_iff_eq, not_and]
      refine and_congr_right fun _ => and_congr_left fun _ => ⟨fun h hm => h _ hm rfl, fun h x hx e => h (e ▸ hx)⟩
  simp only [Part.appliedEntry, Bool.and_eq_true, and_assoc, Bool.not_eq_true']
  rw [← Bool.not_eq_true, hasNat, List.any_eq_true]
  refine and_congr_right fun _ => and_congr ?_ (and_congr (free atL0 false) (free atU0 true))
  simp

/-! ### What an applied map holds -/

section Applied
variable (p : Part) (l : List W32)

/-- The entry of an enabled helm of the applied map, and why it is enabled. -/
theorem appliedMap_enabled {i : Nat} (h : i < 68) (he : enabledAt (p.appliedMap l) i = true) :
    p.enables i (l.getD i 0xFF00) (enabledBelow (p.appliedMap l) i) = true
      ∧ (p.appliedMap l).getD i 0 = boundEntry (l.getD i 0xFF00) (countBelow (p.appliedMap l) i) := by
  have hi := (appliedMap_spec p l).2 i h
  have hen : p.enables i (l.getD i 0xFF00) (enabledBelow (p.appliedMap l) i) = true := by
    rw [← tst_entryOf_enabled, ← hi]; exact he
  refine ⟨hen, ?_⟩
  rw [hi, Part.entryOf, hen, if_pos rfl, enabledBelow_length]

theorem enables_iff (i : Nat) (e : W32) (a : List W32) : p.enables i e (enabledBelow a i) = true ↔
    p.appliedEntry i e (enabledBelow a i) = true ∧ countBeside a (i / 17) i < 16 := by
  rw [Part.enables, Bool.and_eq_true, decide_eq_true_eq, enabledBelow_beside]

theorem appliedMap_beside {i : Nat} (h : i < 68) (he : enabledAt (p.appliedMap l) i = true) :
    countBeside (p.appliedMap l) (i / 17) i < 16 :=
  ((enables_iff p i _ _).mp (appliedMap_enabled p l h he).1).2

/-- The core number of an enabled helm is the number of those below it (R11). -/
theorem appliedMap_core {i : Nat} (h : i < 68) (he : enabledAt (p.appliedMap l) i = true) :
    fld ((p.appliedMap l).getD i 0) 18 6 = countBelow (p.appliedMap l) i := by
  have hb := countBelow_le (fun j hj hj' => appliedMap_beside p l hj hj') (le_of_lt h)
  have hs := appliedMap_beside p l h he
  rw [(appliedMap_enabled p l h he).2, fld_boundEntry_core]
  exact Nat.mod_eq_of_lt (by omega)

/-- Both halves of an enabled helm are bound, to the slabs that the entry named. -/
theorem appliedMap_slab {i at_ : Nat} (h : i < 68) (he : enabledAt (p.appliedMap l) i = true) (ha : at_ = 14 ∨ at_ = 12) :
    slabOf i ((p.appliedMap l).getD i 0) at_ = some (i % 17 + fld ((p.appliedMap l).getD i 0) at_ 2) := by
  obtain ⟨hen, hx⟩ := appliedMap_enabled p l h he
  obtain ⟨-, -, hl, hu⟩ := (appliedEntry_iff p i _ _).mp ((enables_iff p i _ _).mp hen).1
  refine slabOf_eq_some.mpr ⟨?_, rfl⟩
  rw [hx, fld_boundEntry_codes _ _ (by omega) (by omega)]
  rcases ha with rfl | rfl
  · exact hl.1
  · exact hu.1

/-- A half is free of the enabled helms below when none of its tower binds its slab. -/
theorem appliedMap_halfFree {i at_ : Nat} (h : i < 68) (ha : at_ = 14 ∨ at_ = 12) (e : W32) (up : Bool) :
    p.halfFree i e (enabledBelow (p.appliedMap l) i) at_ up ↔
      fld e at_ 2 ≠ 3 ∧ i % 17 + fld e at_ 2 ≤ 17 ∧ (i / 17, i % 17 + fld e at_ 2, up) ∉ p.dead
        ∧ ∀ j, j < i → j / 17 = i / 17 → tst ((p.appliedMap l).getD j 0) 31 = true →
          j % 17 + fld ((p.appliedMap l).getD j 0) at_ 2 ≠ i % 17 + fld e at_ 2 := by
  refine and_congr_right fun _ => and_congr_right fun _ => and_congr_right fun _ => ⟨fun hx j hj ht he => ?_, fun hx x hm ht he => ?_⟩
  · have hs := hx (j, (p.appliedMap l).getD j 0)
      (List.mem_map.mpr ⟨j, List.mem_filter.mpr ⟨List.mem_range.mpr hj, he⟩, rfl⟩) ht he
    rw [appliedMap_slab p l (by omega) he ha] at hs
    exact fun hn => hs (congrArg some hn)
  · obtain ⟨j, hj, rfl⟩ := List.mem_map.mp hm
    have hji := List.mem_range.mp (List.mem_filter.mp hj).1
    rw [appliedMap_slab p l (by omega) he ha]
    exact fun hn => hx j hji ht he (Option.some.inj hn)

end Applied

/-! ### The state of phase 2 -/

/-- The retired clusters of a core, and those with a lane out, rest on the part alone. -/
theorem State.clustersAt_of_part {s t : State} (e : t.part = s.part) : t.clustersAt = s.clustersAt := by
  cases s; cases t; cases e; rfl

/-- The retirements inside the helms of the first cores applied (R213). -/
theorem foldl_applyRetired (s : State) (n : Nat) :
    let t := (List.range n).foldl State.applyRetired s
    t.part = s.part ∧ t.harts = s.harts ∧ ∀ c, c < n →
      (t.coreAt c).retired = s.clustersAt s.part.deadClusters c ∧ (t.coreAt c).lanesOut = s.clustersAt s.part.deadLanes c
        ∧ (t.coreAt c).ccOut = hasNat s.part.deadControl c := by
  induction n with
  | zero => exact ⟨rfl, rfl, fun c h => absurd h (Nat.not_lt_zero c)⟩
  | succ n ih =>
    dsimp only at ih ⊢
    rw [List.range_succ, List.foldl_concat]
    generalize (List.range n).foldl State.applyRetired s = t at ih ⊢
    obtain ⟨hp, hh, hc⟩ := ih
    refine ⟨hp, hh, fun c h => ?_⟩
    rw [State.applyRetired, State.coreAt_modCore, State.findRetired, State.coreAt_modCore, State.clustersAt_of_part hp, hp]
    by_cases e : c = n
    · subst e
      rw [if_pos rfl, if_pos rfl]
      exact ⟨rfl, rfl, rfl⟩
    · rw [if_neg e, if_neg e]
      exact hc c (by omega)

/-- The machine with a hoist map and the retirements applied. -/
def State.withMap (s : State) (a : List W32) : State :=
  (List.range 64).foldl State.applyRetired (s.modPart fun p => { p with hoist := a, measured := a })

theorem withMap_part (s : State) (a : List W32) : (s.withMap a).part = { s.part with hoist := a, measured := a } :=
  (foldl_applyRetired _ 64).1

theorem withMap_harts (s : State) (a : List W32) : (s.withMap a).harts = s.harts := (foldl_applyRetired _ 64).2.1

theorem mem_hasNat {l : List Nat} {n : Nat} : hasNat l n = decide (n ∈ l) := by
  rw [hasNat, Bool.eq_iff_iff, List.any_eq_true, decide_eq_true_eq]
  exact ⟨fun ⟨y, hy, e⟩ => (beq_iff_eq.mp e) ▸ hy, fun h => ⟨_, h, beq_iff_eq.mpr rfl⟩⟩

/-- What is retired in the cores of a machine with a map. -/
theorem withMap_coreAt (s : State) (a : List W32) {c : Nat} (h : c < 64) :
    let t := s.modPart fun p => { p with hoist := a, measured := a }
    ((s.withMap a).coreAt c).retired = t.clustersAt s.part.deadClusters c
      ∧ ((s.withMap a).coreAt c).lanesOut = t.clustersAt s.part.deadLanes c
      ∧ ((s.withMap a).coreAt c).ccOut = decide (c ∈ s.part.deadControl) := by
  obtain ⟨h1, h2, h3⟩ := (foldl_applyRetired (s.modPart fun p => { p with hoist := a, measured := a }) 64).2.2 c h
  exact ⟨h1, h2, h3.trans mem_hasNat⟩

theorem execBringupPhase2_eq {s : State} (l : List W32) (hp : s.atPhase 2 = true) :
    exec (.bringupPhase2 l) s = .next (if (!(s.withMap (s.part.appliedMap l)).enabled 0
        || ((s.withMap (s.part.appliedMap l)).coreAt 0).ccOut) = true then s.failBringup 0x06
      else (s.withMap (s.part.appliedMap l)).toPhase 3) := by
  show execBringupPhase2 l s = _
  rw [execBringupPhase2, hp, if_neg (by simp)]
  rfl

/-- Core c is enabled by a map when an enabled entry of it has its number. -/
theorem enabled_iff_getD {s : State} (hl : s.part.hoist.length = 68) (c : Nat) : s.enabled c = true ↔
    ∃ i, i < 68 ∧ enabledAt s.part.hoist i = true ∧ fld (s.part.hoist.getD i 0) 18 6 = c := by
  rw [State.enabled, State.slot, List.findIdx?_isSome, List.any_eq_true]
  constructor
  · rintro ⟨e, he, hc⟩
    obtain ⟨i, hi, rfl⟩ := List.mem_iff_getElem.mp he
    simp only [Bool.and_eq_true, beq_iff_eq] at hc
    have hg : s.part.hoist.getD i 0 = s.part.hoist[i] := by rw [List.getD_eq_getElem?_getD, List.getElem?_eq_getElem hi]; rfl
    exact ⟨i, hl ▸ hi, by rw [enabledAt, hg]; exact hc.1, by rw [hg]; exact hc.2⟩
  · rintro ⟨i, hi, he, hc⟩
    have hi' : i < s.part.hoist.length := by rw [hl]; exact hi
    have hg : s.part.hoist.getD i 0 = s.part.hoist[i] := by rw [List.getD_eq_getElem?_getD, List.getElem?_eq_getElem hi']; rfl
    rw [enabledAt, hg] at he
    rw [hg] at hc
    exact ⟨_, List.getElem_mem hi', by simp [he, hc]⟩

/-- The helm of an enabled entry of the applied map is that of its core number. -/
theorem slot_appliedMap {s t : State} (l : List W32) (hm : t.part.hoist = s.part.appliedMap l) {i : Nat} (h : i < 68)
    (he : enabledAt (s.part.appliedMap l) i = true) : t.slot (fld ((s.part.appliedMap l).getD i 0) 18 6) = some i := by
  have hl := (appliedMap_spec s.part l).1
  have hg : ∀ j (hj : j < (s.part.appliedMap l).length), (s.part.appliedMap l)[j] = (s.part.appliedMap l).getD j 0 :=
    fun j hj => by rw [List.getD_eq_getElem?_getD, List.getElem?_eq_getElem hj]; rfl
  rw [State.slot, hm, List.findIdx?_eq_some_iff_getElem]
  refine ⟨by omega, ?_, fun j hj => ?_⟩
  · rw [hg i (by omega)]
    exact Bool.and_eq_true_iff.mpr ⟨he, beq_iff_eq.mpr rfl⟩
  · rw [hg j (by omega), appliedMap_core s.part l h he]
    intro hc
    simp only [Bool.and_eq_true, beq_iff_eq] at hc
    obtain ⟨hj31, hjc⟩ := hc
    rw [appliedMap_core s.part l (by omega) hj31] at hjc
    exact absurd hjc (Nat.ne_of_lt (countBelow_lt _ hj hj31))

/-- The place of each cluster of an enabled helm without a gang: 0-3 in its lower slab, 4-7 in its upper one. -/
theorem placeOf_own {s : State} {c i x : Nat} (hs : s.slot c = some i) (hx : x < 8)
    (hb : ∀ at_, at_ = 14 ∨ at_ = 12 → slabOf i (s.hoistAt i) at_ = some (i % 17 + fld (s.hoistAt i) at_ 2)) :
    s.placeOf c x =
      some (i / 17, i % 17 + fld (s.hoistAt i) (if x < 4 then 14 else 12) 2, decide (4 ≤ x), x % 4) := by
  rw [State.placeOf, hs, Option.bind_some]
  by_cases h : x < 4
  · rw [show x / 4 = 0 by omega, show atL0 - 2 * 0 = 14 by rfl, hb 14 (.inl rfl), if_pos h, decide_eq_false (by omega)]
    rfl
  · rw [show x / 4 = 1 by omega, show atL0 - 2 * 1 = 12 by rfl, hb 12 (.inr rfl), if_neg h, decide_eq_true (by omega)]
    rfl

/-- The clusters of such a helm whose places are in a list. -/
theorem mem_clustersAt_own {s : State} {c i : Nat} (q : List (Nat × Nat × Bool × Nat)) (hs : s.slot c = some i)
    (hb : ∀ at_, at_ = 14 ∨ at_ = 12 → slabOf i (s.hoistAt i) at_ = some (i % 17 + fld (s.hoistAt i) at_ 2))
    (h29 : tst (s.hoistAt i) 29 = false) (h30 : tst (s.hoistAt i) 30 = false) (x : Nat) :
    x ∈ s.clustersAt q c ↔
      x < 8 ∧ (i / 17, i % 17 + fld (s.hoistAt i) (if x < 4 then 14 else 12) 2, decide (4 ≤ x), x % 4) ∈ q := by
  have hd : s.dark c = false := by rw [State.dark, State.hoistBit, hs]; exact h29
  have hg : s.ganged c = false := by rw [State.ganged, State.hoistBit, hs]; exact h30
  rw [State.clustersAt, hd, hg, List.mem_filter]
  simp only [Bool.false_eq_true, if_false, List.mem_range]
  refine and_congr_right fun hx => ?_
  rw [placeOf_own hs hx hb, List.any_eq_true]
  exact ⟨fun ⟨y, hy, e⟩ => (beq_iff_eq.mp e) ▸ hy, fun h => ⟨_, h, beq_iff_eq.mpr rfl⟩⟩

theorem take_eq_map_getD (a : List W32) {i : Nat} (h : i ≤ a.length) :
    a.take i = (List.range i).map fun j => a.getD j 0 := by
  refine List.ext_getElem (by simp [h]) fun j h1 h2 => ?_
  have hj : j < a.length := by simp at h1; omega
  simp [List.getD_eq_getElem?_getD, List.getElem?_eq_getElem hj]

end Sys2Proof.Machine

namespace Sys2Proof.Claims
open Sys2Proof.Machine

/-- The applied map is as R10-R12 and R213 say, entry by entry. -/
theorem appliedMap_entry (p : Part) (l : List W32) {i : Nat} (h : i < 68) :
    let a := p.appliedMap l
    let x := a.getD i 0
    let y := l.getD i 0xFF00
    let slab (e : W32) (j lo : Nat) : Nat := j % 17 + fld e lo 2
    let free (lo : Nat) (up : Bool) : Prop := fld y lo 2 ≠ 3 ∧ slab y i lo ≤ 17 ∧ (i / 17, slab y i lo, up) ∉ p.dead
      ∧ ∀ j, j < i → j / 17 = i / 17 → tst (a.getD j 0) 31 = true → slab (a.getD j 0) j lo ≠ slab y i lo
    let below := ((a.take i).filter fun e => tst e 31).length
    let beside := ((List.range i).filter fun j => decide (j / 17 = i / 17) && tst (a.getD j 0) 31).length
    (tst x 31 = true ↔ tst y 31 = true ∧ i ∉ p.deadHelms ∧ free 14 false ∧ free 12 true ∧ beside < 16)
      ∧ (tst x 31 = true → fld x 18 6 = below ∧ fld x 12 4 = fld y 12 4)
      ∧ tst x 30 = false ∧ tst x 29 = false ∧ fld x 8 4 = 15 := by
  obtain ⟨hl, hi⟩ := appliedMap_spec p l
  intro a x y slab free below beside
  have hx : x = p.entryOf i y (enabledBelow a i) := hi i h
  have hbeside : beside = countBeside a (i / 17) i := (List.countP_eq_length_filter ..).symm
  have hbelow : below = countBelow a i := by
    show ((a.take i).filter fun e => tst e 31).length = _
    rw [take_eq_map_getD a (le_of_le_of_eq (le_of_lt h) hl.symm), List.filter_map, List.length_map, countBelow, List.countP_eq_length_filter]
    rfl
  refine ⟨?_, fun he => ⟨?_, ?_⟩, ?_⟩
  · rw [hx, tst_entryOf_enabled, enables_iff, appliedEntry_iff, atL0, atU0, appliedMap_halfFree p l h (.inl rfl),
      appliedMap_halfFree p l h (.inr rfl), hbeside]
    simp only [and_assoc, free, slab, a]
  · rw [hbelow]; exact appliedMap_core p l h he
  · rw [show x = boundEntry y (countBelow a i) from (appliedMap_enabled p l h he).2, fld_boundEntry_codes _ _ (by omega) (by omega)]
  · rw [hx]; exact entryOf_no_gang p i y _

/-- Phase 2 with its map: held where core 0 or its control core cannot be formed, else the map is in force and every core has
the retirements of its helm. -/
theorem bringupPhase2_spec (s : State) (l : List W32) (hp : s.atPhase 2 = true) :
    let a := s.part.appliedMap l
    ∃ t, exec (.bringupPhase2 l) s = .next t ∧ t.harts = s.harts ∧ (∀ k, t.byteAt k = s.byteAt k)
      ∧ let formed : Prop := (∃ i, i < 68 ∧ tst (a.getD i 0) 31 = true ∧ fld (a.getD i 0) 18 6 = 0) ∧ 0 ∉ s.part.deadControl
        (¬ formed → Held s t 2 6)
        ∧ (formed → fld t.part.kbist 59 3 = 3 ∧ tst t.part.kbist 62 = false ∧ t.part.hoist = a ∧ t.part.measured = a
          ∧ fld t.kid 45 7 = (a.filter fun e => tst e 31).length
          ∧ ∀ i, i < 68 → tst (a.getD i 0) 31 = true →
            let c := fld (a.getD i 0) 18 6
            let place (x : Nat) : Nat × Nat × Bool × Nat :=
              (i / 17, i % 17 + fld (a.getD i 0) (if x < 4 then 14 else 12) 2, decide (4 ≤ x), x % 4)
            t.slot c = some i ∧ (t.coreAt c).ccOut = decide (c ∈ s.part.deadControl)
            ∧ (∀ x, x ∈ (t.coreAt c).retired ↔ x < 8 ∧ place x ∈ s.part.deadClusters)
            ∧ ∀ x, x ∈ (t.coreAt c).lanesOut ↔ x < 8 ∧ place x ∈ s.part.deadLanes) := by
  intro a
  obtain ⟨hl, -⟩ := appliedMap_spec s.part l
  have hbase : (s.modPart fun p => { p with hoist := a, measured := a }).part.hoist = a := rfl
  have hpart := withMap_part s a
  have hharts := withMap_harts s a
  have hcore := fun c => withMap_coreAt s a (c := c)
  dsimp only at hcore
  rw [execBringupPhase2_eq l hp]
  generalize s.withMap (s.part.appliedMap l) = t at hpart hharts hcore ⊢
  generalize (s.modPart fun p => { p with hoist := a, measured := a }) = b at hbase hcore
  have hm : t.part.hoist = a := by rw [hpart]
  have hformed : (!t.enabled 0 || (t.coreAt 0).ccOut) = true ↔
      ¬ ((∃ i, i < 68 ∧ tst (a.getD i 0) 31 = true ∧ fld (a.getD i 0) 18 6 = 0) ∧ 0 ∉ s.part.deadControl) := by
    have h1 := enabled_iff_getD (s := t) (by rw [hm]; exact hl) 0
    rw [hm] at h1
    rw [Bool.or_eq_true, Bool.not_eq_true', ← Bool.not_eq_true, h1, (hcore 0 (by omega)).2.2, decide_eq_true_eq,
      not_and_or, not_not]
    rfl
  by_cases hn : (!t.enabled 0 || (t.coreAt 0).ccOut) = true
  · rw [if_pos hn]
    exact ⟨_, rfl, rfl, fun _ => rfl, fun _ => held_failBringup hp (by omega), fun h => absurd h (hformed.mp hn)⟩
  rw [if_neg hn]
  have hslot {i : Nat} (hi : i < 68) (he : tst (a.getD i 0) 31 = true) {u : State} (hu : u.part.hoist = a) :
      u.slot (fld (a.getD i 0) 18 6) = some i := slot_appliedMap l hu hi he
  refine ⟨_, rfl, hharts, fun k => ?_, fun h => absurd (hformed.mpr h) hn, fun _ => ⟨fld_phaseBist _ 3,
    tst_phaseBist _ 3 (.inr (by omega)), hm, ?_, ?_, fun i hi he => ?_⟩⟩
  · show Sparse.read 0 t.part.mem k = _
    rw [hpart]; rfl
  · show t.part.measured = a
    rw [hpart]
  · have hc : (a.filter fun e => tst e 31).length ≤ 68 := hl ▸ List.length_filter_le _ _
    rw [State.kid_cores, State.coresEnabled, show (t.toPhase 3).part.hoist = a from hm]
    exact Nat.mod_eq_of_lt (by omega)
  · obtain ⟨h1, h2, h3⟩ := hcore _ (fld_lt (a.getD i 0) 18 6)
    obtain ⟨h30, h29, -⟩ := (appliedMap_entry s.part l hi).2.2
    have hs := hslot hi he hbase
    have hi0 : b.hoistAt i = a.getD i 0 := by rw [State.hoistAt, hbase]
    have hb : ∀ at_, at_ = 14 ∨ at_ = 12 → slabOf i (b.hoistAt i) at_ = some (i % 17 + fld (b.hoistAt i) at_ 2) :=
      fun at_ ha => by rw [hi0]; exact appliedMap_slab s.part l hi he ha
    have h29' : tst (b.hoistAt i) 29 = false := by rw [hi0]; exact h29
    have h30' : tst (b.hoistAt i) 30 = false := by rw [hi0]; exact h30
    refine ⟨hslot hi he hm, h3, fun x => ?_, fun x => ?_⟩
    · show x ∈ (t.coreAt _).retired ↔ _
      rw [h1, mem_clustersAt_own _ hs hb h29' h30' x, hi0]
    · show x ∈ (t.coreAt _).lanesOut ↔ _
      rw [h2, mem_clustersAt_own _ hs hb h29' h30' x, hi0]

/-- Settles O58, phase by phase; phase 2 from what an applied map holds, entry by entry. -/
theorem bringUp : Obligations.BringUp := by
  unfold Obligations.BringUp
  refine ⟨fun s ok hc h => powerGood_fresh s ok hc h, fun s ok hc => ?_,
    fun s code strap hl routes hp hn => bringupPhase1_spec s code strap hl routes hp hn, fun s l hp => ?_,
    fun s serial validity nonce hp => ?_, fun s hp => bringupPhase4_spec s hp, fun s hp => ⟨fun h => ?_, fun h => ?_, ?_⟩,
    fun s => ⟨?_, fun h => ?_⟩, fun s r thr hr h1 h8 hn => ratioChange_spec s r thr hr h1 h8 hn⟩
  · show execPowerGood ok s = _
    rw [execPowerGood, hc, if_pos rfl]
  · exact ⟨s.part.appliedMap l, (appliedMap_spec s.part l).1, fun i hi => appliedMap_entry s.part l hi,
      bringupPhase2_spec s l hp⟩
  · have h := bringupPhase3_spec s serial validity nonce hp
    simp only [rsaOk_iff, slhOk_iff] at h
    exact h
  · refine ⟨s.fromPhase0, ?_, fresh_self s, tst_phaseBist _ 0 (.inr (by omega)), fld_phaseBist _ 0⟩
    show execManagementReset s = _
    rw [execManagementReset, hp, h]; rfl
  · show execManagementReset s = _
    rw [execManagementReset, hp, h]; rfl
  · refine ⟨{ s.powerDown with part := { s.powerDown.part with cut := true } }, ?_, rfl, rfl, rfl⟩
    show execThermalCutoff s = _
    rw [execThermalCutoff, hp, if_pos rfl]
  · exact ⟨s.powerDown, rfl, rfl, fun _ => rfl, fun _ => rfl, rfl, rfl, rfl, rfl, rfl, rfl, rfl, rfl⟩
  · refine ⟨s.fromPhase0, ?_, fresh_self s, fld_phaseBist _ 0, tst_phaseBist _ 0 (.inr (by omega))⟩
    show execCooledRestart s = _
    rw [execCooledRestart, h, if_pos rfl]

end Sys2Proof.Claims

/-! PROOFS. Rencon: transactions to other nodes, their acknowledgement and their end (R15, R173, R217-R219). -/

namespace Sys2Proof.Machine

/-! ### A transaction leaves -/

theorem isLocal_of_remote {s : State} {pa n : Nat} (h : s.paKind pa = .remote n) : s.isLocal pa = false := by
  by_contra hl
  rw [Bool.not_eq_false] at hl
  have hk : (s.paKind pa).isRemote = false := by
    rw [State.paKind, hl, if_pos rfl]
    dsimp only
    split_ifs <;> rfl
  rw [h] at hk
  cases hk

theorem performAs_nextTid {s : State} {pa n : Nat} (hk : s.paKind pa = .remote n) (h : Nat) (a : Asker) (addr : Word) (st : Bool)
    (bs : List Byte) (woken : Nat → Bool) :
    (s.performAs h a addr st pa bs woken).part.nextTid = s.part.nextTid + 1 := by
  rw [State.performAs_part, hk, if_neg (by simp), isLocal_of_remote hk, Bool.false_and, if_neg Bool.false_ne_true]
  rfl

/-! ### What a transaction that ends does to the hart that asked -/

theorem waitsRemote_iff (c : VCtx) : c.waitsRemote = true ↔ ∃ b, c.waiting = some (.remote b) := by
  rw [VCtx.waitsRemote, Bool.or_eq_true, beq_iff_eq, beq_iff_eq]
  exact ⟨fun h => h.elim (fun h => ⟨_, h⟩) fun h => ⟨_, h⟩, fun ⟨b, h⟩ => by cases b <;> simp [h]⟩

theorem frozen_iff (s : State) (x : Transaction) : s.frozen x = true ↔
    x.write = false ∧ tst (s.coreAt (coreOf x.hart)).kbecalm 63 = true ∧ x.asker ≠ .outside ∧ ∀ c k, x.asker ≠ .chunk c k := by
  rw [State.frozen, Bool.and_eq_true, Bool.and_eq_true, Bool.not_eq_true', State.isBecalmed, and_assoc]
  cases x.asker <;> simp

/-- From s to t only hart h changes, as P says. -/
def Alters (s t : State) (h : Nat) (P : Hart → Prop) : Prop :=
  t.part = s.part ∧ t.cores = s.cores ∧ (∀ j, j ≠ h → t.hartAt j = s.hartAt j) ∧ P (t.hartAt h)

theorem alters_refl {s : State} {h : Nat} {P : Hart → Prop} (p : P (s.hartAt h)) : Alters s s h P := ⟨rfl, rfl, fun _ _ => rfl, p⟩

theorem alters_modHart {s : State} {h : Nat} {f : Hart → Hart} {P : Hart → Prop} (p : P (f (s.hartAt h))) :
    Alters s (s.modHart h f) h P :=
  ⟨rfl, rfl, fun _ hj => State.hartAt_modHart_ne _ _ hj, by rw [State.hartAt_modHart_self]; exact p⟩

theorem Alters.modHart {s t : State} {h : Nat} {f : Hart → Hart} {P Q : Hart → Prop} (a : Alters s t h Q)
    (p : ∀ v, Q v → P (f v)) : Alters s (t.modHart h f) h P := by
  obtain ⟨hp, hc, hj, hq⟩ := a
  exact ⟨hp, hc, fun j n => (State.hartAt_modHart_ne _ _ n).trans (hj j n), by rw [State.hartAt_modHart_self]; exact p _ hq⟩

theorem alters_writeLost {s : State} {h : Nat} (pa : Nat) (hv : (s.hartAt h).live = true) :
    Alters s (s.writeLost h pa) h fun u => Claims.Checked (s.hartAt h) u 7 pa 0 := by
  obtain ⟨hc, hj⟩ := State.checked_writeLost s h pa hv
  refine ⟨?_, ?_, hj, hc⟩
  · rw [State.writeLost, if_pos hv]; rfl
  · rw [State.writeLost, if_pos hv]; rfl

theorem fld_ofNat_low (n sub : Nat) : fld (BitVec.ofNat 64 (n * 256 + sub)) 0 8 = sub % 256 := by
  simp only [fld, BitVec.toNat_ofNat, Nat.shiftRight_zero]
  omega

/-- A hart whose block has met a vector fault with a subcode and a ktval (R56). -/
def VecFaulted (sub : Nat) (a : Word) (u : Hart) : Prop :=
  fld u.kvfault 0 8 = sub % 256 ∧ u.ctx.stopped = true ∧ u.vfPend = true ∧ u.vfTval = a

theorem alters_vfault (s : State) (h sub : Nat) (a : Word) (b : Bool) : Alters s (s.vfault h sub a b) h (VecFaulted sub a) := by
  have e : ∀ p o : Nat, fld (BitVec.ofNat 64 (p * 2 ^ 32 + o * 256 + sub)) 0 8 = sub % 256 := fun p o => by
    rw [show p * 2 ^ 32 + o * 256 + sub = (p * 2 ^ 24 + o) * 256 + sub by omega]
    exact fld_ofNat_low _ _
  exact alters_modHart ⟨e _ _, rfl, rfl, rfl⟩

/-- A word whose fetch is unreachable faults (log 104). -/
theorem alters_stopFetch (s : State) (h sub : Nat) (a : Word) :
    Alters s ((s.modCtx h VCtx.unissue).stopWord h (.fault sub a)) h (VecFaulted sub a) := by
  obtain ⟨hp, hc, hj, hq⟩ := alters_vfault (s.modCtx h VCtx.unissue) h sub a ((s.modCtx h VCtx.unissue).hartAt h).ctx.gathers
  exact Alters.modHart (Q := VecFaulted sub a) ⟨hp, hc, fun j n => (hj j n).trans (State.hartAt_modCtx_ne _ _ n), hq⟩
    fun _ hv => hv

/-! ### A transaction becomes unreachable -/

section Unreachable
variable {s : State} {x : Transaction}

theorem unreachable_dead (hv : (s.hartAt x.hart).live = false) : s.unreachable x = s.dropTrans x.id := by
  simp [State.unreachable, hv]

section Live
variable (hv : (s.hartAt x.hart).live = true)
include hv

theorem unreachable_scalar (ha : x.asker = .scalar) : s.unreachable x =
    if x.write then (s.dropTrans x.id).writeLost x.hart x.pa
    else if (s.hartAt x.hart).wait = some .remote then
      (s.dropTrans x.id).takeTrap x.hart 0x07 (s.hartAt x.hart).pc x.addr
    else s.dropTrans x.id := by
  simp [State.unreachable, hv, ha]

theorem unreachable_vector (ha : x.asker = .vector) : s.unreachable x =
    if x.write then (s.dropTrans x.id).writeLost x.hart x.pa
    else if (s.hartAt x.hart).ctx.waitsRemote then (s.dropTrans x.id).vectorUnreachable x.hart x
    else s.dropTrans x.id := by
  simp [State.unreachable, hv, ha]

theorem unreachable_fetch (ha : x.asker = .fetch) : s.unreachable x =
    if (s.hartAt x.hart).wait = some .fetch then
      (s.dropTrans x.id).takeTrap x.hart 0x07 (s.hartAt x.hart).pc x.addr
    else s.dropTrans x.id := by
  simp [State.unreachable, hv, ha]

theorem unreachable_vfetch (ha : x.asker = .vfetch) : s.unreachable x =
    if (s.hartAt x.hart).ctx.waiting = some .fetch then
      ((s.dropTrans x.id).modCtx x.hart VCtx.unissue).stopWord x.hart (.fault 0x05 x.addr)
    else s.dropTrans x.id := by
  simp [State.unreachable, hv, ha]

theorem unreachable_chunk {q k : Nat} (ha : x.asker = .chunk q k) :
    s.unreachable x = (s.dropTrans x.id).loseChunk x.hart q k x := by
  simp [State.unreachable, hv, ha]

theorem unreachable_outside (ha : x.asker = .outside) : s.unreachable x = s.dropTrans x.id := by
  simp [State.unreachable, hv, ha]

end Live
end Unreachable

/-! ### Chunks -/

/-- A hart with a chunk of one of its copies replaced. -/
def Hart.withChunk (v : Hart) (id k : Nat) (ch : Chunk) : Hart :=
  { v with ctx := { v.ctx with
      copies := v.ctx.copies.map fun y => if y.id = id then { y with chunks := Map.put y.chunks k ch } else y } }

theorem setChunk_eq (s : State) (h id k : Nat) (ch : Chunk) : s.setChunk h id k ch = s.modHart h fun v => v.withChunk id k ch := by
  simp only [State.setChunk, State.modCtx, Hart.withChunk, beq_iff_eq]

theorem find_copy_id {l : List Copy} {q : Nat} {c : Copy} (h : (l.find? fun c => c.id == q) = some c) : c.id = q :=
  by simpa using List.find?_some h

section LoseChunk
variable {s : State} {h q k : Nat} {x : Transaction}

theorem loseChunk_none (hc : ((s.hartAt h).ctx.copies.find? fun c => c.id == q) = none) :
    s.loseChunk h q k x = if x.write then s.writeLost h x.pa else s := by
  simp [State.loseChunk, hc]

theorem loseChunk_complete {c : Copy} (hc : ((s.hartAt h).ctx.copies.find? fun c => c.id == q) = some c)
    (hd : (c.chunkAt k).complete = true) : s.loseChunk h q k x = if x.write then s.writeLost h x.pa else s := by
  simp [State.loseChunk, hc, hd]

theorem loseChunk_open {c : Copy} (hc : ((s.hartAt h).ctx.copies.find? fun c => c.id == q) = some c)
    (hd : (c.chunkAt k).complete = false) : s.loseChunk h q k x = s.modHart h fun v => v.withChunk q k
      { c.chunkAt k with
        lost := !(c.chunkAt k).faulted
        unwritten := if x.write then putBit (c.chunkAt k).unwritten ((x.addr - c.dst).toNat % c.chunkBytes / 256) true
          else (c.chunkAt k).unwritten } := by
  rw [← setChunk_eq]
  simp [State.loseChunk, hc, hd]

end LoseChunk

end Sys2Proof.Machine

namespace Sys2Proof.Machine

/-! ### The data of a read come -/

/-- A hart whose vector word goes on at its next turn, its data lost or not. -/
def Hart.wordGoesOn (v : Hart) (lost : Bool) : Hart := { v with ctx := { v.ctx with answered := true, lost := lost } }

theorem answerWord_eq (s : State) (h : Nat) : s.answerWord h = s.modHart h fun v => v.wordGoesOn false := rfl

theorem loseWord_eq (s : State) (h : Nat) : s.loseWord h = s.modHart h fun v => v.wordGoesOn true := rfl

section Deliver
variable {s : State} {x : Transaction}

theorem alters_deliver_scalar (ha : x.asker = .scalar) : Alters s (s.deliver x) x.hart fun u =>
    u = if (s.hartAt x.hart).wait = some .remote then { s.hartAt x.hart with answered := true } else s.hartAt x.hart := by
  simp only [State.deliver, ha]
  split
  · exact alters_modHart rfl
  · exact alters_refl rfl

theorem alters_deliver_fetch (ha : x.asker = .fetch) : Alters s (s.deliver x) x.hart fun u =>
    u = if (s.hartAt x.hart).wait = some .fetch then { s.hartAt x.hart with answered := true } else s.hartAt x.hart := by
  simp only [State.deliver, ha]
  split
  · exact alters_modHart rfl
  · exact alters_refl rfl

theorem alters_deliver_vector (ha : x.asker = .vector) : Alters s (s.deliver x) x.hart fun u =>
    u = if (s.hartAt x.hart).ctx.waitsRemote then (s.hartAt x.hart).wordGoesOn false else s.hartAt x.hart := by
  simp only [State.deliver, ha, answerWord_eq]
  split
  · exact alters_modHart rfl
  · exact alters_refl rfl

theorem alters_deliver_vfetch (ha : x.asker = .vfetch) : Alters s (s.deliver x) x.hart fun u =>
    u = if (s.hartAt x.hart).ctx.waiting = some .fetch then (s.hartAt x.hart).wordGoesOn false else s.hartAt x.hart := by
  simp only [State.deliver, ha, answerWord_eq]
  split
  · exact alters_modHart rfl
  · exact alters_refl rfl

theorem alters_deliver_chunk {q k : Nat} {c : Copy} (ha : x.asker = .chunk q k)
    (hc : ((s.hartAt x.hart).ctx.copies.find? fun c => c.id == q) = some c) : Alters s (s.deliver x) x.hart fun u =>
    u = (s.hartAt x.hart).withChunk c.id k { c.chunkAt k with arrived := true } := by
  simp only [State.deliver, ha, hc]
  rw [setChunk_eq, find_copy_id hc]
  exact alters_modHart rfl

theorem deliver_chunk_none {q k : Nat} (ha : x.asker = .chunk q k)
    (hc : ((s.hartAt x.hart).ctx.copies.find? fun c => c.id == q) = none) : s.deliver x = s := by
  simp only [State.deliver, ha, hc]

theorem deliver_outside (ha : x.asker = .outside) : s.deliver x = s := by
  simp only [State.deliver, ha]

end Deliver

/-! ### Writes of a location in their order (R173) -/

theorem overlap_iff (s : State) (u x : Transaction) : s.overlap u x = true ↔ (u.write = true
    ∧ s.cell x.pa < s.cell u.pa + u.data.length ∧ s.cell u.pa < s.cell x.pa + x.data.length) ∧ x.write = true := by
  simp only [State.overlap, Bool.and_eq_true, decide_eq_true_eq]
  tauto

theorem behind_iff (s : State) {x : Transaction} (hw : x.write = true) : s.behind x = true ↔
    ∃ u ∈ s.part.trans, u.id < x.id ∧ u.write = true ∧ s.cell x.pa < s.cell u.pa + u.data.length
      ∧ s.cell u.pa < s.cell x.pa + x.data.length := by
  simp only [State.behind, List.any_eq_true, Bool.and_eq_true, decide_eq_true_eq, overlap_iff, hw, and_true]

theorem behind_read (s : State) {x : Transaction} (hw : x.write = false) : s.behind x = false := by
  rw [← Bool.not_eq_true]
  simp [State.behind, overlap_iff, hw]

/-- A write that lands: its bytes are in memory, and poison stays. -/
theorem land_dropTrans (s : State) (x : Transaction) (id : Nat) : let t := (s.land x).dropTrans id
    t.part.trans = (s.part.trans.filter fun y => y.id != id) ∧ t.harts = s.harts ∧ t.cores = s.cores
      ∧ (∀ k, t.poisonAt k = s.poisonAt k)
      ∧ ∀ k, t.byteAt k = if s.cell x.pa ≤ k ∧ k < s.cell x.pa + x.data.length then x.data.getD (k - s.cell x.pa) 0
          else s.byteAt k := by
  refine ⟨?_, rfl, rfl, fun _ => rfl, fun k => Part.putBytes_read s.part k _ _⟩
  show ((s.part.putBytes _ _).trans.filter _) = _
  rw [Part.putBytes_trans]

end Sys2Proof.Machine

namespace Sys2Proof.Claims
open Sys2Proof.Machine

/-! ### The end of a transaction -/

/-- A transaction is retained no more, and only the hart that asked changes, as P says. -/
def Ends (s : State) (id h : Nat) (o : Out) (P : Hart → Prop) : Prop :=
  ∃ t, o = .next t ∧ t.part = { s.part with trans := s.part.trans.filter fun y => y.id != id }
    ∧ t.cores = s.cores ∧ (∀ j, j ≠ h → t.hartAt j = s.hartAt j) ∧ P (t.hartAt h)

theorem ends_of_alters {s t : State} {id h : Nat} {P : Hart → Prop} (a : Alters (s.dropTrans id) t h P) :
    Ends s id h (.next t) P := ⟨t, rfl, a⟩

theorem ends_drop (s : State) (id h : Nat) : Ends s id h (.next (s.dropTrans id)) fun u => u = s.hartAt h :=
  ends_of_alters (alters_refl rfl)

section Unreachable
variable {s : State} {x : Transaction} (hv : (s.hartAt x.hart).live = true)
include hv

/-- A write that is lost: a machine check of its hart with SRC 7. -/
theorem ends_writeLost : Ends s x.id x.hart (.next ((s.dropTrans x.id).writeLost x.hart x.pa)) fun u =>
    Checked (s.hartAt x.hart) u 7 x.pa 0 := ends_of_alters (alters_writeLost x.pa hv)

theorem ends_scalar (ha : x.asker = .scalar) : let o : Out := .next (s.unreachable x)
    if x.write then Ends s x.id x.hart o fun u => Checked (s.hartAt x.hart) u 7 x.pa 0
    else if (s.hartAt x.hart).wait = some .remote then
      Ends s x.id x.hart o fun u => TrapOf (s.hartAt x.hart) u 0x07 (s.hartAt x.hart).pc x.addr
    else Ends s x.id x.hart o fun u => u = s.hartAt x.hart := by
  intro o
  simp only [o, unreachable_scalar hv ha]
  split_ifs
  · exact ends_writeLost hv
  · exact ends_of_alters (alters_modHart (trapOf_trap ..))
  · exact ends_drop ..

theorem ends_fetch (ha : x.asker = .fetch) : let o : Out := .next (s.unreachable x)
    if (s.hartAt x.hart).wait = some .fetch then
      Ends s x.id x.hart o fun u => TrapOf (s.hartAt x.hart) u 0x07 (s.hartAt x.hart).pc x.addr
    else Ends s x.id x.hart o fun u => u = s.hartAt x.hart := by
  intro o
  simp only [o, unreachable_fetch hv ha]
  split_ifs
  · exact ends_of_alters (alters_modHart (trapOf_trap ..))
  · exact ends_drop ..

theorem ends_vector_write (ha : x.asker = .vector) (hw : x.write = true) :
    Ends s x.id x.hart (.next (s.unreachable x)) fun u => Checked (s.hartAt x.hart) u 7 x.pa 0 := by
  rw [unreachable_vector hv ha, if_pos hw]
  exact ends_writeLost hv

/-- A vector read for which no word waits changes nothing else. -/
theorem ends_vector_unawaited (ha : x.asker = .vector) (hw : x.write = false)
    (hr : ¬ ∃ b, (s.hartAt x.hart).ctx.waiting = some (.remote b)) :
    Ends s x.id x.hart (.next (s.unreachable x)) fun u => u = s.hartAt x.hart := by
  rw [unreachable_vector hv ha, if_neg (by simp [hw]), if_neg (by rwa [waitsRemote_iff])]
  exact ends_drop ..

theorem unreachable_vector_awaited (ha : x.asker = .vector) (hw : x.write = false)
    (hr : ∃ b, (s.hartAt x.hart).ctx.waiting = some (.remote b)) :
    s.unreachable x = (s.dropTrans x.id).vectorUnreachable x.hart x := by
  rw [unreachable_vector hv ha, if_neg (by simp [hw]), if_pos (by rwa [waitsRemote_iff])]

/-- The read of a vamo: a machine check, and the vamo goes on. -/
theorem ends_vector_vamo (ha : x.asker = .vector) (hw : x.write = false)
    (hr : ∃ b, (s.hartAt x.hart).ctx.waiting = some (.remote b))
    (hi : ∃ op vd base off vi t o m, (s.hartAt x.hart).ctx.issued = some (.vamo op vd base off vi t o m)) :
    Ends s x.id x.hart (.next (s.unreachable x)) fun u =>
      ∃ w, Checked (s.hartAt x.hart) w 7 x.pa 0 ∧ u = w.wordGoesOn false := by
  obtain ⟨op, vd, base, off, vi, t, o, m, hi⟩ := hi
  have e : s.unreachable x = ((s.dropTrans x.id).writeLost x.hart x.pa).answerWord x.hart := by
    rw [unreachable_vector_awaited hv ha hw hr, State.vectorUnreachable,
      show ((s.dropTrans x.id).hartAt x.hart).ctx.issued = _ from hi]
  rw [e, answerWord_eq]
  exact ends_of_alters (Alters.modHart (alters_writeLost (s := s.dropTrans x.id) x.pa hv) fun w hw => ⟨w, hw, rfl⟩)

/-- That of another word: the word meets the fault at its next turn. -/
theorem ends_vector_lost (ha : x.asker = .vector) (hw : x.write = false)
    (hr : ∃ b, (s.hartAt x.hart).ctx.waiting = some (.remote b))
    (hi : ¬ ∃ op vd base off vi t o m, (s.hartAt x.hart).ctx.issued = some (.vamo op vd base off vi t o m)) :
    Ends s x.id x.hart (.next (s.unreachable x)) fun u => u = (s.hartAt x.hart).wordGoesOn true := by
  have e : s.unreachable x = (s.dropTrans x.id).loseWord x.hart := by
    rw [unreachable_vector_awaited hv ha hw hr, State.vectorUnreachable]
    split
    · next hi' => exact absurd ⟨_, _, _, _, _, _, _, _, hi'⟩ hi
    · rfl
  rw [e, loseWord_eq]
  exact ends_of_alters (alters_modHart rfl)

theorem ends_vfetch (ha : x.asker = .vfetch) (hw : (s.hartAt x.hart).ctx.waiting = some .fetch) :
    Ends s x.id x.hart (.next (s.unreachable x)) (VecFaulted 0x05 x.addr) := by
  rw [unreachable_vfetch hv ha, if_pos hw]
  exact ends_of_alters (alters_stopFetch ..)

theorem ends_vfetch_unawaited (ha : x.asker = .vfetch) (hw : (s.hartAt x.hart).ctx.waiting ≠ some .fetch) :
    Ends s x.id x.hart (.next (s.unreachable x)) fun u => u = s.hartAt x.hart := by
  rw [unreachable_vfetch hv ha, if_neg hw]
  exact ends_drop ..

/-- A transaction of a chunk that is complete, or of a copy that is none any more. -/
theorem ends_chunk_done {q k : Nat} (ha : x.asker = .chunk q k)
    (hc : ∀ c, ((s.hartAt x.hart).ctx.copies.find? fun c => c.id == q) = some c → (c.chunkAt k).complete = true) :
    Ends s x.id x.hart (.next (s.unreachable x)) fun u =>
      if x.write then Checked (s.hartAt x.hart) u 7 x.pa 0 else u = s.hartAt x.hart := by
  have e : s.unreachable x =
      if x.write then (s.dropTrans x.id).writeLost x.hart x.pa else s.dropTrans x.id := by
    rw [unreachable_chunk hv ha]
    cases hf : ((s.hartAt x.hart).ctx.copies.find? fun c => c.id == q) with
    | none => exact loseChunk_none hf
    | some c => exact loseChunk_complete hf (hc c hf)
  rw [e]
  split_ifs
  · exact ends_writeLost hv
  · exact ends_drop ..

theorem ends_chunk_open {q k : Nat} {c : Copy} (ha : x.asker = .chunk q k)
    (hc : ((s.hartAt x.hart).ctx.copies.find? fun c => c.id == q) = some c) (hd : (c.chunkAt k).complete = false) :
    Ends s x.id x.hart (.next (s.unreachable x)) fun u => u = (s.hartAt x.hart).withChunk c.id k
      { c.chunkAt k with
        lost := !(c.chunkAt k).faulted
        unwritten := if x.write then putBit (c.chunkAt k).unwritten ((x.addr - c.dst).toNat % c.chunkBytes / 256) true
          else (c.chunkAt k).unwritten } := by
  rw [unreachable_chunk hv ha, loseChunk_open (s := s.dropTrans x.id) hc hd, find_copy_id hc]
  exact ends_of_alters (alters_modHart rfl)

end Unreachable

/-! ### Retransmission and acknowledgement -/

section Events
variable {s : State} {id : Nat}

theorem exec_retransmit_none (h : s.trans id = none) : exec (.renconRetransmit id) s = .next s := by
  show execRenconRetransmit id s = _
  rw [execRenconRetransmit, h]

theorem exec_ack_none (h : s.trans id = none) : exec (.renconAcknowledgement id) s = .next s := by
  show execRenconAcknowledgement id s = _
  rw [execRenconAcknowledgement, h]

variable {x : Transaction} (h : s.trans id = some x)
include h

theorem trans_id : x.id = id := by
  have := List.find?_some h
  simp only [Bool.and_eq_true, beq_iff_eq] at this
  exact this.1

theorem exec_retransmit_again (hn : x.tries < 3) : exec (.renconRetransmit id) s = .next { s with part := { s.part with
    trans := s.part.trans.map fun (y : Transaction) => if y.id = id then { y with tries := y.tries + 1 } else y } } := by
  show execRenconRetransmit id s = _
  simp only [execRenconRetransmit, h, if_pos hn, State.modPart, beq_iff_eq]

theorem exec_retransmit_last (hn : 3 ≤ x.tries) :
    exec (.renconRetransmit id) s = .next (if s.frozen x then s else s.unreachable x) := by
  show execRenconRetransmit id s = _
  simp only [execRenconRetransmit, h]
  rw [if_neg (by omega)]

theorem exec_ack_some : exec (.renconAcknowledgement id) s =
    if (s.behind x || s.frozen x) = true then .next s
    else if x.write then .next ((s.land x).dropTrans id) else .next ((s.dropTrans id).deliver x) := by
  show execRenconAcknowledgement id s = _
  simp only [execRenconAcknowledgement, h]

end Events

end Sys2Proof.Claims

/-! PROOFS. Ports, accesses from outside, and the host link but for its loss (R17, R173, R218, R235-R238). -/

namespace Sys2Proof.Machine

theorem length_bytesOf {w : Nat} (v : BitVec w) (n : Nat) : (bytesOf v n).length = n := by simp [bytesOf]

/-! ### Ports -/

section Port
variable (s : State) (p : Nat) (f : Word → Word)

theorem modPort_portst_self : Map.get 0 (s.modPort p f).part.portst p = f (Map.get 0 s.part.portst p) := Map.get_put_self ..

theorem modPort_portst_ne {q : Nat} (h : q ≠ p) : Map.get 0 (s.modPort p f).part.portst q = Map.get 0 s.part.portst q :=
  Map.get_put_ne _ _ _ h

end Port

/-- PORTST of a port that has lost a lane. -/
def leftPort (w : Word) : Word := putFld (putBit w 63 false) 61 2 (fld w 61 2 - 1)

theorem leftPort_fields (w : Word) : tst (leftPort w) 63 = false ∧ fld (leftPort w) 61 2 = fld w 61 2 - 1 := by
  constructor
  · rw [leftPort, tst_putFld, if_neg (by omega), tst_putBit, if_pos (by omega)]
  · have h : fld w 61 2 < 4 := fld_lt w 61 2
    rw [leftPort, fld_putFld_self _ _ _ _ (by omega)]
    omega

/-- A management event changes no transaction, no port and no byte of memory. -/
theorem postMev_keeps (s : State) (reason page : Nat) : let t := s.postMev reason page
    t.part.portst = s.part.portst ∧ t.part.trans = s.part.trans ∧ Claims.SameMemory s t
      ∧ tst t.part.mev 63 = true ∧ fld t.part.mev 0 8 = reason % 256 ∧ (t.hartAt 0).mgmtPend = true := by
  obtain ⟨w, hp, hv, hr⟩ := State.postMev_part s reason page
  refine ⟨by rw [hp], by rw [hp], Claims.sameMemory_of_mem (by rw [hp]) (by rw [hp]) (by rw [hp]) fun _ => rfl, by rw [hp]; exact hv,
    by rw [hp]; exact hr, ?_⟩
  rw [State.postMev_hartAt, if_pos rfl]

end Sys2Proof.Machine

namespace Sys2Proof.Claims
open Sys2Proof.Machine

theorem sameMemory_trans {s t u : State} (h : SameMemory s t) (g : SameMemory t u) : SameMemory s u :=
  ⟨fun k => (g.1 k).trans (h.1 k), fun c k => (g.2 c k).trans (h.2 c k)⟩

theorem sameMemory_modPort (s : State) (p : Nat) (f : Word → Word) : SameMemory s (s.modPort p f) :=
  sameMemory_of_mem rfl rfl rfl fun _ => rfl

section Ports
variable (s : State) {p : Nat}

theorem exec_ports_none (h : 128 ≤ p) :
    exec (.spareLaneSwitch p) s = .next s ∧ exec (.renconPortRejoin p) s = .next s := by
  constructor
  · show execSpareLaneSwitch p s = _
    rw [execSpareLaneSwitch, if_pos h]
  · show execRenconPortRejoin p s = _
    rw [execRenconPortRejoin, if_neg (by omega)]

theorem exec_portRejoin_up (h : tst (Map.get 0 s.part.portst p) 63 = true) : exec (.renconPortRejoin p) s = .next s := by
  show execRenconPortRejoin p s = _
  rw [execRenconPortRejoin, if_neg fun hc => absurd hc.2 (by rw [h]; exact Bool.false_ne_true)]

/-- A spare lane of the group serves the port, or the port leaves the routing tables (R218). -/
theorem spareLaneSwitch_spec (h : p < 128) : ∃ t, exec (.spareLaneSwitch p) s = .next t ∧ t.part.trans = s.part.trans ∧ SameMemory s t
    ∧ (∀ q, q ≠ p → Map.get 0 t.part.portst q = Map.get 0 s.part.portst q)
    ∧ if Map.get 0 s.part.spares (p / 8) < 2 then tst (Map.get 0 t.part.portst p) 60 = true
        ∧ fld (Map.get 0 t.part.portst p) 61 3 = fld (Map.get 0 s.part.portst p) 61 3
        ∧ Map.get 0 t.part.spares (p / 8) = Map.get 0 s.part.spares (p / 8) + 1 ∧ t.harts = s.harts
      else tst (Map.get 0 t.part.portst p) 63 = false
        ∧ fld (Map.get 0 t.part.portst p) 61 2 = fld (Map.get 0 s.part.portst p) 61 2 - 1
        ∧ tst t.part.mev 63 = true ∧ fld t.part.mev 0 8 = 6 ∧ (t.hartAt 0).mgmtPend = true := by
  have e : exec (.spareLaneSwitch p) s = execSpareLaneSwitch p s := rfl
  rw [e, execSpareLaneSwitch, if_neg (by omega)]
  by_cases hs : Map.get 0 s.part.spares (p / 8) < 2
  · rw [if_pos hs]
    refine ⟨_, rfl, rfl, sameMemory_of_mem rfl rfl rfl fun _ => rfl, fun q hq => modPort_portst_ne _ p _ hq, ?_⟩
    rw [if_pos hs, modPort_portst_self]
    refine ⟨?_, fld_putBit_ne _ _ (by omega), Map.get_put_self .., rfl⟩
    rw [tst_putBit, if_pos (by omega)]
  · rw [if_neg hs]
    obtain ⟨hp, ht, hm, hv, hr, hh⟩ := postMev_keeps (s.modPort p leftPort) 6 0
    obtain ⟨h63, h61⟩ := leftPort_fields (Map.get 0 s.part.portst p)
    refine ⟨_, rfl, ht, sameMemory_trans (sameMemory_modPort s p leftPort) hm, fun q hq => ?_, ?_⟩
    · exact (congrArg (Map.get 0 · q) hp).trans (modPort_portst_ne _ p _ hq)
    · have hw := (congrArg (Map.get 0 · p) hp).trans (modPort_portst_self s p leftPort)
      rw [if_neg hs]
      exact ⟨(congrArg (tst · 63) hw).trans h63, (congrArg (fld · 61 2) hw).trans h61, hv, hr, hh⟩

theorem portRejoin_spec (h : p < 128) (hd : tst (Map.get 0 s.part.portst p) 63 = false) :
    ∃ t, exec (.renconPortRejoin p) s = .next t ∧ Map.get 0 t.part.portst p = putBit (Map.get 0 s.part.portst p) 63 true
      ∧ (∀ q, q ≠ p → Map.get 0 t.part.portst q = Map.get 0 s.part.portst q) ∧ fld t.part.mev 0 8 = 6
      ∧ (t.hartAt 0).mgmtPend = true ∧ SameMemory s t := by
  have e : exec (.renconPortRejoin p) s = execRenconPortRejoin p s := rfl
  rw [e, execRenconPortRejoin, if_pos ⟨h, by rw [hd]; rfl⟩]
  obtain ⟨hp, ht, hm, hv, hr, hh⟩ := postMev_keeps (s.modPort p fun w => putBit w 63 true) 6 0
  exact ⟨_, rfl, (congrArg (Map.get 0 · p) hp).trans (modPort_portst_self s p _),
    fun q hq => (congrArg (Map.get 0 · q) hp).trans (modPort_portst_ne _ p _ hq), hr, hh,
    sameMemory_trans (sameMemory_modPort s p _) hm⟩

end Ports

/-! ### Accesses from outside to memory (R17) -/

section Outside
variable {s : State} {a : BitVec 44}

/-- The physical address that the host and a fabric peer name. -/
theorem localPa (a : BitVec 44) : (0xFFF * 2 ^ 44 + a.toNat) / 2 ^ 44 = 0xFFF ∧ (0xFFF * 2 ^ 44 + a.toNat) % 2 ^ 44 = a.toNat := by
  have := a.isLt
  omega

theorem isLocal_localPa : s.isLocal (0xFFF * 2 ^ 44 + a.toNat) = true := by
  rw [State.isLocal, (localPa a).1]
  rfl

theorem paKind_localPa : s.paKind (0xFFF * 2 ^ 44 + a.toNat) = .hbm ↔ a.toNat < 0xC000000000 := by
  rw [State.paKind, isLocal_localPa, if_pos rfl, (localPa a).2]
  dsimp only
  split_ifs <;> simp [*]

theorem inHbm_localPa : s.inHbm (0xFFF * 2 ^ 44 + a.toNat) 8 = decide (a.toNat + 8 ≤ 0xC000000000) := by
  rw [State.inHbm, isLocal_localPa, (localPa a).2, Bool.true_and]

/-- Bytes that perform in memory for another agent than a hart's scalar thread. -/
theorem performs_performAs_local {pa : Nat} {bs : List Byte} (h : Nat) (k : Asker) (addr : Word) (w : Nat → Bool)
    (hk : s.paKind pa ≠ .hostLost) (hl : s.isLocal pa = true) (hs : s.inStorage pa = false)
    (hw : s.awaited (s.cell pa) bs.length = false) :
    Performs s (s.performAs h k addr (s.inStorage pa) pa bs w) h pa bs := by
  unfold Performs State.byteAt
  rw [State.performAs_part, if_neg hk, if_neg hk, if_pos ⟨hl, hs, hw⟩, if_pos (by simp [hl, hs, hw])]
  exact ⟨fun j => Part.putBytes_read .., Part.putBytes_trans ..⟩

section Hbm
variable (h8 : a.toNat + 8 ≤ 0xC000000000)
include h8

theorem outside_kind : s.paKind (0xFFF * 2 ^ 44 + a.toNat) = .hbm := paKind_localPa.mpr (by omega)

theorem outside_notStorage : s.inStorage (0xFFF * 2 ^ 44 + a.toNat) = false := by
  rw [State.inStorage, outside_kind h8]
  rfl

theorem outside_notAwaited (v : Word) : s.awaited (s.cell (0xFFF * 2 ^ 44 + a.toNat)) (bytesOf v 8).length = false := by
  rw [State.awaited, State.cell, isLocal_localPa, if_pos rfl, (localPa a).2, length_bytesOf, decide_eq_false (by omega), Bool.false_and]

theorem exec_fabric_hbm (hr : s.ready = true) (w : Bool) (v : Word) : exec (.fabricPeerAccess w a v) s = .next
    (if w then s.performAs s.cur .outside 0 (s.inStorage (0xFFF * 2 ^ 44 + a.toNat)) (0xFFF * 2 ^ 44 + a.toNat) (bytesOf v 8) fun _ => true
      else s.answer (s.outsideRead a.toNat)) := by
  show execFabricPeerAccess w a v s = _
  simp only [execFabricPeerAccess, hr, outside_kind h8]
  rfl

theorem exec_hostCxl_hbm (hr : s.ready = true) (hu : s.hostUp = true) (w : Bool) (v : Word) :
    exec (.hostCxlMemRequest w a v) s = .next
      (if w then s.perform s.cur (0xFFF * 2 ^ 44 + a.toNat) (bytesOf v 8) fun _ => true
        else s.answer (s.outsideRead a.toNat)) := by
  show execHostCxlMemRequest w a v s = _
  simp only [execHostCxlMemRequest, hr, hu, inHbm_localPa, h8]
  rfl

theorem outside_writes (k : Asker) (v : Word) :
    let t := s.performAs s.cur k 0 (s.inStorage (0xFFF * 2 ^ 44 + a.toNat)) (0xFFF * 2 ^ 44 + a.toNat) (bytesOf v 8) fun _ => true
    Performs s t s.cur (0xFFF * 2 ^ 44 + a.toNat) (bytesOf v 8) ∧ HartsKept s t ∧ t.cores = s.cores := by
  have hk : s.paKind (0xFFF * 2 ^ 44 + a.toNat) ≠ .hostLost := by rw [outside_kind h8]; simp
  exact ⟨performs_performAs_local _ _ _ _ hk isLocal_localPa (outside_notStorage h8) (outside_notAwaited h8 v),
    (woken_performAs _ _ _ _ _ _ _ _ hk).hartsKept, (State.performAs_frame ..).1⟩

end Hbm

/-! ### Accesses from outside to registers (R17, R234) -/

theorem exec_fabric_notReady (hr : s.ready = false) (w : Bool) (v : Word) : exec (.fabricPeerAccess w a v) s = .next s := by
  show execFabricPeerAccess w a v s = _
  simp [execFabricPeerAccess, hr]

theorem exec_hostCxl_notReady (hr : s.ready = false ∨ s.hostUp = false) (w : Bool) (v : Word) :
    exec (.hostCxlMemRequest w a v) s = .next s := by
  show execHostCxlMemRequest w a v s = _
  rcases hr with hr | hr <;> simp [execHostCxlMemRequest, hr]

theorem exec_fabric_engine (hr : s.ready = true) {off : Nat} (hk : s.paKind (0xFFF * 2 ^ 44 + a.toNat) = .engine off)
    (h8 : off % 8 = 0) (w : Bool) (v : Word) : exec (.fabricPeerAccess w a v) s =
      .next (if w then s.engineWrite 1 off v else s.answer (bytesOf (s.engineRead off) 8)) := by
  show execFabricPeerAccess w a v s = _
  simp only [execFabricPeerAccess, hr, hk, h8]
  rfl

variable {h off : Nat} (hr : s.ready = true) (hk : s.paKind (0xFFF * 2 ^ 44 + a.toNat) = .kwin h off)
include hr hk

theorem exec_fabric_kwin (w : Bool) (v : Word) : exec (.fabricPeerAccess w a v) s = .next (s.outsideKreg w h off v) := by
  show execFabricPeerAccess w a v s = _
  simp only [execFabricPeerAccess, hr, hk]
  rfl

theorem exec_hostCxl_kwin (hu : s.hostUp = true) (w : Bool) (v : Word) :
    exec (.hostCxlMemRequest w a v) s = .next (s.outsideKreg w h off v) := by
  have hb : s.inHbm (0xFFF * 2 ^ 44 + a.toNat) 8 = false := by
    rw [inHbm_localPa, decide_eq_false_iff_not]
    intro h8
    rw [outside_kind h8] at hk
    cases hk
  show execHostCxlMemRequest w a v s = _
  simp only [execHostCxlMemRequest, hr, hu, hb, hk]
  rfl

end Outside

/-! ### k-register writes from outside -/

section Post
variable {s : State} {p : Posted}

theorem post_dead (h : (s.hartAt p.hart).live = false) : s.post p = s := by
  rw [State.post, h]
  rfl

section Live
variable (h : (s.hartAt p.hart).live = true)
include h

theorem post_ok {t : State} (e : s.kwrite p.hart 1 p.sender p.stalled p.reg p.data = .ok t) : s.post p = t := by
  rw [State.post, h, e]
  rfl

theorem post_failed (e : s.kwrite p.hart 1 p.sender p.stalled p.reg p.data = .illegal
    ∨ ∃ t x, s.kwrite p.hart 1 p.sender p.stalled p.reg p.data = .exc t x) : s.post p = s := by
  rcases e with e | ⟨t, x, e⟩
  · rw [State.post, h, e]
    rfl
  · rw [State.post, h, e]
    rfl

theorem post_waits {y : Wait} {t : State} (e : s.kwrite p.hart 1 p.sender p.stalled p.reg p.data = .wait y t) : s.post p =
    { t with part := { t.part with posted := t.part.posted ++ [{ p with stalled := p.stalled || y == .kctxr }] } } := by
  rw [State.post, h, e]
  rfl

end Live

theorem outsideKreg_none {h off : Nat} (hn : off % 8 ≠ 0 ∨ off / 8 ∉ kregNumbers) (w : Bool) (v : Word) :
    s.outsideKreg w h off v = s := by
  rw [State.outsideKreg, if_pos]
  rw [mem_hasNat]
  simpa using hn

theorem outsideKreg_reg {h off : Nat} (h8 : off % 8 = 0) (hm : off / 8 ∈ kregNumbers) (w : Bool) (v : Word) :
    s.outsideKreg w h off v =
      if w then s.post { hart := h, reg := off / 8, data := v, sender := (Config.freeWord s.tick 46).toNat % 256 }
      else s.answer (bytesOf (s.kread h 1 (off / 8)) 8) := by
  rw [State.outsideKreg, if_neg]
  rw [mem_hasNat]
  simp [h8, hm]

theorem stepMove_posted (e : s.part.posted = [p]) :
    stepMove .posted s = .next (({ s.pass with part := { s.part with posted := [] } } : State).post p) := by
  show Host.Outcome.next s.pass.runPosted = _
  rw [State.runPosted, show s.pass.part.posted = [p] from e]
  rfl

end Post

/-! ### The host accepts a storage write; the link trains; the status page -/

theorem stepMove_persist {s : State} {x : Transaction} (h : (s.part.trans.find? fun y => y.storage) = some x) :
    stepMove .persist s = .next ((s.pass.land x).dropTrans x.id) := by
  show Host.Outcome.next s.pass.persist = _
  rw [State.persist, show (s.pass.part.trans.find? fun y => y.storage) = some x from h]

/-- HLST of a link that has trained. -/
def trainedHost (cxl : Bool) (w r : BitVec 3) : Word := putFld (putFld (putBit (putBit 0 63 true) 62 cxl) 59 3 w.toNat) 56 3 r.toNat

theorem trainedHost_fields (cxl : Bool) (w r : BitVec 3) : tst (trainedHost cxl w r) 63 = true ∧ tst (trainedHost cxl w r) 62 = cxl
    ∧ fld (trainedHost cxl w r) 59 3 = w.toNat ∧ fld (trainedHost cxl w r) 56 3 = r.toNat := by
  refine ⟨?_, ?_, ?_, ?_⟩
  · simp [trainedHost, tst_putFld, tst_putBit]
  · simp [trainedHost, tst_putFld, tst_putBit]
  · rw [trainedHost, fld_putFld_ne _ _ (by omega), fld_putFld_self _ _ _ _ (by omega)]
    exact Nat.mod_eq_of_lt w.isLt
  · rw [trainedHost, fld_putFld_self _ _ _ _ (by omega)]
    exact Nat.mod_eq_of_lt r.isLt

theorem hostLinkTrain_spec (s : State) (cxl : Bool) (w r : BitVec 3) :
    (s.ready = false ∨ 4 < w.toNat ∨ r = 7 → exec (.hostLinkTrain cxl w r) s = .next s)
    ∧ (s.ready = true → w.toNat ≤ 4 → r ≠ 7 →
    ∃ t, exec (.hostLinkTrain cxl w r) s = .next t ∧ tst t.part.hlst 63 = true ∧ tst t.part.hlst 62 = cxl
      ∧ fld t.part.hlst 59 3 = w.toNat ∧ fld t.part.hlst 56 3 = r.toNat ∧ t.part.hostLost = false
      ∧ tst t.part.mev 63 = true ∧ fld t.part.mev 0 8 = 3
      ∧ (t.hartAt 0).mgmtPend = true ∧ SameMemory s t) := by
  have e : exec (.hostLinkTrain cxl w r) s = execHostLinkTrain cxl w r s := rfl
  constructor
  · intro h
    rw [e, execHostLinkTrain, if_neg]
    simp only [Bool.and_eq_true, decide_eq_true_eq, bne_iff_ne]
    rintro ⟨⟨h1, h2⟩, h3⟩
    rcases h with h | h | h
    · rw [h] at h1; cases h1
    · omega
    · exact h3 h
  · intro hr hw h7
    rw [e, execHostLinkTrain, if_pos (by rw [hr, decide_eq_true hw, bne_iff_ne.mpr h7]; rfl)]
    obtain ⟨h63, h62, h59, h56⟩ := trainedHost_fields cxl w r
    obtain ⟨m, hp, hv, hm⟩ := State.postMev_part
      (s.modPart fun p => { p with hlst := trainedHost cxl w r, hostLost := false }) 3 0
    have ht := postMev_keeps (s.modPart fun p => { p with hlst := trainedHost cxl w r, hostLost := false }) 3 0
    dsimp only [State.modPart_part] at hp
    have hl := congrArg Part.hlst hp
    refine ⟨_, rfl, (congrArg (tst · 63) hl).trans h63, (congrArg (tst · 62) hl).trans h62, (congrArg (fld · 59 3) hl).trans h59,
      (congrArg (fld · 56 3) hl).trans h56, congrArg Part.hostLost hp, ht.2.2.2.1, ht.2.2.2.2.1, ht.2.2.2.2.2, ?_⟩
    exact sameMemory_trans (sameMemory_of_mem rfl rfl rfl fun _ => rfl) ht.2.2.1

theorem hostStatusRead_spec (s : State) (off : Nat) :
    let answers (w : Word) : Prop := exec (.hostStatusRead off) s = .next { s with part := { s.part with mailbox := bytesOf w 8 } }
    let reached : Prop := s.part.power = true ∧ tst s.part.hlst 63 = true
    (¬ reached → exec (.hostStatusRead off) s = .next s)
    ∧ (reached → (off = 0 → answers s.kid) ∧ (off = 8 → answers s.part.kbist)
      ∧ (off ≠ 0 → off ≠ 8 → tst s.part.kbist 63 = false → answers (BitVec.allOnes 64))
      ∧ (off ≠ 0 → off ≠ 8 → tst s.part.kbist 63 = true → ∃ w, answers w)) := by
  intro answers reached
  have e : exec (.hostStatusRead off) s = execHostStatusRead off s := rfl
  constructor
  · intro h
    rw [e, execHostStatusRead, if_pos]
    by_contra hc
    simp only [Bool.not_eq_true', Bool.not_eq_false, Bool.and_eq_true] at hc
    exact h hc
  · rintro ⟨h1, h2⟩
    have e' : exec (.hostStatusRead off) s = .next (s.answer (bytesOf (if off = 0 then s.kid
        else if off = 8 then s.part.kbist else if s.isDone then Config.freeWord s.tick off else BitVec.allOnes 64) 8)) := by
      rw [e, execHostStatusRead, if_neg (by simp [h1, h2])]
    refine ⟨fun h => ?_, fun h => ?_, fun h0 h8 hd => ?_, fun h0 h8 hd => ⟨Config.freeWord s.tick off, ?_⟩⟩
    · rw [if_pos h] at e'; exact e'
    · rw [if_neg (by omega), if_pos h] at e'; exact e'
    · rw [if_neg h0, if_neg h8, if_neg (by rw [State.isDone, hd]; exact Bool.false_ne_true)] at e'; exact e'
    · rw [if_neg h0, if_neg h8, if_pos (show s.isDone = true from hd)] at e'; exact e'

end Sys2Proof.Claims

/-! PROOFS. The loss of the host link: stores under way and storage writes (R238). -/

namespace Sys2Proof.Machine

/-! ### Maps read by key -/

section MapKeys
variable {α : Type}

theorem Map.getD_find (m : Map α) (d : α) (k : Nat) : (Map.find m k).getD d = Map.get d m k := by
  induction m with
  | nil => rfl
  | cons e m ih =>
    by_cases h : e.1 = k
    · simp [Map.find, Map.get, h]
    · simpa [Map.find, Map.get, h] using ih

/-- The entries whose keys a predicate picks. -/
theorem Map.find_filter (m : Map α) (p : Nat → Bool) (k : Nat) :
    Map.find (m.filter fun e => p e.1) k = if p k then Map.find m k else none := by
  induction m with
  | nil => simp [Map.find]
  | cons e m ih =>
    by_cases hp : p e.1 <;> by_cases hk : e.1 = k
    · subst hk; simp [Map.find, hp]
    · simpa [Map.find, hp, hk] using ih
    · subst hk; simpa [hp] using ih
    · simpa [Map.find, hp, hk] using ih

/-- A change of every entry by its key, which leaves the default alone. -/
theorem Map.get_mapKey (g : Nat → α → α) (d : α) (m : Map α) (k : Nat) (h : g k d = d) :
    Map.get d (m.map fun e => (e.1, g e.1 e.2)) k = g k (Map.get d m k) := by
  induction m with
  | nil => exact h.symm
  | cons e m ih =>
    by_cases hk : e.1 = k
    · subst hk; simp [Map.get]
    · simpa [Map.get, hk] using ih

end MapKeys

/-! ### What a lost storage write does to its hart -/

/-- A hart to which a write is lost (R219, R238). -/
def Hart.lostWrite (v : Hart) (pa : Nat) : Hart :=
  if v.live then { v with kmcheck := mcheckRecord 7 0 false pa, mcPend := some 0 } else v

theorem writeLost_hartAt (s : State) (h pa j : Nat) :
    (s.writeLost h pa).hartAt j = if j = h then (s.hartAt j).lostWrite pa else s.hartAt j := by
  rw [State.writeLost, Hart.lostWrite]
  by_cases n : j = h
  · subst n
    rw [if_pos rfl]
    split_ifs
    · exact State.hartAt_modHart_self ..
    · rfl
  · rw [if_neg n]
    split_ifs
    · exact State.hartAt_modHart_ne _ _ n
    · rfl

/-- A chunk that a transaction is for, and that is not complete. -/
def Hart.OpenChunk (v : Hart) (x : Transaction) (q k : Nat) (c : Copy) : Prop :=
  x.asker = .chunk q k ∧ (v.ctx.copies.find? fun y => y.id == q) = some c ∧ (c.chunkAt k).complete = false

/-- The chunk of a write that is lost: the sector is unwritten again, and the chunk will fault. -/
def Chunk.losing (ch : Chunk) (i : Nat) : Chunk := { ch with lost := !ch.faulted, unwritten := putBit ch.unwritten i true }

/-- The hart of a storage write that is lost. -/
def Hart.loseStorage (v : Hart) (x : Transaction) : Hart :=
  match x.asker with
  | .chunk q k =>
    match v.ctx.copies.find? fun c => c.id == q with
    | some c =>
      if (c.chunkAt k).complete then v.lostWrite x.pa
      else v.withChunk q k ((c.chunkAt k).losing ((x.addr - c.dst).toNat % c.chunkBytes / 256))
    | none => v.lostWrite x.pa
  | .scalar | .vector | .fetch | .vfetch => v.lostWrite x.pa
  | .outside => v

theorem loseChunk_hartAt {s : State} {x : Transaction} {q k : Nat} (hw : x.write = true) (ha : x.asker = .chunk q k) (j : Nat) :
    (s.loseChunk x.hart q k x).hartAt j = if j = x.hart then (s.hartAt j).loseStorage x else s.hartAt j := by
  cases hf : ((s.hartAt x.hart).ctx.copies.find? fun c => c.id == q) with
  | none =>
    rw [loseChunk_none hf, if_pos hw, writeLost_hartAt]
    split_ifs with n
    · subst n; simp [Hart.loseStorage, ha, hf]
    · rfl
  | some c =>
    by_cases hd : (c.chunkAt k).complete = true
    · rw [loseChunk_complete hf hd, if_pos hw, writeLost_hartAt]
      split_ifs with n
      · subst n; simp [Hart.loseStorage, ha, hf, hd]
      · rfl
    · rw [loseChunk_open hf (by simpa using hd), State.hartAt_modHart]
      split_ifs with n
      · subst n; simp [Hart.loseStorage, ha, hf, hd, Chunk.losing]
      · rfl

theorem loseStorage_hartAt {s : State} {x : Transaction} (hw : x.write = true) (j : Nat) :
    (s.loseStorage x).hartAt j = if j = x.hart then (s.hartAt j).loseStorage x else s.hartAt j := by
  cases ha : x.asker with
  | chunk q k =>
    simp only [State.loseStorage, ha]
    exact loseChunk_hartAt (s := s.dropTrans x.id) hw ha j
  | outside => simp [State.loseStorage, Hart.loseStorage, ha, State.dropTrans]
  | _ =>
    simp only [State.loseStorage, Hart.loseStorage, ha]
    exact writeLost_hartAt (s.dropTrans x.id) _ _ _

/-- A lost storage write changes the harts, and is retained no more. -/
theorem loseStorage_frame (s : State) (x : Transaction) : (s.loseStorage x).cores = s.cores
    ∧ (s.loseStorage x).part = { s.part with trans := s.part.trans.filter fun y => y.id != x.id } := by
  have hw : ∀ t : State, (t.writeLost x.hart x.pa).cores = t.cores ∧ (t.writeLost x.hart x.pa).part = t.part := fun t => by
    rw [State.writeLost]
    split_ifs <;> exact ⟨rfl, rfl⟩
  cases ha : x.asker with
  | chunk q k =>
    simp only [State.loseStorage, ha]
    rw [State.loseChunk]
    dsimp only
    split
    · split_ifs
      · exact hw _
      · exact ⟨rfl, rfl⟩
    · split_ifs
      · exact hw _
      all_goals exact ⟨rfl, rfl⟩
  | outside => simp only [State.loseStorage, ha]; exact ⟨rfl, rfl⟩
  | _ => simp only [State.loseStorage, ha]; exact hw (s.dropTrans x.id)

/-! ### All the storage writes lost -/

theorem foldl_loseStorage_hartAt (l : List Transaction) (hw : ∀ x ∈ l, x.write = true) (s : State) (h : Nat) :
    (l.foldl State.loseStorage s).hartAt h = (l.filter fun x => x.hart == h).foldl Hart.loseStorage (s.hartAt h) := by
  induction l generalizing s with
  | nil => rfl
  | cons x l ih =>
    rw [List.foldl_cons, ih (fun y hy => hw y (List.mem_cons_of_mem _ hy)), loseStorage_hartAt (hw x List.mem_cons_self)]
    by_cases hx : x.hart = h
    · rw [List.filter_cons_of_pos (by simpa using hx), List.foldl_cons, if_pos hx.symm]
    · rw [List.filter_cons_of_neg (by simpa using hx), if_neg (Ne.symm hx)]

theorem foldl_loseStorage_frame (l : List Transaction) (s : State) : (l.foldl State.loseStorage s).cores = s.cores
    ∧ (l.foldl State.loseStorage s).part
      = { s.part with trans := s.part.trans.filter fun y => l.all fun x => y.id != x.id } := by
  induction l generalizing s with
  | nil => simp
  | cons x l ih =>
    obtain ⟨hc, hp⟩ := loseStorage_frame s x
    obtain ⟨hc', hp'⟩ := ih (s.loseStorage x)
    refine ⟨hc'.trans hc, ?_⟩
    rw [List.foldl_cons, hp', hp]
    simp only [List.filter_filter, List.all_cons]
    congr 2
    funext y
    exact Bool.and_comm _ _

/-! ### Copies keep their chunks' marks -/

/-- Which chunks of the copy with a number are complete, and which have faulted. -/
def Hart.marks (v : Hart) (q : Nat) : Option (Nat → Bool × Bool) :=
  (v.ctx.copies.find? fun y => y.id == q).map fun c k => ((c.chunkAt k).complete, (c.chunkAt k).faulted)

/-- A copy with a chunk replaced. -/
def Copy.withChunk (c : Copy) (k : Nat) (ch : Chunk) : Copy := { c with chunks := Map.put c.chunks k ch }

theorem chunkAt_withChunk (c : Copy) (k j : Nat) (ch : Chunk) :
    (c.withChunk k ch).chunkAt j = if j = k then ch else c.chunkAt j := by
  simp only [Copy.chunkAt, Map.getD_find]
  exact Map.get_put ..

theorem find_withChunk (v : Hart) (id k : Nat) (ch : Chunk) (q : Nat) :
    ((v.withChunk id k ch).ctx.copies.find? fun y => y.id == q) = (v.ctx.copies.find? fun y => y.id == q).map fun y =>
      if y.id = id then y.withChunk k ch else y := by
  have e : (v.withChunk id k ch).ctx.copies = v.ctx.copies.map fun y => if y.id = id then y.withChunk k ch else y := rfl
  have hid : ∀ y : Copy, (if y.id = id then y.withChunk k ch else y).id = y.id := fun y => by split_ifs <;> rfl
  rw [e, List.find?_map]
  simp only [Function.comp_def, hid]

theorem marks_withChunk {v : Hart} {id k : Nat} {c : Copy} {ch : Chunk} (hc : (v.ctx.copies.find? fun y => y.id == id) = some c)
    (h1 : ch.complete = (c.chunkAt k).complete) (h2 : ch.faulted = (c.chunkAt k).faulted) (q : Nat) :
    (v.withChunk id k ch).marks q = v.marks q := by
  rw [Hart.marks, Hart.marks, find_withChunk]
  by_cases hq : q = id
  · subst hq
    rw [hc]
    simp only [Option.map_some, find_copy_id hc, if_true]
    congr 1
    funext j
    rw [chunkAt_withChunk]
    by_cases hj : j = k
    · subst hj; simp [h1, h2]
    · simp [hj]
  · cases hf : (v.ctx.copies.find? fun y => y.id == q) with
    | none => rfl
    | some d => simp [find_copy_id hf, hq]

theorem openChunk_iff_marks (v : Hart) (x : Transaction) (q k : Nat) : (∃ c, v.OpenChunk x q k c) ↔
    x.asker = .chunk q k ∧ ∃ m, v.marks q = some m ∧ (m k).1 = false := by
  simp only [Hart.OpenChunk, Hart.marks, Option.map_eq_some_iff]
  constructor
  · rintro ⟨c, ha, hc, hd⟩
    exact ⟨ha, _, ⟨c, hc, rfl⟩, hd⟩
  · rintro ⟨ha, _, ⟨c, hc, rfl⟩, hd⟩
    exact ⟨c, ha, hc, hd⟩

/-- The chunk of a transaction is open in harts with the same marks alike. -/
theorem openChunk_congr {v u : Hart} (h : ∀ q, u.marks q = v.marks q) (x : Transaction) :
    (∃ q k c, u.OpenChunk x q k c) ↔ ∃ q k c, v.OpenChunk x q k c := by
  simp only [openChunk_iff_marks, h]

/-! ### A hart that loses storage writes -/

section Lose
variable {v : Hart} {x : Transaction}

theorem loseStorage_outside (ha : x.asker = .outside) : v.loseStorage x = v := by
  simp only [Hart.loseStorage, ha]

theorem loseStorage_open {q k : Nat} {c : Copy} (h : v.OpenChunk x q k c) : v.loseStorage x =
    v.withChunk q k ((c.chunkAt k).losing ((x.addr - c.dst).toNat % c.chunkBytes / 256)) := by
  obtain ⟨ha, hc, hd⟩ := h
  simp [Hart.loseStorage, ha, hc, hd]

theorem loseStorage_closed (ho : x.asker ≠ .outside) (hn : ¬ ∃ q k c, v.OpenChunk x q k c) :
    v.loseStorage x = v.lostWrite x.pa := by
  cases ha : x.asker with
  | outside => exact absurd ha ho
  | chunk q k =>
    cases hf : (v.ctx.copies.find? fun c => c.id == q) with
    | none => simp [Hart.loseStorage, ha, hf]
    | some c =>
      have hd : (c.chunkAt k).complete = true := by
        by_contra hd
        exact hn ⟨q, k, c, ha, hf, by simpa using hd⟩
      simp [Hart.loseStorage, ha, hf, hd]
  | _ => simp only [Hart.loseStorage, ha]

/-- A lost storage write: nobody's of this part, that of an open chunk, or a machine check. -/
theorem loseStorage_cases (v : Hart) (x : Transaction) : x.asker = .outside ∨ (∃ q k c, v.OpenChunk x q k c)
    ∨ (x.asker ≠ .outside ∧ ¬ ∃ q k c, v.OpenChunk x q k c) := by
  tauto

theorem lostWrite_eq (v : Hart) (pa : Nat) : ∃ w m, v.lostWrite pa = { v with kmcheck := w, mcPend := m } := by
  rw [Hart.lostWrite]
  split_ifs
  · exact ⟨_, _, rfl⟩
  · exact ⟨_, _, rfl⟩

/-- What stays of a hart that loses storage writes: its life, its chunks' marks, and its context but for the copies. -/
def Hart.Losing (v u : Hart) : Prop :=
  u.live = v.live ∧ (∀ q, u.marks q = v.marks q) ∧ ∃ l, u.ctx = { v.ctx with copies := l }

theorem Hart.Losing.trans {v u w : Hart} (h : v.Losing u) (g : u.Losing w) : v.Losing w := by
  obtain ⟨h1, h2, l, h3⟩ := h
  obtain ⟨g1, g2, m, g3⟩ := g
  exact ⟨g1.trans h1, fun q => (g2 q).trans (h2 q), m, by rw [g3, h3]⟩

theorem losing_refl (v : Hart) : v.Losing v := ⟨rfl, fun _ => rfl, _, rfl⟩

theorem losing_lostWrite (v : Hart) (pa : Nat) : v.Losing (v.lostWrite pa) := by
  obtain ⟨w, m, e⟩ := lostWrite_eq v pa
  rw [e]
  exact ⟨rfl, fun _ => rfl, _, rfl⟩

theorem losing_loseStorage (v : Hart) (x : Transaction) : v.Losing (v.loseStorage x) := by
  rcases loseStorage_cases v x with h | ⟨q, k, c, h⟩ | ⟨ho, hn⟩
  · rw [loseStorage_outside h]; exact losing_refl v
  · rw [loseStorage_open h]
    exact ⟨rfl, marks_withChunk h.2.1 rfl rfl, _, rfl⟩
  · rw [loseStorage_closed ho hn]; exact losing_lostWrite v _

theorem losing_foldl (l : List Transaction) (v : Hart) : v.Losing (l.foldl Hart.loseStorage v) :=
  List.foldlRecOn l _ (losing_refl v) fun u h x _ => h.trans (losing_loseStorage u x)

end Lose

/-! ### The machine checks -/

/-- A cell of the host window. -/
def InHost (k : Nat) : Prop := 0xC0000000000 ≤ k ∧ k < 2 ^ 44

theorem inHostWindow_iff (k : Nat) : inHostWindow k = true ↔ InHost k := by
  rw [inHostWindow, Bool.and_eq_true, decide_eq_true_eq, decide_eq_true_eq, InHost]

/-- A machine check of SRC 7 for data of the host window waits. -/
def Hart.hostChecked (u : Hart) : Prop := u.mcPend = some 0 ∧ tst u.kmcheck 63 = true ∧ fld u.kmcheck 59 4 = 7
  ∧ tst u.kmcheck 56 = false ∧ InHost (fld u.kmcheck 0 44)

theorem fld_mcheckRecord_low (src rew : Nat) (kill : Bool) (pa : Nat) : fld (mcheckRecord src rew kill pa) 0 44 = pa % 2 ^ 44 := by
  have h : fld (mcheckRecord src rew kill pa) 0 56 = pa % 2 ^ 56 := by
    rw [mcheckRecord, fld_putFld_self _ _ _ _ (by omega)]
  have e : fld (mcheckRecord src rew kill pa) 0 44 = fld (mcheckRecord src rew kill pa) 0 56 % 2 ^ 44 := by
    simp only [fld, Nat.shiftRight_zero]
    exact (Nat.mod_mod_of_dvd _ ⟨2 ^ 12, by norm_num⟩).symm
  rw [e, h]
  exact Nat.mod_mod_of_dvd _ ⟨2 ^ 12, by norm_num⟩

theorem hostChecked_lostWrite {v : Hart} {pa : Nat} (hv : v.live = true) (hp : InHost (pa % 2 ^ 44)) :
    (v.lostWrite pa).hostChecked := by
  rw [Hart.lostWrite, if_pos hv]
  refine ⟨rfl, ?_, ?_, ?_, by rwa [fld_mcheckRecord_low]⟩
  · simp [mcheckRecord, tst_putFld, tst_putBit]
  · simp only [mcheckRecord]
    rw [fld_putFld_ne _ _ (by omega), fld_putBit_ne _ _ (by omega), fld_putFld_ne _ _ (by omega),
      fld_putFld_self _ _ _ _ (by omega)]
    rfl
  · simp [mcheckRecord, tst_putFld, tst_putBit]

theorem hostChecked_loseStorage {v : Hart} {x : Transaction} (h : v.hostChecked) (hp : InHost (x.pa % 2 ^ 44)) :
    (v.loseStorage x).hostChecked := by
  rcases loseStorage_cases v x with h' | ⟨q, k, c, h'⟩ | ⟨ho, hn⟩
  · rwa [loseStorage_outside h']
  · rw [loseStorage_open h']; exact h
  · rw [loseStorage_closed ho hn]
    by_cases hv : v.live = true
    · exact hostChecked_lostWrite hv hp
    · rwa [Hart.lostWrite, if_neg hv]

theorem hostChecked_foldl {l : List Transaction} {v : Hart} (hp : ∀ x ∈ l, InHost (x.pa % 2 ^ 44)) (h : v.hostChecked) :
    (l.foldl Hart.loseStorage v).hostChecked :=
  List.foldlRecOn l _ h fun _ hu x hx => hostChecked_loseStorage hu (hp x hx)

/-- A storage write of no open chunk leaves its hart a machine check. -/
theorem hostChecked_of_mem {l : List Transaction} {v : Hart} (hp : ∀ x ∈ l, InHost (x.pa % 2 ^ 44)) (hv : v.live = true)
    {x : Transaction} (hx : x ∈ l) (ho : x.asker ≠ .outside) (hn : ¬ ∃ q k c, v.OpenChunk x q k c) :
    (l.foldl Hart.loseStorage v).hostChecked := by
  obtain ⟨l1, l2, rfl⟩ := List.append_of_mem hx
  rw [List.foldl_append, List.foldl_cons]
  obtain ⟨hlive, hmarks, -⟩ := losing_foldl l1 v
  refine hostChecked_foldl (fun y hy => hp y (by simp [hy])) ?_
  rw [loseStorage_closed ho (by rwa [openChunk_congr hmarks])]
  exact hostChecked_lostWrite (hlive.trans hv) (hp x hx)

/-- With no such write only the vector context changes. -/
theorem foldl_onlyCtx {l : List Transaction} {v : Hart} (hn : ∀ x ∈ l, x.asker = .outside ∨ ∃ q k c, v.OpenChunk x q k c) :
    ∃ c, l.foldl Hart.loseStorage v = { v with ctx := c } := by
  have key : v.Losing (l.foldl Hart.loseStorage v) ∧ ∃ c, l.foldl Hart.loseStorage v = { v with ctx := c } := by
    refine List.foldlRecOn (motive := fun u => v.Losing u ∧ ∃ c, u = { v with ctx := c }) l _ ⟨losing_refl v, _, rfl⟩
      fun u ⟨hu, c, e⟩ x hx => ⟨hu.trans (losing_loseStorage u x), ?_⟩
    rcases hn x hx with h | h
    · exact ⟨c, by rw [loseStorage_outside h, e]⟩
    · obtain ⟨q, k, d, h⟩ := (openChunk_congr hu.2.1 x).mpr h
      exact ⟨_, by rw [loseStorage_open h, Hart.withChunk, e]⟩
  exact key.2

/-! ### The chunks that will fault -/

/-- Chunk k of the copy with a number will fault, if it has not. -/
def Hart.ChunkLost (v : Hart) (q k : Nat) : Prop :=
  ∃ d, (v.ctx.copies.find? fun y => y.id == q) = some d ∧ (d.chunkAt k).lost = !(d.chunkAt k).faulted

theorem chunkLost_withChunk {v : Hart} {q k : Nat} {c : Copy} {ch : Chunk} (hc : (v.ctx.copies.find? fun y => y.id == q) = some c)
    (h : ch.lost = !ch.faulted) : (v.withChunk q k ch).ChunkLost q k := by
  refine ⟨_, by rw [find_withChunk, hc]; rfl, ?_⟩
  simp only [if_pos (find_copy_id hc), chunkAt_withChunk, if_true]
  exact h

theorem chunkLost_withChunk_ne {v : Hart} {q k id j : Nat} {ch : Chunk} (h : v.ChunkLost q k) (hn : ¬ (id = q ∧ j = k)) :
    (v.withChunk id j ch).ChunkLost q k := by
  obtain ⟨d, hd, hl⟩ := h
  refine ⟨_, by rw [find_withChunk, hd]; rfl, ?_⟩
  simp only [find_copy_id hd]
  split_ifs with e
  · rw [chunkAt_withChunk, if_neg fun hj => hn ⟨e.symm, hj.symm⟩]
    exact hl
  · exact hl

theorem chunkLost_loseStorage {v : Hart} {q k : Nat} (x : Transaction) (h : v.ChunkLost q k) : (v.loseStorage x).ChunkLost q k := by
  rcases loseStorage_cases v x with h' | ⟨id, j, c, h'⟩ | ⟨ho, hn⟩
  · rwa [loseStorage_outside h']
  · rw [loseStorage_open h']
    by_cases e : id = q ∧ j = k
    · obtain ⟨rfl, rfl⟩ := e
      exact chunkLost_withChunk h'.2.1 rfl
    · exact chunkLost_withChunk_ne h e
  · rw [loseStorage_closed ho hn]
    obtain ⟨w, m, e⟩ := lostWrite_eq v x.pa
    rw [e]
    exact h

theorem chunkLost_of_mem {l : List Transaction} {v : Hart} {x : Transaction} (hx : x ∈ l) {q k : Nat} {c : Copy}
    (h : v.OpenChunk x q k c) : ∃ d, ((l.foldl Hart.loseStorage v).ctx.copies.find? fun y => y.id == q) = some d
      ∧ (d.chunkAt k).lost = !(c.chunkAt k).faulted := by
  obtain ⟨l1, l2, rfl⟩ := List.append_of_mem hx
  have hl : ((l1 ++ x :: l2).foldl Hart.loseStorage v).ChunkLost q k := by
    rw [List.foldl_append, List.foldl_cons]
    refine List.foldlRecOn (motive := fun u : Hart => u.ChunkLost q k) l2 _ ?_ fun u hu y _ => chunkLost_loseStorage y hu
    obtain ⟨-, hmarks, -⟩ := losing_foldl l1 v
    have ho := (openChunk_iff_marks v x q k).mp ⟨c, h⟩
    rw [← hmarks q] at ho
    obtain ⟨d, hd⟩ := (openChunk_iff_marks _ x q k).mpr ho
    rw [loseStorage_open hd]
    exact chunkLost_withChunk hd.2.1 rfl
  obtain ⟨d, hd, hf⟩ := hl
  obtain ⟨-, hmarks, -⟩ := losing_foldl (l1 ++ x :: l2) v
  have hm := hmarks q
  rw [Hart.marks, Hart.marks, hd, h.2.1, Option.map_some, Option.map_some, Option.some.injEq] at hm
  exact ⟨d, hd, hf.trans (congrArg (fun m => !(m k).2) hm)⟩

end Sys2Proof.Machine


namespace Sys2Proof.Machine

/-! ### Stores under way to the host window -/

/-- A hart whose strip buffers no store to the host window any more. -/
def Hart.withoutHostStores (v : Hart) : Hart :=
  { v with ctx := { v.ctx with strip := v.ctx.strip.map fun st =>
      { st with
          buf := st.buf.filter fun b => !inHostWindow b.1
          bits := st.bits.filter fun b => !inHostWindow b.1
          bufBad := st.bufBad.filter fun b => !inHostWindow b.1
          storage := st.storage.filter fun b => !inHostWindow b.1 } } }

/-- A hart as the loss of its stores to some cells leaves it. -/
def Hart.withoutStores (v : Hart) (s : State) (cells : List Nat) : Hart :=
  match cells.getLast? with
  | some k => v.withoutHostStores.lostWrite (s.paOfCell k)
  | none => v.withoutHostStores

theorem loseHostStores_hartAt (s : State) (h : Nat) :
    s.loseHostStores.hartAt h = (s.hartAt h).withoutStores s (s.hostStores h) := by
  refine Map.get_mapKey (fun j v => v.withoutStores s (s.hostStores j)) {} s.harts h ?_
  rw [Hart.withoutStores]
  split <;> rfl

theorem loseHostStores_part (s : State) : s.loseHostStores.part = s.part := rfl

/-- A core whose junction buffer holds no line of the host window. -/
def Core.withoutHostLines (c : Core) : Core := { c with junction := c.junction.filter fun l => !inHostWindow (64 * l.line) }

theorem loseHostStores_junction (s : State) (c : Nat) :
    s.loseHostStores.junction c = (s.junction c).filter fun l => !inHostWindow (64 * l.line) :=
  congrArg Core.junction (Map.get_map Core.withoutHostLines {} s.cores c)

theorem mem_iff_ne_nil {l : List Nat} : ¬ l = [] ↔ ∃ k, k ∈ l :=
  ⟨List.exists_mem_of_ne_nil l, fun ⟨_, hk⟩ => List.ne_nil_of_mem hk⟩

/-- The hart has stores under way to the host window. -/
theorem hostStores_ne_nil (s : State) (h : Nat) : s.hostStores h ≠ [] ↔
    (∃ l ∈ s.junction (coreOf h), l.hart = h ∧ InHost (64 * l.line))
      ∨ ∃ st, (s.hartAt h).ctx.strip = some st ∧ ∃ e ∈ st.buf, InHost e.1 := by
  rw [State.hostStores, ne_eq, List.append_eq_nil_iff, not_and_or]
  refine or_congr (mem_iff_ne_nil.trans ?_) (mem_iff_ne_nil.trans ?_)
  · simp only [List.mem_filter, List.mem_map, inHostWindow_iff, beq_iff_eq]
    constructor
    · rintro ⟨_, ⟨l, ⟨hl, hh⟩, rfl⟩, hk⟩
      exact ⟨l, hl, hh, hk⟩
    · rintro ⟨l, hl, hh, hk⟩
      exact ⟨_, ⟨l, ⟨hl, hh⟩, rfl⟩, hk⟩
  · cases hs : (s.hartAt h).ctx.strip with
    | none => simp
    | some st =>
      simp only [Option.elim_some, List.mem_filter, List.mem_map, inHostWindow_iff, Option.some.injEq, exists_eq_left']
      constructor
      · rintro ⟨_, ⟨e, he, rfl⟩, hk⟩
        exact ⟨e, he, hk⟩
      · rintro ⟨e, he, hk⟩
        exact ⟨_, ⟨e, he, rfl⟩, hk⟩

theorem hostStores_inHost {s : State} {h k : Nat} (hk : k ∈ s.hostStores h) : InHost k := by
  rw [← inHostWindow_iff]
  rw [State.hostStores, List.mem_append] at hk
  rcases hk with hk | hk
  · exact (List.mem_filter.mp hk).2
  · cases hs : (s.hartAt h).ctx.strip with
    | none => rw [hs] at hk; cases hk
    | some st => rw [hs] at hk; exact (List.mem_filter.mp hk).2

theorem withoutStores_nil (v : Hart) (s : State) : v.withoutStores s [] = v.withoutHostStores := rfl

/-- Stores that are lost leave their hart a machine check (R238). -/
theorem hostChecked_withoutStores {s : State} {v : Hart} {cells : List Nat} (hv : v.live = true) (hn : cells ≠ [])
    (hc : ∀ k ∈ cells, InHost k) : (v.withoutStores s cells).hostChecked := by
  have hk := hc _ (List.getLast_mem hn)
  rw [Hart.withoutStores, List.getLast?_eq_getLast_of_ne_nil hn]
  refine hostChecked_lostWrite hv ?_
  have e : s.paOfCell (cells.getLast hn) = 0xFFF * 2 ^ 44 + cells.getLast hn := by
    rw [State.paOfCell, if_pos]
    exact lt_trans hk.2 (by norm_num)
  have hl : (0xFFF * 2 ^ 44 + cells.getLast hn) % 2 ^ 44 = cells.getLast hn := by
    obtain ⟨-, h2⟩ := hk
    omega
  rwa [e, hl]

theorem withoutStores_keeps (v : Hart) (s : State) (cells : List Nat) : (v.withoutStores s cells).live = v.live
    ∧ (v.withoutStores s cells).ctx = v.withoutHostStores.ctx := by
  rw [Hart.withoutStores]
  split
  · next k _ =>
    obtain ⟨w, m, e⟩ := lostWrite_eq v.withoutHostStores (s.paOfCell k)
    rw [e]
    exact ⟨rfl, rfl⟩
  · exact ⟨rfl, rfl⟩

/-! ### The link down -/

/-- The storage writes that are lost, and those of one hart. -/
def State.storageWrites (s : State) : List Transaction := s.part.trans.filter fun x => x.storage

/-- The machine with all that is under way to the host lost. -/
def State.hostLostState (s : State) : State := s.storageWrites.foldl State.loseStorage s.loseHostStores

section Down
variable {s : State}

theorem mem_storageWrites {x : Transaction} : x ∈ s.storageWrites ↔ x ∈ s.part.trans ∧ x.storage = true := List.mem_filter

theorem linkDown_up (h : tst s.part.hlst 63 = true) : s.linkDown =
    (s.hostLostState.modPart fun p => { p with hlst := putBit p.hlst 63 false, hostLost := true }).postMev 3 0 := by
  rw [State.linkDown, if_pos h]
  rfl

theorem hostLostState_hartAt (hw : ∀ x ∈ s.storageWrites, x.write = true) (h : Nat) : s.hostLostState.hartAt h =
    (s.storageWrites.filter fun x => x.hart == h).foldl Hart.loseStorage ((s.hartAt h).withoutStores s (s.hostStores h)) := by
  rw [State.hostLostState, foldl_loseStorage_hartAt _ hw, loseHostStores_hartAt]

theorem hostLostState_part : s.hostLostState.part =
    { s.part with trans := s.part.trans.filter fun y => s.storageWrites.all fun x => y.id != x.id } :=
  (foldl_loseStorage_frame s.storageWrites s.loseHostStores).2

theorem hostLostState_junction (c : Nat) :
    s.hostLostState.junction c = (s.junction c).filter fun l => !inHostWindow (64 * l.line) := by
  rw [← loseHostStores_junction, State.junction, State.junction, State.coreAt, State.coreAt, State.hostLostState,
    (foldl_loseStorage_frame s.storageWrites s.loseHostStores).1]

/-- No storage write is left, and every other transaction stays. -/
theorem hostLostState_trans : (∀ x ∈ s.hostLostState.part.trans, x.storage = false)
    ∧ ∀ x ∈ s.part.trans, (∀ y ∈ s.part.trans, y.storage = true → y.id ≠ x.id) → x ∈ s.hostLostState.part.trans := by
  rw [hostLostState_part]
  constructor
  · intro x hx
    obtain ⟨hx, ha⟩ := List.mem_filter.mp hx
    by_contra hs
    have := List.all_eq_true.mp ha x (mem_storageWrites.mpr ⟨hx, by simpa using hs⟩)
    simp at this
  · intro x hx hn
    refine List.mem_filter.mpr ⟨hx, List.all_eq_true.mpr fun y hy => ?_⟩
    obtain ⟨hy, hs⟩ := mem_storageWrites.mp hy
    exact bne_iff_ne.mpr (Ne.symm (hn y hy hs))

/-- The marks of the copies' chunks when the stores under way are lost. -/
theorem withoutStores_openChunk (v : Hart) (cells : List Nat) (x : Transaction) (q k : Nat) (c : Copy) :
    (v.withoutStores s cells).OpenChunk x q k c ↔ v.OpenChunk x q k c := by
  rw [Hart.OpenChunk, Hart.OpenChunk, (withoutStores_keeps v s cells).2]
  rfl

variable (hs : ∀ x ∈ s.part.trans, x.storage = true → x.write = true ∧ InHost (x.pa % 2 ^ 44)) {h : Nat}
include hs

theorem storageWrites_write : ∀ x ∈ s.storageWrites, x.write = true := fun x hx =>
  (hs x (mem_storageWrites.mp hx).1 (mem_storageWrites.mp hx).2).1

theorem hostWrites_inHost : ∀ x ∈ s.storageWrites.filter fun x => x.hart == h, InHost (x.pa % 2 ^ 44) := fun x hx =>
  have hx := mem_storageWrites.mp (List.mem_filter.mp hx).1
  (hs x hx.1 hx.2).2

/-- The strip keeps its other stores. -/
theorem hostLostState_strip {st : Strip} (e : (s.hartAt h).ctx.strip = some st) :
    ∃ q, (s.hostLostState.hartAt h).ctx.strip = some q
      ∧ ∀ k, Map.find q.buf k = if 0xC0000000000 ≤ k ∧ k < 2 ^ 44 then none else Map.find st.buf k := by
  rw [hostLostState_hartAt (storageWrites_write hs)]
  obtain ⟨-, -, l, hl⟩ := losing_foldl (s.storageWrites.filter fun x => x.hart == h)
    ((s.hartAt h).withoutStores s (s.hostStores h))
  rw [hl, (withoutStores_keeps _ _ _).2]
  dsimp only [Hart.withoutHostStores]
  rw [e]
  refine ⟨_, rfl, fun k => (Map.find_filter st.buf (fun k => !inHostWindow k) k).trans ?_⟩
  by_cases hk : inHostWindow k = true
  · rw [if_neg (by simp [hk]), if_pos (show _ ∧ _ from (inHostWindow_iff k).mp hk)]
  · rw [if_pos (by simpa using hk), if_neg (show ¬ (_ ∧ _) from fun hc => hk ((inHostWindow_iff k).mpr hc))]

/-- A hart whose store or storage write is lost has a machine check; any other keeps all but its vector context. -/
theorem hostLostState_check (hv : (s.hartAt h).live = true) :
    let stores := s.hostStores h ≠ [] ∨ ∃ x ∈ s.part.trans, x.storage = true ∧ x.hart = h ∧ x.asker ≠ .outside
      ∧ ¬ ∃ q k c, (s.hartAt x.hart).OpenChunk x q k c
    (stores → (s.hostLostState.hartAt h).hostChecked)
      ∧ (¬ stores → { s.hostLostState.hartAt h with ctx := (s.hartAt h).ctx } = s.hartAt h) := by
  intro stores
  have hp := hostWrites_inHost (h := h) hs
  have hlive := (withoutStores_keeps (s.hartAt h) s (s.hostStores h)).1
  rw [hostLostState_hartAt (storageWrites_write hs)]
  constructor
  · rintro (hn | ⟨x, hx, hst, rfl, ho, hc⟩)
    · exact hostChecked_foldl hp (hostChecked_withoutStores hv hn fun _ => hostStores_inHost)
    · refine hostChecked_of_mem hp (hlive.trans hv)
        (List.mem_filter.mpr ⟨mem_storageWrites.mpr ⟨hx, hst⟩, beq_iff_eq.mpr rfl⟩) ho ?_
      simpa only [withoutStores_openChunk] using hc
  · intro hn
    obtain ⟨h1, h2⟩ := not_or.mp hn
    rw [not_not.mp h1, withoutStores_nil]
    have hc : ∀ x ∈ s.storageWrites.filter fun x => x.hart == h,
        x.asker = .outside ∨ ∃ q k c, (s.hartAt h).withoutHostStores.OpenChunk x q k c := by
      intro x hf
      obtain ⟨hm, hh⟩ := List.mem_filter.mp hf
      obtain ⟨hx, hst⟩ := mem_storageWrites.mp hm
      obtain rfl : x.hart = h := beq_iff_eq.mp hh
      by_contra hc
      obtain ⟨ho, hc⟩ := not_or.mp hc
      exact h2 ⟨x, hx, hst, rfl, ho, hc⟩
    obtain ⟨c, e⟩ := foldl_onlyCtx hc
    rw [e]
    rfl

/-- The chunk of a storage write that is lost will fault. -/
theorem hostLostState_chunk {x : Transaction} (hx : x ∈ s.part.trans) (hst : x.storage = true) {q k : Nat} {c : Copy}
    (hc : (s.hartAt x.hart).OpenChunk x q k c) :
    ∃ d, ((s.hostLostState.hartAt x.hart).ctx.copies.find? fun y => y.id == q) = some d
      ∧ (d.chunkAt k).lost = !(c.chunkAt k).faulted := by
  rw [hostLostState_hartAt (storageWrites_write hs)]
  have hm : x ∈ s.storageWrites.filter fun y => y.hart == x.hart :=
    List.mem_filter.mpr ⟨mem_storageWrites.mpr ⟨hx, hst⟩, beq_iff_eq.mpr rfl⟩
  exact chunkLost_of_mem hm ((withoutStores_openChunk ..).mpr hc)

end Down

end Sys2Proof.Machine

namespace Sys2Proof.Claims
open Sys2Proof.Machine

theorem exec_hostLinkDown_down {s : State} (h : tst s.part.hlst 63 = false) : exec .hostLinkDown s = .next s := by
  show Host.Outcome.next s.linkDown = _
  rw [State.linkDown, if_neg (by rw [h]; exact Bool.false_ne_true)]

theorem hostLinkDown_spec (s : State) (hup : tst s.part.hlst 63 = true) :
    let lost (k : Nat) : Prop := 0xC0000000000 ≤ k ∧ k < 2 ^ 44
    let chunk (x : Transaction) (q k : Nat) (c : Copy) : Prop := x.asker = .chunk q k
      ∧ ((s.hartAt x.hart).ctx.copies.find? fun y => y.id == q) = some c ∧ (c.chunkAt k).complete = false
    (∀ x ∈ s.part.trans, x.storage = true → x.write = true ∧ lost (x.pa % 2 ^ 44)) →
    ∃ t, exec .hostLinkDown s = .next t ∧ tst t.part.hlst 63 = false ∧ t.part.hostLost = true
    ∧ fld t.part.hlst 0 63 = fld s.part.hlst 0 63 ∧ tst t.part.mev 63 = true ∧ fld t.part.mev 0 8 = 3
    ∧ (t.hartAt 0).mgmtPend = true ∧ (∀ k, t.byteAt k = s.byteAt k) ∧ (∀ x ∈ t.part.trans, x.storage = false)
    ∧ (∀ x ∈ s.part.trans, (∀ y ∈ s.part.trans, y.storage = true → y.id ≠ x.id) → x ∈ t.part.trans)
    ∧ (∀ c l, l ∈ t.junction c ↔ l ∈ s.junction c ∧ ¬ lost (64 * l.line))
    ∧ (∀ x ∈ s.part.trans, ∀ q k c, x.storage = true → (s.hartAt x.hart).live = true → chunk x q k c →
      ∃ d, ((t.hartAt x.hart).ctx.copies.find? fun y => y.id == q) = some d
        ∧ (d.chunkAt k).lost = !(c.chunkAt k).faulted)
    ∧ ∀ h, h ≠ 0 → (s.hartAt h).live = true →
        let stores := (∃ l ∈ s.junction (coreOf h), l.hart = h ∧ lost (64 * l.line))
          ∨ (∃ st, (s.hartAt h).ctx.strip = some st ∧ ∃ e ∈ st.buf, lost e.1)
          ∨ ∃ x ∈ s.part.trans, x.storage = true ∧ x.hart = h ∧ x.asker ≠ .outside ∧ ¬ ∃ q k c, chunk x q k c
        (∀ st, (s.hartAt h).ctx.strip = some st → ∃ q, (t.hartAt h).ctx.strip = some q
          ∧ ∀ k, Map.find q.buf k = if 0xC0000000000 ≤ k ∧ k < 2 ^ 44 then none else Map.find st.buf k)
        ∧ (stores → (t.hartAt h).mcPend = some 0 ∧ tst (t.hartAt h).kmcheck 63 = true ∧ fld (t.hartAt h).kmcheck 59 4 = 7
          ∧ tst (t.hartAt h).kmcheck 56 = false ∧ lost (fld (t.hartAt h).kmcheck 0 44))
        ∧ (¬ stores → { t.hartAt h with ctx := (s.hartAt h).ctx } = s.hartAt h) := by
  intro lost chunk hs
  have e : exec .hostLinkDown s = .next s.linkDown := rfl
  rw [e, linkDown_up hup]
  have hpart := hostLostState_part (s := s)
  have hjunction := hostLostState_junction (s := s)
  have htrans := hostLostState_trans (s := s)
  have hstrip := fun h => @hostLostState_strip s hs h
  have hcheck := fun h => @hostLostState_check s hs h
  have hchunk := fun x => @hostLostState_chunk s hs x
  generalize s.hostLostState = t at hpart hjunction htrans hstrip hcheck hchunk ⊢
  obtain ⟨w, hp, hv, hr⟩ :=
    State.postMev_part (t.modPart fun p => { p with hlst := putBit p.hlst 63 false, hostLost := true }) 3 0
  have hh := State.postMev_hartAt (t.modPart fun p => { p with hlst := putBit p.hlst 63 false, hostLost := true }) 3 0
  have hj : ∀ c, ((t.modPart fun p => { p with hlst := putBit p.hlst 63 false, hostLost := true }).postMev 3 0).junction c
      = t.junction c := fun _ => rfl
  generalize (t.modPart fun p => { p with hlst := putBit p.hlst 63 false, hostLost := true }).postMev 3 0 = u at hp hh hj ⊢
  dsimp only [State.modPart_part, State.hartAt_modPart] at hp hh
  have hl : u.part.hlst = putBit s.part.hlst 63 false := by rw [hp, hpart]
  refine ⟨u, rfl, ?_, by rw [hp], ?_, by rw [hp]; exact hv, by rw [hp]; exact hr, by rw [hh, if_pos rfl], fun k => ?_,
    fun x hx => htrans.1 x (by rw [hp] at hx; exact hx), fun x hx hn => by rw [hp]; exact htrans.2 x hx hn, fun c l => ?_,
    fun x hx q k c hst _ hc => ?_, fun h h0 hlive => ?_⟩
  · rw [hl, tst_putBit, if_pos (by omega)]
  · rw [hl, fld_putBit_ne _ _ (by omega)]
  · simp only [State.byteAt, hp, hpart]
  · rw [hj, hjunction, List.mem_filter, Bool.not_eq_true', ← Bool.not_eq_true, inHostWindow_iff]
    rfl
  · rw [hh]
    split_ifs
    all_goals exact hchunk x hx hst hc
  · rw [hh, if_neg h0]
    obtain ⟨h1, h2⟩ := hcheck h hlive
    intro stores
    have e : stores ↔ s.hostStores h ≠ [] ∨ ∃ x ∈ s.part.trans, x.storage = true ∧ x.hart = h ∧ x.asker ≠ .outside
        ∧ ¬ ∃ q k c, (s.hartAt x.hart).OpenChunk x q k c := by
      rw [hostStores_ne_nil, or_assoc]
      rfl
    exact ⟨fun st => hstrip h, fun hs => h1 (e.mp hs), fun hs => h2 fun h => hs (e.mpr h)⟩

end Sys2Proof.Claims


namespace Sys2Proof.Claims
open Sys2Proof.Machine

/-! ### Rencon, clause by clause -/

theorem renconTransaction_spec (s : State) (pa : BitVec 56) (v : Word) (n : Nat) (hk : s.paKind pa.toNat = .remote n) :
    (∃ t, exec (.renconTransaction true pa v) s = .next t ∧ Performs s t s.cur pa.toNat (bytesOf v 8)
      ∧ t.part.nextTid = s.part.nextTid + 1 ∧ HartsKept s t ∧ t.cores = s.cores)
    ∧ exec (.renconTransaction false pa v) s = .next
      { s with part := { s.part with
          trans := s.part.trans ++ [{ id := s.part.nextTid, hart := s.cur, write := false, pa := pa.toNat, data := [],
                                      addr := BitVec.ofNat 64 pa.toNat }]
          nextTid := s.part.nextTid + 1 } } := by
  have e : ∀ w, exec (.renconTransaction w pa v) s = execRenconTransaction w pa v s := fun _ => rfl
  have hl : s.paKind pa.toNat ≠ .hostLost := by rw [hk]; simp
  rw [e, e]
  simp only [execRenconTransaction, hk]
  exact ⟨⟨_, rfl, performs_perform .., performAs_nextTid hk .., (woken_performAs _ _ _ _ _ _ _ _ hl).hartsKept,
    (State.performAs_frame ..).1⟩, rfl⟩

theorem exec_renconTransaction_here (s : State) (w : Bool) (pa : BitVec 56) (v : Word) (h : ∀ n, s.paKind pa.toNat ≠ .remote n) :
    exec (.renconTransaction w pa v) s = .next s := by
  show execRenconTransaction w pa v s = _
  rw [execRenconTransaction]
  split
  · next hk => exact absurd hk (h _)
  · rfl

section Retained
variable {s : State} {id : Nat} {x : Transaction} (hf : s.trans id = some x)
include hf

theorem exec_retransmit_unreachable (hn : 3 ≤ x.tries) (hh : ¬ s.frozen x = true) :
    exec (.renconRetransmit id) s = .next (s.unreachable x) := by
  rw [exec_retransmit_last hf hn, if_neg hh]

theorem exec_held (hh : s.frozen x = true) :
    (3 ≤ x.tries → exec (.renconRetransmit id) s = .next s) ∧ exec (.renconAcknowledgement id) s = .next s := by
  refine ⟨fun hn => ?_, ?_⟩
  · rw [exec_retransmit_last hf hn, if_pos hh]
  · rw [exec_ack_some hf, if_pos (by simp [hh])]

theorem exec_ack_behind (hb : s.behind x = true) : exec (.renconAcknowledgement id) s = .next s := by
  rw [exec_ack_some hf, if_pos (by simp [hb])]

variable (hh : ¬ s.frozen x = true)
include hh

theorem exec_ack_write (hw : x.write = true) (hb : ¬ s.behind x = true) :
    exec (.renconAcknowledgement id) s = .next ((s.land x).dropTrans id) := by
  rw [exec_ack_some hf, if_neg (by simp [hb, hh]), if_pos hw]

theorem exec_ack_read (hw : x.write = false) :
    exec (.renconAcknowledgement id) s = .next ((s.dropTrans id).deliver x) := by
  rw [exec_ack_some hf, if_neg (by simp [behind_read s hw, hh]), if_neg (by simp [hw])]

end Retained

/-- Data of another node for which the word of a context waits, and those for which none does. -/
theorem ends_deliver_awaited {s : State} {x : Transaction} (ha : x.asker = .vector)
    (hr : ∃ b, (s.hartAt x.hart).ctx.waiting = some (.remote b)) :
    Ends s x.id x.hart (.next ((s.dropTrans x.id).deliver x)) fun u => u = (s.hartAt x.hart).wordGoesOn false := by
  have hw : ((s.dropTrans x.id).hartAt x.hart).ctx.waitsRemote = true := (waitsRemote_iff _).mpr hr
  have h := ends_of_alters (alters_deliver_vector (s := s.dropTrans x.id) ha)
  rwa [if_pos hw] at h

theorem ends_deliver_unawaited {s : State} {x : Transaction} (ha : x.asker = .vector)
    (hr : ¬ ∃ b, (s.hartAt x.hart).ctx.waiting = some (.remote b)) :
    Ends s x.id x.hart (.next ((s.dropTrans x.id).deliver x)) fun u => u = s.hartAt x.hart := by
  have hw : ¬ ((s.dropTrans x.id).hartAt x.hart).ctx.waitsRemote = true := mt (waitsRemote_iff _).mp hr
  have h := ends_of_alters (alters_deliver_vector (s := s.dropTrans x.id) ha)
  rwa [if_neg hw] at h

/-- What an access from outside to a register of hart h comes to (R17). -/
theorem outsideKreg_spec (s : State) (h off : Nat) (v : Word) (w : Bool) (access : Bool → Out)
    (e : ∀ k, access k = .next (s.outsideKreg k h off v)) :
    let by_ := (Config.freeWord s.tick 46).toNat % 256
    let n := off / 8
    let out := s.kwrite h 1 by_ false n v
    (off % 8 ≠ 0 ∨ n ∉ kregNumbers → access w = .next s)
    ∧ (off % 8 = 0 → n ∈ kregNumbers →
      access false = .next { s with part := { s.part with mailbox := bytesOf (s.kread h 1 n) 8 } }
      ∧ ((s.hartAt h).live = false → access true = .next s)
      ∧ ((s.hartAt h).live = true → (∀ t, out = .ok t → access true = .next t)
        ∧ (out = .illegal ∨ (∃ t e, out = .exc t e) → access true = .next s)
        ∧ ∀ y t, out = .wait y t → access true = .next { t with part := { t.part with posted := t.part.posted
            ++ [{ hart := h, reg := n, data := v, sender := by_, stalled := y == .kctxr }] } })) := by
  intro by_ n out
  refine ⟨fun hn => ?_, fun h8 hm => ?_⟩
  · rw [e, outsideKreg_none hn]
  · have ht := e true
    have hf := e false
    rw [outsideKreg_reg h8 hm, if_pos rfl] at ht
    rw [outsideKreg_reg h8 hm, if_neg Bool.false_ne_true] at hf
    refine ⟨hf, fun hl => ?_, fun hl => ⟨fun t ho => ?_, fun ho => ?_, fun y t ho => ?_⟩⟩
    · rw [ht, post_dead hl]
    · rw [ht, post_ok hl ho]
    · rw [ht, post_failed hl ho]
    · rw [ht, post_waits hl ho]
      rfl

/-- Settles O59, event by event: a transaction that ends alters one hart by its asker, and the loss of the host link acts hart by
hart. -/
theorem linksAct : Obligations.LinksAct := by
  unfold Obligations.LinksAct
  refine ⟨renconTransaction_spec, exec_renconTransaction_here, fun s id => ?_, fun s p => ?_, fun s a v hr h8 => ?_,
    fun s w a v => ?_, fun s p hp hl => ?_, fun s h => exec_hostLinkDown_down h, fun s h => hostLinkDown_spec s h,
    fun s x hx => ?_, fun s => rfl, hostLinkTrain_spec, fun s off v => ?_⟩
  · intro found
    refine ⟨fun hn => ⟨exec_retransmit_none hn, exec_ack_none hn⟩, fun x hf => ?_⟩
    intro rest again v held waits vamo goesOn copied one
    obtain rfl := trans_id hf
    have hheld : held ↔ s.frozen x = true := (frozen_iff s x).symm
    refine ⟨exec_retransmit_again hf, fun hh => exec_held hf (hheld.mp hh), fun hn hh hv => ?_, fun hn hh hv => ?_, fun hh => ?_⟩
    · rw [exec_retransmit_unreachable hf hn (mt hheld.mpr hh), unreachable_dead hv]
      rfl
    · dsimp only
      rw [exec_retransmit_unreachable hf hn (mt hheld.mpr hh)]
      cases ha : x.asker with
      | scalar => exact ends_scalar hv ha
      | vector =>
        exact ⟨ends_vector_write hv ha, ends_vector_unawaited hv ha, ends_vector_vamo hv ha, ends_vector_lost hv ha⟩
      | fetch => exact ends_fetch hv ha
      | vfetch => exact ⟨ends_vfetch hv ha, ends_vfetch_unawaited hv ha⟩
      | chunk q k =>
        dsimp only
        split
        · next c hc => exact ⟨fun hd => ends_chunk_done hv ha fun d hd' => by
            obtain rfl := Option.some.inj (hc.symm.trans hd'); exact hd, fun hd => ends_chunk_open hv ha hc hd⟩
        · next hc => exact ends_chunk_done hv ha fun d hd' => by rw [hc] at hd'; cases hd'
      | outside => rw [unreachable_outside hv ha]; exact ends_drop ..
    · have hfr := mt hheld.mpr hh
      refine ⟨fun hw hb => exec_ack_behind hf ((behind_iff s hw).mpr hb), fun hw hb => ?_, fun hw => ?_⟩
      · refine ⟨_, exec_ack_write hf hfr hw fun hc => ?_, land_dropTrans s x x.id⟩
        obtain ⟨u, hu, hid, hm⟩ := (behind_iff s hw).mp hc
        exact hb u hu hid hm
      · rw [exec_ack_read hf hfr hw]
        cases ha : x.asker with
        | scalar => exact ends_of_alters (alters_deliver_scalar ha)
        | fetch => exact ends_of_alters (alters_deliver_fetch ha)
        | vector =>
          exact ⟨ends_deliver_awaited ha, ends_deliver_unawaited ha⟩
        | vfetch => exact ends_of_alters (alters_deliver_vfetch ha)
        | chunk q k =>
          dsimp only
          split
          · next c hc => exact ends_of_alters (alters_deliver_chunk (s := s.dropTrans x.id) ha hc)
          · next hc => rw [deliver_chunk_none (s := s.dropTrans x.id) ha hc]; exact ends_drop ..
        | outside => rw [deliver_outside ha]; exact ends_drop ..
  · exact ⟨exec_ports_none s, exec_portRejoin_up s, spareLaneSwitch_spec s, portRejoin_spec s⟩
  · intro writes reads
    exact ⟨⟨_, exec_fabric_hbm h8 hr true v, outside_writes h8 .outside v⟩, exec_fabric_hbm h8 hr false v,
      fun hu => ⟨⟨_, exec_hostCxl_hbm h8 hr hu true v, outside_writes h8 .scalar v⟩, exec_hostCxl_hbm h8 hr hu false v⟩⟩
  · refine ⟨fun hr => exec_fabric_notReady hr w v, fun hr => exec_hostCxl_notReady hr w v, fun hr off hk h8 =>
      ⟨exec_fabric_engine hr hk h8 true v, exec_fabric_engine hr hk h8 false v⟩, fun h off hr hk => ?_⟩
    exact ⟨outsideKreg_spec s h off v w _ fun k => exec_fabric_kwin hr hk k v,
      fun hu => outsideKreg_spec s h off v w _ fun k => exec_hostCxl_kwin hr hk hu k v⟩
  · intro u out
    have hu : (u.hartAt p.hart).live = true := hl
    rw [stepMove_posted hp]
    refine ⟨fun t ho => ?_, fun ho => ?_, fun y t ho => ?_⟩
    · exact congrArg _ (post_ok hu ho)
    · exact congrArg _ (post_failed hu ho)
    · exact congrArg _ (post_waits hu ho)
  · obtain ⟨ht, hh, -, -, hb⟩ := land_dropTrans s.pass x x.id
    exact ⟨_, stepMove_persist hx, hh, ht, hb⟩
  · obtain ⟨h1, h2⟩ := hostStatusRead_spec s off
    exact ⟨h1, h2, rfl⟩

end Sys2Proof.Claims

/-! PROOFS. The hoist map and gangs of slabs (R12-R14, R224, R229). -/

namespace Sys2Proof.Machine

/-! ### The bytes of a hoist map -/

theorem ofBytes_bytesOf_32 (v : W32) : (ofBytes 32 (bytesOf v 4) : W32) = v := by
  refine BitVec.eq_of_getLsbD_eq fun i hi => ?_
  rw [getLsbD_ofBytes_bytesOf, decide_eq_true hi]
  rfl

theorem length_hoistBytes (l : List W32) : (hoistBytes l).length = 4 * l.length := by
  induction l with
  | nil => rfl
  | cons e l ih =>
    rw [show hoistBytes (e :: l) = bytesOf e 4 ++ hoistBytes l from rfl, List.length_append, ih, length_bytesOf, List.length_cons]
    omega

/-- The map is told entry by entry (R12). -/
theorem hoistBytes_entry (l : List W32) {i : Nat} (h : i < l.length) :
    ((hoistBytes l).drop (4 * i)).take 4 = bytesOf (l.getD i 0) 4 := by
  induction l generalizing i with
  | nil => cases h
  | cons e l ih =>
    rw [show hoistBytes (e :: l) = bytesOf e 4 ++ hoistBytes l from rfl]
    cases i with
    | zero => exact List.take_left' (length_bytesOf e 4)
    | succ i =>
      have hd : (bytesOf e 4 ++ hoistBytes l).drop (4 * (i + 1)) = (hoistBytes l).drop (4 * i) := by
        rw [List.drop_append, length_bytesOf, List.drop_eq_nil_of_le (by rw [length_bytesOf]; omega), List.nil_append]
        congr 1
      rw [hd, ih (by simpa using h)]
      rfl

theorem ready_iff (s : State) : s.ready = true ↔ s.part.power = true ∧ tst s.part.kbist 63 = true := by
  rw [State.ready, State.isDone, Bool.and_eq_true]

/-! ### Who may form a gang of slabs -/

section May
variable {s : State} {c d i j : Nat}

theorem hoistBit_of_slot (h : s.slot c = some i) (b : Nat) : s.hoistBit c b = tst (s.hoistAt i) b := by
  rw [State.hoistBit, h]

theorem inReach_iff (i k : Nat) : inReach i k = true ↔ i % 17 ≤ k ∧ k ≤ i % 17 + 2 ∧ k ≤ 17 := by
  simp only [inReach, Bool.and_eq_true, decide_eq_true_eq, and_assoc]

/-- The pair at two places of the entry of an index lies in the reach of the helm of index i (R13). -/
def State.Near (s : State) (i k lo up : Nat) : Prop := fld (s.hoistAt k) lo 2 ≠ 3 ∧ fld (s.hoistAt k) up 2 ≠ 3
  ∧ inReach i (k % 17 + fld (s.hoistAt k) lo 2) = true ∧ inReach i (k % 17 + fld (s.hoistAt k) up 2) = true

/-- The pair that two codes of the entry of an index name, where both name one. -/
def State.pairAt (s : State) (k lo up : Nat) : Option Pair :=
  (slabOf k (s.hoistAt k) lo).bind fun x => (slabOf k (s.hoistAt k) up).map fun y => { lo := x, up := y }

theorem pairOf_pair (s : State) (j : Nat) : (s.pairOf j).map Prod.snd =
    if tst (s.hoistAt j) 29 then ((s.leaderOf (fld (s.hoistAt j) 18 6)).bind s.slot).bind fun k => s.pairAt k 10 8
    else s.pairAt j 14 12 := by
  have mk : ∀ (cand : List Nat) (a b : Option Nat), (match a, b with
      | some x, some y => some (cand, ({ lo := x, up := y } : Pair))
      | _, _ => none).map Prod.snd = a.bind fun x => b.map fun y => { lo := x, up := y } := fun cand a b => by
    cases a <;> cases b <;> rfl
  unfold State.pairOf
  dsimp only
  split_ifs
  · cases (s.leaderOf (fld (s.hoistAt j) 18 6)).bind s.slot with
    | none => rfl
    | some k => exact mk ..
  · exact mk ..

theorem pairAt_reached (k lo up : Nat) :
    (∃ p, s.pairAt k lo up = some p ∧ inReach i p.lo = true ∧ inReach i p.up = true) ↔ s.Near i k lo up := by
  unfold State.Near State.pairAt slabOf
  by_cases h1 : fld (s.hoistAt k) lo 2 = 3 <;> by_cases h2 : fld (s.hoistAt k) up 2 = 3 <;> simp [h1, h2]

theorem pairReached_pair (hc : s.slot c = some i) (hd : s.slot d = some j) : s.pairReached c d = true ↔
    ∃ p, (s.pairOf j).map Prod.snd = some p ∧ inReach i p.lo = true ∧ inReach i p.up = true := by
  rw [State.pairReached, hc, hd, Option.bind_some]
  cases s.pairOf j <;> simp

theorem pairReached_iff (hc : s.slot c = some i) (hd : s.slot d = some j) : s.pairReached c d = true ↔
    if tst (s.hoistAt j) 29 then ∃ m k, s.leaderOf (fld (s.hoistAt j) 18 6) = some m ∧ s.slot m = some k ∧ s.Near i k 10 8
    else s.Near i j 14 12 := by
  rw [pairReached_pair hc hd, pairOf_pair]
  split_ifs
  · cases hl : s.leaderOf (fld (s.hoistAt j) 18 6) with
    | none => simp
    | some m =>
      cases hm : s.slot m with
      | none => simp [hm]
      | some k => simpa [hm] using pairAt_reached k 10 8
  · exact pairAt_reached j 14 12

theorem holdsHelm_iff (s : State) (h : Nat) : s.holdsHelm h = false ↔
    (s.hartAt h).head = (s.hartAt h).next ∧ s.ownsArray h = false ∧ s.ownsStream h = false
      ∧ ∀ k, k ∈ (s.hartAt h).ctx.copies → k.outstanding = false ∧ k.isHeld = false := by
  simp only [State.holdsHelm, Bool.or_eq_false_iff, List.any_eq_false, bne_eq_false_iff_eq, Bool.not_eq_true]
  tauto

end May

/-! ### The pending change that takes effect -/

section Pick
variable {ready : GangChange → Bool}

theorem pickGang_none {old l : List GangChange}
    (h : ∀ a g b, l = a ++ g :: b → (ready g && !(old ++ a).any g.meets) = false) : pickGang ready old l = none := by
  induction l generalizing old with
  | nil => rfl
  | cons g l ih =>
    have hg := h [] g l rfl
    rw [List.append_nil] at hg
    rw [pickGang, if_neg (by rw [hg]; exact Bool.false_ne_true)]
    refine ih fun a k b e => ?_
    have hk := h (g :: a) k b (by rw [e]; rfl)
    rwa [List.append_assoc]

theorem pickGang_some {old l rest : List GangChange} {g : GangChange} (done : List GangChange)
    (h : ∀ a k b, old = a ++ k :: b → (ready k && !(done ++ a).any k.meets) = false)
    (hg : (ready g && !(done ++ old).any g.meets) = true) (e : l = old ++ g :: rest) :
    pickGang ready done l = some (g, (done ++ old) ++ rest) := by
  subst e
  induction old generalizing done with
  | nil =>
    rw [List.append_nil] at hg ⊢
    rw [List.nil_append, pickGang, if_pos hg]
  | cons k old ih =>
    have hk := h [] k old rfl
    rw [List.append_nil] at hk
    rw [List.cons_append, pickGang, if_neg (by rw [hk]; exact Bool.false_ne_true),
      ih (done ++ [k]) (fun a x b e => by
        have hx := h (k :: a) x b (by rw [e]; rfl)
        rwa [List.append_assoc]) (by rwa [List.append_assoc])]
    simp

end Pick

theorem meets_iff (g k : GangChange) : g.meets k = true ↔
    g.leader = k.leader ∨ g.leader = k.dark ∨ g.dark = k.leader ∨ g.dark = k.dark := by
  simp only [GangChange.meets, Bool.or_eq_true, beq_iff_eq, or_assoc]

theorem helmIdle_iff (s : State) (c : Nat) : s.helmIdle c = true ↔
    (s.coreAt c).array.owner = none ∧ (s.coreAt c).stream.owner = none
      ∧ ∀ t, t < 4 → (s.hartAt (4 * c + t)).ctx.blk = none ∧ ∀ q ∈ (s.hartAt (4 * c + t)).ctx.copies, q.outstanding = false := by
  simp only [State.helmIdle, Bool.and_eq_true, Option.isNone_iff_eq_none, List.all_eq_true, List.mem_range,
    Bool.not_eq_true', List.any_eq_false, Bool.not_eq_true, and_assoc]

theorem gangReady_iff (s : State) (g : GangChange) : s.gangReady g = true ↔ s.helmIdle g.leader = true ∧ s.helmIdle g.dark = true
    ∧ tst (s.coreAt g.leader).kbecalm 63 = false ∧ tst (s.coreAt g.dark).kbecalm 63 = false := by
  simp only [State.gangReady, State.isBecalmed, Bool.and_eq_true, Bool.not_eq_true', and_assoc]

end Sys2Proof.Machine


namespace Sys2Proof.Machine

/-! ### Harts changed in turn -/

section FoldHarts
variable (f : Hart → Hart) (s : State)

theorem foldl_modHart_frame (l : List Nat) : (l.foldl (fun u h => u.modHart h f) s).part = s.part
    ∧ (l.foldl (fun u h => u.modHart h f) s).cores = s.cores := by
  induction l generalizing s with
  | nil => exact ⟨rfl, rfl⟩
  | cons h l ih => exact ih (s.modHart h f)

theorem foldl_modHart_hartAt {l : List Nat} (hn : l.Nodup) (j : Nat) :
    (l.foldl (fun u h => u.modHart h f) s).hartAt j = if j ∈ l then f (s.hartAt j) else s.hartAt j := by
  induction l generalizing s with
  | nil => rfl
  | cons h l ih =>
    obtain ⟨hh, hl⟩ := List.nodup_cons.mp hn
    rw [List.foldl_cons, ih _ hl, State.hartAt_modHart]
    by_cases e : j = h
    · subst e
      rw [if_neg hh, if_pos rfl, if_pos List.mem_cons_self]
    · rw [if_neg e]
      simp only [List.mem_cons, e, false_or]

/-- The four harts of a core. -/
def hartsOf (c : Nat) : List Nat := (List.range 4).map fun t => 4 * c + t

theorem mem_hartsOf {c j : Nat} : j ∈ hartsOf c ↔ j / 4 = c := by
  simp only [hartsOf, List.mem_map, List.mem_range]
  exact ⟨fun ⟨t, ht, e⟩ => by omega, fun h => ⟨j % 4, by omega, by omega⟩⟩

theorem nodup_hartsOf (c : Nat) : (hartsOf c).Nodup :=
  List.Nodup.map (fun a b h => by simpa using h) List.nodup_range

theorem modHarts_frame (c : Nat) : (s.modHarts c f).part = s.part ∧ (s.modHarts c f).cores = s.cores :=
  foldl_modHart_frame f s _

/-- The harts that exist on a core changed. -/
theorem modHarts_hartAt (c j : Nat) :
    (s.modHarts c f).hartAt j = if j / 4 = c ∧ (s.hartAt j).live = true then f (s.hartAt j) else s.hartAt j := by
  have hn : (s.hartsOn c).Nodup := (nodup_hartsOf c).filter _
  rw [State.modHarts, foldl_modHart_hartAt f s hn]
  have hm : j ∈ s.hartsOn c ↔ j / 4 = c ∧ (s.hartAt j).live = true := by
    rw [← mem_hartsOf]
    exact List.mem_filter
  simp only [hm]

end FoldHarts

/-! ### A helm cleared (R14, R42) -/

/-- A hart whose helm has been cleared. -/
def Hart.cleared (v : Hart) : Hart := { v with ctx := { v.ctx.setChanged with kmtile := 0 } }

/-- A core whose helm has been cleared. -/
def Core.cleared (k : Core) : Core :=
  { k with clusters := [], tiles := [], zpoison := [], counters := [], descs := [], dpoison := [] }

section Clear
variable (s : State) (c : Nat)

theorem clearHelm_eq : s.clearHelm c =
    ((hartsOf c).foldl (fun u h => u.modHart h Hart.cleared) s).modCore c Core.cleared := by
  rw [hartsOf, List.foldl_map]
  rfl

theorem clearHelm_part : (s.clearHelm c).part = s.part := by
  rw [clearHelm_eq]
  exact (foldl_modHart_frame Hart.cleared s _).1

theorem clearHelm_hartAt (j : Nat) :
    (s.clearHelm c).hartAt j = if j / 4 = c then (s.hartAt j).cleared else s.hartAt j := by
  rw [clearHelm_eq, State.hartAt_modCore, foldl_modHart_hartAt _ _ (nodup_hartsOf c)]
  simp only [mem_hartsOf]

theorem clearHelm_coreAt (k : Nat) : (s.clearHelm c).coreAt k = if k = c then (s.coreAt k).cleared else s.coreAt k := by
  rw [clearHelm_eq, State.coreAt_modCore, State.coreAt, (foldl_modHart_frame Hart.cleared s _).2]
  rfl

end Clear

/-! ### Clusters settle where no context is stalled -/

/-- With nobody stalled on a core nothing but the shape of the map of cores changes. -/
theorem settle_unstalled {s : State} {c : Nat} (h : (s.coreAt c).stalled = []) :
    (s.settle c).part = s.part ∧ (s.settle c).harts = s.harts ∧ ∀ k, (s.settle c).coreAt k = s.coreAt k := by
  have hf : s.feedFree c = s := by rw [State.feedFree, h]; rfl
  have hd : ∀ t, (if s.gives c t then s.donateFrom c t else s) = s := fun t => by
    rw [State.donateFrom, h]
    split_ifs <;> rfl
  have hdonate : s.donate c = s := by
    have key : ∀ l : List Nat, l.foldl (fun u t => if u.gives c t then u.donateFrom c t else u) s = s := fun l => by
      induction l with
      | nil => rfl
      | cons t l ih => rw [List.foldl_cons, hd, ih]
    exact key _
  rw [State.settle]
  split_ifs
  · exact ⟨rfl, rfl, fun _ => rfl⟩
  · rw [hf, hdonate]
    refine ⟨rfl, rfl, fun k => ?_⟩
    rw [State.leaveStalled, State.coreAt_modCore]
    split_ifs with e
    · subst e
      rw [h]
      exact congrArg (fun l => { s.coreAt k with stalled := l }) h.symm
    · rfl

/-! ### The entries of a gang of slabs (Table 1-3) -/

/-- The entry of a leader: G, and the codes of its second pair. -/
def leaderEntry (x : W32) (lo up : Nat) : W32 := putFld (putFld (putBit x 30 true) atL1 2 lo) atU1 2 up

/-- The entry of a dark helm: D, and no pair of its own. -/
def darkEntry (x : W32) : W32 := putFld (putFld (putBit x 29 true) atL0 2 3) atU0 2 3

/-- The entry of a helm that leads no more. -/
def freedEntry (x : W32) : W32 := putFld (putFld (putBit x 30 false) atL1 2 3) atU1 2 3

/-- The entry of a helm that is dark no more: the codes of its pair. -/
def litEntry (x : W32) (lo up : Nat) : W32 := putFld (putFld (putBit x 29 false) atL0 2 lo) atU0 2 up

theorem fld_four {w : Nat} (v : BitVec w) (lo : Nat) : fld v lo 4 = fld v lo 2 + 4 * fld v (lo + 2) 2 := by
  simp only [fld, Nat.shiftRight_eq_div_pow, Nat.pow_add]
  rw [← Nat.div_div_eq_div_mul]
  omega

section Entries
variable (x : W32) {lo up : Nat}

/-- What says which helm an entry is of. -/
def SameHelm (x y : W32) : Prop := tst y 31 = tst x 31 ∧ fld y 18 6 = fld x 18 6

theorem sameHelm_put (b : Bool) {i a c m n : Nat} (hi : i = 29 ∨ i = 30) (ha : a + 2 ≤ 18) (hc : c + 2 ≤ 18) :
    SameHelm x (putFld (putFld (putBit x i b) a 2 m) c 2 n) := by
  constructor
  · rw [tst_putFld, if_neg (by omega), tst_putFld, if_neg (by omega), tst_putBit, if_neg (by omega)]
  · rw [fld_putFld_ne _ _ (by omega), fld_putFld_ne _ _ (by omega), fld_putBit_ne _ _ (by omega)]

theorem leaderEntry_fields (hl : lo < 4) (hu : up < 4) : tst (leaderEntry x lo up) 30 = true
    ∧ fld (leaderEntry x lo up) 12 4 = fld x 12 4 ∧ fld (leaderEntry x lo up) 10 2 = lo ∧ fld (leaderEntry x lo up) 8 2 = up := by
  simp only [leaderEntry, atL1, atU1]
  refine ⟨?_, ?_, ?_, ?_⟩
  · rw [tst_putFld, if_neg (by omega), tst_putFld, if_neg (by omega), tst_putBit, if_pos (by omega)]
  · rw [fld_putFld_ne _ _ (by omega), fld_putFld_ne _ _ (by omega), fld_putBit_ne _ _ (by omega)]
  · rw [fld_putFld_ne _ _ (by omega), fld_putFld_self _ _ _ _ (by omega)]
    exact Nat.mod_eq_of_lt hl
  · rw [fld_putFld_self _ _ _ _ (by omega)]
    exact Nat.mod_eq_of_lt hu

theorem darkEntry_fields : tst (darkEntry x) 29 = true ∧ fld (darkEntry x) 12 4 = 15 := by
  simp only [darkEntry, atL0, atU0]
  refine ⟨?_, ?_⟩
  · rw [tst_putFld, if_neg (by omega), tst_putFld, if_neg (by omega), tst_putBit, if_pos (by omega)]
  · rw [fld_four, fld_putFld_self _ _ _ _ (by omega), fld_putFld_ne _ _ (by omega), fld_putFld_self _ _ _ _ (by omega)]
    rfl

theorem freedEntry_fields : tst (freedEntry x) 30 = false ∧ fld (freedEntry x) 8 4 = 15 := by
  simp only [freedEntry, atL1, atU1]
  refine ⟨?_, ?_⟩
  · rw [tst_putFld, if_neg (by omega), tst_putFld, if_neg (by omega), tst_putBit, if_pos (by omega)]
  · rw [fld_four, fld_putFld_self _ _ _ _ (by omega), fld_putFld_ne _ _ (by omega), fld_putFld_self _ _ _ _ (by omega)]
    rfl

theorem litEntry_fields (hl : lo < 4) (hu : up < 4) : tst (litEntry x lo up) 29 = false
    ∧ fld (litEntry x lo up) 14 2 = lo ∧ fld (litEntry x lo up) 12 2 = up := by
  simp only [litEntry, atL0, atU0]
  refine ⟨?_, ?_, ?_⟩
  · rw [tst_putFld, if_neg (by omega), tst_putFld, if_neg (by omega), tst_putBit, if_pos (by omega)]
  · rw [fld_putFld_ne _ _ (by omega), fld_putFld_self _ _ _ _ (by omega)]
    exact Nat.mod_eq_of_lt hl
  · rw [fld_putFld_self _ _ _ _ (by omega)]
    exact Nat.mod_eq_of_lt hu

end Entries

theorem codeOf_lt (i : Nat) (o : Option Nat) : codeOf i o < 4 := by
  cases o with
  | none => simp [codeOf]
  | some k =>
    rw [codeOf]
    split_ifs <;> omega

/-- The code of a slab that another helm's entry names. -/
theorem codeOf_slabOf {i j at_ x : Nat} {e : W32} (h : fld e at_ 2 ≠ 3) (hx : j % 17 + fld e at_ 2 = i % 17 + x) (h3 : x < 3) :
    codeOf i (slabOf j e at_) = x := by
  rw [slabOf, if_neg h, codeOf]
  rw [if_pos (by omega)]
  omega

/-! ### Two entries of the map changed -/

section SetTwo
variable (l : List W32) {i j : Nat} (x y : W32)

theorem getD_set_self (h : i < l.length) : (l.set i x).getD i 0 = x := by
  simp [List.getD_eq_getElem?_getD, h]

theorem getD_set_ne {k : Nat} (h : k ≠ i) : (l.set i x).getD k 0 = l.getD k 0 := by
  simp [List.getD_eq_getElem?_getD, Ne.symm h]

theorem findIdx?_set {p : W32 → Bool} (h : p x = p (l.getD i 0)) : (l.set i x).findIdx? p = l.findIdx? p := by
  by_cases hi : i < l.length
  · have hm : (l.set i x).map p = l.map p := by
      rw [List.map_set, h]
      refine List.ext_getElem (by simp) fun k h1 h2 => ?_
      rw [List.getElem_set]
      split_ifs with e
      · subst e; simp [List.getD_eq_getElem?_getD, hi]
      · rfl
    rw [← Function.id_comp p, ← List.findIdx?_map, ← List.findIdx?_map, hm]
  · rw [List.set_eq_of_length_le (by omega)]

theorem slot_set {s t : State} {x : W32} {i : Nat} (h : t.part.hoist = s.part.hoist.set i x) (hs : SameHelm (s.hoistAt i) x)
    (c : Nat) : t.slot c = s.slot c := by
  rw [State.slot, State.slot, h, findIdx?_set]
  obtain ⟨h1, h2⟩ := hs
  rw [h1, h2]
  rfl

theorem slot_lt {s : State} {c i : Nat} (h : s.slot c = some i) : i < s.part.hoist.length :=
  (List.findIdx?_eq_some_iff_getElem.mp h).1

end SetTwo

end Sys2Proof.Machine


namespace Sys2Proof.Machine

/-! ### The change of a gang of slabs -/

/-- Two helms under another hoist map: what they have retired, and the harts of the second. -/
def State.regang (s : State) (c d : Nat) (l : List W32) (f : Hart → Hart) : State :=
  (((s.modPart fun p => { p with hoist := l }).findRetired c).findRetired d).modHarts d f

/-- Core k′ is core k but for what it has retired and who is stalled on it. -/
def Core.Like (k k' : Core) : Prop := ∃ r o l, k' = { k with retired := r, lanesOut := o, stalled := l }

theorem Core.Like.refl (k : Core) : k.Like k := ⟨_, _, _, rfl⟩

theorem Core.Like.trans {k m n : Core} (h : k.Like m) (g : m.Like n) : k.Like n := by
  obtain ⟨r, o, l, rfl⟩ := h
  obtain ⟨r', o', l', rfl⟩ := g
  exact ⟨r', o', l', rfl⟩

theorem findRetired_coreAt (s : State) (c k : Nat) : (s.coreAt k).Like ((s.findRetired c).coreAt k)
    ∧ ((s.findRetired c).coreAt k).stalled = (s.coreAt k).stalled := by
  rw [State.findRetired, State.coreAt_modCore]
  split_ifs
  · exact ⟨⟨_, _, _, rfl⟩, rfl⟩
  · exact ⟨.refl _, rfl⟩

section Regang
variable (s : State) (c d : Nat) (l : List W32) (f : Hart → Hart)

theorem regang_part : (s.regang c d l f).part = { s.part with hoist := l } := (modHarts_frame f _ d).1

theorem regang_hartAt (j : Nat) :
    (s.regang c d l f).hartAt j = if j / 4 = d ∧ (s.hartAt j).live = true then f (s.hartAt j) else s.hartAt j :=
  modHarts_hartAt f _ d j

theorem regang_coreAt (k : Nat) : (s.coreAt k).Like ((s.regang c d l f).coreAt k)
    ∧ ((s.regang c d l f).coreAt k).stalled = (s.coreAt k).stalled := by
  have e : (s.regang c d l f).coreAt k =
      (((s.modPart fun p => { p with hoist := l }).findRetired c).findRetired d).coreAt k := by
    rw [State.coreAt, State.regang, (modHarts_frame f _ d).2]
    rfl
  rw [e]
  obtain ⟨h1, e1⟩ := findRetired_coreAt (s.modPart fun p => { p with hoist := l }) c k
  obtain ⟨h2, e2⟩ := findRetired_coreAt ((s.modPart fun p => { p with hoist := l }).findRetired c) d k
  exact ⟨h1.trans h2, e2.trans e1⟩

end Regang

section Change
variable (s : State) (g : GangChange) (i j : Nat)

/-- Two entries of the map changed in turn. -/
theorem modHoist_modHoist {s : State} {i j : Nat} (hn : i ≠ j) (x y : W32 → W32) : (s.modHoist i x).modHoist j y =
    s.modPart fun p => { p with hoist := (s.part.hoist.set i (x (s.hoistAt i))).set j (y (s.hoistAt j)) } := by
  have hd : (s.part.hoist.set i (x (s.hoistAt i))).getD j 0 = s.hoistAt j := getD_set_ne _ _ hn.symm
  rw [← hd]
  rfl

/-- The entry of the leader after a change. -/
def GangChange.leads (g : GangChange) (s : State) (i j : Nat) : W32 :=
  if g.form then leaderEntry (s.hoistAt i) (codeOf i (slabOf j (s.hoistAt j) 14)) (codeOf i (slabOf j (s.hoistAt j) 12))
  else freedEntry (s.hoistAt i)

/-- The entry of the other helm after a change. -/
def GangChange.follows (g : GangChange) (s : State) (i j : Nat) : W32 :=
  if g.form then darkEntry (s.hoistAt j)
  else litEntry (s.hoistAt j) (codeOf j (slabOf i (s.hoistAt i) 10)) (codeOf j (slabOf i (s.hoistAt i) 8))

/-- The hoist map after a change. -/
def GangChange.map (g : GangChange) (s : State) (i j : Nat) : List W32 :=
  (s.part.hoist.set i (g.leads s i j)).set j (g.follows s i j)

/-- A hart of the helm that goes dark, or comes back. -/
def GangChange.turns (g : GangChange) : Hart → Hart := if g.form then scalarHart else vectorHart

variable {s g i j}

theorem sameHelm_leads : SameHelm (s.hoistAt i) (g.leads s i j) := by
  unfold GangChange.leads
  split_ifs
  · exact sameHelm_put _ _ (.inr rfl) (by simp [atL1]) (by simp [atU1])
  · exact sameHelm_put _ _ (.inr rfl) (by simp [atL1]) (by simp [atU1])

theorem sameHelm_follows : SameHelm (s.hoistAt j) (g.follows s i j) := by
  unfold GangChange.follows
  split_ifs
  · exact sameHelm_put _ _ (.inl rfl) (by simp [atL0]) (by simp [atU0])
  · exact sameHelm_put _ _ (.inl rfl) (by simp [atL0]) (by simp [atU0])

section Slots
variable (hi : s.slot g.leader = some i) (hj : s.slot g.dark = some j) (hn : i ≠ j)
include hi hj hn

/-- A gang change moves the hoist map and the harts of the other helm; a gang that forms leaves no context of it stalled. -/
theorem gang_eq : (if g.form then s.formGang g.leader g.dark else s.dissolveGang g.leader g.dark) =
    if g.form then (s.regang g.leader g.dark (g.map s i j) g.turns).modCore g.dark fun k => { k with stalled := [] }
    else s.regang g.leader g.dark (g.map s i j) g.turns := by
  split_ifs with hf
  · rw [State.formGang, hi, hj]
    dsimp only
    rw [modHoist_modHoist hn, GangChange.turns, if_pos hf, GangChange.map, GangChange.leads, GangChange.follows, if_pos hf,
      if_pos hf]
    rfl
  · rw [State.dissolveGang, hi, hj]
    dsimp only
    rw [modHoist_modHoist hn, GangChange.turns, if_neg hf, GangChange.map, GangChange.leads, GangChange.follows, if_neg hf,
      if_neg hf]
    rfl

end Slots
end Change

end Sys2Proof.Machine


namespace Sys2Proof.Machine

section Changed
variable {s : State} {g : GangChange} {i j : Nat}

/-- Both helms cleared. -/
def State.clearBoth (s : State) (g : GangChange) : State := (s.clearHelm g.leader).clearHelm g.dark

theorem clearBoth_part : (s.clearBoth g).part = s.part := by rw [State.clearBoth, clearHelm_part, clearHelm_part]

section Apart
variable (hn : g.leader ≠ g.dark)
include hn

theorem clearBoth_hartAt (h : Nat) :
    (s.clearBoth g).hartAt h = if h / 4 = g.leader ∨ h / 4 = g.dark then (s.hartAt h).cleared else s.hartAt h := by
  rw [State.clearBoth, clearHelm_hartAt, clearHelm_hartAt]
  by_cases h1 : h / 4 = g.leader
  · rw [if_neg (by rw [h1]; exact hn), if_pos h1, if_pos (.inl h1)]
  · simp [h1]

theorem clearBoth_coreAt (k : Nat) :
    (s.clearBoth g).coreAt k = if k = g.leader ∨ k = g.dark then (s.coreAt k).cleared else s.coreAt k := by
  rw [State.clearBoth, clearHelm_coreAt, clearHelm_coreAt]
  by_cases h1 : k = g.leader
  · rw [if_neg (by rw [h1]; exact hn), if_pos h1, if_pos (.inl h1)]
  · simp [h1]

end Apart

theorem map_congr {t : State} (h : t.part = s.part) : g.map t i j = g.map s i j := by
  simp only [GangChange.map, GangChange.leads, GangChange.follows, State.hoistAt, h]

theorem slot_congr {t : State} (h : t.part = s.part) (c : Nat) : t.slot c = s.slot c := by
  simp only [State.slot, h]

/-- The helm of a core number is one. -/
theorem slot_inj {c d : Nat} (hi : s.slot c = some i) (hj : s.slot d = some j) (hn : i ≠ j) : c ≠ d := by
  rintro rfl
  exact hn (Option.some.inj (hi.symm.trans hj))

/-- The cleared helms under the new map. -/
def State.regangBoth (s : State) (g : GangChange) : State :=
  if g.form then (s.clearBoth g).formGang g.leader g.dark else (s.clearBoth g).dissolveGang g.leader g.dark

section Slots
variable (hi : s.slot g.leader = some i) (hj : s.slot g.dark = some j) (hn : i ≠ j)
include hi hj hn

theorem regangBoth_eq : s.regangBoth g =
    if g.form then ((s.clearBoth g).regang g.leader g.dark (g.map s i j) g.turns).modCore g.dark fun k => { k with stalled := [] }
    else (s.clearBoth g).regang g.leader g.dark (g.map s i j) g.turns := by
  have hp := clearBoth_part (s := s) (g := g)
  rw [State.regangBoth, gang_eq ((slot_congr hp _).trans hi) ((slot_congr hp _).trans hj) hn, map_congr hp]

theorem regangBoth_part : (s.regangBoth g).part = { s.part with hoist := g.map s i j } := by
  have h := regang_part (s.clearBoth g) g.leader g.dark (g.map s i j) g.turns
  rw [clearBoth_part] at h
  rw [regangBoth_eq hi hj hn]
  generalize (s.clearBoth g).regang g.leader g.dark (g.map s i j) g.turns = r at h ⊢
  split_ifs
  · rw [State.modCore_part, h]
  · exact h

theorem regangBoth_hartAt (h : Nat) : (s.regangBoth g).hartAt h =
    if h / 4 = g.dark ∧ (s.hartAt h).live = true then g.turns (s.hartAt h).cleared
    else if h / 4 = g.leader ∨ h / 4 = g.dark then (s.hartAt h).cleared else s.hartAt h := by
  have hc := clearBoth_hartAt (s := s) (slot_inj hi hj hn) h
  have hlive : ((s.clearBoth g).hartAt h).live = (s.hartAt h).live := by
    rw [hc]
    split_ifs <;> rfl
  have e : (s.regangBoth g).hartAt h =
      ((s.clearBoth g).regang g.leader g.dark (g.map s i j) g.turns).hartAt h := by
    rw [regangBoth_eq hi hj hn]
    generalize (s.clearBoth g).regang g.leader g.dark (g.map s i j) g.turns = r
    split_ifs
    · exact State.hartAt_modCore ..
    · rfl
  rw [e, regang_hartAt, hlive, hc]
  by_cases hd : h / 4 = g.dark
  · simp only [hd, true_and, or_true, if_true]
  · simp only [hd, false_and, or_false, if_false]

theorem regangBoth_coreAt (k : Nat) :
    (if k = g.leader ∨ k = g.dark then (s.coreAt k).cleared else s.coreAt k).Like ((s.regangBoth g).coreAt k) := by
  have h := (regang_coreAt (s.clearBoth g) g.leader g.dark (g.map s i j) g.turns k).1
  rw [clearBoth_coreAt (slot_inj hi hj hn)] at h
  rw [regangBoth_eq hi hj hn]
  generalize (s.clearBoth g).regang g.leader g.dark (g.map s i j) g.turns = r at h ⊢
  by_cases hf : g.form = true
  · rw [if_pos hf, State.coreAt_modCore]
    by_cases hk : k = g.dark
    · rw [if_pos hk]
      exact h.trans ⟨_, _, _, rfl⟩
    · rw [if_neg hk]
      exact h
  · rw [if_neg hf]
    exact h

/-- Nobody is stalled on the two helms. -/
theorem regangBoth_unstalled (hl : (s.coreAt g.leader).stalled = []) (hd : g.form = false → (s.coreAt g.dark).stalled = []) :
    ((s.regangBoth g).coreAt g.leader).stalled = [] ∧ ((s.regangBoth g).coreAt g.dark).stalled = [] := by
  have hne := slot_inj hi hj hn
  have hs : ∀ k, (((s.clearBoth g).regang g.leader g.dark (g.map s i j) g.turns).coreAt k).stalled = (s.coreAt k).stalled := fun k => by
    rw [(regang_coreAt ..).2, clearBoth_coreAt hne]
    split_ifs <;> rfl
  rw [regangBoth_eq hi hj hn]
  generalize (s.clearBoth g).regang g.leader g.dark (g.map s i j) g.turns = r at hs ⊢
  split_ifs with hf
  · exact ⟨by rw [State.coreAt_modCore_ne _ _ hne, hs, hl], by rw [State.coreAt_modCore_self]⟩
  · exact ⟨by rw [hs, hl], by rw [hs, hd (by simpa using hf)]⟩

/-- What a gang change comes to, where nobody is stalled on its helms (R13, R14). -/
theorem changeGang_spec (hl : (s.coreAt g.leader).stalled = []) (hd : g.form = false → (s.coreAt g.dark).stalled = []) :
    (s.changeGang g).part = { s.part with hoist := g.map s i j }
      ∧ (∀ h, (s.changeGang g).hartAt h = (s.regangBoth g).hartAt h)
      ∧ ∀ k, (s.changeGang g).coreAt k = (s.regangBoth g).coreAt k := by
  have e : s.changeGang g = ((s.regangBoth g).settle g.leader).settle g.dark := rfl
  have hp := regangBoth_part hi hj hn
  obtain ⟨hl, hd⟩ := regangBoth_unstalled hi hj hn hl hd
  obtain ⟨p1, h1, c1⟩ := settle_unstalled hl
  obtain ⟨p2, h2, c2⟩ := settle_unstalled (s := (s.regangBoth g).settle g.leader) (c := g.dark) (by rw [c1, hd])
  rw [e]
  refine ⟨by rw [p2, p1, hp], fun h => ?_, fun k => by rw [c2, c1]⟩
  rw [State.hartAt, h2, h1]
  rfl

end Slots
end Changed

end Sys2Proof.Machine

namespace Sys2Proof.Claims
open Sys2Proof.Machine

/-! ### Calls -/

theorem exec_firmware_notReady {s : State} (h : ¬ s.ready = true) : exec .hoistMapRead s = .next s
    ∧ ∀ c, exec (.gangRequest c) s = .next s ∧ exec (.ungangRequest c) s = .next s := by
  have hr : s.ready = false := by simpa using h
  refine ⟨?_, fun c => ⟨?_, ?_⟩⟩
  · show execHoistMapRead s = _
    rw [execHoistMapRead, if_neg h]
  · show execGangRequest c s = _
    rw [execGangRequest, hr]
    rfl
  · show execUngangRequest c s = _
    rw [execUngangRequest, hr]
    rfl

theorem exec_hoistMapRead {s : State} (h : s.ready = true) :
    exec .hoistMapRead s = .next { s with part := { s.part with mailbox := hoistBytes s.part.hoist } } := by
  show execHoistMapRead s = _
  rw [execHoistMapRead, if_pos h]
  rfl

section Requests
variable {s : State} {c d i : Nat} (hr : s.ready = true) (hn : s.nextHelm c = some d)
include hr

theorem exec_gangRequest_some (h : s.gangPartner c = some d) : exec (.gangRequest c) s =
    .next { s with part := { s.part with gangs := s.part.gangs ++ [⟨true, c, d, s.cur⟩] } } := by
  show execGangRequest c s = _
  rw [execGangRequest, hr, h]
  rfl

theorem exec_gangRequest_none (h : s.gangPartner c = none) : exec (.gangRequest c) s =
    .next { s with part := { s.part with mailbox := [1] } } := by
  show execGangRequest c s = _
  rw [execGangRequest, hr, h]
  rfl

include hn

theorem exec_ungangRequest_leads (h : s.willLead c = true) : exec (.ungangRequest c) s =
    .next { s with part := { s.part with gangs := s.part.gangs ++ [⟨false, c, d, s.cur⟩] } } := by
  show execUngangRequest c s = _
  simp only [execUngangRequest, hr, hn, h]
  rfl

theorem exec_ungangRequest_refused (h : s.willLead c = false) : exec (.ungangRequest c) s =
    .next { s with part := { s.part with mailbox := [1] } } := by
  show execUngangRequest c s = _
  simp only [execUngangRequest, hr, hn, h]
  rfl

omit hr

/-- When the next enabled helm may go dark under core c (R13, R14). -/
theorem gangPartner_iff (hc : s.slot c = some i) : s.gangPartner c = some d ↔
    s.willLead c = false ∧ s.willBeDark c = false ∧ s.willLead d = false ∧ s.willBeDark d = false ∧ s.pairReached c d = true
      ∧ ∀ t, t < 4 → s.holdsHelm (4 * d + t) = false := by
  rw [State.gangPartner, hc, hn]
  simp only [Option.ite_none_right_eq_some, and_true, Bool.and_eq_true, Bool.not_eq_true', List.any_eq_false, List.mem_range,
    Bool.not_eq_true, and_assoc]

theorem gangPartner_none (hc : s.slot c = some i) (h : s.gangPartner c ≠ some d) : s.gangPartner c = none := by
  rw [State.gangPartner, hc, hn] at h ⊢
  dsimp only at h ⊢
  split_ifs at h ⊢
  · exact absurd rfl h
  · rfl

end Requests

/-! ### Changes that wait, and changes that are refused -/

section Effect
variable {s : State}

theorem exec_gangChange_none (h : s.nextGangChange = none) : exec .gangChangeEffect s = .next s := by
  show execGangChangeEffect s = _
  rw [execGangChangeEffect, h]

theorem exec_gangChange_refused {g : GangChange} {rest : List GangChange} (h : s.nextGangChange = some (g, rest))
    (hs : s.gangStands g = false) :
    exec .gangChangeEffect s = .next { s with part := { s.part with gangs := rest, mailbox := [1] } } := by
  show execGangChangeEffect s = _
  simp only [execGangChangeEffect, h, hs]
  rfl

theorem exec_gangChange_done {g : GangChange} {rest : List GangChange} (h : s.nextGangChange = some (g, rest))
    (hs : s.gangStands g = true) : exec .gangChangeEffect s =
      .next (((s.modPart fun p => { p with gangs := rest }).changeGang g).answer [0]) := by
  show execGangChangeEffect s = _
  simp only [execGangChangeEffect, h, hs]
  rfl

/-- When a change still makes sense (R13, R213; log 124). -/
theorem gangStands_iff (s : State) (g : GangChange) : s.gangStands g = true ↔
    ∃ i j, s.slot g.leader = some i ∧ s.slot g.dark = some j ∧ s.nextHelm g.leader = some g.dark
      ∧ if g.form = true then
          (∀ k ∈ [i, j], tst (s.hoistAt k) 30 = false ∧ tst (s.hoistAt k) 29 = false)
          ∧ ∀ at_ ∈ [14, 12], fld (s.hoistAt j) at_ 2 ≠ 3 ∧ i % 17 ≤ j % 17 + fld (s.hoistAt j) at_ 2
            ∧ j % 17 + fld (s.hoistAt j) at_ 2 ≤ i % 17 + 2 ∧ j % 17 + fld (s.hoistAt j) at_ 2 ≤ 17
        else tst (s.hoistAt i) 30 = true ∧ tst (s.hoistAt j) 29 = true := by
  unfold State.gangStands State.enabled
  cases hc : s.slot g.leader with
  | none => simp
  | some i =>
    cases hd : s.slot g.dark with
    | none => simp
    | some j =>
      simp only [State.ganged, State.dark, hoistBit_of_slot hc, hoistBit_of_slot hd, Option.isSome_some, Option.some.injEq,
        exists_and_left, exists_eq_left', Bool.true_and, Bool.and_eq_true, beq_iff_eq]
      refine and_congr_right fun _ => ?_
      by_cases hf : g.form = true
      · rw [if_pos hf, if_pos hf]
        simp only [Bool.and_eq_true, Bool.not_eq_true', List.forall_mem_cons, List.not_mem_nil, false_imp_iff, implies_true,
          and_true, and_assoc]
        refine and_congr_right fun _ => and_congr_right fun _ => and_congr_right fun _ => and_congr_right fun h29 => ?_
        rw [pairReached_iff hc hd, if_neg (by rw [h29]; exact Bool.false_ne_true)]
        simp only [State.Near, inReach_iff]
        tauto
      · rw [if_neg hf, if_neg hf, Bool.and_eq_true]

end Effect

end Sys2Proof.Claims


namespace Sys2Proof.Machine

/-! ### The hoist map after a change -/

section Map
variable {s t : State} {g : GangChange} {i j : Nat} (hn : i ≠ j)

theorem map_follower (h : j < s.part.hoist.length) : (g.map s i j).getD j 0 = g.follows s i j := by
  rw [GangChange.map, getD_set_self _ _ (by rwa [List.length_set])]

theorem map_other {k : Nat} (hi : k ≠ i) (hj : k ≠ j) : (g.map s i j).getD k 0 = s.hoistAt k := by
  rw [GangChange.map, getD_set_ne _ _ hj, getD_set_ne _ _ hi, State.hoistAt]

include hn

theorem map_leader (h : i < s.part.hoist.length) : (g.map s i j).getD i 0 = g.leads s i j := by
  rw [GangChange.map, getD_set_ne _ _ hn, getD_set_self _ _ h]

/-- A change of a gang leaves every core number at its index. -/
theorem slot_map (h : t.part.hoist = g.map s i j) (c : Nat) : t.slot c = s.slot c := by
  have h1 : ∀ c, (s.modPart fun p => { p with hoist := s.part.hoist.set i (g.leads s i j) }).slot c = s.slot c :=
    slot_set rfl sameHelm_leads
  have hj : (s.modPart fun p => { p with hoist := s.part.hoist.set i (g.leads s i j) }).hoistAt j = s.hoistAt j :=
    getD_set_ne _ _ hn.symm
  have h2 : t.slot c = (s.modPart fun p => { p with hoist := s.part.hoist.set i (g.leads s i j) }).slot c :=
    slot_set (x := g.follows s i j) h (by rw [hj]; exact sameHelm_follows) c
  exact h2.trans (h1 c)

end Map

/-- The two entries after a gang has formed. -/
theorem leads_form {s : State} {g : GangChange} {i j : Nat} (hf : g.form = true) :
    tst (g.leads s i j) 30 = true ∧ fld (g.leads s i j) 12 4 = fld (s.hoistAt i) 12 4
      ∧ ∀ at_ x, at_ = 14 ∨ at_ = 12 → fld (s.hoistAt j) at_ 2 ≠ 3 → j % 17 + fld (s.hoistAt j) at_ 2 = i % 17 + x → x < 3 →
        fld (g.leads s i j) (at_ - 4) 2 = x := by
  rw [GangChange.leads, if_pos hf]
  obtain ⟨h1, h2, h3, h4⟩ := leaderEntry_fields (s.hoistAt i)
    (codeOf_lt i (slabOf j (s.hoistAt j) 14)) (codeOf_lt i (slabOf j (s.hoistAt j) 12))
  refine ⟨h1, h2, fun at_ x ha h3' hx hlt => ?_⟩
  rcases ha with rfl | rfl
  · exact h3.trans (codeOf_slabOf h3' hx hlt)
  · exact h4.trans (codeOf_slabOf h3' hx hlt)

theorem follows_form {s : State} {g : GangChange} {i j : Nat} (hf : g.form = true) :
    tst (g.follows s i j) 29 = true ∧ fld (g.follows s i j) 12 4 = 15 := by
  rw [GangChange.follows, if_pos hf]
  exact darkEntry_fields _

/-- The two entries after a gang has been dissolved. -/
theorem leads_dissolve {s : State} {g : GangChange} {i j : Nat} (hf : g.form = false) :
    tst (g.leads s i j) 30 = false ∧ fld (g.leads s i j) 8 4 = 15 := by
  rw [GangChange.leads, if_neg (by simp [hf])]
  exact freedEntry_fields _

theorem follows_dissolve {s : State} {g : GangChange} {i j : Nat} (hf : g.form = false) :
    tst (g.follows s i j) 29 = false
      ∧ ∀ at_ x, at_ = 14 ∨ at_ = 12 → fld (s.hoistAt i) (at_ - 4) 2 ≠ 3 →
        i % 17 + fld (s.hoistAt i) (at_ - 4) 2 = j % 17 + x → x < 3 → fld (g.follows s i j) at_ 2 = x := by
  rw [GangChange.follows, if_neg (by simp [hf])]
  obtain ⟨h1, h2, h3⟩ := litEntry_fields (s.hoistAt j)
    (codeOf_lt j (slabOf i (s.hoistAt i) 10)) (codeOf_lt j (slabOf i (s.hoistAt i) 8))
  refine ⟨h1, fun at_ x ha h3' hx hlt => ?_⟩
  rcases ha with rfl | rfl
  · exact h2.trans (codeOf_slabOf h3' hx hlt)
  · exact h3.trans (codeOf_slabOf h3' hx hlt)

/-- A dark core has no clusters. -/
theorem clusterCount_dark {s : State} {c j : Nat} (hs : s.slot c = some j) (hd : tst (s.hoistAt j) 29 = true) :
    s.clusterCount c = 0 := by
  rw [State.clusterCount, State.dark, hoistBit_of_slot hs, if_pos hd]
  exact Nat.zero_sub _

/-- A change forms a gang, or dissolves one: the hart of the other helm is a scalar hart with a fresh context or without. -/
theorem turns_fields (g : GangChange) (v : Hart) : (g.turns v).scalar = g.form ∧ (g.turns v).head = (g.turns v).next
    ∧ (g.turns v).next = v.next ∧ (g.turns v).kvfault = 0 ∧ (g.turns v).ctx = v.ctx.emptied ∧ (g.turns v).x = v.x
    ∧ (g.turns v).pc = v.pc ∧ (g.turns v).kstatus = v.kstatus := by
  rw [GangChange.turns]
  cases g.form
  · exact ⟨rfl, rfl, rfl, rfl, rfl, rfl, rfl, rfl⟩
  · exact ⟨rfl, rfl, rfl, rfl, rfl, rfl, rfl, rfl⟩

/-- A hart of the two helms after a change: its vector context is cleared, or fresh, and its thread is as before. -/
theorem changed_fields {g : GangChange} {u v : Hart} {p : Prop} [Decidable p]
    (h : u = if p then g.turns v.cleared else v.cleared) :
    u.ctx.v = [] ∧ u.ctx.m = [] ∧ u.xr = v.xr ∧ u.pc = v.pc ∧ u.kstatus = v.kstatus := by
  rw [h]
  split_ifs
  · obtain ⟨-, -, -, -, hc, hx, hp, hk⟩ := turns_fields g v.cleared
    refine ⟨by rw [hc]; rfl, by rw [hc]; rfl, ?_, hp, hk⟩
    funext r
    rw [Hart.xr, hx]
    rfl
  · exact ⟨rfl, rfl, rfl, rfl, rfl⟩

end Sys2Proof.Machine

namespace Sys2Proof.Claims
open Sys2Proof.Machine

/-- A change that stands and is due: what it makes of the part, the harts and the cores (R13, R14). -/
theorem gangChange_effect {s : State} {g : GangChange} {rest : List GangChange} {i j : Nat}
    (hnext : s.nextGangChange = some (g, rest)) (hs : s.gangStands g = true) (hi : s.slot g.leader = some i)
    (hj : s.slot g.dark = some j) (hn : i ≠ j) (hl : (s.coreAt g.leader).stalled = [])
    (hd : g.form = false → (s.coreAt g.dark).stalled = []) :
    ∃ t, exec .gangChangeEffect s = .next t
      ∧ t.part = { s.part with gangs := rest, hoist := g.map s i j, mailbox := [0] }
      ∧ (∀ h, t.hartAt h = if h / 4 = g.dark ∧ (s.hartAt h).live = true then g.turns (s.hartAt h).cleared
          else if h / 4 = g.leader ∨ h / 4 = g.dark then (s.hartAt h).cleared else s.hartAt h)
      ∧ (∀ k, (if k = g.leader ∨ k = g.dark then (s.coreAt k).cleared else s.coreAt k).Like (t.coreAt k))
      ∧ (t.coreAt g.dark).stalled = [] := by
  rw [exec_gangChange_done hnext hs]
  have hi' : (s.modPart fun p => { p with gangs := rest }).slot g.leader = some i := hi
  have hj' : (s.modPart fun p => { p with gangs := rest }).slot g.dark = some j := hj
  obtain ⟨hp, hh, hc⟩ := changeGang_spec hi' hj' hn hl hd
  have hh' := regangBoth_hartAt hi' hj' hn
  have hc' := regangBoth_coreAt hi' hj' hn
  have hst := (regangBoth_unstalled hi' hj' hn hl hd).2
  refine ⟨_, rfl, ?_, fun h => (hh h).trans (hh' h), fun k => ?_, ?_⟩
  · rw [State.answer, State.modPart_part, hp]
    rfl
  · have := hc' k
    rw [← hc k] at this
    exact this
  · rw [← hc] at hst
    exact hst

/-- Settles O56: the calls by what `gangPartner` asks for, a change by what it makes of the map, the harts and the cores. -/
theorem gangsOfSlabs : Obligations.GangsOfSlabs := by
  unfold Obligations.GangsOfSlabs
  intro works
  refine ⟨fun s => ⟨fun hw => ?_, fun hw => exec_firmware_notReady (mt (ready_iff s).mp hw)⟩, fun s c d i j hw hnext hc hd => ?_,
    fun s => ?_⟩
  · refine ⟨_, exec_hoistMapRead ((ready_iff s).mpr hw), length_hoistBytes _, fun i hi => ?_⟩
    rw [hoistBytes_entry _ hi, ofBytes_bytesOf_32, State.hoistAt]
  · have hr := (ready_iff s).mpr hw
    intro e leads goesDark reaches near pair quiet may asks refuses
    have hmay : may ↔ s.gangPartner c = some d := by
      rw [gangPartner_iff hnext hc, pairReached_iff hc hd]
      simp only [State.Near, inReach_iff, holdsHelm_iff]
      exact Iff.rfl
    exact ⟨fun hm => exec_gangRequest_some hr (hmay.mp hm),
      fun hm => exec_gangRequest_none hr (gangPartner_none hnext hc (mt hmay.mpr hm)),
      exec_ungangRequest_leads hr hnext, exec_ungangRequest_refused hr hnext⟩
  · intro idle ready meets waits stands
    have hready : ∀ g, ready g ↔ s.gangReady g = true := fun g => by
      rw [gangReady_iff, helmIdle_iff, helmIdle_iff]
    have hwaits : ∀ old g, waits old g ↔ (s.gangReady g && !old.any g.meets) = false := fun old g => by
      rw [← Bool.not_eq_true, Bool.and_eq_true, Bool.not_eq_true', ← Bool.not_eq_true, List.any_eq_true, not_and_or, not_not]
      simp only [meets_iff]
      rw [← hready]
    have hpick : ∀ (g : GangChange) (old rest : List GangChange), s.part.gangs = old ++ g :: rest → ¬ waits old g →
        (∀ a k b, old = a ++ k :: b → waits a k) → s.nextGangChange = some (g, old ++ rest) := fun g old rest e hg ho => by
      have hg' : (s.gangReady g && !old.any g.meets) = true := by simpa using mt (hwaits old g).mpr hg
      exact pickGang_some [] (fun a k b e => (hwaits a k).mp (ho a k b e)) hg' e
    refine ⟨fun h => exec_gangChange_none (pickGang_none fun a g b e => (hwaits a g).mp (h a g b e)),
      fun g old rest e hg ho hs => exec_gangChange_refused (hpick g old rest e hg ho)
        (by simpa using mt (gangStands_iff s g).mp hs), fun g old rest i j e hi hj hn hs hg ho => ?_⟩
    intro of_ a b hl hd
    obtain ⟨t, het, hp, hh, hc, hst⟩ := gangChange_effect (hpick g old rest e hg ho) ((gangStands_iff s g).mpr hs) hi hj hn hl hd
    have hti : t.hoistAt i = g.leads s i j := by rw [State.hoistAt, hp]; exact map_leader hn (slot_lt hi)
    have htj : t.hoistAt j = g.follows s i j := by rw [State.hoistAt, hp]; exact map_follower (slot_lt hj)
    have hof : ∀ h, of_ h → t.hartAt h = if h / 4 = g.dark ∧ (s.hartAt h).live = true then g.turns (s.hartAt h).cleared
        else (s.hartAt h).cleared := fun h ho => by
      rw [hh, if_pos ho]
    have hdark : ∀ h, h / 4 = g.dark → (s.hartAt h).live = true → t.hartAt h = g.turns (s.hartAt h).cleared :=
      fun h h4 hv => by rw [hh, if_pos ⟨h4, hv⟩]
    refine ⟨t, het, by rw [hp], by rw [hp], ?_, fun c hlc => ?_, fun h ho => changed_fields (hof h ho), fun h ho => ?_,
      fun k hki hkj => by rw [State.hoistAt, hp]; exact map_other hki hkj, fun hf => ?_, fun hf => ?_⟩
    · refine sameMemory_of_mem (by rw [hp]) (by rw [hp]) (by rw [hp]) fun k => ?_
      obtain ⟨r, o, l, ek⟩ := hc k
      rw [ek]
      split_ifs <;> rfl
    · obtain ⟨r, o, l, ec⟩ := hc c
      rw [ec, if_pos hlc]
      exact ⟨rfl, rfl, rfl, rfl, rfl⟩
    · rw [hh, if_neg fun hc => ho (.inr hc.1), if_neg ho]
    · obtain ⟨h30, h12, hcode⟩ := leads_form (s := s) (i := i) (j := j) hf
      obtain ⟨h29, h15⟩ := follows_form (s := s) (i := i) (j := j) hf
      have hsj : t.slot g.dark = some j := (slot_map hn (by rw [hp]) _).trans hj
      rw [hti, htj]
      refine ⟨h30, h29, h15, h12, hcode, clusterCount_dark hsj (by rw [htj]; exact h29), hst, fun h h4 hv => ?_⟩
      obtain ⟨hsc, hhd, hnx, -⟩ := turns_fields g (s.hartAt h).cleared
      rw [hdark h h4 hv]
      exact ⟨hsc.trans hf, hhd, hnx⟩
    · obtain ⟨h30, h8⟩ := leads_dissolve (s := s) (i := i) (j := j) hf
      obtain ⟨h29, hcode⟩ := follows_dissolve (s := s) (i := i) (j := j) hf
      rw [hti, htj]
      refine ⟨h30, h29, h8, hcode, fun h h4 hv => ?_⟩
      obtain ⟨hsc, hhd, -, hkv, hctx, -⟩ := turns_fields g (s.hartAt h).cleared
      rw [hdark h h4 hv]
      exact ⟨hsc.trans hf, hhd, hkv, by rw [hctx]; rfl, by rw [hctx]; rfl⟩

end Sys2Proof.Claims

/-! PROOFS. A turn of a control thread (R18, R37, R59, R189, R202, R207, R217, R223, R278). -/

namespace Sys2Proof.Machine

/-! ### The end of yields when an instruction issues (R25) -/

/-- A hart that has its turns again. -/
def Hart.unyielding (v : Hart) : Hart := { v with yielding := false }

theorem Hart.unyielding_of_not {v : Hart} (h : v.yielding = false) : v.unyielding = v := by
  rw [Hart.unyielding, ← h]

/-- Thread g yields no more, where it is another one than h. -/
def State.endYield (s : State) (h g : Nat) : State :=
  if g != h && (s.hartAt g).yielding then s.modHart g Hart.unyielding else s

theorem State.endYields_eq (s : State) (h : Nat) :
    s.endYields h = (List.range 4).foldl (fun t c => t.endYield h (4 * coreOf h + c)) s := rfl

theorem State.endYield_hartAt (s : State) (h g j : Nat) :
    (s.endYield h g).hartAt j = if j = g ∧ j ≠ h then (s.hartAt j).unyielding else s.hartAt j := by
  rw [State.endYield]
  by_cases hj : j = g ∧ j ≠ h
  · obtain ⟨rfl, hn⟩ := hj
    rw [if_pos (show j = j ∧ j ≠ h from ⟨rfl, hn⟩), bne_iff_ne.mpr hn, Bool.true_and]
    cases hy : (s.hartAt j).yielding with
    | false => rw [if_neg Bool.false_ne_true, Hart.unyielding_of_not hy]
    | true => rw [if_pos rfl, State.hartAt_modHart_self]
  · rw [if_neg hj]
    split
    · next hc =>
      have hg : g ≠ h := bne_iff_ne.mp (Bool.and_eq_true_iff.mp hc).1
      exact State.hartAt_modHart_ne _ _ fun e => hj ⟨e, e ▸ hg⟩
    · rfl

/-- Every thread of the core but h itself has its turns again. -/
theorem State.endYields_hartAt (s : State) (h j : Nat) :
    (s.endYields h).hartAt j = if coreOf j = coreOf h ∧ j ≠ h then (s.hartAt j).unyielding else s.hartAt j := by
  have key : ∀ (l : List Nat) (t : State), (l.foldl (fun t c => t.endYield h (4 * coreOf h + c)) t).hartAt j =
      if (∃ c ∈ l, j = 4 * coreOf h + c) ∧ j ≠ h then (t.hartAt j).unyielding else t.hartAt j := fun l => by
    induction l with
    | nil => exact fun t => (if_neg fun ⟨⟨_, h, _⟩, _⟩ => by cases h).symm
    | cons c l ih =>
      intro t
      have twice : (t.hartAt j).unyielding.unyielding = (t.hartAt j).unyielding := rfl
      simp only [List.foldl_cons, ih, State.endYield_hartAt, List.mem_cons, exists_eq_or_imp]
      by_cases h1 : j = 4 * coreOf h + c
      · simp only [h1, true_or, true_and] at twice ⊢
        split <;> simp [*]
      · simp only [h1, false_or, false_and, if_false]
  have hm : (∃ c ∈ List.range 4, j = 4 * coreOf h + c) ↔ coreOf j = coreOf h := by
    simp only [List.mem_range, coreOf]
    exact ⟨fun ⟨c, hc, e⟩ => by omega, fun e => ⟨j % 4, by omega, by omega⟩⟩
  rw [State.endYields_eq, key]
  simp only [hm]

/-- The end of yields changes harts alone. -/
theorem State.endYields_frame (s : State) (h : Nat) : (s.endYields h).part = s.part ∧ (s.endYields h).cores = s.cores
    ∧ (s.endYields h).towers = s.towers ∧ (s.endYields h).cur = s.cur := by
  have key : ∀ (l : List Nat) (t : State), let u := l.foldl (fun t c => t.endYield h (4 * coreOf h + c)) t
      u.part = t.part ∧ u.cores = t.cores ∧ u.towers = t.towers ∧ u.cur = t.cur := fun l => by
    induction l with
    | nil => exact fun _ => ⟨rfl, rfl, rfl, rfl⟩
    | cons c l ih =>
      intro t
      have ht : (t.endYield h (4 * coreOf h + c)).part = t.part ∧ (t.endYield h (4 * coreOf h + c)).cores = t.cores
          ∧ (t.endYield h (4 * coreOf h + c)).towers = t.towers ∧ (t.endYield h (4 * coreOf h + c)).cur = t.cur := by
        unfold State.endYield
        split <;> exact ⟨rfl, rfl, rfl, rfl⟩
      obtain ⟨i1, i2, i3, i4⟩ := ih (t.endYield h (4 * coreOf h + c))
      exact ⟨i1.trans ht.1, i2.trans ht.2.1, i3.trans ht.2.2.1, i4.trans ht.2.2.2⟩
  exact key _ s

/-- The current hart as an instruction issues: it waits in nothing, and its suppression of kbrk has ended (R223). -/
theorem State.issue_hart (s : State) (i : Instr) : (s.issue i).hart =
    { s.hart with csup := false, yielding := false, issued := some i, wait := none, answered := false } := by
  have hc : (s.endSuppression.endYields s.cur).cur = s.cur := (s.endSuppression.endYields_frame s.cur).2.2.2
  have hh : (s.endSuppression.endYields s.cur).hart = { s.hart with csup := false } := by
    rw [State.hart, hc, State.endYields_hartAt, if_neg fun e => e.2 rfl]
    exact s.mod_hart _
  rw [State.issue, State.mod_hart, hh]

theorem State.issue_cur (s : State) (i : Instr) : (s.issue i).cur = s.cur := (s.endSuppression.endYields_frame s.cur).2.2.2

/-- Every thread of the core of an instruction that issues has its turns (R25). -/
theorem State.issue_yielding (s : State) (i : Instr) {j : Nat} (hj : coreOf j = coreOf s.cur) :
    ((s.issue i).hartAt j).yielding = false := by
  by_cases e : j = s.cur
  · have h := congrArg Hart.yielding (s.issue_hart i)
    rwa [State.hart, State.issue_cur, ← e] at h
  · have hc : (s.endSuppression.endYields s.cur).cur = s.cur := (s.endSuppression.endYields_frame s.cur).2.2.2
    rw [State.issue, State.mod_hartAt_ne _ _ (by rwa [hc]), State.endYields_hartAt, if_pos ⟨hj, e⟩]
    rfl

/-! ### The turn of a control thread -/

@[simp] theorem State.turn_cur (s : State) (h : Nat) : (s.turn h).cur = h := rfl

/-- A turn of a control thread that the agenda, or the round robin, gives. -/
theorem step_ctl {s s0 : State} {h : Nat} (hd : s.isDead = false) (hn : s.nextMove = some (.ctl h, s0)) :
    step s = stepCtl (s0.turn h) := by
  simp [step, hd, hn, stepMove]

/-- A thread that is held by nothing runs the word that it has fetched. -/
theorem stepCtl_run {s s1 : State} {i : Instr} (hb : s.beforeFetch = none) (hw : s.heldC = none) (hf : s.fetched = .run i s1) :
    stepCtl s = runC i s1.hart.csup (s1.issue i) := by
  simp only [stepCtl, hb, hw, hf]

theorem stepCtl_done {s t : State} (hb : s.beforeFetch = none) (hw : s.heldC = none) (hf : s.fetched = .done t) :
    stepCtl s = .next t := by
  simp only [stepCtl, hb, hw, hf]

theorem Wait.isFetch_of_ne {w : Wait} (h : w ≠ .fetch) : w.isFetch = false := by
  cases w with
  | fetch => exact absurd rfl h
  | _ => rfl

/-- A thread that waits in anything but its fetch holds the instruction that it has issued (R37, R59). -/
theorem State.heldC_of_wait {s : State} {w : Wait} (hw : s.hart.wait = some w) (hf : w ≠ .fetch) : s.heldC = s.hart.issued := by
  simp [State.heldC, hw, Wait.isFetch_of_ne hf]

/-- Data asked for are under way (R217). -/
theorem State.asking_ask (s : State) (h : Nat) (a : Asker) (addr : Word) (pa : Nat) : (s.ask h a addr pa).asking h a pa = true := by
  unfold State.ask
  split
  · assumption
  · simp [State.asking, State.modPart, Part.retain, Transaction.reads]

theorem State.ask_harts (s : State) (h : Nat) (a : Asker) (addr : Word) (pa : Nat) : (s.ask h a addr pa).harts = s.harts
    ∧ (s.ask h a addr pa).cur = s.cur := by
  unfold State.ask
  split <;> exact ⟨rfl, rfl⟩

/-- The machine check of poison that the scalar agent consumes (R208, R209). -/
theorem State.scalarPoisoned_hart (s : State) (pa : Nat) : (s.scalarPoisoned s.cur pa).hart =
    { s.hart with kmcheck := mcheckRecord 0 0 false (pa % 2 ^ 56), mcPend := some (s.hart.next.setWidth 64) } := by
  rw [State.scalarPoisoned, State.postMcheck]
  exact s.mod_hart _

/-- The fields of a record of a machine check (R209). -/
theorem mcheckRecord_fields (src rew : Nat) (kill : Bool) (pa : Nat) : tst (mcheckRecord src rew kill pa) 63 = true
    ∧ fld (mcheckRecord src rew kill pa) 59 4 = src % 16 ∧ fld (mcheckRecord src rew kill pa) 57 2 = rew % 4
    ∧ tst (mcheckRecord src rew kill pa) 56 = kill ∧ fld (mcheckRecord src rew kill pa) 0 56 = pa % 2 ^ 56 := by
  refine ⟨?_, ?_, ?_, ?_, ?_⟩
  · simp [mcheckRecord, tst_putFld, tst_putBit]
  · simp only [mcheckRecord]
    rw [fld_putFld_ne _ _ (by omega), fld_putBit_ne _ _ (by omega), fld_putFld_ne _ _ (by omega),
      fld_putFld_self _ _ _ _ (by omega)]
    rfl
  · simp only [mcheckRecord]
    rw [fld_putFld_ne _ _ (by omega), fld_putBit_ne _ _ (by omega), fld_putFld_self _ _ _ _ (by omega)]
    rfl
  · simp [mcheckRecord, tst_putFld, tst_putBit]
  · simp only [mcheckRecord]
    rw [fld_putFld_self _ _ _ _ (by omega)]

/-! ### The word at the pc -/

section Fetch
variable {s s1 : State} {x : Xlat} (ha : s.pc.toNat % 4 = 0)
  (ht : s.translate (s.scalarView s.cur) .fetch s.pc PaKind.isMem = .ok (x, s1))
include ha ht

/-- A word on another node that has not come is waited for (R217). -/
theorem State.fetched_remote (hr : (s1.paKind x.pa).isRemote = true) (hn : s.hart.answered = false) : s.fetched =
    .done ((s1.ask s.cur .fetch ((s.scalarView s.cur).faultAddr s.pc x.pa) x.pa).modHart s.cur
      fun v => { v with wait := some .fetch }) := by
  simp only [State.pc, State.hart] at *
  simp [State.fetched, State.fetchC, ha, ht, hr, hn]

/-- The four bytes at the pc, the lowest first, are the word (R1, R278). -/
theorem State.fetched_run {i : Instr} (hr : (s1.paKind x.pa).isRemote = false ∨ s.hart.answered = true)
    (hp : s1.scalarPoison (coreOf s.cur) (s1.cell x.pa) 4 = false)
    (hd : decodeC (ofBytes 32 (s1.scalarBytes (coreOf s.cur) (s1.cell x.pa) 4)) = .ok i) : s.fetched = .run i s1 := by
  simp only [State.pc, State.hart] at *
  have hw : ((s1.paKind x.pa).isRemote && !(s.hartAt s.cur).answered) = false := by
    rcases hr with hr | hr <;> simp [hr]
  simp [State.fetched, State.fetchC, ha, ht, hw, State.readMem, hp, hd]

end Fetch

/-! ### Registers that hold poison (R207) -/

theorem State.xBad_iff (s : State) (i : Instr) : s.xBad i = true ↔ ∃ r ∈ xReads s.hart.pendBit i, Claims.XPoisoned s r := by
  rw [State.xBad, Bool.and_eq_true, List.any_eq_true]
  refine ⟨fun h => h.2, fun ⟨r, hr, hp⟩ => ⟨?_, r, hr, hp⟩⟩
  have hp' : (Map.find s.hart.xpoison r.toNat).isSome = true := hp
  cases hx : s.hart.xpoison with
  | nil => rw [hx] at hp'; cases hp'
  | cons e m => rfl

theorem runC_clean {s : State} {i : Instr} {csup : Bool} (h : ∀ r ∈ xReads s.hart.pendBit i, ¬ Claims.XPoisoned s r) :
    runC i csup s = afterC csup (exec i s) := by
  rw [runC, if_neg]
  rw [State.xBad_iff]
  exact fun ⟨r, hr, hp⟩ => h r hr hp

theorem runC_poisoned {s : State} {i : Instr} (csup : Bool) {r : XReg} (hr : r ∈ xReads s.hart.pendBit i)
    (hp : Claims.XPoisoned s r) : runC i csup s = .next (s.scalarPoisoned s.cur 0).again := by
  rw [runC, if_pos ((State.xBad_iff s i).mpr ⟨r, hr, hp⟩)]

/-- What an instruction reads, and whether it holds poison, does not change as it issues. -/
theorem issue_reads (s : State) (i : Instr) : (s.issue i).hart.pendBit = s.hart.pendBit
    ∧ ∀ r, Claims.XPoisoned (s.issue i) r ↔ Claims.XPoisoned s r := by
  simp only [Claims.XPoisoned, State.issue_hart]
  exact ⟨rfl, fun _ => trivial⟩

end Sys2Proof.Machine

namespace Sys2Proof.Claims
open Sys2Proof.Machine

/-- An instruction that waits for its word keeps the pc and every x register. -/
theorem waits_fetch {s1 : State} (h : Nat) (hc : s1.cur = h) (addr : Word) (pa : Nat) :
    let t := (s1.ask h .fetch addr pa).modHart h fun v => { v with wait := some .fetch }
    t.pc = s1.pc ∧ SameX s1 t ∧ t.hart.wait = some .fetch ∧ t.asking h .fetch pa = true := by
  subst hc
  intro t
  obtain ⟨hh, hu⟩ := s1.ask_harts s1.cur .fetch addr pa
  have e : t.hart = { s1.hart with wait := some .fetch } := by
    show ((s1.ask s1.cur .fetch addr pa).modHart s1.cur _).hartAt (s1.ask s1.cur .fetch addr pa).cur = _
    rw [hu, State.hartAt_modHart_self, State.hartAt, hh]
    rfl
  refine ⟨by rw [State.pc, e]; rfl, ⟨fun r => Hart.xr_eq_of_x (by rw [e]) r, by rw [e]⟩, by rw [e], ?_⟩
  exact s1.asking_ask ..

/-- Settles O4, by what the fetch of the word comes to and by what poison does to an instruction that issues. -/
theorem stepRunsC : Obligations.StepRunsC := by
  unfold Obligations.StepRunsC
  refine ⟨fun s s0 s1 h x w i hd hn hb hw ha ht => ?_, fun s s0 t h w i hd hn hb hw hf hi hx he => ?_⟩
  · rw [step_ctl hd hn]
    have hcur : s1.cur = h := (State.translate_frame ht).1.2.2.2.1
    refine ⟨fun hr hna => ?_, fun hr hp hword hdec => ?_⟩
    · rw [stepCtl_done hb hw (State.fetched_remote ha ht hr hna)]
      exact ⟨_, rfl, waits_fetch h hcur _ _⟩
    · subst hword
      obtain ⟨hpend, hxp⟩ := issue_reads s1 i
      rw [stepCtl_run hb hw (State.fetched_run ha ht hr hp hdec)]
      refine ⟨fun hc => ?_, fun r hr hc => ?_⟩
      · have hrun : runC i s1.hart.csup (s1.issue i) = afterC s1.hart.csup (exec i (s1.issue i)) :=
          runC_clean fun r hr => by rw [hpend] at hr; rw [hxp]; exact hc r hr
        rw [hrun]
        exact ⟨fun t ht => by rw [ht]; rfl, fun f hf => by rw [hf]; rfl⟩
      · have hrun := runC_poisoned (s := s1.issue i) (i := i) s1.hart.csup (by rw [hpend]; exact hr) ((hxp r).mpr hc)
        have e : ((s1.issue i).scalarPoisoned (s1.issue i).cur 0).again.hart = _ := State.mod_hart _ _
        rw [State.scalarPoisoned_hart, State.issue_hart] at e
        obtain ⟨-, hsrc, -, -, hpa⟩ := mcheckRecord_fields 0 0 false (0 % 2 ^ 56)
        exact ⟨_, hrun, by rw [State.pc, e]; rfl, ⟨fun r => Hart.xr_eq_of_x (by rw [e]) r, by rw [e]⟩, by rw [e],
          by rw [e]; exact hsrc, by rw [e]; exact hpa⟩
  · have e : (s0.turn h).endSuppression.hart = { (s0.turn h).hart with csup := false } := State.mod_hart _ _
    have hstep : stepCtl (s0.turn h) = runC i (s0.turn h).hart.csup (s0.turn h).endSuppression := by
      rw [stepCtl, hb, State.heldC_of_wait hw hf, hi]
    rw [step_ctl hd hn, hstep, runC_clean, he]
    · rfl
    · intro r hr
      simp only [XPoisoned, e] at hr ⊢
      exact hx r hr

end Sys2Proof.Claims

/-! PROOFS. Clusters that change hands: what every such step leaves as it is, and where free ones go (R31, R74, R224). -/

namespace Sys2Proof.Machine

section Maps
variable {α : Type}

theorem Map.find_insert_ne (m : Map α) {j k : Nat} (a : α) (h : j ≠ k) : Map.find (Map.insert m k a) j = Map.find m j := by
  induction m with
  | nil => simp [Map.insert, Map.find, Ne.symm h]
  | cons e m ih =>
    obtain ⟨i, b⟩ := e
    simp only [Map.insert]
    split <;> simp [Map.find, Ne.symm h, ih]

theorem Map.find_insert_self {m : Map α} (k : Nat) (a : α) (h : Map.find m k = none) : Map.find (Map.insert m k a) k = some a := by
  induction m with
  | nil => simp [Map.insert, Map.find]
  | cons e m ih =>
    obtain ⟨i, b⟩ := e
    have hi : i ≠ k := fun e => by simp [Map.find, e] at h
    simp only [Map.find, hi, if_false] at h
    simp only [Map.insert]
    split <;> simp [Map.find, hi, ih h]

theorem Map.find_put (m : Map α) (j k : Nat) (a : α) : Map.find (Map.put m k a) j = if j = k then some a else Map.find m j := by
  split
  · next h => exact h ▸ Map.find_insert_self _ _ (Map.find_erase_self _ _)
  · next h => rw [Map.put, Map.find_insert_ne _ _ h, Map.find_erase_ne _ h]

end Maps

/-- After clusters of a list have changed owner, each of them has the new one. -/
theorem find_setOwner (o : Option Nat) (l : List Nat) (m : Map Nat) (k : Nat) :
    Map.find (l.foldl (setOwner o) m) k = if k ∈ l then o else Map.find m k := by
  induction l generalizing m with
  | nil => simp
  | cons x l ih =>
    have h1 : Map.find (setOwner o m x) k = if k = x then o else Map.find m k := by
      cases o with
      | some t => exact Map.find_put m k x t
      | none =>
        show Map.find (Map.erase m x) k = _
        split
        · next h => exact h ▸ Map.find_erase_self m x
        · next h => exact Map.find_erase_ne m h
    rw [List.foldl_cons, ih, h1]
    by_cases h : k ∈ l <;> simp [h]

/-! ### The frame of cluster steps -/

/-- A core that holds its clusters, and its stalled list, as given. -/
def Core.holding (k : Core) (clusters : Map Nat) (stalled : List Stalled) : Core :=
  { k with clusters := clusters, stalled := stalled }

/-- A hart whose cluster set has changed (R74). -/
def Hart.setChanged (v : Hart) : Hart := { v with ctx := v.ctx.setChanged }

/-- Clusters of core c have changed hands, from s to t, and only contexts of the list gain any: nothing else changes but that
a context whose set has changed reads all ones, and that some have left the stalled list. -/
structure Settles (c : Nat) (gainers : List Stalled) (s t : State) : Prop where
  part : t.part = s.part
  towers : t.towers = s.towers
  agenda : t.agenda = s.agenda
  rr : t.rr = s.rr
  cur : t.cur = s.cur
  tick : t.tick = s.tick
  harts : ∀ h, t.hartAt h = s.hartAt h ∨ t.hartAt h = (s.hartAt h).setChanged
  core : ∀ k, t.coreAt k = (s.coreAt k).holding (t.coreAt k).clusters (t.coreAt k).stalled
  stalled : ∀ r ∈ (t.coreAt c).stalled, r ∈ (s.coreAt c).stalled
  gains : ∀ k x, Map.find (t.coreAt c).clusters k = some x →
    Map.find (s.coreAt c).clusters k = some x ∨ ∃ r ∈ gainers, r.ctx = x

namespace Settles
variable {c : Nat} {g : List Stalled} {s t u : State}

theorem refl (c : Nat) (g : List Stalled) (s : State) : Settles c g s s where
  part := rfl
  towers := rfl
  agenda := rfl
  rr := rfl
  cur := rfl
  tick := rfl
  harts _ := .inl rfl
  core _ := rfl
  stalled _ h := h
  gains _ _ h := .inl h

theorem trans (h1 : Settles c g s t) (h2 : Settles c g t u) : Settles c g s u where
  part := h2.part.trans h1.part
  towers := h2.towers.trans h1.towers
  agenda := h2.agenda.trans h1.agenda
  rr := h2.rr.trans h1.rr
  cur := h2.cur.trans h1.cur
  tick := h2.tick.trans h1.tick
  harts h := by
    rcases h2.harts h with e2 | e2
    · exact e2 ▸ h1.harts h
    · refine .inr ?_
      rcases h1.harts h with e1 | e1
      · rw [e2, e1]
      · rw [e2, e1]
        rfl
  core k := by rw [h2.core k, h1.core k]; rfl
  stalled r hr := h1.stalled r (h2.stalled r hr)
  gains k x hx := (h2.gains k x hx).elim (h1.gains k x) .inr

theorem foldl {α : Type} {f : State → α → State} (l : List α) (hf : ∀ u a, a ∈ l → Settles c g s u → Settles c g u (f u a))
    (h : Settles c g s t) : Settles c g s (l.foldl f t) := by
  induction l generalizing t with
  | nil => exact h
  | cons a l ih =>
    exact ih (fun u b hb => hf u b (List.mem_cons_of_mem _ hb)) (h.trans (hf t a List.mem_cons_self h))

theorem sameMemory (h : Settles c g s t) : Claims.SameMemory s t :=
  Claims.sameMemory_of_mem (by rw [h.part]) (by rw [h.part]) (by rw [h.part]) fun k => by rw [h.core k]; rfl

/-- No hart changes but in its vector context. -/
theorem hart_ctx (h : Settles c g s t) (j : Nat) : { t.hartAt j with ctx := (s.hartAt j).ctx } = s.hartAt j := by
  rcases h.harts j with e | e
  · rw [e]
  · rw [e]
    rfl

/-- A context that holds nothing, and gains nothing, holds nothing. -/
theorem held_nil {x : Nat} (h : Settles c g s t) (hx : s.held c x = []) (hg : ∀ r ∈ g, r.ctx ≠ x) : t.held c x = [] := by
  simp only [State.held, List.filter_eq_nil_iff, beq_iff_eq] at hx ⊢
  intro k hk e
  rcases h.gains k x e with e' | ⟨r, hr, hrx⟩
  · exact hx k hk e'
  · exact hg r hr hrx

end Settles

@[simp] theorem State.coreAt_modHart (s : State) (h k : Nat) (f : Hart → Hart) : (s.modHart h f).coreAt k = s.coreAt k := rfl
@[simp] theorem State.coreAt_modCtx (s : State) (h k : Nat) (f : VCtx → VCtx) : (s.modCtx h f).coreAt k = s.coreAt k := rfl

@[simp] theorem State.coreAt_setChange (s : State) (c t n k : Nat) : (s.setChange c t n).coreAt k = s.coreAt k := by
  rw [State.setChange]
  split <;> rfl

@[simp] theorem State.find_assign (s : State) (c : Nat) (l : List Nat) (o : Option Nat) (k : Nat) :
    Map.find ((s.assign c l o).coreAt c).clusters k = if k ∈ l then o else Map.find (s.coreAt c).clusters k := by
  rw [State.assign, State.coreAt_modCore_self]
  exact find_setOwner o l _ k

@[simp] theorem State.assign_stalled (s : State) (c : Nat) (l : List Nat) (o : Option Nat) :
    ((s.assign c l o).coreAt c).stalled = (s.coreAt c).stalled := by
  rw [State.assign, State.coreAt_modCore_self]

section Steps
variable {c : Nat} {g : List Stalled} (s : State)

theorem settles_assign (l : List Nat) {o : Option Nat} (ho : ∀ x, o = some x → ∃ r ∈ g, r.ctx = x) :
    Settles c g s (s.assign c l o) where
  part := rfl
  towers := rfl
  agenda := rfl
  rr := rfl
  cur := rfl
  tick := rfl
  harts _ := .inl rfl
  core k := by
    rw [State.assign, State.coreAt_modCore]
    split
    · rfl
    · rfl
  stalled r hr := by
    rwa [State.assign_stalled] at hr
  gains k x hx := by
    rw [State.find_assign] at hx
    split at hx
    · exact .inr (ho x hx)
    · exact .inl hx

theorem settles_setChange (t n : Nat) : Settles c g s (s.setChange c t n) := by
  rw [State.setChange]
  split
  · exact .refl c g s
  · exact { Settles.refl c g s with
      harts := fun h => by
        rw [State.modCtx, State.hartAt_modHart]
        split
        · exact .inr rfl
        · exact .inl rfl }

theorem settles_releaseHighest (t n : Nat) : Settles c g s (s.releaseHighest c t n) :=
  (settles_assign s _ (fun _ e => by cases e)).trans (settles_setChange _ _ _)

theorem settles_transferHighest (t : Nat) {r : Stalled} (hr : r ∈ g) (n : Nat) :
    Settles c g s (s.transferHighest c t r.ctx n) :=
  ((settles_assign s _ (fun _ e => ⟨r, hr, Option.some.inj e⟩)).trans (settles_setChange _ _ _)).trans (settles_setChange _ _ _)

theorem settles_takeLowestFree {r : Stalled} (hr : r ∈ g) (n : Nat) : Settles c g s (s.takeLowestFree c r.ctx n) :=
  (settles_assign s _ (fun _ e => ⟨r, hr, Option.some.inj e⟩)).trans (settles_setChange _ _ _)

/-- The stalled list of core c cut down by a test. -/
theorem settles_filterStalled (p : Stalled → Bool) :
    Settles c g s (s.modCore c fun k => { k with stalled := k.stalled.filter p }) where
  part := rfl
  towers := rfl
  agenda := rfl
  rr := rfl
  cur := rfl
  tick := rfl
  harts _ := .inl rfl
  core k := by
    rw [State.coreAt_modCore]
    split <;> rfl
  stalled r hr := by
    rw [State.coreAt_modCore_self] at hr
    exact List.mem_of_mem_filter hr
  gains k x hx := by
    rw [State.coreAt_modCore_self] at hx
    exact .inl hx

/-- Free clusters and surplus ones go to the stalled contexts (R31, R32). -/
theorem settles_settle : Settles c (s.coreAt c).stalled s (s.settle c) := by
  have feed : Settles c (s.coreAt c).stalled s (s.feedFree c) :=
    .foldl _ (fun u r hr _ => settles_takeLowestFree u hr _) (.refl ..)
  have donateFrom : ∀ u t, Settles c (s.coreAt c).stalled s u → Settles c (s.coreAt c).stalled u (u.donateFrom c t) :=
    fun u t hu => .foldl _ (fun v r hr _ => by
      split
      · exact .refl ..
      · exact settles_transferHighest v t (hu.stalled r hr) _) (.refl ..)
  have donate : Settles c (s.coreAt c).stalled s ((s.feedFree c).donate c) :=
    .foldl _ (fun u t _ hu => by
      split
      · exact donateFrom u t hu
      · exact .refl ..) feed
  rw [State.settle]
  split
  · exact .refl ..
  · exact donate.trans (settles_filterStalled _ _)

theorem settles_releaseAll (t : Nat) : Settles c (s.coreAt c).stalled s (s.releaseAll c t) := by
  have h := settles_releaseHighest (c := c) (g := (s.coreAt c).stalled) s t (s.held c t).length
  have hs : ((s.releaseHighest c t (s.held c t).length).coreAt c).stalled = (s.coreAt c).stalled := by
    simp [State.releaseHighest]
  have h2 := settles_settle (c := c) (s.releaseHighest c t (s.held c t).length)
  rw [hs] at h2
  exact h.trans h2

end Steps

/-- A context that releases all its clusters, and waits for none, holds none. -/
theorem State.held_releaseAll {s : State} {c t : Nat} (h : ∀ r ∈ (s.coreAt c).stalled, r.ctx ≠ t) :
    (s.releaseAll c t).held c t = [] := by
  have hs : ((s.releaseHighest c t (s.held c t).length).coreAt c).stalled = (s.coreAt c).stalled := by
    simp [State.releaseHighest]
  refine (settles_settle _).held_nil ?_ (by rw [hs]; exact h)
  have hf : ∀ k, Map.find ((s.releaseHighest c t (s.held c t).length).coreAt c).clusters k =
      if k ∈ s.held c t then none else Map.find (s.coreAt c).clusters k := by
    intro k
    have hl : s.highest c t (s.held c t).length = s.held c t := by simp [State.highest]
    rw [State.releaseHighest, hl, State.coreAt_setChange, State.find_assign]
  rw [State.held, List.filter_eq_nil_iff]
  intro k hk
  rw [hf, beq_iff_eq]
  split
  · exact fun e => by cases e
  · next hn => exact fun e => hn (List.mem_filter.mpr ⟨hk, by simp [e]⟩)

end Sys2Proof.Machine

/-! PROOFS. The stalled list with one context on it (R31, R74, R224). -/

namespace Sys2Proof.Machine

/-- With nothing to move, only the shape of the map of cores changes. -/
theorem transferHighest_none (s : State) (c t r : Nat) : (s.transferHighest c t r 0).part = s.part
    ∧ (s.transferHighest c t r 0).harts = s.harts ∧ ∀ k, (s.transferHighest c t r 0).coreAt k = s.coreAt k := by
  have hl : s.highest c t 0 = [] := by simp [State.highest]
  have e : s.transferHighest c t r 0 = s.modCore c fun k => { k with clusters := k.clusters } := by
    rw [State.transferHighest, hl]
    rfl
  rw [e]
  exact ⟨rfl, rfl, fun k => by rw [State.coreAt_modCore]; split <;> rfl⟩

/-- Two states whose part, harts and cores read alike. -/
structure Alike (s t : State) : Prop where
  part : t.part = s.part
  harts : t.harts = s.harts
  core : ∀ k, t.coreAt k = s.coreAt k

theorem Alike.refl (s : State) : Alike s s := ⟨rfl, rfl, fun _ => rfl⟩

theorem Alike.trans {s t u : State} (h1 : Alike s t) (h2 : Alike t u) : Alike s u :=
  ⟨h2.part.trans h1.part, h2.harts.trans h1.harts, fun k => (h2.core k).trans (h1.core k)⟩

/-- What a context still wants depends on its core alone. -/
theorem Alike.wantOf {s t : State} (h : Alike s t) (c : Nat) (r : Stalled) : t.wantOf c r = s.wantOf c r := by
  unfold State.wantOf State.stranded State.needOf State.minOf State.held
  rw [h.core c]

/-- Idle contexts give nothing where the one that waits wants nothing. -/
theorem alike_donate {s : State} {c : Nat} {r : Stalled} (hs : (s.coreAt c).stalled = [r]) (hw : s.wantOf c r = 0) :
    Alike s (s.donate c) := by
  have one : ∀ u t, Alike s u → Alike u (u.donateFrom c t) := fun u t hu => by
    have hz : u.wantOf c r = 0 := by rw [hu.wantOf, hw]
    rw [State.donateFrom, hu.core, hs, List.foldl_cons, List.foldl_nil, hz, Nat.min_zero]
    split
    · exact .refl u
    · obtain ⟨h1, h2, h3⟩ := transferHighest_none u c t r.ctx
      exact ⟨h1, h2, h3⟩
  have key : ∀ (l : List Nat) (u : State), Alike s u →
      Alike s (l.foldl (fun u t => if u.gives c t then u.donateFrom c t else u) u) := fun l => by
    induction l with
    | nil => exact fun _ h => h
    | cons t l ih =>
      intro u hu
      rw [List.foldl_cons]
      split
      · exact ih _ (hu.trans (one u t hu))
      · exact ih _ hu
  exact key _ s (.refl s)

/-- How many clusters core c has but for retired ones. -/
def State.clusterBase (s : State) (c : Nat) : Nat := if s.dark c then 0 else if s.ganged c then 16 else if s.enabled c then 8 else 0

theorem State.freeClusters_eq (s : State) (c : Nat) : s.freeClusters c = (List.range (s.clusterBase c)).filter fun k =>
    (Map.find (s.coreAt c).clusters k).isNone && !hasNat (s.coreAt c).retired k := rfl

theorem State.clusterBase_of_part {s t : State} (h : t.part = s.part) (c : Nat) : t.clusterBase c = s.clusterBase c := by
  have hb : ∀ i, t.hoistBit c i = s.hoistBit c i := fun i => by
    unfold State.hoistBit State.slot State.hoistAt
    rw [h]
  have he : t.enabled c = s.enabled c := by
    unfold State.enabled State.slot
    rw [h]
  unfold State.clusterBase State.dark State.ganged
  rw [hb, hb, he]

/-- The free clusters lie among the first numbers, each once. -/
theorem State.nodup_freeClusters (s : State) (c : Nat) : (s.freeClusters c).Nodup := List.nodup_range.filter _

theorem State.freeClusters_lt {s : State} {c k : Nat} (h : k ∈ s.freeClusters c) :
    k < 16 ∧ Map.find (s.coreAt c).clusters k = none := by
  simp only [State.freeClusters, List.mem_filter, List.mem_range, Bool.and_eq_true, Option.isNone_iff_eq_none] at h
  obtain ⟨hk, hn, -⟩ := h
  refine ⟨?_, hn⟩
  split_ifs at hk <;> omega

/-- Of a list without repetitions, what is not among its first n entries are the others. -/
theorem filter_notMem_take {l : List Nat} (h : l.Nodup) (n : Nat) : (l.filter fun k => decide (k ∉ l.take n)) = l.drop n := by
  have hd : List.Disjoint (l.take n) (l.drop n) := List.disjoint_take_drop h (le_refl n)
  calc (l.filter fun k => decide (k ∉ l.take n))
      = (l.take n ++ l.drop n).filter fun k => decide (k ∉ l.take n) := by rw [List.take_append_drop]
    _ = l.drop n := by
      rw [List.filter_append, List.filter_eq_nil_iff.mpr (by simp), List.nil_append, List.filter_eq_self]
      exact fun k hk => by simpa using fun ht => hd ht hk

section Take
variable {s : State} {c t n : Nat}

/-- A context that takes free clusters owns the lowest, and every other cluster has the owner that it had. -/
theorem find_takeLowestFree (k : Nat) : Map.find ((s.takeLowestFree c t n).coreAt c).clusters k =
    if k ∈ (s.freeClusters c).take n then some t else Map.find (s.coreAt c).clusters k := by
  rw [State.takeLowestFree, State.coreAt_setChange, State.find_assign]

/-- What it has not taken stays free. -/
theorem freeClusters_takeLowestFree : (s.takeLowestFree c t n).freeClusters c = (s.freeClusters c).drop n := by
  have hp : (s.takeLowestFree c t n).part = s.part := (settles_takeLowestFree (c := c) (g := [⟨t, none⟩]) (r := ⟨t, none⟩) s (by simp) n).part
  have hr : ((s.takeLowestFree c t n).coreAt c).retired = (s.coreAt c).retired := by
    rw [(settles_takeLowestFree (c := c) (g := [⟨t, none⟩]) (r := ⟨t, none⟩) s (by simp) n).core c]
    rfl
  rw [← filter_notMem_take (s.nodup_freeClusters c), State.freeClusters_eq, State.clusterBase_of_part hp, hr,
    State.freeClusters_eq, List.filter_filter, ← State.freeClusters_eq]
  refine List.filter_congr fun k _ => ?_
  rw [find_takeLowestFree]
  by_cases h : k ∈ (s.freeClusters c).take n
  · simp [h]
  · simp [h]

/-- It holds what it held and what it has taken. -/
theorem length_held_takeLowestFree (hn : n ≤ (s.freeClusters c).length) :
    (s.held c t).length + n ≤ ((s.takeLowestFree c t n).held c t).length := by
  have hl : ((s.freeClusters c).take n).length = n := List.length_take_of_le hn
  have nodup : (s.held c t ++ (s.freeClusters c).take n).Nodup := by
    refine List.Nodup.append (List.nodup_range.filter _) ((s.nodup_freeClusters c).take ) fun k h1 h2 => ?_
    have e := (State.freeClusters_lt (List.mem_of_mem_take h2)).2
    simp [State.held, e] at h1
  have sub : s.held c t ++ (s.freeClusters c).take n ⊆ (s.takeLowestFree c t n).held c t := by
    intro k hk
    rw [State.held, List.mem_filter, find_takeLowestFree, beq_iff_eq]
    rcases List.mem_append.mp hk with h | h
    · obtain ⟨h1, h2⟩ := List.mem_filter.mp h
      exact ⟨h1, by split; rfl; exact beq_iff_eq.mp h2⟩
    · exact ⟨List.mem_range.mpr (State.freeClusters_lt (List.mem_of_mem_take h)).1, if_pos h⟩
  calc (s.held c t).length + n = (s.held c t ++ (s.freeClusters c).take n).length := by rw [List.length_append, hl]
    _ ≤ _ := (nodup.subperm sub).length_le

end Take

theorem settle_becalmed {s : State} {c : Nat} (hb : s.isBecalmed c = true) : s.settle c = s := if_pos hb

theorem settle_eq {s : State} {c : Nat} (hb : s.isBecalmed c = false) :
    s.settle c = ((s.feedFree c).donate c).leaveStalled c :=
  if_neg (by rw [show tst (s.coreAt c).kbecalm 63 = false from hb]; exact Bool.false_ne_true)

/-- The one context of the stalled list, once it has taken what it wants, leaves the list, and nothing more moves. -/
theorem donate_leaveStalled {u : State} {c : Nat} {r : Stalled} (hs : (u.coreAt c).stalled = [r])
    (hp : (u.stranded c r.ctx && r.need.isNone) = false) (hh : u.needOf c r ≤ (u.held c r.ctx).length) :
    (((u.donate c).leaveStalled c).coreAt c).stalled = []
      ∧ (((u.donate c).leaveStalled c).coreAt c).clusters = (u.coreAt c).clusters
      ∧ (∀ h, ((u.donate c).leaveStalled c).hartAt h = u.hartAt h)
      ∧ ((u.donate c).leaveStalled c).freeClusters c = u.freeClusters c := by
  have hz : u.wantOf c r = 0 := by
    rw [State.wantOf, hp]
    exact Nat.sub_eq_zero_of_le hh
  obtain ⟨hpart, hharts, hcore⟩ := alike_donate hs hz
  have hcl : (((u.donate c).leaveStalled c).coreAt c).clusters = (u.coreAt c).clusters := by
    rw [State.leaveStalled, State.coreAt_modCore_self, hcore]
  have hr : (((u.donate c).leaveStalled c).coreAt c).retired = (u.coreAt c).retired := by
    rw [State.leaveStalled, State.coreAt_modCore_self, hcore]
  have hpart' : ((u.donate c).leaveStalled c).part = u.part := hpart
  refine ⟨?_, hcl, fun h => ?_, ?_⟩
  · rw [State.leaveStalled, State.coreAt_modCore_self]
    show List.filter _ ((u.donate c).coreAt c).stalled = []
    rw [hcore, hs, List.filter_eq_nil_iff]
    intro q hq
    rw [List.mem_singleton.mp hq, State.needOf, State.minOf, State.stranded, State.held, hcore, ← State.stranded, hp,
      ← State.minOf, ← State.needOf, ← State.held]
    simpa using hh
  · rw [State.hartAt, State.leaveStalled, State.modCore_harts, hharts]
    rfl
  · rw [State.freeClusters_eq, State.freeClusters_eq, State.clusterBase_of_part hpart', hr, hcl]

end Sys2Proof.Machine

namespace Sys2Proof.Claims
open Sys2Proof.Machine

/-- Settles O37: the context takes the lowest free clusters, wants none of those that idle contexts could give, and leaves the
list. -/
theorem clustersSettle : Obligations.ClustersSettle := by
  unfold Obligations.ClustersSettle
  intro s r c free want hs hr
  refine ⟨fun hb => congrArg Host.Outcome.next (settle_becalmed hb), fun hb hst hw hle => ?_⟩
  obtain ⟨u, hu⟩ : ∃ u, u = s.takeLowestFree c r.ctx want := ⟨_, rfl⟩
  have feed : s.feedFree c = u := by rw [hu, State.feedFree, hs]; rfl
  have hset : Settles c [r] s u := hu ▸ settles_takeLowestFree s (List.mem_singleton_self r) want
  have hustalled : (u.coreAt c).stalled = [r] := by
    rw [hu, State.takeLowestFree, State.coreAt_setChange, State.assign_stalled, hs]
  have hklpr : (u.coreAt c).klpr = (s.coreAt c).klpr := by rw [hset.core c]; rfl
  have hneed : u.needOf c r = s.needOf c r := by rw [State.needOf, State.minOf, hklpr]; rfl
  have hpass : (s.stranded c r.ctx && r.need.isNone) = false := by
    rcases hst with h | h
    · rw [h, Bool.false_and]
    · rw [Option.isNone_eq_false_iff.mpr h, Bool.and_false]
  have hupass : (u.stranded c r.ctx && r.need.isNone) = false := by rwa [State.stranded, hklpr]
  have hwant : want = s.needOf c r - (s.held c r.ctx).length := by
    show s.wantOf c r = _
    rw [State.wantOf, hpass]
    rfl
  have henough : u.needOf c r ≤ (u.held c r.ctx).length := by
    have : (s.held c r.ctx).length + want ≤ (u.held c r.ctx).length := hu ▸ length_held_takeLowestFree hle
    omega
  obtain ⟨htl, htc, hth, htf⟩ := donate_leaveStalled hustalled hupass henough
  have ht : s.settle c = (u.donate c).leaveStalled c := by rw [settle_eq hb, feed]
  rw [← ht] at htl htc hth htf
  have hm := settles_settle (c := c) s
  have hown : ∀ k, k ∈ s.held c r.ctx ∨ k ∈ free.take want → Map.find ((s.settle c).coreAt c).clusters k = some r.ctx :=
    fun k hk => by
      rw [htc, hu, find_takeLowestFree]
      split
      · rfl
      · next hn => exact beq_iff_eq.mp (List.mem_filter.mp (hk.resolve_right hn)).2
  have hones : (s.settle c).hartAt (4 * c + r.ctx) = (s.hartAt (4 * c + r.ctx)).setChanged := by
    rw [hth, hu, State.takeLowestFree, State.setChange, if_neg, State.modCtx, State.hartAt_modHart_self]
    · rfl
    · rwa [List.length_take_of_le hle]
  exact ⟨s.settle c, rfl, htl, htf.trans (hu ▸ freeClusters_takeLowestFree), fun k hk => hown k (.inr hk),
    fun k hk => hown k (.inl hk), by rw [hones]; rfl, by rw [hones]; rfl, hm.sameMemory, hm.hart_ctx⟩

end Sys2Proof.Claims

/-! PROOFS. hspawn, and the gang that it founds or extends (R22, R23, R261, R308). -/

namespace Sys2Proof.Machine

/-! ### Which context qualifies (R22, R213, R224) -/

theorem foldl_add_sum (l : List Nat) (n : Nat) : l.foldl (· + ·) n = n + l.sum := by
  induction l generalizing n with
  | nil => rfl
  | cons a l ih => rw [List.foldl_cons, ih, List.sum_cons, Nat.add_assoc]

/-- A sum over the entries that pass a test. -/
theorem sum_map_ite {α : Type} (l : List α) (p : α → Bool) (f : α → Nat) :
    (l.map fun a => if p a then f a else 0).sum = ((l.filter p).map f).sum := by
  induction l with
  | nil => rfl
  | cons a l ih =>
    rw [List.map_cons, List.sum_cons, ih, List.filter_cons]
    cases p a with
    | false => exact Nat.zero_add _
    | true => rw [if_pos rfl, if_pos rfl, List.map_cons, List.sum_cons]

/-- The minimums of the other harts of a core. -/
theorem State.otherMins_eq (s : State) (c t : Nat) : s.otherMins c t =
    (((List.range 4).filter fun u => u != t && (s.hartAt (4 * c + u)).live).map fun u => fld (s.coreAt c).klpr (16 * u) 5).sum := by
  rw [State.otherMins, foldl_add_sum, sum_map_ite, Nat.zero_add]
  rfl

theorem State.canPin_iff (s : State) (c t n : Nat) : s.canPin c t n = true ↔ n ≤ s.clusterCount c
    ∧ (((List.range 4).filter fun u => u != t && (s.hartAt (4 * c + u)).live).map fun u =>
        fld (s.coreAt c).klpr (16 * u) 5).sum + n ≤ s.clusterCount c := by
  rw [State.canPin, Bool.and_eq_true, decide_eq_true_iff, decide_eq_true_iff, State.otherMins_eq]

theorem State.spawnsGang_iff (s : State) : s.spawnsGang = true ↔ tst s.hart.kgang 63 = true ∧ s.hart.gcl ≠ 0 := by
  rw [State.spawnsGang, Bool.and_eq_true, bne_iff_ne]

/-- What the place of a new member must give (R22, R261). -/
theorem State.placed_iff (s : State) (h : Nat) :
    (!(s.placedMembers.any fun m => coreOf m == coreOf h) && s.canPin (coreOf h) (ctxOf h) s.hart.gcl
        && (s.hart.inGang || s.canPin (coreOf s.cur) (ctxOf s.cur) s.hart.gcl)) = true ↔
      s.canPin (coreOf h) (ctxOf h) s.hart.gcl = true
        ∧ (s.hart.inGang = true → ∀ j, j ∈ s.gangOf s.cur → coreOf j ≠ coreOf h)
        ∧ (s.hart.inGang = false → coreOf s.cur ≠ coreOf h
          ∧ s.canPin (coreOf s.cur) (ctxOf s.cur) s.hart.gcl = true) := by
  rw [State.placedMembers]
  cases hg : s.hart.inGang with
  | true => simp [and_comm]
  | false =>
    simp only [Bool.false_eq_true, if_false, List.any_cons, List.any_nil, Bool.or_false, Bool.false_or, Bool.and_eq_true,
      Bool.not_eq_true', beq_eq_false_iff_ne, ne_eq, false_imp_iff, true_and, true_imp_iff]
    exact ⟨fun ⟨⟨h1, h2⟩, h3⟩ => ⟨h2, h1, h3⟩, fun ⟨h2, h1, h3⟩ => ⟨⟨h1, h2⟩, h3⟩⟩

theorem State.qualifies_iff (s : State) (h : Nat) : s.qualifies h = true ↔
    s.enabled (coreOf h) = true ∧ (s.coreAt (coreOf h)).ccOut = false ∧ s.dark (coreOf h) = false
      ∧ tst (s.coreAt (coreOf h)).kbecalm 63 = false ∧ tst s.hart.kgang (coreOf h / 2) = true ∧ (s.hartAt h).live = false
      ∧ (s.spawnsGang = true → s.canPin (coreOf h) (ctxOf h) s.hart.gcl = true
        ∧ (s.hart.inGang = true → ∀ j, j ∈ s.gangOf s.cur → coreOf j ≠ coreOf h)
        ∧ (s.hart.inGang = false → coreOf s.cur ≠ coreOf h
          ∧ s.canPin (coreOf s.cur) (ctxOf s.cur) s.hart.gcl = true)) := by
  rw [← State.placed_iff]
  simp only [State.qualifies, State.canHold, State.isBecalmed, Bool.and_eq_true, Bool.or_eq_true, Bool.not_eq_true',
    and_assoc]
  cases s.spawnsGang <;> simp

theorem State.pickContext_none {s : State} (h : ∀ j, j < 256 → s.qualifies j = false) : s.pickContext = none := by
  rw [State.pickContext, List.find?_eq_none]
  exact fun j hj e => by rw [h j (List.mem_range.mp hj)] at e; cases e

theorem State.pickContext_some {s : State} {h : Nat} (hh : h < 256) (hq : s.qualifies h = true)
    (hl : ∀ j, j < h → s.qualifies j = false) : s.pickContext = some h := by
  rw [State.pickContext, List.find?_range_eq_some]
  exact ⟨hq, List.mem_range.mpr hh, fun j hj => by rw [hl j hj]; rfl⟩

/-! ### Pinning (R23) -/

theorem State.pin_settles (s : State) (h n : Nat) : ∃ g, Settles (coreOf h) g
    (s.modCore (coreOf h) fun k => { k with klpr := lprSet k.klpr (ctxOf h) n n }) (s.pin h n) := ⟨_, settles_settle _⟩

theorem State.pin_part (s : State) (h n : Nat) : (s.pin h n).part = s.part := (s.pin_settles h n).choose_spec.part

theorem State.pin_cur (s : State) (h n : Nat) : (s.pin h n).cur = s.cur := (s.pin_settles h n).choose_spec.cur

/-- A hart in another vector context. -/
def Hart.withCtx (v : Hart) (x : VCtx) : Hart := { v with ctx := x }

theorem State.pin_hartAt (s : State) (h n j : Nat) : ∃ x, (s.pin h n).hartAt j = (s.hartAt j).withCtx x := by
  obtain ⟨g, hg⟩ := s.pin_settles h n
  rcases hg.harts j with e | e
  · exact ⟨_, e⟩
  · exact ⟨_, e⟩

theorem State.pin_klpr (s : State) (h n k : Nat) : ((s.pin h n).coreAt k).klpr =
    if k = coreOf h then lprSet (s.coreAt k).klpr (ctxOf h) n n else (s.coreAt k).klpr := by
  obtain ⟨g, hg⟩ := s.pin_settles h n
  rw [hg.core k, Core.holding, State.coreAt_modCore]
  split
  · rfl
  · rfl

theorem lprMin_lprSet {t n : Nat} (k : Word) (ht : t < 4) (hn : n < 32) : lprMin (lprSet k t n n) t = n := by
  rw [lprMin, lprSet, fld_putFld_ne _ _ (by omega), fld_putFld_self _ _ _ _ (by omega), Nat.mod_eq_of_lt (show n < 2 ^ 5 from hn)]

theorem lprMax_lprSet {t n : Nat} (k : Word) (ht : t < 4) (hn : n < 32) : lprMax (lprSet k t n n) t = n := by
  rw [lprMax, lprSet, fld_putFld_self _ _ _ _ (by omega), Nat.mod_eq_of_lt (show n < 2 ^ 5 from hn)]

/-- The entry of a hart that has been pinned. -/
theorem State.pin_entry (s : State) (h : Nat) {n : Nat} (hn : n < 32) : (s.pin h n).minOf (coreOf h) (ctxOf h) = n
    ∧ (s.pin h n).maxOf (coreOf h) (ctxOf h) = n := by
  have ht : ctxOf h < 4 := Nat.mod_lt _ (by omega)
  rw [State.minOf, State.maxOf, State.pin_klpr, if_pos rfl]
  exact ⟨lprMin_lprSet _ ht hn, lprMax_lprSet _ ht hn⟩

theorem State.gcl_lt (v : Hart) : v.gcl < 32 := fld_lt _ 43 5

/-! ### kgang (R21, R261) -/

section Kgang
variable (k : Word) (n g : Nat)

theorem tst_joined_ing : tst (joined k n g) 62 = true := by simp [joined, tst_putFld, tst_putBit]

theorem fld_joined_nmem : fld (joined k n g) 56 6 = n % 64 := by
  rw [joined, fld_putFld_ne _ _ (by omega), fld_putFld_self _ _ _ _ (by omega)]
  rfl

theorem fld_joined_gid : fld (joined k n g) 48 8 = g % 256 := by
  rw [joined, fld_putFld_self _ _ _ _ (by omega)]
  rfl

theorem tst_childGang (i : Nat) : tst (childGang k) i = (tst k i && (decide (i < 32) || decide (43 ≤ i ∧ i < 48))) := by
  have hm : ∀ i, i < 64 → (0x0000F800FFFFFFFF : Word).getLsbD i = (decide (i < 32) || decide (43 ≤ i ∧ i < 48)) := by decide
  rw [childGang, tst, BitVec.getLsbD_and, ← tst]
  by_cases hi : i < 64
  · rw [hm i hi]
  · rw [tst, BitVec.getLsbD_of_ge _ _ (by omega), Bool.false_and, Bool.false_and]

/-- A field that the new hart does not take from its caller is 0. -/
theorem fld_childGang_zero {lo len : Nat} (h : 32 ≤ lo ∧ lo + len ≤ 43 ∨ 48 ≤ lo) : fld (childGang k) lo len = 0 := by
  have e : fld (childGang k) lo len = fld (0 : Word) lo len := fld_eq_of_tst _ fun i h1 h2 => by
    rw [tst_childGang, show (decide (i < 32) || decide (43 ≤ i ∧ i < 48)) = false by simp; omega, Bool.and_false]
    simp [tst]
  rw [e]
  simp [fld]

theorem fld_childGang_same {lo len : Nat} (h : lo + len ≤ 32 ∨ 43 ≤ lo ∧ lo + len ≤ 48) : fld (childGang k) lo len = fld k lo len :=
  fld_eq_of_tst _ fun i h1 h2 => by
    rw [tst_childGang, show (decide (i < 32) || decide (43 ≤ i ∧ i < 48)) = true by simp; omega, Bool.and_true]

end Kgang

/-! ### The gang of a hart (R21, R22) -/

/-- A hart that counts as a member of gang g. -/
def Hart.isMember (v : Hart) (g : Nat) : Bool := v.live && v.inGang && v.gang == g

theorem State.gangOf_eq (s : State) (h : Nat) :
    s.gangOf h = (s.harts.filter fun e => e.2.isMember (s.hartAt h).gang).map fun e => e.1 := rfl

theorem filter_insert_of_not {α : Type} (p : Nat × α → Bool) (m : Map α) (k : Nat) (a : α) (h : p (k, a) = false) :
    (Map.insert m k a).filter p = m.filter p := by
  induction m with
  | nil => simp [Map.insert, h]
  | cons e m ih =>
    obtain ⟨j, b⟩ := e
    rw [Map.insert]
    split
    · rw [List.filter_cons, h]; rfl
    · rw [List.filter_cons, ih, List.filter_cons]

theorem filter_erase_of_not {α : Type} (p : Nat × α → Bool) (m : Map α) (k : Nat) (h : ∀ a, (k, a) ∈ m → p (k, a) = false) :
    (Map.erase m k).filter p = m.filter p := by
  induction m with
  | nil => rfl
  | cons e m ih =>
    obtain ⟨j, b⟩ := e
    have ih := ih fun a ha => h a (List.mem_cons_of_mem _ ha)
    rw [Map.erase]
    split
    · next hj =>
      subst hj
      rw [ih, List.filter_cons, h b List.mem_cons_self]
      rfl
    · rw [List.filter_cons, ih, List.filter_cons]

/-- A change of a hart that is no member, before and after, leaves the gang as it is. -/
theorem State.gangOf_modHart {s : State} {h j : Nat} {f : Hart → Hart} (hj : j ≠ h) (hn : h ∉ s.gangOf j)
    (hf : (f (s.hartAt h)).inGang = false) : (s.modHart h f).gangOf j = s.gangOf j := by
  rw [State.gangOf_eq, State.gangOf_eq, State.hartAt_modHart_ne _ _ hj]
  refine congrArg (List.map _) ?_
  show (Map.put s.harts h (f (s.hartAt h))).filter _ = _
  rw [Map.put, filter_insert_of_not _ _ _ _ (by simp [Hart.isMember, hf]), filter_erase_of_not]
  intro a ha
  by_contra hp
  exact hn (List.mem_map.mpr ⟨(h, a), List.mem_filter.mpr ⟨ha, Bool.not_eq_false _ ▸ hp⟩, rfl⟩)

/-- A hart with NMEM set. -/
def Hart.withMembers (n : Nat) (v : Hart) : Hart := { v with kgang := putFld v.kgang 56 6 n }

theorem Hart.withMembers_twice (n : Nat) (v : Hart) : (v.withMembers n).withMembers n = v.withMembers n :=
  have h : putFld (putFld v.kgang 56 6 n) 56 6 n = putFld v.kgang 56 6 n :=
    eq_of_tst _ fun i _ => by simp only [tst_putFld]; split <;> rfl
  congrArg (fun k => { v with kgang := k }) h

/-- NMEM of the harts of a list, whatever repeats in it. -/
theorem State.setMembers_hartAt (s : State) (l : List Nat) (n j : Nat) : (s.setMembers l n).hartAt j =
    if j ∈ l then (s.hartAt j).withMembers n else s.hartAt j := by
  show (l.foldl (fun t h => t.modHart h (Hart.withMembers n)) s).hartAt j = _
  induction l generalizing s with
  | nil => simp
  | cons h l ih =>
    rw [List.foldl_cons, ih, State.hartAt_modHart]
    by_cases e : j = h
    · subst e
      rw [if_pos rfl, if_pos List.mem_cons_self, Hart.withMembers_twice, ite_self]
    · simp [e]

theorem State.setMembers_part (s : State) (l : List Nat) (n : Nat) : (s.setMembers l n).part = s.part
    ∧ (s.setMembers l n).cores = s.cores ∧ (s.setMembers l n).cur = s.cur := by
  rw [State.setMembers]
  induction l generalizing s with
  | nil => exact ⟨rfl, rfl, rfl⟩
  | cons h l ih => exact ih (s.modHart h _)

/-! ### Founding and joining (R23, R261) -/

/-- Hart v in gang g with n members beside it and a founder. -/
def Hart.join (v : Hart) (n gid g : Nat) : Hart := { v with kgang := joined v.kgang n gid, gang := g }

section Join
variable {s : State} {h : Nat}

/-- The first member of a gang, and its founder. -/
theorem joinGang_found (hg : s.hart.inGang = false) (hc : coreOf s.cur ≠ coreOf h) :
    (s.joinGang h).part = { s.part with nextGang := s.part.nextGang + 1 } ∧ (s.joinGang h).cur = s.cur
      ∧ (∀ j, ∃ x, (s.joinGang h).hartAt j =
          (if j = h ∨ j = s.cur then (s.hartAt j).join 1 s.cur s.part.nextGang else s.hartAt j).withCtx x)
      ∧ ∀ j, j = h ∨ j = s.cur → (s.joinGang h).minOf (coreOf j) (ctxOf j) = s.hart.gcl
          ∧ (s.joinGang h).maxOf (coreOf j) (ctxOf j) = s.hart.gcl := by
  have hn : s.cur ≠ h := fun e => hc (e ▸ rfl)
  obtain ⟨u, hu⟩ : ∃ u, u = ((s.modPart fun p => { p with nextGang := p.nextGang + 1 }).modHart s.cur
      (·.join 1 s.cur s.part.nextGang)).modHart h (·.join 1 s.cur s.part.nextGang) := ⟨_, rfl⟩
  have hj : s.joinGang h = (u.pin s.cur s.hart.gcl).pin h s.hart.gcl := by
    rw [State.joinGang, hg, hu]
    rfl
  have huh : ∀ j, u.hartAt j = if j = h ∨ j = s.cur then (s.hartAt j).join 1 s.cur s.part.nextGang else s.hartAt j := fun j => by
    rw [hu, State.hartAt_modHart, State.hartAt_modHart, State.hartAt_modPart]
    by_cases e : j = h
    · subst e
      simp [hn.symm]
    · simp [e]
  rw [hj]
  refine ⟨by rw [State.pin_part, State.pin_part, hu]; rfl, by rw [State.pin_cur, State.pin_cur, hu]; rfl, fun j => ?_, ?_⟩
  · obtain ⟨x, hx⟩ := State.pin_hartAt u s.cur s.hart.gcl j
    obtain ⟨y, hy⟩ := State.pin_hartAt (u.pin s.cur s.hart.gcl) h s.hart.gcl j
    exact ⟨y, by rw [hy, hx, huh]; rfl⟩
  · rintro j (rfl | rfl)
    · exact State.pin_entry _ _ (State.gcl_lt _)
    · obtain ⟨h1, h2⟩ := State.pin_entry u s.cur (State.gcl_lt s.hart)
      rw [State.minOf, State.maxOf, State.pin_klpr, if_neg hc]
      exact ⟨h1, h2⟩

/-- A further member. -/
theorem joinGang_join (hg : s.hart.inGang = true) (hn : h ∉ s.gangOf s.cur) :
    (s.joinGang h).part = s.part ∧ (s.joinGang h).cur = s.cur
      ∧ (∀ j, ∃ x, (s.joinGang h).hartAt j =
          (if j = h then (s.hartAt h).join (s.gangOf s.cur).length s.hart.gid s.hart.gang
            else if j ∈ s.gangOf s.cur then
              (s.hartAt j).withMembers (s.gangOf s.cur).length
            else s.hartAt j).withCtx x)
      ∧ (s.joinGang h).minOf (coreOf h) (ctxOf h) = s.hart.gcl ∧ (s.joinGang h).maxOf (coreOf h) (ctxOf h) = s.hart.gcl := by
  obtain ⟨l, hl⟩ : ∃ l, l = s.gangOf s.cur := ⟨_, rfl⟩
  obtain ⟨u, hu⟩ : ∃ u, u = (s.setMembers l l.length).modHart h (·.join l.length s.hart.gid s.hart.gang) := ⟨_, rfl⟩
  have hj : s.joinGang h = u.pin h s.hart.gcl := by
    rw [State.joinGang, hg, hu, hl]
    rfl
  rw [hj, ← hl]
  obtain ⟨m1, -, m3⟩ := s.setMembers_part l l.length
  refine ⟨by rw [State.pin_part, hu]; exact m1, by rw [State.pin_cur, hu]; exact m3, fun j => ?_,
    State.pin_entry _ _ (State.gcl_lt _)⟩
  obtain ⟨x, hx⟩ := State.pin_hartAt u h s.hart.gcl j
  refine ⟨x, ?_⟩
  rw [hx, hu, State.hartAt_modHart, State.setMembers_hartAt]
  by_cases e : j = h
  · subst e
    rw [if_pos rfl, if_pos rfl, if_neg (hl ▸ hn)]
  · rw [if_neg e, if_neg e]

end Join

/-- The state with the child in context h. -/
def State.withChild (s : State) (h : Nat) (a b : XReg) : State := s.modHart h fun v => childHart v s.hart (s.xr a) (s.xr b)

end Sys2Proof.Machine

namespace Sys2Proof.Claims
open Sys2Proof.Machine

/-- The new hart has its argument in x10 and 0 in every other register. -/
theorem childHart_xr (v p : Hart) (entry arg : Word) (r : XReg) :
    (childHart v p entry arg).xr r = if r = 10 then arg else 0 := by
  by_cases h0 : r = 0
  · subst h0
    simp [Hart.xr]
  · rw [Hart.xr, if_neg h0]
    show Sparse.read 0 (Sparse.write 0 [] 10 arg) r.toNat = _
    rw [Sparse.read_write]
    by_cases h : r = 10
    · subst h
      rfl
    · rw [if_neg h, if_neg (show r.toNat ≠ 10 from fun e => h (BitVec.eq_of_toNat_eq e))]
      rfl

/-- The hart that is spawned: that of childHart, but for its gang and its vector context. -/
structure IsChild (s : State) (a b : XReg) (v : Hart) : Prop where
  live : v.live = true
  pm : v.pm = 0
  pc : v.pc = s.xr a
  xr : ∀ r, v.xr r = if r = 10 then s.xr b else 0
  katp : v.katp = s.hart.katp
  next : v.next = 0
  head : v.head = 0
  kgbar : v.kgbar = s.hart.kgbar

theorem isChild_childHart (s : State) (a b : XReg) (v : Hart) : IsChild s a b (childHart v s.hart (s.xr a) (s.xr b)) :=
  ⟨rfl, by simp [Hart.pm, childHart, fld], rfl, childHart_xr v s.hart _ _, rfl, rfl, rfl, rfl⟩

theorem IsChild.join {s : State} {a b : XReg} {v : Hart} (h : IsChild s a b v) (n gid g : Nat) (x : VCtx) :
    IsChild s a b ((v.join n gid g).withCtx x) :=
  ⟨h.live, h.pm, h.pc, h.xr, h.katp, h.next, h.head, h.kgbar⟩

/-- What x[d] ← w and the next word leave as they are, of every hart. -/
theorem done_gang (s : State) (d : XReg) (w : Word) (j : Nat) : ((s.done d w).hartAt j).kgang = (s.hartAt j).kgang
    ∧ ((s.done d w).hartAt j).gang = (s.hartAt j).gang := by
  by_cases h : j = s.cur
  · subst h
    have e : (s.done d w).hartAt s.cur = _ := done_hart s d w
    rw [e, Hart.xw]
    split
    · exact ⟨rfl, rfl⟩
    · exact ⟨rfl, rfl⟩
  · obtain ⟨t, ht, -, -, -, -, -, honly, -⟩ := writesX_done s d w
    rw [Host.Outcome.next.inj ht, honly.2 j h]
    exact ⟨rfl, rfl⟩

/-- An hspawn has ended with its child in context h: x[d] takes the number, and the caller's registers are as they were. -/
structure Spawned (s t : State) (d a b : XReg) (h : Nat) : Prop where
  xr : t.xr d = if d = 0 then 0 else BitVec.ofNat 64 h
  other : OtherX s t d
  pc : t.pc = s.pc + 4
  child : IsChild s a b (t.hartAt h)

section Spawn
variable {s u : State} {a b : XReg} {h : Nat}

/-- x[d] takes the number of the child, from a state with the caller's registers. -/
theorem spawn_ends (d : XReg) (hn : h ≠ s.cur) (hc : u.cur = s.cur) (hx : u.hart.x = s.hart.x) (hp : u.hart.xpoison = s.hart.xpoison)
    (hpc : u.hart.pc = s.hart.pc) (hch : IsChild s a b (u.hartAt h)) :
    let t := u.done d (BitVec.ofNat 64 h)
    Spawned s t d a b h ∧ t.part = u.part ∧ t.cores = u.cores ∧ ∀ j, j ≠ s.cur → t.hartAt j = u.hartAt j := by
  intro t
  obtain ⟨t', ht, h1, -, h2, h3, -, ⟨⟨hpart, hcores, -⟩, hother⟩, -⟩ := writesX_done u d (BitVec.ofNat 64 h)
  obtain rfl : t = t' := Host.Outcome.next.inj ht
  have hxr : ∀ r, u.xr r = s.xr r := Hart.xr_eq_of_x hx
  have hxp : ∀ r, XPoisoned u r ↔ XPoisoned s r := fun r => by rw [XPoisoned, hp, XPoisoned]
  rw [hc] at hother
  refine ⟨⟨h1, fun r hr => ?_, ?_, by rw [hother h hn]; exact hch⟩, hpart, hcores, hother⟩
  · obtain ⟨e1, e2⟩ := h2 r hr
    exact ⟨e1.trans (hxr r), e2.trans (hxp r)⟩
  · rw [h3, State.pc, hpc]
    rfl

section Child
variable (hn : h ≠ s.cur)

theorem withChild_hartAt_self : (s.withChild h a b).hartAt h = childHart (s.hartAt h) s.hart (s.xr a) (s.xr b) :=
  State.hartAt_modHart_self ..

theorem withChild_hartAt_ne {j : Nat} (hj : j ≠ h) : (s.withChild h a b).hartAt j = s.hartAt j :=
  State.hartAt_modHart_ne _ _ hj

include hn

theorem withChild_hart : (s.withChild h a b).hart = s.hart := withChild_hartAt_ne hn.symm

/-- A hart that is spawned outside any gang (R22). -/
theorem spawn_alone (d : XReg) : let t := (s.withChild h a b).done d (BitVec.ofNat 64 h)
    Spawned s t d a b h ∧ t.part = s.part ∧ t.cores = s.cores ∧ (∀ j, j ≠ h → j ≠ s.cur → t.hartAt j = s.hartAt j)
      ∧ (t.hartAt h).inGang = false ∧ tst (t.hartAt h).kgang 63 = false ∧ fld (t.hartAt h).kgang 56 6 = 0
      ∧ (t.hartAt h).gid = 0 ∧ (t.hartAt h).pendBit = false ∧ (t.hartAt h).gcl = s.hart.gcl
      ∧ fld (t.hartAt h).kgang 0 32 = fld s.hart.kgang 0 32 := by
  intro t
  have hh := withChild_hart (a := a) (b := b) hn
  obtain ⟨hs, hp, hc, ho⟩ := spawn_ends (u := s.withChild h a b) (a := a) (b := b) d hn rfl (by rw [hh]) (by rw [hh]) (by rw [hh])
    (withChild_hartAt_self ▸ isChild_childHart s a b _)
  have hk : (t.hartAt h).kgang = childGang s.hart.kgang := by rw [ho h hn, withChild_hartAt_self]; rfl
  simp only [Hart.inGang, Hart.gid, Hart.pendBit, Hart.gcl, hk]
  refine ⟨hs, hp, hc, fun j hj hjc => (ho j hjc).trans (withChild_hartAt_ne hj), ?_, ?_, fld_childGang_zero _ (by omega),
    fld_childGang_zero _ (by omega), ?_, fld_childGang_same _ (by omega), fld_childGang_same _ (by omega)⟩
  · simp [tst_childGang]
  · simp [tst_childGang]
  · simp [tst_childGang]

/-- The first member of a gang, and its founder (R23, R261). -/
theorem spawn_found (d : XReg) (hi : s.hart.inGang = false) (hcore : coreOf s.cur ≠ coreOf h) :
    let t := ((s.withChild h a b).joinGang h).done d (BitVec.ofNat 64 h)
    Spawned s t d a b h ∧ t.part = { s.part with nextGang := s.part.nextGang + 1 }
      ∧ ∀ j, j = h ∨ j = s.cur → (t.hartAt j).inGang = true ∧ (t.hartAt j).members = 2
        ∧ (t.hartAt j).gid = s.cur % 256 ∧ (t.hartAt j).gang = s.part.nextGang
        ∧ t.minOf (coreOf j) (ctxOf j) = s.hart.gcl ∧ t.maxOf (coreOf j) (ctxOf j) = s.hart.gcl := by
  intro t
  have hh := withChild_hart (a := a) (b := b) hn
  obtain ⟨jp, jc, jh, jm⟩ := joinGang_found (s := s.withChild h a b) (h := h) (by rw [hh, hi]) hcore
  obtain ⟨x, hx⟩ := jh h
  obtain ⟨y, hy⟩ := jh s.cur
  rw [if_pos (.inl rfl), withChild_hartAt_self] at hx
  rw [if_pos (.inr rfl), withChild_hartAt_ne hn.symm] at hy
  have hu : ((s.withChild h a b).joinGang h).hart = (s.hart.join 1 s.cur s.part.nextGang).withCtx y := by
    rw [State.hart, jc]
    exact hy
  obtain ⟨hs, hp, hc, -⟩ := spawn_ends (u := (s.withChild h a b).joinGang h) (a := a) (b := b) d hn jc (by rw [hu]; rfl)
    (by rw [hu]; rfl) (by rw [hu]; rfl) (hx ▸ (isChild_childHart s a b _).join ..)
  refine ⟨hs, hp.trans jp, fun j hj => ?_⟩
  obtain ⟨k1, k2⟩ := done_gang ((s.withChild h a b).joinGang h) d (BitVec.ofNat 64 h) j
  obtain ⟨z, hz⟩ := jh j
  rw [if_pos (show j = h ∨ j = (s.withChild h a b).cur from hj)] at hz
  rw [hz] at k1 k2
  have k1' : (t.hartAt j).kgang = joined ((s.withChild h a b).hartAt j).kgang 1 s.cur := k1
  simp only [Hart.inGang, Hart.members, Hart.gid, k1']
  refine ⟨tst_joined_ing .., by rw [fld_joined_nmem], fld_joined_gid .., k2, ?_⟩
  rw [← hh, State.minOf, State.maxOf, State.coreAt, hc]
  exact jm j hj

/-- A further member (R22). -/
theorem spawn_join (d : XReg) (hi : s.hart.inGang = true) (hnot : h ∉ s.gangOf s.cur) :
    let t := ((s.withChild h a b).joinGang h).done d (BitVec.ofNat 64 h)
    Spawned s t d a b h ∧ t.part = s.part
      ∧ ((s.gangOf s.cur).length < 64 →
          (∀ j, j = h ∨ j ∈ s.gangOf s.cur → (t.hartAt j).members = (s.gangOf s.cur).length + 1)
          ∧ (t.hartAt h).inGang = true ∧ (t.hartAt h).gid = s.hart.gid ∧ (t.hartAt h).gang = s.hart.gang
          ∧ t.minOf (coreOf h) (ctxOf h) = s.hart.gcl ∧ t.maxOf (coreOf h) (ctxOf h) = s.hart.gcl) := by
  intro t
  have hh := withChild_hart (a := a) (b := b) hn
  have hgang : (s.withChild h a b).gangOf s.cur = s.gangOf s.cur := State.gangOf_modHart hn.symm hnot (by
    show tst (childGang s.hart.kgang) 62 = false
    simp [tst_childGang])
  have hgang' : (s.withChild h a b).gangOf (s.withChild h a b).cur = s.gangOf s.cur := hgang
  obtain ⟨jp, jc, jh, jm⟩ := joinGang_join (s := s.withChild h a b) (h := h) (by rw [hh, hi]) (by rw [hgang']; exact hnot)
  rw [hgang', hh] at jh
  obtain ⟨x, hx⟩ := jh h
  obtain ⟨y, hy⟩ := jh s.cur
  rw [if_pos rfl, withChild_hartAt_self] at hx
  rw [if_neg hn.symm, withChild_hartAt_ne hn.symm] at hy
  have hu : ∃ n, ((s.withChild h a b).joinGang h).hart = (if s.cur ∈ s.gangOf s.cur then s.hart.withMembers n else s.hart).withCtx y :=
    ⟨_, by rw [State.hart, jc]; exact hy⟩
  obtain ⟨n, hu⟩ := hu
  obtain ⟨hs, hp, hc, -⟩ := spawn_ends (u := (s.withChild h a b).joinGang h) (a := a) (b := b) d hn jc
    (by rw [hu]; split <;> rfl) (by rw [hu]; split <;> rfl) (by rw [hu]; split <;> rfl) (hx ▸ (isChild_childHart s a b _).join ..)
  refine ⟨hs, hp.trans jp, fun hlen => ⟨fun j hj => ?_, ?_⟩⟩
  · obtain ⟨k, -⟩ := done_gang ((s.withChild h a b).joinGang h) d (BitVec.ofNat 64 h) j
    obtain ⟨z, hz⟩ := jh j
    rw [hz] at k
    have hm : fld (t.hartAt j).kgang 56 6 = (s.gangOf s.cur).length % 64 := by
      rcases hj with rfl | hj
      · rw [if_pos rfl] at k
        rw [k]
        exact fld_joined_nmem ..
      · rw [if_neg (show j ≠ h from fun e => hnot (e ▸ hj)), if_pos hj] at k
        rw [k]
        exact fld_putFld_self _ _ _ _ (by omega)
    rw [Hart.members, hm, Nat.mod_eq_of_lt hlen]
  · obtain ⟨k1, k2⟩ := done_gang ((s.withChild h a b).joinGang h) d (BitVec.ofNat 64 h) h
    rw [hx] at k1 k2
    have k1' : (t.hartAt h).kgang = joined (childGang s.hart.kgang) (s.gangOf s.cur).length s.hart.gid := k1
    simp only [Hart.inGang, Hart.gid, k1']
    rw [State.minOf, State.maxOf, State.coreAt, hc, ← hh]
    exact ⟨tst_joined_ing .., (fld_joined_gid ..).trans (Nat.mod_eq_of_lt (fld_lt _ 48 8)), by rw [hh]; exact k2, jm⟩

end Child
end Spawn

theorem exec_hspawn_some {s : State} {h : Nat} (d a b : XReg) (hh : h < 256) (hq : s.qualifies h = true)
    (hl : ∀ j, j < h → s.qualifies j = false) : exec (.hspawn d a b) s =
      .next ((if s.spawnsGang then (s.withChild h a b).joinGang h else s.withChild h a b).done d (BitVec.ofNat 64 h)) := by
  show execHspawn d a b s = _
  rw [execHspawn, State.pickContext_some hh hq hl]
  rfl

/-- Settles O27: the context that qualifies takes the child, and the gang is founded, or joined, by its own lemma. -/
theorem hspawnStarts : Obligations.HspawnStarts := by
  unfold Obligations.HspawnStarts
  intro s d a b hlive gang room
  refine ⟨s.spawnsGang_iff, fun h _ => ?_, fun hnone => ?_, fun h hh hq hl => ?_⟩
  · rw [State.qualifies_iff, State.spawnsGang_iff, State.canPin_iff, State.canPin_iff]
  · show WritesX s d _ (execHspawn d a b s)
    rw [execHspawn, State.pickContext_none hnone]
    exact writesX_done s d _
  · obtain ⟨-, -, -, -, -, hfree, hplace⟩ := (State.qualifies_iff s h).mp hq
    have hn : h ≠ s.cur := fun e => by rw [e, show (s.hartAt s.cur).live = true from hlive] at hfree; cases hfree
    have hexec := exec_hspawn_some d a b hh hq hl
    cases hg : s.spawnsGang with
    | false =>
      rw [hg, if_neg Bool.false_ne_true] at hexec
      obtain ⟨⟨e1, e2, e3, c⟩, hp, halone⟩ := spawn_alone (a := a) (b := b) hn d
      exact ⟨_, hexec, e1, e2, e3, c.live, c.pm, c.pc, c.xr, c.katp, c.next, c.head, c.kgbar, hp, fun _ => halone, nofun, nofun⟩
    | true =>
      rw [hg, if_pos rfl] at hexec
      obtain ⟨-, hapart, hfound⟩ := hplace hg
      cases hi : s.hart.inGang with
      | false =>
        obtain ⟨⟨e1, e2, e3, c⟩, hp, hgang⟩ := spawn_found (a := a) (b := b) hn d hi (hfound hi).1
        exact ⟨_, hexec, e1, e2, e3, c.live, c.pm, c.pc, c.xr, c.katp, c.next, c.head, c.kgbar, hp, nofun, fun _ _ => hgang,
          fun _ => nofun⟩
      | true =>
        obtain ⟨⟨e1, e2, e3, c⟩, hp, hgang⟩ := spawn_join (a := a) (b := b) hn d hi fun hm => hapart hi h hm rfl
        exact ⟨_, hexec, e1, e2, e3, c.live, c.pm, c.pc, c.xr, c.katp, c.next, c.head, c.kgbar, hp, nofun, fun _ => nofun,
          fun _ _ => hgang⟩

end Sys2Proof.Claims

/-! PROOFS. Bytes that perform, many at a time: what they leave as it is, the drain of a junction buffer, and what an address
reaches afterwards (R148, R170, R184, R206, R217, R237, R238). -/

namespace Sys2Proof.Machine

/-- Writes have performed, from s to t: of the part only memory, its poison and the transactions change, and of a hart a monitor
woken, or, with the host link lost, the machine check of one whose writes may be lost. -/
structure Performed (loses : Nat → Prop) (s t : State) : Prop where
  part : ∃ m p tr n, t.part = { s.part with mem := m, poison := p, trans := tr, nextTid := n }
  harts : ∀ j, ∃ m k p, t.hartAt j = { s.hartAt j with monHit := m, kmcheck := k, mcPend := p }
  kept : ∀ j, s.part.hostLost = false ∨ ¬ loses j → (t.hartAt j).kmcheck = (s.hartAt j).kmcheck
    ∧ (t.hartAt j).mcPend = (s.hartAt j).mcPend
  towers : t.towers = s.towers
  agenda : t.agenda = s.agenda
  rr : t.rr = s.rr
  cur : t.cur = s.cur
  tick : t.tick = s.tick

theorem PaKind.ite_ne {c : Prop} [Decidable c] {a b x : PaKind} (ha : c → a ≠ x) (hb : ¬ c → b ≠ x) :
    (if c then a else b) ≠ x := by
  split
  · next h => exact ha h
  · next h => exact hb h

theorem remoteKind_ne_hostLost (n a : Nat) : remoteKind n a ≠ .hostLost := by
  unfold remoteKind
  repeat' refine PaKind.ite_ne (fun _ => ?_) fun _ => ?_
  all_goals nofun

/-- A write is lost only over a host link that is lost (R238). -/
theorem State.hostLost_of_paKind {s : State} {pa : Nat} (h : s.paKind pa = .hostLost) : s.part.hostLost = true := by
  by_contra hn
  revert h
  unfold State.paKind
  have choice : ∀ {c : Prop} [Decidable c] {a : PaKind}, a ≠ .hostLost → (if c then a else .bad) ≠ .hostLost :=
    fun h => PaKind.ite_ne (fun _ => h) fun _ => nofun
  exact PaKind.ite_ne
    (fun _ => PaKind.ite_ne (fun _ => nofun) fun _ => PaKind.ite_ne (fun _ => nofun) fun _ =>
      PaKind.ite_ne (fun _ => choice nofun) fun _ => PaKind.ite_ne (fun _ => nofun) fun _ =>
      PaKind.ite_ne (fun _ => choice nofun) fun _ => PaKind.ite_ne (fun _ => choice nofun) fun _ =>
      PaKind.ite_ne (fun _ => nofun) fun _ => PaKind.ite_ne (fun h => absurd h hn) fun _ => nofun)
    fun _ => choice (remoteKind_ne_hostLost _ _)

namespace Performed
variable {p q : Nat → Prop} {s t u : State}

theorem refl (p : Nat → Prop) (s : State) : Performed p s s where
  part := ⟨_, _, _, _, rfl⟩
  harts _ := ⟨_, _, _, rfl⟩
  kept _ _ := ⟨rfl, rfl⟩
  towers := rfl
  agenda := rfl
  rr := rfl
  cur := rfl
  tick := rfl

theorem trans (h1 : Performed p s t) (h2 : Performed p t u) : Performed p s u where
  part := by
    obtain ⟨_, _, _, _, e1⟩ := h1.part
    obtain ⟨_, _, _, _, e2⟩ := h2.part
    exact ⟨_, _, _, _, by rw [e2, e1]⟩
  harts j := by
    obtain ⟨_, _, _, e1⟩ := h1.harts j
    obtain ⟨_, _, _, e2⟩ := h2.harts j
    exact ⟨_, _, _, by rw [e2, e1]⟩
  kept j hj := by
    obtain ⟨_, _, _, _, e⟩ := h1.part
    obtain ⟨a1, b1⟩ := h1.kept j hj
    obtain ⟨a2, b2⟩ := h2.kept j (by rw [e]; exact hj)
    exact ⟨a2.trans a1, b2.trans b1⟩
  towers := h2.towers.trans h1.towers
  agenda := h2.agenda.trans h1.agenda
  rr := h2.rr.trans h1.rr
  cur := h2.cur.trans h1.cur
  tick := h2.tick.trans h1.tick

theorem mono (h : Performed p s t) (hpq : ∀ j, p j → q j) : Performed q s t :=
  { h with kept := fun j hj => h.kept j (hj.imp id fun hq hp => hq (hpq j hp)) }

theorem foldl {α : Type} {f : State → α → State} (l : List α) (hf : ∀ u a, a ∈ l → Performed p u (f u a)) (s : State) :
    Performed p s (l.foldl f s) := by
  induction l generalizing s with
  | nil => exact .refl p s
  | cons a l ih =>
    exact (hf s a List.mem_cons_self).trans (ih (fun u b hb => hf u b (List.mem_cons_of_mem _ hb)) _)

theorem node (h : Performed p s t) : t.part.node = s.part.node := by
  obtain ⟨_, _, _, _, e⟩ := h.part
  rw [e]

theorem isLocal (h : Performed p s t) (pa : Nat) : t.isLocal pa = s.isLocal pa := by
  rw [State.isLocal, h.node]
  rfl

theorem cell (h : Performed p s t) (pa : Nat) : t.cell pa = s.cell pa := by
  rw [State.cell, h.isLocal]
  rfl

theorem inHbm (h : Performed p s t) (pa n : Nat) : t.inHbm pa n = s.inHbm pa n := by
  rw [State.inHbm, h.isLocal]
  rfl

theorem live (h : Performed p s t) (j : Nat) : (t.hartAt j).live = (s.hartAt j).live := by
  obtain ⟨_, _, _, e⟩ := h.harts j
  rw [e]

/-- What an address reaches rests on the part's registers and on which harts exist. -/
theorem paKind (h : Performed p s t) (pa : Nat) : t.paKind pa = s.paKind pa := by
  obtain ⟨_, _, _, _, e⟩ := h.part
  have h1 : ∀ c, t.enabled c = s.enabled c := fun c => by
    unfold State.enabled State.slot
    rw [e]
  have h2 : t.hostUp = s.hostUp := by
    unfold State.hostUp
    rw [e]
  have h3 : ∀ n, t.reaches n = s.reaches n := fun n => by
    have hu : t.portUp = s.portUp := funext fun a => by
      unfold State.portUp
      rw [e]
    unfold State.reaches State.portSets
    rw [hu, e]
  have h4 : t.part.hostLost = s.part.hostLost := by rw [e]
  unfold State.paKind
  simp only [h.isLocal, h.live, h1, h2, h3, h4]

theorem inStorage (h : Performed p s t) (pa : Nat) : t.inStorage pa = s.inStorage pa := by
  obtain ⟨_, _, _, _, e⟩ := h.part
  unfold State.inStorage State.rangeCovers
  rw [h.paKind, e]

theorem sameX (h : Performed p s t) : Claims.SameX s t := by
  obtain ⟨_, _, _, e⟩ := h.harts s.cur
  have e' : t.hart = _ := (congrArg t.hartAt h.cur).trans e
  exact ⟨fun r => Claims.Hart.xr_eq_of_x (by rw [e']; rfl) r, by rw [e']; rfl⟩

/-- With the host link, no hart changes but by a monitor woken. -/
theorem woken (h : Performed p s t) (hl : s.part.hostLost = false) : Woken s t := by
  refine ⟨fun j => ?_, h.agenda, h.rr, h.cur, h.tick⟩
  obtain ⟨m, k, p, e⟩ := h.harts j
  obtain ⟨h1, h2⟩ := h.kept j (.inl hl)
  rw [e] at h1 h2
  obtain rfl : k = (s.hartAt j).kmcheck := h1
  obtain rfl : p = (s.hartAt j).mcPend := h2
  exact ⟨m, e⟩

end Performed

/-! ### One write, and poison -/

theorem Part.putBytes_frame (p : Part) (k : Nat) (bs : List Byte) :
    ∃ m q, p.putBytes k bs = { p with mem := m, poison := q } := by
  induction bs generalizing p k with
  | nil => exact ⟨_, _, rfl⟩
  | cons b bs ih =>
    obtain ⟨m, q, e⟩ := ih (p.putByte k b) (k + 1)
    exact ⟨m, q, by rw [Part.putBytes, e]; rfl⟩

theorem performed_performAs (s : State) (h : Nat) (a : Asker) (addr : Word) (st : Bool) (pa : Nat) (bs : List Byte)
    (w : Nat → Bool) : Performed (· = h) s (s.performAs h a addr st pa bs w) := by
  have hp : ∃ m p tr n, (s.performAs h a addr st pa bs w).part =
      { s.part with mem := m, poison := p, trans := tr, nextTid := n } := by
    rw [State.performAs_part]
    split
    · exact ⟨_, _, _, _, rfl⟩
    · split
      · obtain ⟨m, q, e⟩ := Part.putBytes_frame s.part (s.cell pa) bs
        exact ⟨m, q, _, _, e⟩
      · exact ⟨_, _, _, _, rfl⟩
  by_cases hl : s.paKind pa = .hostLost
  · have hlost : ¬ s.part.hostLost = false := by simp [State.hostLost_of_paKind hl]
    rw [State.performAs_hostLost _ _ _ _ _ _ _ _ hl] at hp ⊢
    refine ⟨hp, fun j => ?_, fun j hj => ?_, ?_, ?_, ?_, ?_, ?_⟩
    · rw [writeLost_hartAt, Hart.lostWrite]
      split_ifs
      · exact ⟨_, _, _, rfl⟩
      · exact ⟨_, _, _, rfl⟩
      · exact ⟨_, _, _, rfl⟩
    · rw [writeLost_hartAt, if_neg (hj.resolve_left hlost)]
      exact ⟨rfl, rfl⟩
    all_goals
      unfold State.writeLost
      split <;> rfl
  · obtain ⟨hh, ha, hr, hc, hk⟩ := woken_performAs s h a addr st pa bs w hl
    refine ⟨hp, fun j => ?_, fun j _ => ?_, (State.performAs_frame s h a addr st pa bs w).2.1, ha, hr, hc, hk⟩
    · obtain ⟨m, e⟩ := hh j
      exact ⟨m, _, _, e⟩
    · obtain ⟨m, e⟩ := hh j
      rw [e]
      exact ⟨rfl, rfl⟩

theorem performed_modPart (s : State) (f : Part → Part)
    (hf : ∃ m p tr n, f s.part = { s.part with mem := m, poison := p, trans := tr, nextTid := n }) (p : Nat → Prop) :
    Performed p s (s.modPart f) := { Performed.refl p s with part := hf }

theorem Part.markPoisons_frame (l : List (Nat × Unit)) (b : Nat) (p : Part) :
    ∃ m, l.foldl (fun q e => q.markPoison (b + e.1)) p = { p with poison := m } := by
  induction l generalizing p with
  | nil => exact ⟨_, rfl⟩
  | cons e l ih =>
    obtain ⟨m, hm⟩ := ih (p.markPoison (b + e.1))
    exact ⟨m, by rw [List.foldl_cons, hm]; rfl⟩

/-! ### The drain of a junction buffer (R148, R170) -/

/-- The bytes of one line perform. -/
theorem performed_drainBytes (s : State) (c : Nat) (l : JLine) :
    Performed (fun _ => True) s (s.drainBytes c l) ∧ (s.drainBytes c l).cores = s.cores := by
  have one : ∀ (st : Bool) (t : State), let u := (runsOf (l.ofClass st)).foldl (fun t r =>
      t.performAs l.hart .scalar 0 st (t.paOfCell (64 * l.line + r.1)) r.2 fun x => coreOf x != c) t
      Performed (fun _ => True) t u ∧ u.cores = t.cores := fun st t => by
    refine ⟨.foldl _ (fun u r _ => (performed_performAs ..).mono fun _ _ => trivial) t, ?_⟩
    induction runsOf (l.ofClass st) generalizing t with
    | nil => rfl
    | cons r rs ih => exact (ih _).trans (State.performAs_frame ..).1
  obtain ⟨p1, c1⟩ := one false s
  obtain ⟨p2, c2⟩ := one true _
  refine ⟨(p1.trans p2).trans (performed_modPart _ (fun p => l.bad.foldl (fun q e => q.markPoison (64 * l.line + e.1)) p) ?_ _), c2.trans c1⟩
  obtain ⟨m, hm⟩ := Part.markPoisons_frame l.bad (64 * l.line) _
  exact ⟨_, m, _, _, hm⟩

/-- A core with another junction buffer. -/
def Core.withJunction (k : Core) (j : List JLine) : Core := { k with junction := j }

/-- Lines of core c have drained, from s to t. -/
structure Drains (c : Nat) (s t : State) : Prop where
  performed : Performed (fun _ => True) s t
  core : ∀ k, t.coreAt k = (s.coreAt k).withJunction (t.junction k)
  other : ∀ k, k ≠ c → t.junction k = s.junction k
  sub : ∀ l ∈ t.junction c, l ∈ s.junction c

theorem Drains.refl (c : Nat) (s : State) : Drains c s s := ⟨.refl _ s, fun _ => rfl, fun _ _ => rfl, fun _ h => h⟩

theorem Drains.trans {c : Nat} {s t u : State} (h1 : Drains c s t) (h2 : Drains c t u) : Drains c s u :=
  ⟨h1.performed.trans h2.performed, fun k => by rw [h2.core k, h1.core k]; rfl, fun k hk => (h2.other k hk).trans (h1.other k hk),
    fun l hl => h1.sub l (h2.sub l hl)⟩

/-- A line that drains leaves the buffer. -/
theorem drains_drainLine (s : State) (c line : Nat) : Drains c s (s.drainLine c line)
    ∧ ∀ l ∈ (s.drainLine c line).junction c, l.line ≠ line := by
  unfold State.drainLine
  split
  · next hf =>
    exact ⟨.refl c s, fun l hl e => by simpa [e] using List.find?_eq_none.mp hf l hl⟩
  · next l hf =>
    obtain ⟨hp, hc⟩ := performed_drainBytes s c l
    have hk : ∀ k, (s.drainBytes c l).coreAt k = s.coreAt k := fun k => by rw [State.coreAt, hc]; rfl
    have hj : ∀ k, ((s.drainBytes c l).modCore c fun k => { k with junction := k.junction.filter fun m => m.line != line }).coreAt k =
        if k = c then (s.coreAt k).withJunction ((s.junction k).filter fun m => m.line != line) else s.coreAt k := fun k => by
      rw [State.coreAt_modCore, hk]
      rfl
    refine ⟨⟨⟨hp.part, hp.harts, hp.kept, hp.towers, hp.agenda, hp.rr, hp.cur, hp.tick⟩, fun k => ?_, fun k n => ?_, fun m hm => ?_⟩,
      fun m hm => ?_⟩
    · rw [State.junction, hj]
      split
      · rfl
      · rfl
    · rw [State.junction, hj, if_neg n]
      rfl
    · rw [State.junction, hj, if_pos rfl] at hm
      exact (List.mem_filter.mp hm).1
    · rw [State.junction, hj, if_pos rfl] at hm
      exact bne_iff_ne.mp (List.mem_filter.mp hm).2

/-- A junction buffer that drains whole is empty. -/
theorem drains_drainAll (s : State) (c : Nat) : Drains c s (s.drainAll c) ∧ (s.drainAll c).junction c = [] := by
  have key : ∀ (ls : List JLine) (t : State), let u := ls.foldl (fun t l => t.drainLine c l.line) t
      Drains c t u ∧ ∀ m ∈ u.junction c, ∀ l ∈ ls, m.line ≠ l.line := fun ls => by
    induction ls with
    | nil => exact fun t => ⟨.refl c t, fun _ _ l hl => by cases hl⟩
    | cons l ls ih =>
      intro t
      obtain ⟨h1, h2⟩ := drains_drainLine t c l.line
      obtain ⟨i1, i2⟩ := ih (t.drainLine c l.line)
      refine ⟨h1.trans i1, fun m hm q hq => ?_⟩
      rcases List.mem_cons.mp hq with rfl | hq
      · exact h2 m (i1.sub m hm)
      · exact i2 m hm q hq
  obtain ⟨h1, h2⟩ := key (s.junction c) s
  exact ⟨h1, List.eq_nil_iff_forall_not_mem.mpr fun m hm => h2 m hm m (h1.sub m hm) rfl⟩

end Sys2Proof.Machine

/-! PROOFS. The barrier word of a gang: one act on it, and how it reads afterwards (R24, R27, R307). -/

namespace Sys2Proof.Machine

/-! ### HBM of this node -/

section Hbm
variable {s : State} {pa n : Nat} (h : s.inHbm pa n = true)
include h

theorem State.isLocal_of_inHbm : s.isLocal pa = true := (Bool.and_eq_true_iff.mp h).1

theorem State.cell_of_inHbm : s.cell pa = pa % 2 ^ 44 ∧ s.cell pa + n ≤ 0xC000000000 := by
  have hc : s.cell pa = pa % 2 ^ 44 := by rw [State.cell, if_pos (State.isLocal_of_inHbm h)]
  exact ⟨hc, hc ▸ of_decide_eq_true (Bool.and_eq_true_iff.mp h).2⟩

/-- Nothing in HBM waits for the host. -/
theorem State.awaited_of_inHbm : s.awaited (s.cell pa) n = false := by
  have := (State.cell_of_inHbm h).2
  rw [State.awaited, decide_eq_false (by omega), Bool.false_and]

theorem State.paKind_of_inHbm (hn : 0 < n) : s.paKind pa = .hbm := by
  obtain ⟨h1, h2⟩ := State.cell_of_inHbm h
  rw [State.paKind, if_pos (State.isLocal_of_inHbm h)]
  exact if_pos (by omega)

theorem State.inStorage_of_inHbm (hn : 0 < n) : s.inStorage pa = false := by
  rw [State.inStorage, State.paKind_of_inHbm h hn]
  rfl

end Hbm

theorem ofBytes_bytesOf_64 (v : Word) : (ofBytes 64 (bytesOf v 8) : Word) = v := by
  refine BitVec.eq_of_getLsbD_eq fun i hi => ?_
  rw [getLsbD_ofBytes_bytesOf, decide_eq_true hi]
  rfl

/-! ### A scalar agent whose junction buffer is empty reads memory -/

theorem jByte_nil (k : Nat) : jByte [] k = none := rfl

theorem State.scalarByte_of_empty {s : State} {c : Nat} (h : s.junction c = []) (k : Nat) : s.scalarByte c k = s.devByte k := by
  rw [State.scalarByte, h]
  rfl

theorem State.scalarPoison_of_empty {s : State} {c : Nat} (h : s.junction c = []) (k n : Nat) :
    s.scalarPoison c k n = s.anyPoison k n := by
  rw [State.scalarPoison, h]
  exact congrArg (List.any (List.range n)) (funext fun i => by rw [jByte_nil]; simp [jBad])

/-! ### Arrival and departure -/

section Words
variable (old : Word) (n : Nat)

/-- GEN and CNT after an arrival (R27). -/
theorem fld_arrived (hn : n ≤ 64) :
    fld (arrived old n) 0 32 = (if n ≤ fld old 0 32 + 1 then 0 else fld old 0 32 + 1)
      ∧ fld (arrived old n) 32 32 = (if n ≤ fld old 0 32 + 1 then (fld old 32 32 + 1) % 2 ^ 32 else fld old 32 32) := by
  rw [arrived]
  split
  · rw [fld_putFld_self _ _ _ _ (by omega), fld_putFld_ne _ _ (by omega), fld_putFld_self _ _ _ _ (by omega)]
    exact ⟨rfl, rfl⟩
  · rw [fld_putFld_self _ _ _ _ (by omega), fld_putFld_ne _ _ (by omega), Nat.mod_eq_of_lt (by omega)]
    exact ⟨rfl, rfl⟩

/-- GEN and CNT after a departure (R24). -/
theorem fld_departed (own : Bool) :
    fld (departed old own n) 0 32 =
        (if natOf own < fld old 0 32 ∧ n ≤ fld old 0 32 - natOf own then 0 else (fld old 0 32 + 2 ^ 32 - natOf own) % 2 ^ 32)
      ∧ fld (departed old own n) 32 32 =
        (if natOf own < fld old 0 32 ∧ n ≤ fld old 0 32 - natOf own then (fld old 32 32 + 1) % 2 ^ 32 else fld old 32 32) := by
  rw [departed]
  split
  · rw [fld_putFld_self _ _ _ _ (by omega), fld_putFld_ne _ _ (by omega), fld_putFld_self _ _ _ _ (by omega)]
    exact ⟨rfl, rfl⟩
  · rw [fld_putFld_self _ _ _ _ (by omega), fld_putFld_ne _ _ (by omega)]
    exact ⟨rfl, rfl⟩

end Words

/-! ### The act on the word -/

section Update
variable {s : State} {pa : Nat} (f : Word → Word)

/-- The word as one act on it finds it. -/
def State.barrierOld (s : State) (pa : Nat) : Word :=
  let s1 := s.drainAll (coreOf s.cur)
  ofBytes 64 (s1.devBytes (s1.cell pa) 8)

/-- The state after one act of the current hart on the word. -/
def State.barrierActed (s : State) (pa : Nat) (f : Word → Word) : State :=
  (s.drainAll (coreOf s.cur)).perform s.cur pa (bytesOf (f (s.barrierOld pa)) 8) fun _ => true

theorem State.barrierUpdate_eq : s.barrierUpdate s.cur pa f = (s.barrierOld pa, s.barrierActed pa f) := rfl

theorem barrierActed_performed : Performed (fun _ => True) s (s.barrierActed pa f) :=
  (drains_drainAll s _).1.performed.trans ((performed_performAs ..).mono fun _ _ => trivial)

theorem barrierActed_cores : (s.barrierActed pa f).cores = (s.drainAll (coreOf s.cur)).cores :=
  (State.performAs_frame ..).1

theorem barrierActed_performs :
    Claims.Performs (s.drainAll (coreOf s.cur)) (s.barrierActed pa f) s.cur pa (bytesOf (f (s.barrierOld pa)) 8) :=
  Claims.performs_perform ..

theorem barrierActed_junction : (s.barrierActed pa f).junction (coreOf s.cur) = [] := by
  rw [State.junction, State.coreAt, barrierActed_cores]
  exact (drains_drainAll s _).2

variable (h : s.inHbm pa 8 = true)
include h

/-- The hart of the act reads the new word, without poison. -/
theorem barrierActed_reads : (s.barrierActed pa f).scalarPoison (coreOf s.cur) ((s.barrierActed pa f).cell pa) 8 = false
    ∧ (s.barrierActed pa f).scalarBytes (coreOf s.cur) ((s.barrierActed pa f).cell pa) 8 = bytesOf (f (s.barrierOld pa)) 8 := by
  obtain ⟨s1, hs1⟩ : ∃ s1, s1 = s.drainAll (coreOf s.cur) := ⟨_, rfl⟩
  have h1 : s1.inHbm pa 8 = true := by rw [hs1, (drains_drainAll s _).1.performed.inHbm, h]
  have hc : (s.barrierActed pa f).cell pa = s1.cell pa := by
    rw [(barrierActed_performed f).cell, hs1, (drains_drainAll s _).1.performed.cell]
  have hl : s1.paKind pa ≠ .hostLost := by rw [State.paKind_of_inHbm h1 (by omega)]; nofun
  have hbound := (State.cell_of_inHbm h1).2
  have hu : s.barrierActed pa f = s1.perform s.cur pa (bytesOf (f (s.barrierOld pa)) 8) fun _ => true := by
    rw [State.barrierActed, hs1]
  rw [State.scalarPoison_of_empty (barrierActed_junction f), hc]
  constructor
  · rw [State.anyPoison, List.any_eq_false]
    intro i hi
    rw [hu, State.perform, State.performAs_poisonAt _ _ _ _ _ _ _ _ hl, length_bytesOf]
    have := List.mem_range.mp hi
    simp [this]
  · refine List.map_congr_left fun i hi => ?_
    have hi := List.mem_range.mp hi
    rw [State.scalarByte_of_empty (barrierActed_junction f), State.devByte, if_pos (by omega), State.byteAt, hu,
      State.perform_part, if_neg hl, if_pos, Part.putBytes_read, length_bytesOf, if_pos (by omega), Nat.add_sub_cancel_left,
      getD_bytesOf, if_pos hi]
    rw [State.isLocal_of_inHbm h1, State.inStorage_of_inHbm h1 (by omega), length_bytesOf, State.awaited_of_inHbm h1]
    rfl

end Update
end Sys2Proof.Machine

/-! PROOFS. garr, gwait and gbar (R27, R207, R208, R307). -/

namespace Sys2Proof.Machine

theorem Performed.hart {p : Nat → Prop} {s t : State} (h : Performed p s t) :
    ∃ m k q, t.hart = { s.hart with monHit := m, kmcheck := k, mcPend := q } := by
  obtain ⟨m, k, q, e⟩ := h.harts s.cur
  exact ⟨m, k, q, (congrArg t.hartAt h.cur).trans e⟩

@[simp] theorem Hart.xw_kgang (v : Hart) (r : XReg) (w : Word) : (v.xw r w).kgang = v.kgang := by unfold Hart.xw; split <;> rfl
@[simp] theorem Hart.xw_kgbar (v : Hart) (r : XReg) (w : Word) : (v.xw r w).kgbar = v.kgbar := by unfold Hart.xw; split <;> rfl

/-- A write of a register changes the registers, and the poison in them, alone. -/
theorem Hart.xw_regs (v : Hart) (r : XReg) (w : Word) : ∃ x p, v.xw r w = { v with x := x, xpoison := p } := by
  unfold Hart.xw
  split
  · exact ⟨_, _, rfl⟩
  · exact ⟨_, _, rfl⟩

/-- A bit put back is as it was. -/
theorem putBit_putBit_tst (k : Word) (i : Nat) (c : Bool) : putBit (putBit k i c) i (tst k i) = k :=
  eq_of_tst _ fun j hj => by
    rw [tst_putBit, tst_putBit]
    by_cases h : j = i
    · subst h; simp [hj]
    · simp [h]

theorem putBit_tst (k : Word) (i : Nat) : putBit k i (tst k i) = k :=
  eq_of_tst _ fun j hj => by
    rw [tst_putBit]
    by_cases h : j = i
    · subst h; simp [hj]
    · simp [h]

theorem tst_putBit_self (k : Word) {i : Nat} (c : Bool) (h : i < 64) : tst (putBit k i c) i = c := by
  rw [tst_putBit, if_pos ⟨rfl, h⟩]

/-- A hart with PEND set to c. -/
def Hart.withPend (c : Bool) (v : Hart) : Hart := { v with kgang := putBit v.kgang 42 c }

theorem Hart.withPend_pendBit (v : Hart) : v.withPend v.pendBit = v := by
  rw [Hart.withPend, Hart.pendBit, putBit_tst]

/-- A hart whose PEND has been cleared has it back. -/
theorem Hart.withPend_twice (v : Hart) (c : Bool) : (v.withPend c).withPend v.pendBit = v := by
  rw [Hart.withPend, Hart.withPend, Hart.pendBit, putBit_putBit_tst]

theorem Hart.pendBit_withPend (v : Hart) (c : Bool) : (v.withPend c).pendBit = c := tst_putBit_self _ _ (by omega)

/-! ### The parts of the three instructions -/

section Barrier
variable {s : State} {pa : Nat}

theorem State.barrierPa_some (h : s.hart.kgbar.toNat < 2 ^ 56 ∧ s.inHbm s.hart.kgbar.toNat 8 = true) :
    s.barrierPa s.cur = some s.hart.kgbar.toNat := if_pos h

theorem State.barrierPa_none (h : ¬ (s.hart.kgbar.toNat < 2 ^ 56 ∧ s.inHbm s.hart.kgbar.toNat 8 = true)) :
    s.barrierPa s.cur = none := if_neg h

theorem State.arrive_none (h : s.barrierPa s.cur = none) : s.arrive = .exc { cause := 0x07, tval := s.hart.kgbar } := by
  rw [State.arrive, h]

theorem State.arrive_poison (h : s.barrierPa s.cur = some pa) (hp : s.scalarPoison (coreOf s.cur) (s.cell pa) 8 = true) :
    s.arrive = .poison (s.scalarPoisoned s.cur pa) := by
  simp only [State.arrive, h, hp, if_true]

theorem State.arrive_gen (h : s.barrierPa s.cur = some pa) (hp : s.scalarPoison (coreOf s.cur) (s.cell pa) 8 = false) :
    s.arrive = .gen (fld (s.barrierOld pa) 32 32) (s.barrierActed pa fun w => arrived w s.hart.members) := by
  simp only [State.arrive, h, hp, State.barrierUpdate_eq, Bool.false_eq_true, if_false]

variable (w : Wait) (g : Nat)

theorem State.waitGen_none (h : s.barrierPa s.cur = none) :
    s.waitGen w g = s.raise { cause := 0x07, tval := s.hart.kgbar } := by
  rw [State.waitGen, h]

theorem State.waitGen_poison (h : s.barrierPa s.cur = some pa) (hp : s.scalarPoison (coreOf s.cur) (s.cell pa) 8 = true) :
    s.waitGen w g = if s.hart.wait = some w then (s.scalarPoisoned s.cur pa).again else (s.scalarPoisoned s.cur pa).advance := by
  simp only [State.waitGen, h, hp, if_true]

variable (h : s.barrierPa s.cur = some pa) (hp : s.scalarPoison (coreOf s.cur) (s.cell pa) 8 = false)
include h hp

theorem State.waitGen_same (e : fld (ofBytes 64 (s.scalarBytes (coreOf s.cur) (s.cell pa) 8) : Word) 32 32 = g) :
    s.waitGen w g = s.stall w := by
  simp only [State.waitGen, h, hp, e, Bool.false_eq_true, if_false, if_true]

theorem State.waitGen_differs (e : fld (ofBytes 64 (s.scalarBytes (coreOf s.cur) (s.cell pa) 8) : Word) 32 32 ≠ g) :
    s.waitGen w g = (s.mod (Hart.withPend false)).advance := by
  simp only [State.waitGen, h, hp, e, Bool.false_eq_true, if_false]
  rfl

end Barrier
end Sys2Proof.Machine

namespace Sys2Proof.Claims
open Sys2Proof.Machine

/-- A register that is written, and the others, of a hart with the registers of s. -/
theorem otherX_xw {s t : State} {v : Hart} {d : XReg} {w : Word} (hx : v.x = s.hart.x) (hp : v.xpoison = s.hart.xpoison)
    (tx : t.hart.x = (v.xw d w).x) (tp : t.hart.xpoison = (v.xw d w).xpoison) :
    t.xr d = (if d = 0 then 0 else w) ∧ OtherX s t d := by
  have e : ∀ r, t.xr r = (v.xw d w).xr r := Hart.xr_eq_of_x tx
  refine ⟨by rw [e, xr_xw, if_pos rfl], fun r hr => ⟨?_, ?_⟩⟩
  · rw [e, xr_xw, if_neg hr]
    exact Hart.xr_eq_of_x hx r
  · rw [XPoisoned, XPoisoned, tp, Hart.xw_xpoison_ne _ _ hr, hp]

/-- The machine check of poison that the scalar agent consumes, by what its hart has become. -/
theorem checked_of_hart {s t : State} {u : Hart} {pa : Nat} (ho : OnlyHart (s.scalarPoisoned s.cur pa) t)
    (hh : t.hart = { u with kmcheck := mcheckRecord 0 0 false (pa % 2 ^ 56), mcPend := some (s.hart.next.setWidth 64) }) :
    OnlyHart s t ∧ Checked u t.hart 0 pa (s.hart.next.setWidth 64) := by
  obtain ⟨h1, h2, -, h4, h5⟩ := mcheckRecord_fields 0 0 false (pa % 2 ^ 56)
  refine ⟨(onlyHart_mod s _).trans ho, ?_⟩
  rw [hh]
  exact ⟨rfl, h1, h2, h4, h5.trans (Nat.mod_mod _ _), rfl⟩

section Outside
variable {s : State} (d : XReg)

theorem garr_outside (h : s.hart.inGang = false) : exec (.garr d) s = .next (s.raise (illegal (.garr d))) := by
  show execGarr d s = _
  rw [execGarr, h]
  rfl

theorem gwait_outside (h : s.hart.inGang = false) : exec (.gwait d) s = .next (s.raise (illegal (.gwait d))) := by
  show execGwait d s = _
  rw [execGwait, h]
  rfl

theorem gbar_outside (h : s.hart.inGang = false) : exec (.gbar d) s = .next (s.raise (illegal (.gbar d))) := by
  show execGbar d s = _
  rw [execGbar, h]
  rfl

variable (h : s.hart.inGang = true)
include h

section Exc
variable {e : Exc} (ha : s.arrive = .exc e)
include ha

theorem garr_exc : exec (.garr d) s = .next (s.raise e) := by
  show execGarr d s = _
  simp only [execGarr, h, ha, Bool.not_true, Bool.false_eq_true, if_false]

theorem gbar_exc (hp : s.hart.pendBit = false) : exec (.gbar d) s = .next (s.raise e) := by
  show execGbar d s = _
  simp only [execGbar, h, ha, hp, Bool.not_true, Bool.false_eq_true, if_false]

end Exc

section Poison
variable {u : State} (ha : s.arrive = .poison u)
include ha

theorem garr_poison : exec (.garr d) s = .next u.advance := by
  show execGarr d s = _
  simp only [execGarr, h, ha, Bool.not_true, Bool.false_eq_true, if_false]

theorem gbar_poison (hp : s.hart.pendBit = false) : exec (.gbar d) s = .next u.advance := by
  show execGbar d s = _
  simp only [execGbar, h, ha, hp, Bool.not_true, Bool.false_eq_true, if_false]

end Poison

section Gen
variable {g : Nat} {u : State} (ha : s.arrive = .gen g u)
include ha

theorem garr_gen : exec (.garr d) s = .next (u.done d (BitVec.ofNat 64 g)) := by
  show execGarr d s = _
  simp only [execGarr, h, ha, Bool.not_true, Bool.false_eq_true, if_false]

/-- The state between the arrival of a gbar and its wait. -/
def pending (u : State) (d : XReg) (g : Nat) : State :=
  (u.xw d (BitVec.ofNat 64 g)).mod (Hart.withPend true)

theorem gbar_gen (hp : s.hart.pendBit = false) :
    exec (.gbar d) s = .next ((pending u d g).waitGen .gbar (fld ((pending u d g).xr d) 0 32)) := by
  show execGbar d s = _
  simp only [execGbar, h, ha, hp, Bool.not_true, Bool.false_eq_true, if_false]
  rfl

end Gen

theorem gbar_pending (hp : s.hart.pendBit = true) : exec (.gbar d) s = .next (s.waitGen .gbar (fld (s.xr d) 0 32)) := by
  show execGbar d s = _
  simp only [execGbar, h, hp, Bool.not_true, Bool.false_eq_true, if_false, if_true]

theorem gwait_inside : exec (.gwait d) s = .next ((s.waitGen .gwait (fld (s.xr d) 0 32)).mod (Hart.withPend s.hart.pendBit)) := by
  show execGwait d s = _
  simp only [execGwait, h, Bool.not_true, Bool.false_eq_true, if_false]
  rfl

end Outside

/-- An instruction has gone on, by what its hart has become. -/
theorem goesTo_of_hart {s t : State} {target : Word} (ho : OnlyHart s t)
    (hh : t.hart = { s.hart with pc := target, wait := none, answered := false }) : GoesTo s target (.next t) :=
  ⟨t, rfl, ⟨fun r => Hart.xr_eq_of_x (by rw [hh]) r, by rw [hh]⟩, by rw [State.pc, hh], by rw [hh], ho, by rw [hh]⟩

theorem waitsIn_of_hart {s t : State} {w : Wait} (ho : OnlyHart s t) (hh : t.hart = { s.hart with wait := some w }) :
    WaitsIn s w (.next t) :=
  ⟨t, rfl, ⟨fun r => Hart.xr_eq_of_x (by rw [hh]) r, by rw [hh]⟩, by rw [State.pc, hh]; rfl, by rw [hh], ho, by rw [hh]⟩

/-- A hart at its next word. -/
def atNext (v : Hart) : Hart := { v with pc := v.pc + 4, wait := none, answered := false }

theorem advance_hart (s : State) : s.advance.hart = atNext s.hart := State.mod_hart _ _

section Gbar
variable {s : State} {d : XReg} (pa : Nat) (hpa : s.hart.kgbar.toNat = pa) (hok : pa < 2 ^ 56 ∧ s.inHbm pa 8 = true)
include hpa hok

/-- A gbar that has arrived: how its wait begins. -/
theorem pending_reads (f : Word → Word) : let u := s.barrierActed pa f
    let t := pending u d (fld (s.barrierOld pa) 32 32)
    t.cur = s.cur ∧ t.barrierPa t.cur = some pa ∧ t.scalarPoison (coreOf t.cur) (t.cell pa) 8 = false
      ∧ (ofBytes 64 (t.scalarBytes (coreOf t.cur) (t.cell pa) 8) : Word) = f (s.barrierOld pa)
      ∧ (∃ m k q, t.hart = (({ s.hart with monHit := m, kmcheck := k, mcPend := q } : Hart).xw d
          (BitVec.ofNat 64 (fld (s.barrierOld pa) 32 32))).withPend true)
      ∧ t.part = u.part := by
  intro u t
  have hperf := barrierActed_performed (s := s) (pa := pa) f
  obtain ⟨hp, hb⟩ := barrierActed_reads f hok.2
  obtain ⟨m, k, q, hh⟩ := hperf.hart
  have hcur : t.cur = s.cur := hperf.cur
  have ht : t.hart = (u.hart.xw d (BitVec.ofNat 64 (fld (s.barrierOld pa) 32 32))).withPend true := by
    show (State.mod _ _).hart = _
    rw [State.mod_hart, State.xw, State.mod_hart]
  rw [hh] at ht
  refine ⟨hcur, ?_, ?_, ?_, ⟨m, k, q, ht⟩, rfl⟩
  · have hk : t.hart.kgbar.toNat = pa := by
      rw [ht, ← hpa]
      exact congrArg BitVec.toNat (Hart.xw_kgbar _ _ _)
    rw [← hk]
    refine State.barrierPa_some ⟨by rw [hk]; exact hok.1, ?_⟩
    rw [hk]
    exact (hperf.inHbm pa 8).trans hok.2
  · rw [hcur]
    exact hp
  · rw [hcur, show t.scalarBytes (coreOf s.cur) (t.cell pa) 8 = u.scalarBytes (coreOf s.cur) (u.cell pa) 8 from rfl, hb,
      ofBytes_bytesOf_64]

end Gbar

section Stops
variable {s : State} (d : XReg) (hg : s.hart.inGang = true)
include hg

/-- A barrier word outside HBM (R307). -/
theorem barrier_traps (hb : s.barrierPa s.cur = none) : Traps s 0x07 s.pc s.hart.kgbar (exec (.garr d) s)
    ∧ Traps s 0x07 s.pc s.hart.kgbar (exec (.gwait d) s) ∧ Traps s 0x07 s.pc s.hart.kgbar (exec (.gbar d) s) := by
  have hr := traps_raise s { cause := 0x07, tval := s.hart.kgbar }
  refine ⟨?_, ?_, ?_⟩
  · rw [garr_exc d hg (State.arrive_none hb)]
    exact hr
  · obtain ⟨t, ht, ho, htrap⟩ := hr
    rw [gwait_inside d hg, State.waitGen_none _ _ hb, Host.Outcome.next.inj ht]
    have hk : t.hart.kgang = s.hart.kgang := by
      obtain ⟨-, -, -, -, -, -, -, -, -, -, -, -, e⟩ := htrap
      rw [← e]
    refine ⟨_, rfl, ho.trans (onlyHart_mod t _), ?_⟩
    rw [State.mod_hart, ← show t.hart.pendBit = s.hart.pendBit from congrArg (tst · 42) hk, Hart.withPend_pendBit]
    exact htrap
  · cases hp : s.hart.pendBit with
    | false =>
      rw [gbar_exc d hg (State.arrive_none hb) hp]
      exact hr
    | true =>
      rw [gbar_pending d hg hp, State.waitGen_none _ _ hb]
      exact hr

/-- A barrier word with poison (R207, R208). -/
theorem barrier_poison {pa : Nat} (hb : s.barrierPa s.cur = some pa) (hp : s.scalarPoison (coreOf s.cur) (s.cell pa) 8 = true) :
    let consumes (i : Instr) (pc : Word) : Prop := ∃ t, exec i s = .next t ∧ OnlyHart s t
      ∧ Checked { s.hart with pc := pc, wait := none, answered := false } t.hart 0 pa (s.hart.next.setWidth 64)
    consumes (.garr d) (s.pc + 4) ∧ consumes (.gwait d) (if s.hart.wait = some .gwait then s.pc else s.pc + 4)
      ∧ consumes (.gbar d) (if s.hart.pendBit = true ∧ s.hart.wait = some .gbar then s.pc else s.pc + 4) := by
  intro consumes
  have hadv : ∃ t, t = (s.scalarPoisoned s.cur pa).advance ∧ OnlyHart s t
      ∧ Checked { s.hart with pc := s.pc + 4, wait := none, answered := false } t.hart 0 pa (s.hart.next.setWidth 64) :=
    ⟨_, rfl, checked_of_hart (onlyHart_mod _ _) (by rw [State.advance, State.mod_hart, State.scalarPoisoned_hart]; rfl)⟩
  have hagain : ∃ t, t = (s.scalarPoisoned s.cur pa).again ∧ OnlyHart s t
      ∧ Checked { s.hart with pc := s.pc, wait := none, answered := false } t.hart 0 pa (s.hart.next.setWidth 64) :=
    ⟨_, rfl, checked_of_hart (onlyHart_mod _ _) (by rw [State.again, State.mod_hart, State.scalarPoisoned_hart]; rfl)⟩
  have hkeep : ∀ {t : State} {u : Hart}, u.kgang = s.hart.kgang → OnlyHart s t ∧ Checked u t.hart 0 pa (s.hart.next.setWidth 64) →
      OnlyHart s (t.mod (Hart.withPend s.hart.pendBit))
        ∧ Checked u (t.mod (Hart.withPend s.hart.pendBit)).hart 0 pa (s.hart.next.setWidth 64) := fun {t u} hu ⟨ho, hc⟩ => by
    have hk : t.hart.kgang = s.hart.kgang := by
      obtain ⟨-, -, -, -, -, e⟩ := hc
      rw [← hu, ← e]
    refine ⟨ho.trans (onlyHart_mod t _), ?_⟩
    rw [State.mod_hart, ← show t.hart.pendBit = s.hart.pendBit from congrArg (tst · 42) hk, Hart.withPend_pendBit]
    exact hc
  obtain ⟨ta, ea, ha⟩ := hadv
  obtain ⟨tb, eb, hb'⟩ := hagain
  refine ⟨⟨ta, by rw [garr_poison d hg (State.arrive_poison hb hp), ea], ha⟩, ?_, ?_⟩
  · have e := gwait_inside d hg
    rw [State.waitGen_poison _ _ hb hp] at e
    by_cases hw : s.hart.wait = some .gwait
    · rw [if_pos hw, ← eb] at e
      rw [if_pos hw]
      exact ⟨_, e, hkeep rfl hb'⟩
    · rw [if_neg hw, ← ea] at e
      rw [if_neg hw]
      exact ⟨_, e, hkeep rfl ha⟩
  · cases hpend : s.hart.pendBit with
    | false => exact ⟨ta, by rw [gbar_poison d hg (State.arrive_poison hb hp) hpend, ea], ha⟩
    | true =>
      have e := gbar_pending d hg hpend
      rw [State.waitGen_poison _ _ hb hp] at e
      by_cases hw : s.hart.wait = some .gbar
      · rw [if_pos hw, ← eb] at e
        rw [if_pos ⟨rfl, hw⟩]
        exact ⟨tb, e, hb'⟩
      · rw [if_neg hw, ← ea] at e
        rw [if_neg fun h => hw h.2]
        exact ⟨ta, e, ha⟩

end Stops

section Clean
variable {s : State} (d : XReg) {pa : Nat} (hg : s.hart.inGang = true) (hpa : s.hart.kgbar.toNat = pa)
  (hok : pa < 2 ^ 56 ∧ s.inHbm pa 8 = true) (hclean : s.scalarPoison (coreOf s.cur) (s.cell pa) 8 = false)
include hg hpa hok hclean

omit hg hclean in
theorem barrierPa_ok : s.barrierPa s.cur = some pa := by
  subst hpa
  exact State.barrierPa_some hok

/-- garr makes its arrival and returns the old generation (R27). -/
theorem garr_arrives : let u := s.barrierActed pa fun w => arrived w s.hart.members
    ∃ t, exec (.garr d) s = .next t ∧ t.xr d = (if d = 0 then 0 else BitVec.ofNat 64 (fld (s.barrierOld pa) 32 32)) ∧ OtherX s t d
      ∧ t.pc = s.pc + 4 ∧ t.part = u.part ∧ (Linked s → HartsKept s t) := by
  intro u
  have hp := barrierActed_performed (s := s) (pa := pa) fun w => arrived w s.hart.members
  obtain ⟨m, k, q, hh⟩ := hp.hart
  have ht : (u.done d (BitVec.ofNat 64 (fld (s.barrierOld pa) 32 32))).hart = _ := done_hart _ _ _
  obtain ⟨hx, ho⟩ := otherX_xw (s := s) (v := u.hart) (d := d) (w := BitVec.ofNat 64 (fld (s.barrierOld pa) 32 32))
    (by rw [hh]) (by rw [hh]) (by rw [ht]) (by rw [ht])
  refine ⟨_, garr_gen d hg (State.arrive_gen (barrierPa_ok hpa hok) hclean), hx, ho, ?_, rfl, fun hl => ?_⟩
  · rw [State.pc, ht, hh]
    rfl
  · obtain ⟨k1, k2, k3, k4, k5, k6⟩ := (hp.woken hl).hartsKept
    obtain ⟨t, e, -, -, -, -, -, ⟨⟨-, -, -, a1, a2, a3, a4, -⟩, hother⟩, honly⟩ :=
      writesX_done u d (BitVec.ofNat 64 (fld (s.barrierOld pa) 32 32))
    rw [Host.Outcome.next.inj e]
    refine ⟨fun j hj => ?_, ?_, a1.trans k3, a2.trans k4, a3.trans k5, a4.trans k6⟩
    · rw [hother j (by rw [k5]; exact hj)]
      exact k1 j hj
    · obtain ⟨m', hm⟩ := (hp.woken hl).1 s.cur
      rw [← Host.Outcome.next.inj e, ht, show u.hart = { s.hart with monHit := m' } from (congrArg u.hartAt k5).trans hm]
      obtain ⟨x, p, ex⟩ := Hart.xw_regs { s.hart with monHit := m' } d (BitVec.ofNat 64 (fld (s.barrierOld pa) 32 32))
      rw [ex]

/-- gwait ends once the generation differs (R27). -/
theorem gwait_ends (hd : fld (ofBytes 64 (s.scalarBytes (coreOf s.cur) (s.cell pa) 8) : Word) 32 32 ≠ fld (s.xr d) 0 32) :
    GoesTo s (s.pc + 4) (exec (.gwait d) s) := by
  rw [gwait_inside d hg, State.waitGen_differs _ _ (barrierPa_ok hpa hok) hclean hd]
  refine goesTo_of_hart (((onlyHart_mod s _).trans (onlyHart_mod _ _)).trans (onlyHart_mod _ _)) ?_
  rw [State.mod_hart, advance_hart, State.mod_hart]
  exact congrArg atNext (s.hart.withPend_twice false)

theorem gwait_sleeps (hd : fld (ofBytes 64 (s.scalarBytes (coreOf s.cur) (s.cell pa) 8) : Word) 32 32 = fld (s.xr d) 0 32) :
    WaitsIn s .gwait (exec (.gwait d) s) := by
  rw [gwait_inside d hg, State.waitGen_same _ _ (barrierPa_ok hpa hok) hclean hd]
  refine waitsIn_of_hart ((onlyHart_mod s _).trans (onlyHart_mod _ _)) ?_
  rw [State.mod_hart, State.stall, State.mod_hart]
  exact congrArg (fun v : Hart => { v with wait := some .gwait }) s.hart.withPend_pendBit

/-- A gbar that sleeps ends as its generation does, without a second arrival. -/
theorem gbar_wakes (hp : s.hart.pendBit = true)
    (hd : fld (ofBytes 64 (s.scalarBytes (coreOf s.cur) (s.cell pa) 8) : Word) 32 32 ≠ fld (s.xr d) 0 32) :
    ∃ t, exec (.gbar d) s = .next t ∧ t.hart.pendBit = false ∧ t.pc = s.pc + 4 ∧ t.hart.wait = none ∧ SameX s t ∧ OnlyHart s t := by
  have e := gbar_pending d hg hp
  rw [State.waitGen_differs _ _ (barrierPa_ok hpa hok) hclean hd] at e
  have ht : ((s.mod (Hart.withPend false)).advance).hart = atNext (s.hart.withPend false) := by rw [advance_hart, State.mod_hart]
  exact ⟨_, e, by rw [ht]; exact s.hart.pendBit_withPend false, by rw [State.pc, ht]; rfl, by rw [ht]; rfl,
    ⟨fun r => Hart.xr_eq_of_x (by rw [ht]; rfl) r, by rw [ht]; rfl⟩, (onlyHart_mod s _).trans (onlyHart_mod _ _)⟩

/-- A gbar arrives, and then its own generation decides whether it sleeps (R27). -/
theorem gbar_arrives (hp : s.hart.pendBit = false) : let u := s.barrierActed pa fun w => arrived w s.hart.members
    let gen := fld (s.barrierOld pa) 32 32
    let sleeps := fld (arrived (s.barrierOld pa) s.hart.members) 32 32 = (if d = 0 then 0 else gen)
    ∃ t, exec (.gbar d) s = .next t ∧ t.xr d = (if d = 0 then 0 else BitVec.ofNat 64 gen) ∧ OtherX s t d ∧ (d = 0 → SameX s t)
      ∧ t.part = u.part ∧ (¬ sleeps → t.pc = s.pc + 4 ∧ t.hart.pendBit = false ∧ t.hart.wait = none)
      ∧ (sleeps → t.pc = s.pc ∧ t.hart.pendBit = true ∧ t.hart.wait = some .gbar) := by
  intro u gen sleeps
  obtain ⟨hc, hb, hcl, hw, ⟨m, k, q, hh⟩, hpart⟩ := pending_reads (d := d) pa hpa hok fun w => arrived w s.hart.members
  have e := gbar_gen d hg (State.arrive_gen (barrierPa_ok hpa hok) hclean) hp
  generalize pending (s.barrierActed pa fun w => arrived w s.hart.members) d (fld (s.barrierOld pa) 32 32) = t at *
  have hgen : gen < 2 ^ 32 := fld_lt _ 32 32
  have key : ∀ {y : State}, y.hart.x = t.hart.x → y.hart.xpoison = t.hart.xpoison →
      y.xr d = (if d = 0 then 0 else BitVec.ofNat 64 gen) ∧ OtherX s y d ∧ (d = 0 → SameX s y) := fun {y} hx hxp => by
    obtain ⟨h1, h2⟩ := otherX_xw (s := s) (t := y) (d := d) (w := BitVec.ofNat 64 gen)
      (v := { s.hart with monHit := m, kmcheck := k, mcPend := q }) rfl rfl (hx.trans (by rw [hh]; rfl)) (hxp.trans (by rw [hh]; rfl))
    refine ⟨h1, h2, fun h0 => ?_⟩
    rw [hh, h0, Hart.xw_zero] at hx hxp
    exact ⟨fun r => Hart.xr_eq_of_x hx r, hxp⟩
  have hx : fld (t.xr d) 0 32 = if d = 0 then 0 else gen := by
    rw [(key rfl rfl).1]
    split
    · rfl
    · simp [fld]
      omega
  have hpc : t.hart.pc = s.pc := by
    rw [hh]
    exact Hart.xw_pc _ _ _
  have hpend : t.hart.pendBit = true := by
    rw [hh]
    exact Hart.pendBit_withPend _ true
  by_cases hs : sleeps
  · rw [State.waitGen_same _ _ hb hcl (by rw [hw, hx]; exact hs)] at e
    have hy : (t.stall .gbar).hart = { t.hart with wait := some .gbar } := State.mod_hart _ _
    obtain ⟨h1, h2, h0⟩ := key (y := t.stall .gbar) (by rw [hy]) (by rw [hy])
    exact ⟨_, e, h1, h2, h0, hpart, fun hn => absurd hs hn, fun _ => ⟨by rw [State.pc, hy]; exact hpc,
      by rw [hy]; exact hpend, by rw [hy]⟩⟩
  · rw [State.waitGen_differs _ _ hb hcl (by rw [hw, hx]; exact hs)] at e
    have hy : ((t.mod (Hart.withPend false)).advance).hart = atNext (t.hart.withPend false) := by rw [advance_hart, State.mod_hart]
    obtain ⟨h1, h2, h0⟩ := key (y := (t.mod (Hart.withPend false)).advance) (by rw [hy]; rfl) (by rw [hy]; rfl)
    exact ⟨_, e, h1, h2, h0, hpart, fun _ => ⟨by rw [State.pc, hy]; exact congrArg (· + 4) hpc,
      by rw [hy]; exact t.hart.pendBit_withPend false, by rw [hy]; rfl⟩, fun hn => absurd hn hs⟩

end Clean

/-- Settles O29: the word after an arrival, as its own hart reads it, decides whether a gbar sleeps. -/
theorem gangBarrier : Obligations.GangBarrier := by
  unfold Obligations.GangBarrier
  intro s d pa s1 old last arrives now
  refine ⟨fun hg => ⟨?_, ?_, ?_⟩, fun hg hb => ?_, fun hg hpa hin hpois => ?_, fun hg hpa hin hclean => ?_⟩
  · rw [garr_outside d hg]
    exact traps_raise s (illegal (.garr d))
  · rw [gwait_outside d hg]
    exact traps_raise s (illegal (.gwait d))
  · rw [gbar_outside d hg]
    exact traps_raise s (illegal (.gbar d))
  · exact barrier_traps d hg (State.barrierPa_none hb)
  · exact barrier_poison d hg (State.barrierPa_some ⟨hpa, hin⟩) hpois
  · have hm : s.hart.members ≤ 64 := fld_lt s.hart.kgang 56 6
    obtain ⟨hcnt, hgen⟩ := fld_arrived old s.hart.members hm
    have hlt : fld old 32 32 < 2 ^ 32 := fld_lt _ 32 32
    have harr : ∀ {t : State}, t.part = (s.barrierActed pa fun w => arrived w s.hart.members).part → arrives t := fun e =>
      ⟨_, performs_of_part e (barrierActed_performs _), hcnt, hgen⟩
    refine ⟨?_, gwait_ends d hg rfl ⟨hpa, hin⟩ hclean, gwait_sleeps d hg rfl ⟨hpa, hin⟩ hclean, fun hp hl hd => ?_,
      fun hp hl hd => ?_, fun hp hd => ?_, gbar_wakes d hg rfl ⟨hpa, hin⟩ hclean⟩
    · obtain ⟨t, e, h1, h2, h3, h4, h5⟩ := garr_arrives d hg rfl ⟨hpa, hin⟩ hclean
      exact ⟨t, e, h1, h2, h3, harr h4, h5⟩
    all_goals
      obtain ⟨t, e, h1, h2, h0, h3, hgo, hsleep⟩ := gbar_arrives d hg rfl ⟨hpa, hin⟩ hclean hp
      rw [show s.barrierOld pa = old from rfl, hgen] at hgo hsleep
    · rw [if_neg hd] at h1 hgo
      obtain ⟨g1, g2, g3⟩ := hgo (by rw [if_pos hl]; omega)
      exact ⟨t, e, h1, h2, g1, g2, g3, harr h3⟩
    · rw [if_neg hd] at h1 hsleep
      obtain ⟨g1, g2, g3⟩ := hsleep (if_neg hl)
      exact ⟨t, e, h1, g1, g2, g3, harr h3⟩
    · rw [if_pos hd] at hgo hsleep
      refine ⟨t, e, h0 hd, harr h3, ?_⟩
      by_cases hl : last
      · rw [if_pos hl] at hgo hsleep
        by_cases hz : (fld old 32 32 + 1) % 2 ^ 32 = 0
        · rw [if_neg fun h => h.elim (fun h => h.2 hz) fun h => h.1 hl]
          exact hsleep hz
        · rw [if_pos (.inl ⟨hl, hz⟩)]
          exact hgo hz
      · rw [if_neg hl] at hgo hsleep
        by_cases hz : fld old 32 32 = 0
        · rw [if_neg fun h => h.elim (fun h => hl h.1) fun h => h.2 hz]
          exact hsleep hz
        · rw [if_pos (.inr ⟨hl, hz⟩)]
          exact hgo hz

end Sys2Proof.Claims

/-! PROOFS. A vector side that is emptied (R24, R208): clusters, array and unit released, queue and replies discarded. -/

namespace Sys2Proof.Machine

/-! ### Leaving the array and the unit (R104, R131) -/

/-- A core with its matrix array and its stream unit as given. -/
def Core.withUnits (k : Core) (a : Owned) (t : Map Tile) (z : Map Unit) (u : Owned) (d : Map Descriptor) (p : Map Unit) : Core :=
  { k with array := a, tiles := t, zpoison := z, stream := u, descs := d, dpoison := p }

theorem Core.grantArray_frame (k : Core) : ∃ a t z, k.grantArray = k.withUnits a t z k.stream k.descs k.dpoison := by
  unfold Core.grantArray
  split
  · exact ⟨_, _, _, rfl⟩
  · exact ⟨_, _, _, rfl⟩

theorem Core.grantStream_frame (k : Core) : ∃ u d p, k.grantStream = k.withUnits k.array k.tiles k.zpoison u d p := by
  unfold Core.grantStream
  split
  · exact ⟨_, _, _, rfl⟩
  · exact ⟨_, _, _, rfl⟩

/-- A free array goes to none that does not wait. -/
theorem Core.grantArray_owner {k : Core} {h : Nat} (ho : k.array.owner ≠ some h) (hw : h ∉ k.array.waiting) :
    k.grantArray.array.owner ≠ some h := by
  unfold Core.grantArray
  split
  · next j l _ hl =>
    rw [hl] at hw
    exact fun e => hw (Option.some.inj (show some j = some h from e) ▸ List.mem_cons_self)
  · exact ho

theorem Core.grantStream_owner {k : Core} {h : Nat} (ho : k.stream.owner ≠ some h) (hw : h ∉ k.stream.waiting) :
    k.grantStream.stream.owner ≠ some h := by
  unfold Core.grantStream
  split
  · next j l _ hl =>
    rw [hl] at hw
    exact fun e => hw (Option.some.inj (show some j = some h from e) ▸ List.mem_cons_self)
  · exact ho

theorem leave_owner (o : Option Nat) (h : Nat) : (if o = some h then none else o) ≠ some h := by
  split
  · nofun
  · assumption

/-- A hart that leaves both owns neither, and nothing else of the core changes. -/
theorem Core.leave_frame (k : Core) (h : Nat) : (∃ a t z u d p, (k.leaveArray h).leaveStream h = k.withUnits a t z u d p)
    ∧ ((k.leaveArray h).leaveStream h).array.owner ≠ some h ∧ ((k.leaveArray h).leaveStream h).stream.owner ≠ some h := by
  obtain ⟨a, t, z, ea⟩ := Core.grantArray_frame { k with array := { k.array with
    owner := if k.array.owner = some h then none else k.array.owner
    waiting := k.array.waiting.filter fun x => x != h } }
  have hA : (k.leaveArray h).array.owner ≠ some h := Core.grantArray_owner (leave_owner _ _) (by simp)
  obtain ⟨u, d, p, es⟩ := Core.grantStream_frame { k.leaveArray h with stream := { (k.leaveArray h).stream with
    owner := if (k.leaveArray h).stream.owner = some h then none else (k.leaveArray h).stream.owner
    waiting := (k.leaveArray h).stream.waiting.filter fun x => x != h } }
  have eA : k.leaveArray h = k.withUnits a t z k.stream k.descs k.dpoison := ea
  have eS : (k.leaveArray h).leaveStream h = (k.leaveArray h).withUnits (k.leaveArray h).array (k.leaveArray h).tiles
    (k.leaveArray h).zpoison u d p := es
  refine ⟨⟨a, t, z, u, d, p, by rw [eS, eA]; rfl⟩, by rw [eS]; exact hA, Core.grantStream_owner (leave_owner _ _) (by simp)⟩

/-! ### The whole of it -/

/-- Hart v with its vector side emptied, HEAD = NEXT (R24, R208). -/
def Hart.emptied (v : Hart) : Hart :=
  { v with ctx := v.ctx.emptied, queue := [], spilt := 0, sqCons := v.sqProd, replies := [], replyBad := [], rsv := 0,
           head := v.next, kvfault := 0, kvrst := [], vfTval := 0, vfPend := false }

/-- From s to u the vector side of hart h has been emptied. -/
structure Empties (h : Nat) (s u : State) : Prop where
  part : u.part = s.part
  towers : u.towers = s.towers
  agenda : u.agenda = s.agenda
  rr : u.rr = s.rr
  cur : u.cur = s.cur
  tick : u.tick = s.tick
  hart : u.hartAt h = (s.hartAt h).emptied
  others : ∀ j, j ≠ h → ∃ x, u.hartAt j = (s.hartAt j).withCtx x
  core : ∀ k, ∃ a t z o d p, u.coreAt k =
    ((s.coreAt k).withUnits a t z o d p).holding (u.coreAt k).clusters (u.coreAt k).stalled
  held : u.held (coreOf h) (ctxOf h) = []
  array : (u.coreAt (coreOf h)).array.owner ≠ some h
  stream : (u.coreAt (coreOf h)).stream.owner ≠ some h

theorem emptyCtx_empties (s : State) (h : Nat) : Empties h s (s.emptyCtx h) := by
  obtain ⟨s1, hs1⟩ : ∃ s1, s1 = s.modCore (coreOf h) fun k => (k.leaveArray h).leaveStream h := ⟨_, rfl⟩
  obtain ⟨s2, hs2⟩ : ∃ s2, s2 = s1.dropStalled (coreOf h) (ctxOf h) := ⟨_, rfl⟩
  obtain ⟨s3, hs3⟩ : ∃ s3, s3 = s2.releaseAll (coreOf h) (ctxOf h) := ⟨_, rfl⟩
  have he : s.emptyCtx h = s3.modHart h Hart.emptied := by rw [hs3, hs2, hs1]; rfl
  have hdrop : ∀ r ∈ (s2.coreAt (coreOf h)).stalled, r.ctx ≠ ctxOf h := fun r hr => by
    rw [hs2, State.dropStalled, State.coreAt_modCore_self] at hr
    exact bne_iff_ne.mp (List.mem_filter.mp hr).2
  have m2 : Settles (coreOf h) (s2.coreAt (coreOf h)).stalled s1 s2 := hs2 ▸ settles_filterStalled s1 _
  have m3 : Settles (coreOf h) (s2.coreAt (coreOf h)).stalled s1 s3 := m2.trans (hs3 ▸ settles_releaseAll s2 (ctxOf h))
  have hh1 : ∀ j, s1.hartAt j = s.hartAt j := fun j => by rw [hs1]; rfl
  obtain ⟨⟨a, t, z, o, d, p, ek⟩, hA, hS⟩ := Core.leave_frame (s.coreAt (coreOf h)) h
  have hc1 : ∀ k, s1.coreAt k = if k = coreOf h then ((s.coreAt k).leaveArray h).leaveStream h else s.coreAt k := fun k => by
    rw [hs1, State.coreAt_modCore]
  have hc3 : s3.coreAt (coreOf h) = (((s.coreAt (coreOf h)).leaveArray h).leaveStream h).holding
      (s3.coreAt (coreOf h)).clusters (s3.coreAt (coreOf h)).stalled := by rw [m3.core, hc1, if_pos rfl]; rfl
  rw [he]
  refine ⟨m3.part.trans (hs1 ▸ rfl), m3.towers.trans (hs1 ▸ rfl), m3.agenda.trans (hs1 ▸ rfl), m3.rr.trans (hs1 ▸ rfl),
    m3.cur.trans (hs1 ▸ rfl), m3.tick.trans (hs1 ▸ rfl), ?_, fun j hj => ?_, fun k => ?_, ?_, ?_, ?_⟩
  · rw [State.hartAt_modHart_self, ← hh1]
    rcases m3.harts h with e | e
    · rw [e]
    · rw [e]
      rfl
  · rw [State.hartAt_modHart_ne _ _ hj, ← hh1]
    rcases m3.harts j with e | e
    · exact ⟨_, e⟩
    · exact ⟨_, e⟩
  · rw [State.coreAt_modHart, m3.core, hc1]
    by_cases hk : k = coreOf h
    · subst hk
      rw [if_pos rfl, ek]
      exact ⟨a, t, z, o, d, p, rfl⟩
    · rw [if_neg hk]
      exact ⟨_, _, _, _, _, _, rfl⟩
  · show s3.held _ _ = []
    rw [hs3]
    exact State.held_releaseAll hdrop
  · rw [State.coreAt_modHart, hc3]
    exact hA
  · rw [State.coreAt_modHart, hc3]
    exact hS

theorem Empties.sameMemory {h : Nat} {s u : State} (e : Empties h s u) : Claims.SameMemory s u :=
  Claims.sameMemory_of_mem (by rw [e.part]) (by rw [e.part]) (by rw [e.part]) fun k => by
    obtain ⟨_, _, _, _, _, _, ek⟩ := e.core k
    rw [ek]
    rfl

end Sys2Proof.Machine

/-! PROOFS. hexit, the departure of a gang member, and hyield (R24, R25, R167, R308). -/

namespace Sys2Proof.Machine

section Depart
variable {s : State}

/-- The other members of the current hart's gang. -/
def State.restOf (s : State) : List Nat := (s.gangOf s.cur).filter fun x => x != s.cur

theorem State.cur_notMem_restOf : s.cur ∉ s.restOf := by simp [State.restOf]

theorem depart_alone (h : s.hart.inGang = false) : s.depart s.cur = s := by
  have h' : (s.hartAt s.cur).inGang = false := h
  rw [State.depart, h']
  rfl

/-- The act on the barrier word as a member departs, where the word can be read (R24). -/
def State.barrierLeft (s : State) : State :=
  match s.barrierPa s.cur with
  | some pa =>
    if s.scalarPoison (coreOf s.cur) (s.cell pa) 8 then s
    else s.barrierActed pa fun w => departed w s.hart.pendBit s.restOf.length
  | none => s

theorem depart_member (h : s.hart.inGang = true) (hr : s.restOf ≠ []) :
    s.depart s.cur = s.barrierLeft.setMembers s.restOf (s.restOf.length - 1) := by
  have h' : (s.hartAt s.cur).inGang = true := h
  have hr' : ((s.gangOf s.cur).filter fun x => x != s.cur).isEmpty = false := by
    rw [List.isEmpty_eq_false_iff]
    exact hr
  rw [State.depart, h', hr']
  rfl

theorem barrierLeft_clean {pa : Nat} (hb : s.barrierPa s.cur = some pa) (hp : s.scalarPoison (coreOf s.cur) (s.cell pa) 8 = false) :
    s.barrierLeft = s.barrierActed pa fun w => departed w s.hart.pendBit s.restOf.length := by
  simp only [State.barrierLeft, hb, hp, Bool.false_eq_true, if_false]

theorem barrierLeft_performed : Performed (fun _ => True) s s.barrierLeft := by
  unfold State.barrierLeft
  split
  · split
    · exact .refl _ s
    · exact barrierActed_performed _
  · exact .refl _ s

end Depart

/-! ### The exit (R24, R308) -/

/-- From s to t the current hart has left its context: it runs no more, holds nothing, and its registers, masks, barriers and
bindings stay. -/
structure Left (s t : State) : Prop where
  live : (t.hartAt s.cur).live = false
  held : t.held (coreOf s.cur) (ctxOf s.cur) = []
  sameX : Claims.SameX s t
  next : t.hart.next = s.hart.next
  head : t.hart.head = s.hart.next
  monitor : t.hart.monitor = none
  monHit : t.hart.monHit = false
  m : t.ctx.m = s.ctx.m
  barriers : t.ctx.barriers = s.ctx.barriers
  binds : t.ctx.binds = s.ctx.binds

section Exit
variable {s d : State}

/-- The end of an exit, from the state d that the departure leaves. -/
def State.vacate (s d : State) : State :=
  (((d.emptyCtx s.cur).modCore (coreOf s.cur) fun k => { k with klpr := putBit k.klpr (16 * ctxOf s.cur + 13) false }).modHart s.cur
    freedHart).modCtx s.cur fun _ => s.hart.ctx.left

theorem exitHart_eq (s : State) : s.exitHart s.cur = s.vacate (s.depart s.cur) := rfl

theorem vacate_hart (hc : d.cur = s.cur) : (s.vacate d).hart = (freedHart d.hart.emptied).withCtx s.hart.ctx.left := by
  have e := emptyCtx_empties d s.cur
  have h1 : (s.vacate d).cur = s.cur := e.cur.trans hc
  rw [State.hart, h1, State.vacate, State.modCtx, State.hartAt_modHart_self, State.hartAt_modHart_self, State.hartAt_modCore, e.hart,
    ← hc]
  rfl

theorem vacate_left (hc : d.cur = s.cur) (hd : ∃ m k q, d.hart = { s.hart with monHit := m, kmcheck := k, mcPend := q }) :
    Left s (s.vacate d) := by
  have e := emptyCtx_empties d s.cur
  have hh := vacate_hart hc
  have h1 : (s.vacate d).cur = s.cur := e.cur.trans hc
  obtain ⟨m, k, q, hd⟩ := hd
  rw [hd] at hh
  refine ⟨?_, ?_, ⟨fun r => Claims.Hart.xr_eq_of_x (by rw [hh]; rfl) r, by rw [hh]; rfl⟩, by rw [hh]; rfl, by rw [hh]; rfl,
    by rw [hh]; rfl, by rw [hh]; rfl, by rw [State.ctx, hh]; rfl, by rw [State.ctx, hh]; rfl, by rw [State.ctx, hh]; rfl⟩
  · rw [← h1]
    exact congrArg Hart.live hh
  · have hcl : ((s.vacate d).coreAt (coreOf s.cur)).clusters = ((d.emptyCtx s.cur).coreAt (coreOf s.cur)).clusters := by
      rw [State.vacate, State.coreAt_modCtx, State.coreAt_modHart, State.coreAt_modCore_self]
    rw [State.held, hcl]
    exact e.held

theorem vacate_part : (s.vacate d).part = d.part := (emptyCtx_empties d s.cur).part

theorem vacate_others {j : Nat} (hj : j ≠ s.cur) : ∃ x, (s.vacate d).hartAt j = (d.hartAt j).withCtx x := by
  rw [State.vacate, State.hartAt_modCtx_ne _ _ hj, State.hartAt_modHart_ne _ _ hj]
  exact (emptyCtx_empties d s.cur).others j hj

theorem vacate_sameMemory : Claims.SameMemory d (s.vacate d) := by
  have e := emptyCtx_empties d s.cur
  refine e.sameMemory.trans (Claims.sameMemory_of_mem rfl rfl rfl fun k => ?_)
  rw [State.vacate, State.coreAt_modCtx, State.coreAt_modHart, State.coreAt_modCore]
  split
  · rfl
  · rfl

end Exit

theorem State.exitReady_iff (s : State) : s.exitReady s.cur = true ↔
    s.hart.head = s.hart.next ∧ ∀ c, c ∈ s.ctx.copies → c.outstanding = false := by
  rw [State.exitReady, Bool.and_eq_true, beq_iff_eq, Bool.not_eq_true', VCtx.copying, List.any_eq_false]
  simp only [Bool.not_eq_true]
  rfl

end Sys2Proof.Machine

namespace Sys2Proof.Claims
open Sys2Proof.Machine

section Hexit
variable {s : State}

theorem hexit_ready (hc : s.cur ≠ 0) (hr : s.exitReady s.cur = true) : exec .hexit s = .next (s.exitHart s.cur) := by
  show execHexit s = _
  rw [execHexit, if_neg hc, if_pos hr]

theorem hexit_waits (hc : s.cur ≠ 0) (hr : ¬ s.exitReady s.cur = true) : exec .hexit s = .next (s.stall .hexit) := by
  show execHexit s = _
  rw [execHexit, if_neg hc, if_neg hr]

theorem hexitComplete_ready (hw : s.hart.wait = some .hexit) (hr : s.exitReady s.cur = true) :
    exec .hexitComplete s = .next (s.exitHart s.cur) := by
  show execHexitComplete s = _
  rw [execHexitComplete, if_pos ⟨hw, hr⟩]

/-- The exit of a hart outside any gang changes no memory, and no other hart but in its vector context. -/
theorem exit_alone (hg : s.hart.inGang = false) : Left s (s.exitHart s.cur) ∧ SameMemory s (s.exitHart s.cur)
    ∧ ∀ j, j ≠ s.cur → { (s.exitHart s.cur).hartAt j with ctx := (s.hartAt j).ctx } = s.hartAt j := by
  rw [exitHart_eq, depart_alone hg]
  refine ⟨vacate_left rfl ⟨_, _, _, rfl⟩, vacate_sameMemory, fun j hj => ?_⟩
  obtain ⟨x, e⟩ := vacate_others (d := s) hj
  rw [e]
  rfl

/-- A member departs (R24). -/
theorem exit_member (hg : s.hart.inGang = true) (hr : s.restOf ≠ []) (hl : s.restOf.length ≤ 64) :
    Left s (s.exitHart s.cur) ∧ (s.exitHart s.cur).part = s.barrierLeft.part
      ∧ ∀ j, j ∈ s.restOf → ((s.exitHart s.cur).hartAt j).members = s.restOf.length := by
  have hperf := barrierLeft_performed (s := s)
  obtain ⟨p1, -, p3⟩ := s.barrierLeft.setMembers_part s.restOf (s.restOf.length - 1)
  have hcur : (s.barrierLeft.setMembers s.restOf (s.restOf.length - 1)).cur = s.cur := p3.trans hperf.cur
  rw [exitHart_eq, depart_member hg hr]
  refine ⟨vacate_left hcur ?_, vacate_part.trans p1, fun j hj => ?_⟩
  · obtain ⟨m, k, q, e⟩ := hperf.hart
    refine ⟨m, k, q, ?_⟩
    rw [State.hart, hcur, State.setMembers_hartAt, if_neg State.cur_notMem_restOf, ← e, State.hart, hperf.cur]
  · obtain ⟨x, e⟩ := vacate_others (d := s.barrierLeft.setMembers s.restOf (s.restOf.length - 1))
      (show j ≠ s.cur from fun e => State.cur_notMem_restOf (e ▸ hj))
    have hm : fld (((s.vacate (s.barrierLeft.setMembers s.restOf (s.restOf.length - 1))).hartAt j).kgang) 56 6 =
        (s.restOf.length - 1) % 2 ^ 6 := by
      rw [e, State.setMembers_hartAt, if_pos hj]
      exact fld_putFld_self _ _ _ _ (by omega)
    have hpos : s.restOf.length ≠ 0 := fun e => hr (List.length_eq_zero_iff.mp e)
    rw [Hart.members, hm, Nat.mod_eq_of_lt (by omega)]
    omega

end Hexit

/-- Settles O28: an exit is the departure, then the emptied vector side, then the freed hart. -/
theorem hartsLeave : Obligations.HartsLeave := by
  unfold Obligations.HartsLeave
  intro s ready leaves exits rest pa s1 old own opens departs
  have hleaves : ∀ {t : State} {p : State → Prop}, Left s t → p t → leaves (.next t) p := fun l h =>
    ⟨_, rfl, l.live, l.held, l.sameX, l.next, l.head, l.monitor, l.monHit, l.m, l.barriers, l.binds, h⟩
  have hready : s.exitReady s.cur = true ↔ ready := s.exitReady_iff
  have hexits : s.hart.inGang = false → exits (.next (s.exitHart s.cur)) := fun hg =>
    hleaves (exit_alone hg).1 (exit_alone hg).2
  refine ⟨fun h0 => ?_, fun h0 hg hr => ?_, fun h0 hg hr hne hlen hpa hin => ?_, fun h0 hn => ?_, fun hw hg hr => ?_, ?_, ?_, ?_,
    fun i j => s.issue_yielding i⟩
  · show Traps s 0x01 s.pc _ (execHexit s)
    rw [execHexit, if_pos h0]
    exact traps_raise s (illegal .hexit)
  · rw [hexit_ready h0 (hready.mpr hr)]
    exact hexits hg
  · rw [hexit_ready h0 (hready.mpr hr)]
    obtain ⟨hl, hp, hm⟩ := exit_member hg hne hlen
    refine hleaves hl ⟨hm, fun hclean => ?_⟩
    have hb : s.barrierPa s.cur = some pa := State.barrierPa_some ⟨hpa, hin⟩
    rw [barrierLeft_clean hb hclean] at hp
    obtain ⟨f1, f2⟩ := fld_departed old rest.length s.hart.pendBit
    have hown : natOf s.hart.pendBit = own := rfl
    rw [hown] at f1 f2
    exact ⟨_, performs_of_part hp (barrierActed_performs _), f1, f2⟩
  · rw [hexit_waits h0 fun h => hn (hready.mp h)]
    exact waitsIn_stall s _
  · rw [hexitComplete_ready hw (hready.mpr hr)]
    exact hexits hg
  · exact ⟨_, rfl, (onlyHart_mod s _).trans (onlyHart_mod _ _), by rw [advance_hart, State.mod_hart]; rfl⟩
  · intro hlt hy
    show execHyieldEnd s = _
    rw [execHyieldEnd, if_pos]
    rw [State.yields, Bool.and_eq_true, decide_eq_true_iff]
    exact ⟨hy, hlt⟩
  · intro hle
    refine ⟨s.mod fun v => { v with yielding := false }, ?_, onlyHart_mod s _, State.mod_hart _ _⟩
    show execHyieldEnd s = _
    rw [execHyieldEnd, if_neg]
    rw [State.yields, Bool.and_eq_true, decide_eq_true_iff]
    exact fun h => absurd h.2 (Nat.not_lt.mpr hle)

end Sys2Proof.Claims

/-! PROOFS. Writes of k-registers that act beyond their hart (R23, R28, R29, R51, R105, R131, R166, R225, R270, R315). -/

namespace Sys2Proof.Machine

/-- Outside app mode every register of Table 19-12 may be written (R286). -/
theorem State.kwriteStop_none {s : State} {i : Instr} {n : Nat} (hp : s.hart.pm ≠ 0) (hn : hasNat kregNumbers n = true) :
    s.kwriteStop i n = none := by
  simp [State.kwriteStop, hn, hp]

theorem State.writeNamed_eq {s : State} {n : Nat} (a : XReg) (hp : s.hart.pm ≠ 0) (hn : hasNat kregNumbers n = true) :
    s.writeNamed n a = s.endWrite (.kwrite a (BitVec.ofNat 12 n)) id
      (s.kwrite s.cur s.hart.pm s.cur (s.hart.wait == some .kctxr) n (s.xr a)) := by
  rw [State.writeNamed, State.writeK, State.kwriteStop_none hp hn]

/-- A field of a masked word, where the mask keeps all of it. -/
theorem fld_and_of {v m : Word} {lo len : Nat} (h : ∀ i, lo ≤ i → i < lo + len → tst m i = true) : fld (v &&& m) lo len = fld v lo len :=
  fld_eq_of_tst _ fun i h1 h2 => by rw [tst, BitVec.getLsbD_and, ← tst, ← tst, h i h1 h2, Bool.and_true]

/-! ### klpr (R23, R28, R29, R105) -/

section Lpr
variable (s : State) (c : Nat) (old new : Word)

/-- What R23, R29 and R105 refuse, said of the fields of klpr. -/
theorem State.lprRefused_iff : s.lprRefused c old new = true ↔
    (∃ t, t < 4 ∧ (!tst new (16 * t + 13)) = true ∧ (fld new (16 * t + 8) 5 < fld new (16 * t) 5 ∨ s.lprCount c < fld new (16 * t + 8) 5))
    ∨ s.lprCount c < ((List.range 4).map fun t => if (!tst new (16 * t + 13)) = true then fld new (16 * t) 5 else 0).sum
    ∨ (∃ t, t < 4 ∧ (s.hartAt (4 * c + t)).live = true ∧ (s.hartAt (4 * c + t)).inGang = true
      ∧ (fld old (16 * t) 5 ≠ fld new (16 * t) 5 ∨ fld old (16 * t + 8) 5 ≠ fld new (16 * t + 8) 5))
    ∨ (∃ t, t < 4 ∧ (s.coreAt c).array.owner = some (4 * c + t) ∧ fld old (16 * t) 16 ≠ fld new (16 * t) 16) := by
  rw [sum_map_ite]
  simp only [State.lprRefused, foldl_add_sum, Nat.zero_add, lprStr, lprMin, lprMax, lprMoves, Bool.or_eq_true, Bool.and_eq_true,
    decide_eq_true_eq, List.any_eq_true, List.mem_filter, List.mem_range, bne_iff_ne, beq_iff_eq]
  constructor
  · rintro ((⟨t, ⟨h1, h2⟩, h3⟩ | h) | ⟨t, h1, ⟨⟨h2, h3⟩, h4⟩ | ⟨h2, h3⟩⟩)
    · exact .inl ⟨t, h1, h2, h3.imp of_decide_eq_true of_decide_eq_true⟩
    · exact .inr (.inl h)
    · exact .inr (.inr (.inl ⟨t, h1, h2, h3, h4⟩))
    · exact .inr (.inr (.inr ⟨t, h1, h2, h3⟩))
  · rintro (⟨t, h1, h2, h3⟩ | h | ⟨t, h1, h2, h3, h4⟩ | ⟨t, h1, h2, h3⟩)
    · exact .inl (.inl ⟨t, ⟨h1, h2⟩, h3.imp decide_eq_true decide_eq_true⟩)
    · exact .inl (.inr h)
    · exact .inr ⟨t, h1, .inl ⟨⟨h2, h3⟩, h4⟩⟩
    · exact .inr ⟨t, h1, .inr ⟨h2, h3⟩⟩

end Lpr

/-! ### The ends of these writes -/

/-- A write that has been made: the next word, from a state whose hart has its pc and registers. -/
theorem advance_goes {s u : State} (hx : u.hart.x = s.hart.x) (hp : u.hart.pc = s.hart.pc) :
    u.advance.pc = s.pc + 4 ∧ ∀ r, u.advance.xr r = s.xr r := by
  have hu : u.advance.hart = _ := Claims.advance_hart u
  refine ⟨?_, fun r => Claims.Hart.xr_eq_of_x (by rw [hu]; exact hx) r⟩
  rw [State.pc, hu]
  exact congrArg (· + 4) hp

@[simp] theorem State.towerAt_modTower_self (s : State) (t : Nat) (f : Tower → Tower) : (s.modTower t f).towerAt t = f (s.towerAt t) := by
  simp [State.towerAt, State.modTower]

theorem Settles.hart_regs {c : Nat} {g : List Stalled} {s t : State} (h : Settles c g s t) :
    ∃ x, t.hart = s.hart.withCtx x ∧ (x = s.hart.ctx ∨ x = s.hart.ctx.setChanged) := by
  have e : t.hart = t.hartAt s.cur := congrArg t.hartAt h.cur
  rcases h.harts s.cur with h' | h'
  · exact ⟨_, e.trans h', .inl rfl⟩
  · exact ⟨_, e.trans h', .inr rfl⟩

/-! ### kvq (R51, R131, R270) -/

/-- A stopped context outside a strip after n of its commands have been discarded. -/
theorem discard_facts {s : State} {n : Nat} (hs : s.ctx.strip = none) : let u := s.discard s.cur n
    u.cur = s.cur ∧ u.hart.x = s.hart.x ∧ u.hart.pc = s.hart.pc ∧ u.hart.head = s.hart.head + BitVec.ofNat 32 n
      ∧ u.hart.next = s.hart.next ∧ u.hart.queue = s.hart.queue.drop n ∧ u.ctx.blk = none
      ∧ (u.coreAt (coreOf s.cur)).stream.owner ≠ some s.cur ∧ (s.hart.queue.length < n → u.ctx.refillBad = false)
      ∧ Claims.SameMemory s u := by
  intro u
  have hclose : s.closeStrip s.cur false true = s := by
    have hs' : (s.hartAt s.cur).ctx.strip = none := hs
    rw [State.closeStrip, hs']
  obtain ⟨f, hf⟩ : ∃ f : Hart → Hart, f = fun x =>
      let onChip := min n x.queue.length
      { x with
        head := x.head + BitVec.ofNat 32 n
        rsv := x.rsv - unusedSlots x.ctx.blk ((s.allCommands s.cur).take n)
        queue := x.queue.drop n
        sqCons := x.sqCons + (n - onChip)
        spilt := x.spilt - BitVec.ofNat 32 (n - onChip)
        ctx := { x.ctx with blk := none, loops := [], step := 0, vsup := false, answered := false
                            refillBad := x.ctx.refillBad && decide (n ≤ onChip) } } := ⟨_, rfl⟩
  obtain ⟨w, hw⟩ : ∃ w, w = (s.mod f).modCore (coreOf s.cur) fun k => k.leaveStream s.cur := ⟨_, rfl⟩
  have hu : u = w.settle (coreOf s.cur) := by
    show s.discard s.cur n = _
    rw [State.discard, hclose, hw, hf]
    rfl
  have hset := settles_settle (c := coreOf s.cur) w
  rw [← hu] at hset
  obtain ⟨x, hx, hxc⟩ := hset.hart_regs
  have hwh : w.hart = f s.hart := by rw [hw]; exact State.mod_hart s f
  have hwc : ∀ k, w.coreAt k = if k = coreOf s.cur then (s.coreAt k).leaveStream s.cur else s.coreAt k := fun k => by
    rw [hw, State.coreAt_modCore]
    rfl
  obtain ⟨o, d, p, es⟩ := Core.grantStream_frame { s.coreAt (coreOf s.cur) with stream := { (s.coreAt (coreOf s.cur)).stream with
    owner := if (s.coreAt (coreOf s.cur)).stream.owner = some s.cur then none else (s.coreAt (coreOf s.cur)).stream.owner
    waiting := (s.coreAt (coreOf s.cur)).stream.waiting.filter fun x => x != s.cur } }
  have hblk : x.blk = none ∧ x.refillBad = (s.hart.ctx.refillBad && decide (n ≤ min n s.hart.queue.length)) := by
    rcases hxc with e | e
    · rw [e, hwh, hf]
      exact ⟨rfl, rfl⟩
    · rw [e, hwh, hf]
      exact ⟨rfl, rfl⟩
  have hcur : u.cur = s.cur := hset.cur.trans (by rw [hw]; rfl)
  rw [State.ctx, hx]
  have hfx : (f s.hart).x = s.hart.x ∧ (f s.hart).pc = s.hart.pc ∧ (f s.hart).head = s.hart.head + BitVec.ofNat 32 n
      ∧ (f s.hart).next = s.hart.next ∧ (f s.hart).queue = s.hart.queue.drop n := by
    rw [hf]
    exact ⟨rfl, rfl, rfl, rfl, rfl⟩
  obtain ⟨f1, f2, f3, f4, f5⟩ := hfx
  rw [hwh]
  refine ⟨hcur, f1, f2, f3, f4, f5, hblk.1, ?_, fun hlt => ?_, ?_⟩
  · rw [hset.core, hwc, if_pos rfl]
    exact Core.grantStream_owner (leave_owner _ _) (by simp)
  · show x.refillBad = false
    rw [hblk.2, decide_eq_false (by omega), Bool.and_false]
  · refine Claims.SameMemory.trans (Claims.sameMemory_of_mem (t := w) ?_ ?_ ?_ fun k => ?_) hset.sameMemory
    · rw [hw]; rfl
    · rw [hw]; rfl
    · rw [hw]; rfl
    · rw [hwc]
      by_cases hk : k = coreOf s.cur
      · subst hk
        rw [if_pos rfl, Core.leaveStream, es]
        rfl
      · rw [if_neg hk]

end Sys2Proof.Machine

/-! PROOFS. FLUSH: every on-chip return address spills, oldest first (R148, R195, R196). -/

namespace Sys2Proof.Machine

/-! ### A store into a junction buffer (R148) -/

theorem JLine.put_line (l : JLine) (st : Bool) (o : Nat) (bs : List Byte) : (l.put st o bs).line = l.line := by
  induction bs generalizing l o with
  | nil => rfl
  | cons b bs ih => rw [JLine.put, ih]

/-- The bytes of a line after bytes have been written from an offset on. -/
theorem JLine.find_put (l : JLine) (st : Bool) (o : Nat) (bs : List Byte) (x : Nat) : Map.find (l.put st o bs).bytes x =
    if o ≤ x ∧ x < o + bs.length then some (bs.getD (x - o) 0) else Map.find l.bytes x := by
  induction bs generalizing l o with
  | nil => rw [if_neg (by simp only [List.length_nil]; omega)]; rfl
  | cons b bs ih =>
    rw [JLine.put, ih, List.length_cons]
    rcases Nat.lt_trichotomy x o with h | h | h
    · rw [if_neg (by omega), if_neg (by omega)]
      exact (Map.find_put ..).trans (if_neg (by omega))
    · subst h
      rw [if_neg (by omega), if_pos (by omega), Nat.sub_self]
      exact (Map.find_put ..).trans (if_pos rfl)
    · obtain ⟨d, rfl⟩ : ∃ d, x = o + 1 + d := ⟨x - (o + 1), by omega⟩
      have e1 : o + 1 + d - (o + 1) = d := by omega
      have e2 : o + 1 + d - o = d + 1 := by omega
      rw [e1, e2, List.getD_cons_succ]
      by_cases hd : d < bs.length
      · rw [if_pos (by omega), if_pos (by omega)]
      · rw [if_neg (by omega), if_neg (by omega)]
        exact (Map.find_put ..).trans (if_neg (by omega))

/-- A store within a line: the buffer reads its bytes there, and everywhere else what it read before. -/
theorem jByte_junctionPut (j : List JLine) (h k : Nat) (bs : List Byte) (st : Bool) (hl : k % 64 + bs.length ≤ 64) (x : Nat) :
    jByte (junctionPut j h k bs st) x = if k ≤ x ∧ x < k + bs.length then some (bs.getD (x - k) 0) else jByte j x := by
  have line : ∀ l : JLine, x / 64 = k / 64 → Map.find (l.put st (k % 64) bs).bytes (x % 64) =
      if k ≤ x ∧ x < k + bs.length then some (bs.getD (x - k) 0) else Map.find l.bytes (x % 64) := fun l e => by
    rw [JLine.find_put, show x % 64 - k % 64 = x - k by omega]
    by_cases hx : k ≤ x ∧ x < k + bs.length
    · rw [if_pos hx, if_pos (by omega)]
    · rw [if_neg hx, if_neg (by omega)]
  have off : x / 64 ≠ k / 64 → ¬ (k ≤ x ∧ x < k + bs.length) := fun e => by omega
  rw [junctionPut]
  by_cases hany : (j.any fun l => l.line == k / 64) = true
  · rw [if_pos hany]
    have hmap : ∀ l : JLine, (if l.line == k / 64 then ({ l with hart := h } : JLine).put st (k % 64) bs else l).line = l.line :=
      fun l => by
        split
        · exact JLine.put_line _ _ _ _
        · rfl
    rw [jByte, List.find?_map]
    have hcomp : (fun l : JLine => l.line == x / 64) ∘ (fun l : JLine =>
        if l.line == k / 64 then ({ l with hart := h } : JLine).put st (k % 64) bs else l) = fun l => l.line == x / 64 :=
      funext fun l => by rw [Function.comp, hmap]
    rw [hcomp, jByte]
    cases hf : j.find? fun l => l.line == x / 64 with
    | none =>
      have hne : x / 64 ≠ k / 64 := fun e => by
        rw [List.find?_eq_none] at hf
        obtain ⟨l, hl1, hl2⟩ := List.any_eq_true.mp hany
        exact hf l hl1 (by rw [e]; exact hl2)
      rw [if_neg (off hne)]
      rfl
    | some l =>
      have hlx : l.line = x / 64 := beq_iff_eq.mp (List.find?_some (p := fun l : JLine => l.line == x / 64) hf)
      by_cases e : x / 64 = k / 64
      · rw [Option.map_some, hlx, e, beq_self_eq_true, if_pos rfl]
        exact line { l with hart := h, line := k / 64 } e
      · rw [Option.map_some, hlx, beq_eq_false_iff_ne.mpr e, if_neg Bool.false_ne_true, if_neg (off e)]
  · rw [if_neg hany, jByte, List.find?_append]
    have hnone : ∀ l ∈ j, l.line ≠ k / 64 := fun l hl e => hany (List.any_eq_true.mpr ⟨l, hl, by rw [e, beq_self_eq_true]⟩)
    by_cases e : x / 64 = k / 64
    · have hf : (j.find? fun l => l.line == x / 64) = none := by
        rw [List.find?_eq_none]
        exact fun l hl hx => hnone l hl (by rw [← e]; exact beq_iff_eq.mp hx)
      rw [jByte, hf, Option.none_or, List.find?_cons_of_pos (by rw [JLine.put_line, e]; exact beq_self_eq_true _)]
      exact line _ e
    · rw [List.find?_cons_of_neg (by rw [JLine.put_line]; simpa using Ne.symm e), List.find?_nil, Option.or_none, if_neg (off e)]
      rfl

theorem length_junctionPut (j : List JLine) (h k : Nat) (bs : List Byte) (st : Bool) :
    (junctionPut j h k bs st).length ≤ j.length + 1 := by
  rw [junctionPut]
  split
  · rw [List.length_map]
    omega
  · rw [List.length_append]
    rfl

end Sys2Proof.Machine

namespace Sys2Proof.Machine

/-! ### One spill (R195) -/

/-- n return addresses of the current hart can spill under bare translation: their room in memory and in the buffer. -/
structure CanSpill (s : State) (n : Nat) : Prop where
  count : s.hart.ras.length = n
  mode : s.hart.pm ≠ 0
  bare : fld s.hart.katp 60 4 = 0
  window : tst s.hart.kspb 63 = false
  aligned : s.hart.krasb.toNat % 8 = 0
  room : 8 * n + s.hart.krasl.toNat ≤ s.hart.krasb.toNat
  hbm : s.hart.krasb.toNat ≤ 0xC000000000
  node : s.isLocal 0 = true
  buffer : (s.junction (coreOf s.cur)).length + n < 64

/-- A hart after its oldest return address has spilled to b. -/
def Hart.spilled (b : Word) (v : Hart) : Hart := { v with krasb := b, spill := v.spill + 1, ras := v.ras.dropLast }

section Spill
variable {s : State} {n : Nat}

/-- The state after the current hart has stored bytes at cell k into its junction buffer. -/
def State.buffered (s : State) (k : Nat) (bs : List Byte) : State :=
  (s.modCore (coreOf s.cur) fun x => x.withJunction (junctionPut x.junction s.cur k bs (s.inStorage k))).wake (k / 64)
    fun y => coreOf y == coreOf s.cur

/-- The state after the oldest return address, a, has spilled. -/
def State.spilled (s : State) (a : Word) : State := (s.buffered (s.hart.krasb.toNat - 8) (bytesOf a 8)).mod (Hart.spilled (s.hart.krasb - 8))

theorem CanSpill.below (h : CanSpill s (n + 1)) : (s.hart.krasb - 8).toNat = s.hart.krasb.toNat - 8 := by
  have := h.room
  have := s.hart.krasb.isLt
  rw [BitVec.toNat_sub]
  simp
  omega

theorem CanSpill.inHbm (h : CanSpill s (n + 1)) : s.inHbm (s.hart.krasb.toNat - 8) 8 = true := by
  have h1 := h.room
  have h2 := h.hbm
  have h3 : (s.hart.krasb.toNat - 8) / 2 ^ 44 = 0 := Nat.div_eq_of_lt (by omega)
  have h4 : s.isLocal (s.hart.krasb.toNat - 8) = true := by
    have := h.node
    rwa [State.isLocal, Nat.zero_div, ← h3] at this
  rw [State.inHbm, h4, Bool.true_and, decide_eq_true_iff, Nat.mod_eq_of_lt (by omega)]
  omega

theorem CanSpill.cell (h : CanSpill s (n + 1)) : s.cell (s.hart.krasb.toNat - 8) = s.hart.krasb.toNat - 8 := by
  have h2 := h.hbm
  rw [(State.cell_of_inHbm h.inHbm).1, Nat.mod_eq_of_lt (by omega)]

/-- The oldest address spills: below krasb, into the junction buffer. -/
theorem spillOldest_eq (h : CanSpill s (n + 1)) : s.spillOldest s.cur = .ok (s.spilled (s.hart.ras.getD n 0)) := by
  have hlast : (s.hartAt s.cur).ras.getLast? = some (s.hart.ras.getD n 0) := by
    have hl := h.count
    show s.hart.ras.getLast? = _
    rw [List.getLast?_eq_getElem?, hl, Nat.add_sub_cancel, List.getElem?_eq_getElem (by omega), List.getD_eq_getElem _ _ (by omega)]
  have hk := h.below
  have hkind := State.paKind_of_inHbm h.inHbm (by omega)
  have hfld : fld (s.hart.krasb - 8) 0 56 = s.hart.krasb.toNat - 8 := by
    have := h.hbm
    rw [fld, hk, Nat.shiftRight_zero, Nat.mod_eq_of_lt (by omega)]
  have htr : s.translate (s.scalarView s.cur) .store (s.hart.krasb - 8) PaKind.isMem =
      .ok ({ pa := s.hart.krasb.toNat - 8, pbmt := 0, page := none }, s) := by
    rw [State.translate_bare, if_neg (show (s.scalarView s.cur).mode ≠ 0 from h.mode), hfld, hkind, if_pos (Claims.reach_of_ok rfl)]
    · rw [windowOff, show tst (s.scalarView s.cur).kspb 63 = false from h.window]
      rfl
    · exact h.bare
  have hfull : junctionFull (s.junction (coreOf s.cur)) (s.cell (s.hart.krasb.toNat - 8) / 64) = false := by
    have := h.buffer
    rw [junctionFull, decide_eq_false (by omega), Bool.false_and]
  have hroom : ¬ (s.hartAt s.cur).krasb.toNat < 8 + (s.hartAt s.cur).krasl.toNat := by
    have := h.room
    show ¬ s.hart.krasb.toNat < 8 + s.hart.krasl.toNat
    omega
  have hstore : s.storeMem s.cur ((s.hartAt s.cur).krasb - 8) (bytesOf (s.hart.ras.getD n 0) 8) PaKind.isMem =
      .ok (s.writeMem s.cur (s.hart.krasb.toNat - 8) 0 (bytesOf (s.hart.ras.getD n 0) 8)) := by
    rw [State.storeMem, show (s.hartAt s.cur).krasb - 8 = s.hart.krasb - 8 from rfl, htr]
    rfl
  have hwrite : s.writeMem s.cur (s.hart.krasb.toNat - 8) 0 (bytesOf (s.hart.ras.getD n 0) 8) =
      some (s.buffered (s.hart.krasb.toNat - 8) (bytesOf (s.hart.ras.getD n 0) 8)) := by
    rw [h.cell] at hfull
    have hnl : s.paKind (s.hart.krasb.toNat - 8) ≠ .hostLost := by rw [hkind]; nofun
    simp only [State.writeMem, if_neg hnl, hfull, Bool.false_eq_true, if_false, h.cell, show (0 : Nat) ≠ 2 by omega]
    rfl
  simp only [State.spillOldest, hlast, if_neg hroom, hstore, hwrite]
  rfl

theorem buffered_hart (k : Nat) (bs : List Byte) : ∃ m, (s.buffered k bs).hart = { s.hart with monHit := m } :=
  ⟨_, State.hartAt_wake _ _ _ _⟩

theorem spilled_hart (a : Word) : ∃ m, (s.spilled a).hart = Hart.spilled (s.hart.krasb - 8) { s.hart with monHit := m } := by
  obtain ⟨m, e⟩ := buffered_hart (s := s) (s.hart.krasb.toNat - 8) (bytesOf a 8)
  exact ⟨m, by rw [State.spilled, State.mod_hart, e]⟩

theorem spilled_coreAt (a : Word) : (s.spilled a).junction (coreOf s.cur) =
    junctionPut (s.junction (coreOf s.cur)) s.cur (s.hart.krasb.toNat - 8) (bytesOf a 8) (s.inStorage (s.hart.krasb.toNat - 8)) := by
  have e : (s.spilled a).coreAt (coreOf s.cur) = (s.modCore (coreOf s.cur) fun x => x.withJunction (junctionPut x.junction s.cur
    (s.hart.krasb.toNat - 8) (bytesOf a 8) (s.inStorage (s.hart.krasb.toNat - 8)))).coreAt (coreOf s.cur) := rfl
  rw [State.junction, e, State.coreAt_modCore_self]
  rfl

/-- The word is read where it has spilled, and every other byte as before. -/
theorem spilled_scalarByte (h : CanSpill s (n + 1)) (a : Word) (k : Nat) : (s.spilled a).scalarByte (coreOf s.cur) k =
    if s.hart.krasb.toNat - 8 ≤ k ∧ k < s.hart.krasb.toNat then (bytesOf a 8).getD (k - (s.hart.krasb.toNat - 8)) 0
    else s.scalarByte (coreOf s.cur) k := by
  have hr := h.room
  have hal := h.aligned
  rw [State.scalarByte, spilled_coreAt, jByte_junctionPut _ _ _ _ _ (by rw [length_bytesOf]; omega), length_bytesOf,
    show s.hart.krasb.toNat - 8 + 8 = s.hart.krasb.toNat by omega]
  split
  · rfl
  · rfl

theorem spilled_bytes (h : CanSpill s (n + 1)) (a : Word) :
    (s.spilled a).scalarBytes (coreOf s.cur) (s.hart.krasb.toNat - 8) 8 = bytesOf a 8 := by
  have hr := h.room
  refine List.map_congr_left fun i hi => ?_
  have hi := List.mem_range.mp hi
  rw [spilled_scalarByte h, if_pos (by omega), Nat.add_sub_cancel_left, getD_bytesOf, if_pos hi]

theorem CanSpill.next (h : CanSpill s (n + 1)) (a : Word) : CanSpill (s.spilled a) n := by
  obtain ⟨m, e⟩ := spilled_hart (s := s) a
  have hk : (s.spilled a).hart.krasb = s.hart.krasb - 8 := by rw [e]; rfl
  have hr := h.room
  have hb := h.hbm
  have hal := h.aligned
  refine ⟨?_, ?_, ?_, ?_, ?_, ?_, ?_, h.node, ?_⟩
  · rw [e]
    show s.hart.ras.dropLast.length = n
    rw [List.length_dropLast, h.count]
    rfl
  · rw [e]
    exact h.mode
  · rw [e]
    exact h.bare
  · rw [e]
    exact h.window
  · rw [hk, h.below]
    omega
  · rw [hk, h.below, show (s.spilled a).hart.krasl = s.hart.krasl by rw [e]; rfl]
    omega
  · rw [hk, h.below]
    omega
  · have := length_junctionPut (s.junction (coreOf s.cur)) s.cur (s.hart.krasb.toNat - 8) (bytesOf a 8)
      (s.inStorage (s.hart.krasb.toNat - 8))
    have hbuf := h.buffer
    show ((s.spilled a).junction (coreOf s.cur)).length + n < 64
    rw [spilled_coreAt]
    omega

end Spill

/-! ### The whole of FLUSH (R196) -/

/-- The current hart after all n on-chip return addresses have spilled. -/
def Hart.flushed (v : Hart) (n : Nat) (m : Bool) : Hart :=
  { v with ras := [], spill := v.spill + BitVec.ofNat 32 n, krasb := v.krasb - BitVec.ofNat 64 (8 * n), monHit := m }

theorem flushRas_ok {n : Nat} {s : State} (h : CanSpill s n) : ∃ t m, s.flushRas s.cur n = .ok t ∧ t.cur = s.cur
    ∧ t.hart = s.hart.flushed n m
    ∧ (∀ k, s.hart.krasb.toNat ≤ k → t.scalarByte (coreOf s.cur) k = s.scalarByte (coreOf s.cur) k)
    ∧ ∀ i, i < n → (ofBytes 64 (t.scalarBytes (coreOf s.cur) (s.hart.krasb.toNat - 8 * n + 8 * i) 8) : Word) =
        s.hart.ras.getD i 0 := by
  induction n generalizing s with
  | zero =>
    refine ⟨s, s.hart.monHit, rfl, rfl, ?_, fun _ _ => rfl, fun i hi => absurd hi (Nat.not_lt_zero i)⟩
    have hnil : s.hart.ras = [] := List.length_eq_zero_iff.mp h.count
    rw [Hart.flushed, ← hnil, BitVec.add_zero, BitVec.sub_zero]
  | succ n ih =>
    obtain ⟨u, hu⟩ : ∃ u, u = s.spilled (s.hart.ras.getD n 0) := ⟨_, rfl⟩
    have hcan : CanSpill u n := hu ▸ h.next _
    obtain ⟨t, m, e, hc, hh, hkeep, hread⟩ := ih hcan
    obtain ⟨m0, hum⟩ := spilled_hart (s := s) (s.hart.ras.getD n 0)
    rw [← hu] at hum
    have hkr : u.hart.krasb.toNat = s.hart.krasb.toNat - 8 := by rw [hum]; exact h.below
    have hr := h.room
    have hucur : u.cur = s.cur := by rw [hu]; rfl
    rw [hucur] at e hc hkeep hread
    have hflush : s.flushRas s.cur (n + 1) = .ok t := by
      rw [State.flushRas, spillOldest_eq h, ← hu]
      exact e
    refine ⟨t, m, hflush, hc, ?_, fun k hk => ?_, fun i hi => ?_⟩
    · rw [hh, hum]
      have e1 : s.hart.spill + 1 + BitVec.ofNat 32 n = s.hart.spill + BitVec.ofNat 32 (n + 1) := by
        rw [BitVec.add_assoc, BitVec.add_comm 1, BitVec.ofNat_add]
        rfl
      have e2 : s.hart.krasb - 8 - BitVec.ofNat 64 (8 * n) = s.hart.krasb - BitVec.ofNat 64 (8 * (n + 1)) := by
        rw [Nat.mul_succ, BitVec.ofNat_add]
        bv_omega
      rw [Hart.flushed, Hart.flushed, ← e1, ← e2]
      rfl
    · rw [hkeep k (by omega), hu, spilled_scalarByte h, if_neg (by omega)]
    · rcases Nat.lt_succ_iff_lt_or_eq.mp hi with hlt | rfl
      · have := hread i hlt
        rw [hkr, show s.hart.krasb.toNat - 8 - 8 * n = s.hart.krasb.toNat - 8 * (n + 1) by omega] at this
        rw [this, hum]
        show s.hart.ras.dropLast.getD i 0 = _
        rw [List.getD_eq_getElem?_getD, List.getElem?_dropLast, if_pos (by rw [h.count]; omega), ← List.getD_eq_getElem?_getD]
      · have hb : t.scalarBytes (coreOf s.cur) (s.hart.krasb.toNat - 8) 8 = u.scalarBytes (coreOf s.cur) (s.hart.krasb.toNat - 8) 8 :=
          List.map_congr_left fun j _ => hkeep _ (by omega)
        rw [show s.hart.krasb.toNat - 8 * (i + 1) + 8 * i = s.hart.krasb.toNat - 8 by omega, hb, hu, spilled_bytes h,
          ofBytes_bytesOf_64]

end Sys2Proof.Machine

/-! PROOFS. klpr, kdump, kheat, kvq and FLUSH as instructions (R28, R29, R51, R166, R196, R225). -/

namespace Sys2Proof.Claims
open Sys2Proof.Machine

section Writes
variable {s : State} (a : XReg) (hp : s.hart.pm ≠ 0)

/-- A k-register write that the instruction's own hart makes, and is not refused. -/
theorem write_ok {n : Nat} {u : State} (hn : hasNat kregNumbers n = true)
    (hw : s.kwrite s.cur s.hart.pm s.cur (s.hart.wait == some .kctxr) n (s.xr a) = .ok u) (hp : s.hart.pm ≠ 0) :
    s.writeNamed n a = u.advance := by
  rw [State.writeNamed_eq a hp hn, hw]
  rfl

theorem write_illegal {n : Nat} (hn : hasNat kregNumbers n = true)
    (hw : s.kwrite s.cur s.hart.pm s.cur (s.hart.wait == some .kctxr) n (s.xr a) = .illegal) (hp : s.hart.pm ≠ 0) :
    Traps s 0x01 s.pc (cword (.kwrite a (BitVec.ofNat 12 n))) (.next (s.writeNamed n a)) := by
  rw [State.writeNamed_eq a hp hn, hw]
  exact traps_raise s (illegal (.kwrite a (BitVec.ofNat 12 n)))

include hp

/-- klpr, in force at once (R28, R29). -/
theorem klpr_goes {new : Word} (hnew : new = mergeRw 0x020 (s.coreAt (coreOf s.cur)).klpr (s.xr a))
    (hr : s.lprRefused (coreOf s.cur) (s.coreAt (coreOf s.cur)).klpr new = false) :
    ∃ t, exec (.klprWrite a) s = .next t ∧ t.pc = s.pc + 4 ∧ (∀ r, t.xr r = s.xr r)
      ∧ (t.coreAt (coreOf s.cur)).klpr = new ∧ SameMemory s t := by
  obtain ⟨w, hw⟩ : ∃ w, w = s.modCore (coreOf s.cur) fun k => { k with klpr := new } := ⟨_, rfl⟩
  have hset := settles_settle (c := coreOf s.cur) w
  obtain ⟨x, hx, -⟩ := hset.hart_regs
  have hwh : w.hart = s.hart := by rw [hw]; rfl
  rw [hwh] at hx
  have hok : s.kwrite s.cur s.hart.pm s.cur (s.hart.wait == some .kctxr) 0x020 (s.xr a) = .ok (w.settle (coreOf s.cur)) := by
    show kwriteLpr s s.cur (s.xr a) = _
    rw [kwriteLpr, ← hnew, kGuard, hr, hw]
    rfl
  obtain ⟨h1, h2⟩ := advance_goes (s := s) (u := w.settle (coreOf s.cur)) (by rw [hx]; rfl) (by rw [hx]; rfl)
  refine ⟨_, congrArg Host.Outcome.next (write_ok a rfl hok hp), h1, h2, ?_, ?_⟩
  · show ((w.settle (coreOf s.cur)).coreAt (coreOf s.cur)).klpr = new
    rw [hset.core, hw, State.coreAt_modCore_self]
    rfl
  · refine SameMemory.trans (sameMemory_of_mem (t := w) (by rw [hw]; rfl) (by rw [hw]; rfl) (by rw [hw]; rfl) fun k => ?_) ?_
    · rw [hw, State.coreAt_modCore]
      split
      · rfl
      · rfl
    · exact hset.sameMemory

theorem klpr_traps (hr : s.lprRefused (coreOf s.cur) (s.coreAt (coreOf s.cur)).klpr
      (mergeRw 0x020 (s.coreAt (coreOf s.cur)).klpr (s.xr a)) = true) :
    Traps s 0x01 s.pc (cword (.kwrite a 0x020)) (exec (.klprWrite a) s) := by
  refine write_illegal a rfl ?_ hp
  show kwriteLpr s s.cur (s.xr a) = _
  rw [kwriteLpr, kGuard, hr]
  rfl

/-- kdump (R225). -/
theorem kdump_goes (h1 : 16 ≤ fld (s.xr a) 0 6) (h2 : fld (s.xr a) 0 6 ≤ 30) :
    ∃ t, exec (.kdumpWrite a) s = .next t ∧ t.pc = s.pc + 4 ∧ (∀ r, t.xr r = s.xr r)
      ∧ t.coreAt (coreOf s.cur) = { s.coreAt (coreOf s.cur) with kdump := s.xr a &&& 0x80FFFFFFFFFFF03F } ∧ t.part = s.part
      ∧ t.towers = s.towers := by
  have hf : fld (s.xr a &&& kRw 0x082) 0 6 = fld (s.xr a) 0 6 := fld_and_of (by decide)
  obtain ⟨u, hu⟩ : ∃ u, u = s.modCore (coreOf s.cur) fun k => { k with kdump := s.xr a &&& kRw 0x082 } := ⟨_, rfl⟩
  have hok : s.kwrite s.cur s.hart.pm s.cur (s.hart.wait == some .kctxr) 0x082 (s.xr a) = .ok u := by
    show kwriteDump s s.cur (s.xr a) = _
    rw [kwriteDump, hf, decide_eq_true h1, decide_eq_true h2, hu]
    rfl
  obtain ⟨g1, g2⟩ := advance_goes (s := s) (u := u) (by rw [hu]; rfl) (by rw [hu]; rfl)
  refine ⟨_, congrArg Host.Outcome.next (write_ok a rfl hok hp), g1, g2, ?_, by rw [hu]; rfl, by rw [hu]; rfl⟩
  show u.coreAt (coreOf s.cur) = _
  rw [hu]
  exact State.coreAt_modCore_self ..

/-- kheat of the tower (R166). -/
theorem kheat_goes (h : tst (s.xr a) 63 = false ∨ (12 ≤ fld (s.xr a) 0 6 ∧ fld (s.xr a) 0 6 ≤ 28)) :
    ∃ t, exec (.kheatWrite a) s = .next t ∧ t.pc = s.pc + 4 ∧ (∀ r, t.xr r = s.xr r)
      ∧ t.towerAt (s.towerOf (coreOf s.cur)) =
          { s.towerAt (s.towerOf (coreOf s.cur)) with kheat := s.xr a &&& 0xFFFFFFFFFFFFF03F, heatProd := 0 }
      ∧ t.part = s.part ∧ t.cores = s.cores := by
  have hf : fld (s.xr a &&& kRw 0x071) 0 6 = fld (s.xr a) 0 6 := fld_and_of (by decide)
  have hb : badSize (s.xr a &&& kRw 0x071) 12 28 = false := by
    rw [badSize, hf]
    rcases h with h | ⟨h1, h2⟩
    · rw [tst, BitVec.getLsbD_and, ← tst, h, Bool.false_and, Bool.false_and]
    · rw [decide_eq_true h1, decide_eq_true h2]
      exact Bool.and_false _
  obtain ⟨u, hu⟩ : ∃ u, u = s.modTower (s.towerOf (coreOf s.cur)) fun y => { y with kheat := s.xr a &&& kRw 0x071, heatProd := 0 } :=
    ⟨_, rfl⟩
  have hok : s.kwrite s.cur s.hart.pm s.cur (s.hart.wait == some .kctxr) 0x071 (s.xr a) = .ok u := by
    show kwriteHeat s s.cur (s.xr a) = _
    rw [kwriteHeat, hb, hu]
    rfl
  obtain ⟨g1, g2⟩ := advance_goes (s := s) (u := u) (by rw [hu]; rfl) (by rw [hu]; rfl)
  refine ⟨_, congrArg Host.Outcome.next (write_ok a rfl hok hp), g1, g2, ?_, by rw [hu]; rfl, by rw [hu]; rfl⟩
  show u.towerAt (s.towerOf (coreOf s.cur)) = _
  rw [hu]
  exact State.towerAt_modTower_self ..

/-- kvq, which discards commands (R51). -/
theorem kvq_goes {gone : Nat} (hgone : gone = (((s.xr a).setWidth 32 : W32) - s.hart.head).toNat) (hst : s.ctx.stopped = true)
    (hle : gone ≤ (s.hart.next - s.hart.head).toNat) (hs : s.ctx.strip = none) :
    ∃ t, exec (.kvqDiscard a) s = .next t ∧ t.pc = s.pc + 4 ∧ (∀ r, t.xr r = s.xr r) ∧ t.hart.head = (s.xr a).setWidth 32
      ∧ t.hart.next = s.hart.next ∧ t.hart.queue = s.hart.queue.drop gone
      ∧ (gone ≠ 0 → t.ctx.blk = none ∧ (t.coreAt (coreOf s.cur)).stream.owner ≠ some s.cur
        ∧ (s.hart.queue.length < gone → t.ctx.refillBad = false)) ∧ SameMemory s t := by
  have hhead : s.hart.head + BitVec.ofNat 32 gone = (s.xr a).setWidth 32 := by
    rw [hgone, BitVec.ofNat_toNat, BitVec.setWidth_eq]
    bv_omega
  have hguard : ¬ (s.hart.pm = 0 ∨ (!s.ctx.stopped) = true ∨ (s.hart.next - s.hart.head).toNat < gone) := by
    rw [hst]
    simp only [Bool.not_true, Bool.false_eq_true, false_or, not_or]
    exact ⟨hp, by omega⟩
  have hk : s.kwrite s.cur s.hart.pm s.cur (s.hart.wait == some .kctxr) 0x022 (s.xr a) =
      if gone = 0 then .ok s else .ok (s.discard s.cur gone) := by
    show kwriteVq s s.cur s.hart.pm (s.xr a) = _
    rw [hgone] at hguard ⊢
    exact if_neg hguard
  by_cases h0 : gone = 0
  · rw [if_pos h0] at hk
    obtain ⟨g1, g2⟩ := advance_goes (s := s) (u := s) rfl rfl
    have hh : s.advance.hart = atNext s.hart := advance_hart s
    refine ⟨_, congrArg Host.Outcome.next (write_ok a rfl hk hp), g1, g2, ?_, by rw [hh]; rfl, ?_, fun h => absurd h0 h,
      (onlyHart_mod s _).1.2.2.2.2.2.2.2⟩
    · rw [hh, ← hhead, h0]
      exact (BitVec.add_zero _).symm
    · rw [hh, h0]
      rfl
  · rw [if_neg h0] at hk
    obtain ⟨-, f1, f2, f3, f4, f5, f6, f7, f8, f9⟩ := discard_facts (n := gone) hs
    obtain ⟨g1, g2⟩ := advance_goes (s := s) f1 f2
    have hh : (s.discard s.cur gone).advance.hart = atNext (s.discard s.cur gone).hart := advance_hart _
    refine ⟨_, congrArg Host.Outcome.next (write_ok a rfl hk hp), g1, g2, ?_, ?_, ?_, fun _ => ⟨?_, f7, fun hl => ?_⟩,
      f9.trans (onlyHart_mod _ _).1.2.2.2.2.2.2.2⟩
    · rw [hh, ← hhead]
      exact f3
    · rw [hh]
      exact f4
    · rw [hh]
      exact f5
    · rw [State.ctx, hh]
      exact f6
    · rw [State.ctx, hh]
      exact f8 hl

theorem kvq_traps (h : s.ctx.stopped = false ∨
      (s.hart.next - s.hart.head).toNat < (((s.xr a).setWidth 32 : W32) - s.hart.head).toNat) :
    Traps s 0x01 s.pc (cword (.kwrite a 0x022)) (exec (.kvqDiscard a) s) := by
  refine write_illegal a rfl ?_ hp
  show kwriteVq s s.cur s.hart.pm (s.xr a) = _
  refine if_pos (.inr (h.imp (fun h => ?_) id))
  rw [show (s.hartAt s.cur).ctx.stopped = false from h]
  rfl

/-- FLUSH (R196). -/
theorem flush_goes {n : Nat} (hc : CanSpill s n) : ∃ t, exec .krasFlush s = .next t ∧ t.pc = s.pc + 4 ∧ (∀ r, t.xr r = s.xr r)
    ∧ t.hart.ras = [] ∧ t.hart.spill = s.hart.spill + BitVec.ofNat 32 n ∧ t.hart.krasb = s.hart.krasb - BitVec.ofNat 64 (8 * n)
    ∧ ∀ i, i < n → (ofBytes 64 (t.scalarBytes (coreOf s.cur) (t.hart.krasb.toNat + 8 * i) 8) : Word) = s.hart.ras.getD i 0 := by
  obtain ⟨w, hw⟩ : ∃ w : Word, w = putBit (BitVec.ofNat 64 (s.hart.spill.toNat * 2 ^ 32)) 31 true := ⟨_, rfl⟩
  have hspill : BitVec.ofNat 32 (fld w 32 32) = s.hart.spill := by
    have := s.hart.spill.isLt
    have hf : fld w 32 32 = s.hart.spill.toNat := by
      rw [hw, fld_putBit_ne _ _ (by omega), fld, BitVec.toNat_ofNat, Nat.mod_eq_of_lt (by omega), Nat.shiftRight_eq_div_pow]
      omega
    rw [hf, BitVec.ofNat_toNat, BitVec.setWidth_eq]
  have hflag : tst w 31 = true := by rw [hw]; exact tst_putBit_self _ _ (by omega)
  obtain ⟨s1, hs1⟩ : ∃ s1, s1 = s.mod fun y => { y with spill := s.hart.spill } := ⟨_, rfl⟩
  have hh1 : s1.hart = s.hart := by rw [hs1, State.mod_hart]
  have hc1 : s1.cur = s.cur := by rw [hs1]; rfl
  have hj1 : s1.junction (coreOf s.cur) = s.junction (coreOf s.cur) := by rw [hs1]; rfl
  have hcan : CanSpill s1 n := by
    refine ⟨?_, ?_, ?_, ?_, ?_, ?_, ?_, by rw [hs1]; exact hc.node, by rw [hc1, hj1]; exact hc.buffer⟩
    all_goals rw [hh1]
    exacts [hc.count, hc.mode, hc.bare, hc.window, hc.aligned, hc.room, hc.hbm]
  obtain ⟨t, m, e, -, ht, -, hread⟩ := flushRas_ok hcan
  rw [hc1] at e hread
  rw [hh1] at ht hread
  have hok : s.kwrite s.cur s.hart.pm s.cur (s.hart.wait == some .kctxr) 0x009 w = .ok t := by
    show kwriteRas s s.cur w = _
    have hn : (s.hartAt s.cur).ras.length = n := hc.count
    have hno : ¬ ((s.hartAt s.cur).ras.length ≠ 0 ∧ BitVec.ofNat 32 (fld w 32 32) ≠ (s.hartAt s.cur).spill) := fun h => h.2 hspill
    rw [kwriteRas, if_neg hno, if_pos hflag, hn, hspill, ← State.mod, ← hs1, e]
  have hexec : exec .krasFlush s = .next t.advance := by
    show Host.Outcome.next (s.writeK (.kwrite 0 0x009) 0x009 _ id) = _
    rw [State.writeK, State.kwriteStop_none hp rfl, ← hw, hok]
    rfl
  obtain ⟨g1, g2⟩ := advance_goes (s := s) (u := t) (by rw [ht]; rfl) (by rw [ht]; rfl)
  have hta : t.advance.hart = atNext (s.hart.flushed n m) := by rw [advance_hart, ht]
  have hk : t.advance.hart.krasb.toNat = s.hart.krasb.toNat - 8 * n := by
    have h1 := hc.room
    have h2 := s.hart.krasb.isLt
    rw [hta]
    show (s.hart.krasb - BitVec.ofNat 64 (8 * n)).toNat = _
    rw [BitVec.toNat_sub_of_le (by rw [BitVec.le_def, BitVec.toNat_ofNat]; omega), BitVec.toNat_ofNat,
      Nat.mod_eq_of_lt (by omega)]
  exact ⟨_, hexec, g1, g2, by rw [hta]; rfl, by rw [hta]; rfl, by rw [hta]; rfl, fun i hi => by rw [hk]; exact hread i hi⟩

end Writes

/-- Settles O33: each write makes its own change, and what refuses a klpr is read off its fields. -/
theorem kregSideEffects : Obligations.KregSideEffects := by
  unfold Obligations.KregSideEffects
  intro s a hp v c new gone n goes old counted count refused
  have hnew : new = mergeRw 0x020 old v := rfl
  have href : s.lprRefused c old new = true ↔ refused := s.lprRefused_iff c old new
  refine ⟨fun hn => klpr_goes a hp hnew (Bool.eq_false_iff.mpr fun h => hn (href.mp h)), fun h => klpr_traps a hp (href.mpr h),
    fun ⟨h1, h2⟩ => kdump_goes a hp h1 h2, kheat_goes a hp, kvq_goes a hp rfl, kvq_traps a hp, ?_⟩
  intro hb hw hal hroom hhbm hnode hbuf
  exact flush_goes hp ⟨rfl, hp, hb, hw, hal, hroom, hhbm, hnode, hbuf⟩

end Sys2Proof.Claims

/-! PROOFS. A strip that releases its stores or seals: what it leaves as it is (R81, R184, R206, R217, R237). -/

namespace Sys2Proof.Machine

/-! ### Runs of buffered bytes -/

/-- A run holds a byte or more, and each of its bytes is one of the map. -/
theorem mem_runsOf {m : Map Byte} {r : Nat × List Byte} (hr : r ∈ runsOf m) :
    r.2 ≠ [] ∧ ∀ i < r.2.length, ∃ b, (r.1 + i, b) ∈ m := by
  induction m generalizing r with
  | nil => cases hr
  | cons e m ih =>
    obtain ⟨o, b⟩ := e
    have old : ∀ q ∈ runsOf m, q.2 ≠ [] ∧ ∀ i < q.2.length, ∃ c, (q.1 + i, c) ∈ (o, b) :: m := fun q hq =>
      ⟨(ih hq).1, fun i hi => ((ih hq).2 i hi).imp fun _ h => List.mem_cons_of_mem _ h⟩
    have alone : ∀ i < [b].length, ∃ c, (o + i, c) ∈ (o, b) :: m := fun i hi =>
      ⟨b, by obtain rfl : i = 0 := Nat.lt_one_iff.mp hi; exact List.mem_cons_self⟩
    rw [runsOf] at hr
    split at hr
    · next o' bs rs e =>
      have hold : ∀ q ∈ (o', bs) :: rs, q.2 ≠ [] ∧ ∀ i < q.2.length, ∃ c, (q.1 + i, c) ∈ (o, b) :: m := fun q hq => old q (e ▸ hq)
      split at hr
      · next ho =>
        rcases List.mem_cons.mp hr with rfl | hr
        · refine ⟨List.cons_ne_nil _ _, fun i hi => ?_⟩
          cases i with
          | zero => exact ⟨b, List.mem_cons_self⟩
          | succ i =>
            obtain ⟨c, hc⟩ := (hold _ List.mem_cons_self).2 i (Nat.lt_of_succ_lt_succ hi)
            exact ⟨c, by rw [show o + (i + 1) = o' + i by omega]; exact hc⟩
        · exact hold r (List.mem_cons_of_mem _ hr)
      · rcases List.mem_cons.mp hr with rfl | hr
        · exact ⟨List.cons_ne_nil _ _, alone⟩
        · exact hold r hr
    · obtain rfl : r = (o, [b]) := List.mem_singleton.mp hr
      exact ⟨List.cons_ne_nil _ _, alone⟩

theorem Map.find_eq_none {α : Type} {m : Map α} {k : Nat} (h : Map.find m k = none) {e : Nat × α} (he : e ∈ m) : e.1 ≠ k := by
  induction m with
  | nil => cases he
  | cons x m ih =>
    obtain ⟨i, a⟩ := x
    rw [Map.find] at h
    split at h
    · cases h
    · next hi =>
      rcases List.mem_cons.mp he with rfl | he
      · exact hi
      · exact ih h he

/-! ### What the agents read -/

/-- Cell k reads alike in two states: to the agents of the node, and with what is under way to it. -/
def State.SameCell (s t : State) (k : Nat) : Prop := t.byteAt k = s.byteAt k ∧ t.devByte k = s.devByte k

theorem State.SameCell.trans {s t u : State} {k : Nat} (h : s.SameCell t k) (g : t.SameCell u k) : s.SameCell u k :=
  ⟨g.1.trans h.1, g.2.trans h.2⟩

theorem State.cell_of_node {s t : State} (hn : t.part.node = s.part.node) (a : Nat) : t.cell a = s.cell a := by
  have hl : t.isLocal a = s.isLocal a := by simp only [State.isLocal, hn]
  simp only [State.cell, hl]

theorem State.covers_of_node {s t : State} (hn : t.part.node = s.part.node) (x : Transaction) (k : Nat) :
    t.covers x k = s.covers x k := by simp only [State.covers, State.cell_of_node hn]

theorem State.devByte_of_trans {s t : State} {k : Nat} (hb : t.byteAt k = s.byteAt k) (hn : t.part.node = s.part.node)
    (ht : t.part.trans = s.part.trans) : t.devByte k = s.devByte k := by
  simp only [State.devByte, hb, State.cell_of_node hn, State.covers_of_node hn, ht]

/-- A transaction that does not cover a cell leaves it as it reads. -/
theorem State.devByte_retain {s t : State} {k : Nat} {x : Transaction} (hb : t.byteAt k = s.byteAt k)
    (hn : t.part.node = s.part.node) (ht : t.part.trans = s.part.trans ++ [x]) (hx : s.covers x k = false) :
    t.devByte k = s.devByte k := by
  simp only [State.devByte, hb, State.cell_of_node hn, State.covers_of_node hn, ht, List.filterMap_append, List.filterMap_cons,
    hx, Bool.false_eq_true, if_false,
    List.filterMap_nil, List.append_nil]

theorem State.sameCell_of_part {s t : State} (hm : t.part.mem = s.part.mem) (ht : t.part.trans = s.part.trans)
    (hn : t.part.node = s.part.node) (k : Nat) : s.SameCell t k := by
  have hb : t.byteAt k = s.byteAt k := by simp only [State.byteAt, hm]
  exact ⟨hb, State.devByte_of_trans hb hn ht⟩

/-- Bytes that perform are read where they go, and every other cell keeps its byte. -/
theorem State.sameCell_performAs (s : State) (h : Nat) (a : Asker) (addr : Word) (st : Bool) (pa : Nat) (bs : List Byte)
    (w : Nat → Bool) {k : Nat} (hk : k < s.cell pa ∨ s.cell pa + bs.length ≤ k) :
    s.SameCell (s.performAs h a addr st pa bs w) k := by
  have hn : (s.performAs h a addr st pa bs w).part.node = s.part.node := (performed_performAs s h a addr st pa bs w).node
  have hp := State.performAs_part s h a addr st pa bs w
  split_ifs at hp with hl hc
  · exact State.sameCell_of_part (by rw [hp]) (by rw [hp]) (by rw [hp]) k
  · have hb : (s.performAs h a addr st pa bs w).byteAt k = s.byteAt k := by
      rw [State.byteAt, hp, Part.putBytes_read, if_neg (by omega)]
      rfl
    exact ⟨hb, State.devByte_of_trans hb hn (by rw [hp, Part.putBytes_trans])⟩
  · have hb : (s.performAs h a addr st pa bs w).byteAt k = s.byteAt k := by
      rw [State.byteAt, hp]
      rfl
    refine ⟨hb, State.devByte_retain hb hn (by rw [hp]; rfl) ?_⟩
    simp only [State.covers, Bool.true_and, Bool.and_eq_false_iff, decide_eq_false_iff_not]
    omega

/-- A cell of this node has the address that its stores perform at. -/
theorem State.cell_paOfCell (s : State) {k : Nat} (h : k < 2 ^ 44) : s.cell (s.paOfCell k) = k := by
  have e : s.paOfCell k = 0xFFF * 2 ^ 44 + k := if_pos (by omega)
  have hl : s.isLocal (s.paOfCell k) = true := by
    rw [State.isLocal, e, show (0xFFF * 2 ^ 44 + k) / 2 ^ 44 = 0xFFF by omega]
    rfl
  rw [State.cell, if_pos hl, e]
  omega

/-! ### Buffered stores perform (R81) -/

/-- Hart h with an open strip as given. -/
def VCtx.withStrip (c : VCtx) (o : Option Strip) : VCtx := { c with strip := o }

/-- Cell k is not among the buffered stores of a strip, and these are cells of this node. -/
def Strip.Spares (st : Strip) (k : Nat) : Prop := Map.find st.buf k = none ∧ ∀ e ∈ st.buf, e.1 < 2 ^ 44

/-- The buffered bytes of one class, as they go to memory. -/
def State.classOf (s : State) (st : Strip) (storage : Bool) : Map Byte :=
  (st.buf.filter fun e => (Map.find st.storage e.1).isSome == storage).map fun e => (e.1, s.mergedByte st e.1 e.2)

/-- A run of neighbouring bytes performs. -/
def State.putRun (h : Nat) (storage : Bool) (t : State) (r : Nat × List Byte) : State :=
  t.performAs h .vector 0 storage (t.paOfCell r.1) r.2 fun _ => true

theorem State.releaseBuf_eq (s : State) (h : Nat) (st : Strip) : s.releaseBuf h st =
    ((runsOf (s.classOf st true)).foldl (State.putRun h true) ((runsOf (s.classOf st false)).foldl (State.putRun h false) s)).modPart
      fun p => (st.bufBad ++ (st.bits.filter fun e => s.poisonAt e.1).map fun e => (e.1, ())).foldl (fun q e => q.markPoison e.1) p := rfl

/-- The runs of one class perform. -/
theorem performed_putRuns (h : Nat) (b : Bool) (l : List (Nat × List Byte)) (s : State) :
    Performed (· = h) s (l.foldl (State.putRun h b) s) ∧ (l.foldl (State.putRun h b) s).cores = s.cores := by
  refine ⟨.foldl _ (fun u r _ => performed_performAs ..) s, ?_⟩
  induction l generalizing s with
  | nil => rfl
  | cons r l ih => exact (ih _).trans (State.performAs_frame ..).1

theorem sameCell_putRuns (h : Nat) (b : Bool) (s s0 : State) {st : Strip} {k : Nat} (hk : st.Spares k) :
    s.SameCell ((runsOf (s0.classOf st b)).foldl (State.putRun h b) s) k := by
  have keys : ∀ r ∈ runsOf (s0.classOf st b), r.1 < 2 ^ 44 ∧ (k < r.1 ∨ r.1 + r.2.length ≤ k) := fun r hr => by
    obtain ⟨hne, hin⟩ := mem_runsOf hr
    have inBuf : ∀ i < r.2.length, ∃ e ∈ st.buf, e.1 = r.1 + i := fun i hi => by
      obtain ⟨c, hc⟩ := hin i hi
      obtain ⟨e, he, heq⟩ := List.mem_map.mp hc
      exact ⟨e, (List.mem_filter.mp he).1, congrArg Prod.fst heq⟩
    constructor
    · obtain ⟨e, he, e0⟩ := inBuf 0 (List.length_pos_of_ne_nil hne)
      have := hk.2 e he
      omega
    · by_contra hc
      obtain ⟨e, he, e0⟩ := inBuf (k - r.1) (by omega)
      exact Map.find_eq_none hk.1 he (by omega)
  generalize runsOf (s0.classOf st b) = l at keys ⊢
  induction l generalizing s with
  | nil => exact ⟨rfl, rfl⟩
  | cons r l ih =>
    obtain ⟨h1, h2⟩ := keys r List.mem_cons_self
    exact (State.sameCell_performAs s h .vector 0 b (s.paOfCell r.1) r.2 _ (by rw [State.cell_paOfCell s h1]; exact h2)).trans
      (ih _ fun q hq => keys q (List.mem_cons_of_mem _ hq))

/-- Buffered stores that perform. -/
theorem performed_releaseBuf (s : State) (h : Nat) (st : Strip) : Performed (· = h) s (s.releaseBuf h st)
    ∧ (s.releaseBuf h st).cores = s.cores ∧ ∀ k, st.Spares k → s.SameCell (s.releaseBuf h st) k := by
  obtain ⟨p1, c1⟩ := performed_putRuns h false (runsOf (s.classOf st false)) s
  obtain ⟨p2, c2⟩ := performed_putRuns h true (runsOf (s.classOf st true)) _
  obtain ⟨m, hm⟩ := Part.markPoisons_frame (st.bufBad ++ (st.bits.filter fun e => s.poisonAt e.1).map fun e => (e.1, ())) 0
    ((runsOf (s.classOf st true)).foldl (State.putRun h true) ((runsOf (s.classOf st false)).foldl (State.putRun h false) s)).part
  simp only [Nat.zero_add] at hm
  rw [State.releaseBuf_eq]
  refine ⟨(p1.trans p2).trans (performed_modPart _ _ ⟨_, m, _, _, hm⟩ _), c2.trans c1, fun k hk => ?_⟩
  have last := State.sameCell_of_part (s := (runsOf (s.classOf st true)).foldl (State.putRun h true)
      ((runsOf (s.classOf st false)).foldl (State.putRun h false) s))
    (t := ((runsOf (s.classOf st true)).foldl (State.putRun h true) ((runsOf (s.classOf st false)).foldl (State.putRun h false) s)).modPart
      fun p => (st.bufBad ++ (st.bits.filter fun e => s.poisonAt e.1).map fun e => (e.1, ())).foldl (fun q e => q.markPoison e.1) p)
    (by rw [State.modPart, hm]) (by rw [State.modPart, hm]) (by rw [State.modPart, hm]) k
  exact ((sameCell_putRuns h false s s hk).trans (sameCell_putRuns h true _ s hk)).trans last

/-- A strip without buffered stores releases nothing. -/
theorem State.releaseBuf_drained (s : State) (h : Nat) (st : Strip) : s.releaseBuf h st.drained = s := rfl

/-! ### A strip that changes -/

/-- From s to t only the open strip of hart h changes, whose buffered stores may have performed. -/
structure Strips (h : Nat) (s t : State) : Prop where
  part : ∃ m p tr n, t.part = { s.part with mem := m, poison := p, trans := tr, nextTid := n }
  hart : ∃ o m k p, t.hartAt h = { s.hartAt h with ctx := (s.hartAt h).ctx.withStrip o, monHit := m, kmcheck := k, mcPend := p }
  others : ∀ j, j ≠ h → ∃ m, t.hartAt j = { s.hartAt j with monHit := m }
  kept : s.part.hostLost = false → (t.hartAt h).kmcheck = (s.hartAt h).kmcheck ∧ (t.hartAt h).mcPend = (s.hartAt h).mcPend
  cores : t.cores = s.cores
  towers : t.towers = s.towers
  agenda : t.agenda = s.agenda
  rr : t.rr = s.rr
  cur : t.cur = s.cur
  tick : t.tick = s.tick
  cell : ∀ k, (∀ st, (s.hartAt h).ctx.strip = some st → st.Spares k) → s.SameCell t k
  buf : ∀ q, (t.hartAt h).ctx.strip = some q → ∃ st, (s.hartAt h).ctx.strip = some st ∧ (q.buf = st.buf ∨ q.buf = [])

namespace Strips
variable {h : Nat} {s t u : State}

theorem refl (h : Nat) (s : State) : Strips h s s where
  part := ⟨_, _, _, _, rfl⟩
  hart := ⟨_, _, _, _, rfl⟩
  others _ _ := ⟨_, rfl⟩
  kept _ := ⟨rfl, rfl⟩
  cores := rfl
  towers := rfl
  agenda := rfl
  rr := rfl
  cur := rfl
  tick := rfl
  cell _ _ := ⟨rfl, rfl⟩
  buf q hq := ⟨q, hq, .inl rfl⟩

theorem spares (h1 : Strips h s t) {k : Nat} (hk : ∀ st, (s.hartAt h).ctx.strip = some st → st.Spares k) :
    ∀ st, (t.hartAt h).ctx.strip = some st → st.Spares k := fun q hq => by
  obtain ⟨st, hst, e | e⟩ := h1.buf q hq
  · have := hk st hst
    rwa [Strip.Spares, ← e] at this
  · rw [Strip.Spares, e]
    exact ⟨rfl, nofun⟩

theorem trans (h1 : Strips h s t) (h2 : Strips h t u) : Strips h s u where
  part := by
    obtain ⟨_, _, _, _, e1⟩ := h1.part
    obtain ⟨_, _, _, _, e2⟩ := h2.part
    exact ⟨_, _, _, _, by rw [e2, e1]⟩
  hart := by
    obtain ⟨_, _, _, _, e1⟩ := h1.hart
    obtain ⟨_, _, _, _, e2⟩ := h2.hart
    exact ⟨_, _, _, _, by rw [e2, e1]; rfl⟩
  others j hj := by
    obtain ⟨_, e1⟩ := h1.others j hj
    obtain ⟨_, e2⟩ := h2.others j hj
    exact ⟨_, by rw [e2, e1]⟩
  kept hl := by
    obtain ⟨_, _, _, _, e⟩ := h1.part
    obtain ⟨a1, b1⟩ := h1.kept hl
    obtain ⟨a2, b2⟩ := h2.kept (by rw [e]; exact hl)
    exact ⟨a2.trans a1, b2.trans b1⟩
  cores := h2.cores.trans h1.cores
  towers := h2.towers.trans h1.towers
  agenda := h2.agenda.trans h1.agenda
  rr := h2.rr.trans h1.rr
  cur := h2.cur.trans h1.cur
  tick := h2.tick.trans h1.tick
  cell k hk := (h1.cell k hk).trans (h2.cell k (h1.spares hk))
  buf q hq := by
    obtain ⟨st, hst, e⟩ := h2.buf q hq
    obtain ⟨st', hst', e'⟩ := h1.buf st hst
    exact ⟨st', hst', e.elim (fun e => e'.imp (e.trans ·) (e.trans ·)) .inr⟩

theorem coreAt (h1 : Strips h s t) (c : Nat) : t.coreAt c = s.coreAt c := by rw [State.coreAt, h1.cores]; rfl

end Strips

/-- Stores that perform, of the strip that is open. -/
theorem strips_releaseBuf {s : State} {h : Nat} {st : Strip} (hst : (s.hartAt h).ctx.strip = some st) :
    Strips h s (s.releaseBuf h st) := by
  obtain ⟨hp, hc, hk⟩ := performed_releaseBuf s h st
  obtain ⟨m, k, p, e⟩ := hp.harts h
  refine ⟨hp.part, ⟨_, m, k, p, e.trans rfl⟩, fun j hj => ?_, fun hl => hp.kept h (.inl hl), hc, hp.towers, hp.agenda, hp.rr, hp.cur,
    hp.tick, fun k hs => hk k (hs st hst), fun q hq => ⟨q, by rwa [e] at hq, .inl rfl⟩⟩
  obtain ⟨m, k, p, e⟩ := hp.harts j
  obtain ⟨h1, h2⟩ := hp.kept j (.inr hj)
  rw [e] at h1 h2
  obtain rfl : k = (s.hartAt j).kmcheck := h1
  obtain rfl : p = (s.hartAt j).mcPend := h2
  exact ⟨m, e⟩

/-- A strip whose notes change, with the stores that it buffers as they are, or gone. -/
theorem strips_modStrip (s : State) (h : Nat) (f : Strip → Strip) (hf : ∀ st, (f st).buf = st.buf ∨ (f st).buf = []) :
    Strips h s (s.modStrip h f) := by
  have hh : (s.modStrip h f).hartAt h = { s.hartAt h with ctx := (s.hartAt h).ctx.withStrip ((s.hartAt h).ctx.strip.map f) } :=
    State.hartAt_modHart_self ..
  refine { Strips.refl h s with
    hart := ⟨_, _, _, _, hh⟩
    others := fun j hj => ⟨_, State.hartAt_modHart_ne _ _ hj⟩
    kept := fun _ => by rw [hh]; exact ⟨rfl, rfl⟩
    cell := fun k _ => State.sameCell_of_part rfl rfl rfl k
    buf := fun q hq => ?_ }
  rw [hh] at hq
  obtain ⟨st, hst, rfl⟩ := Option.map_eq_some_iff.mp hq
  exact ⟨st, hst, hf st⟩

/-- A strip that seals (R81). -/
theorem strips_seal (s : State) (h : Nat) : Strips h s (s.seal h) := by
  unfold State.seal
  split
  · exact .refl h s
  · next st hst =>
    split
    · exact .refl h s
    · exact (strips_releaseBuf hst).trans (strips_modStrip _ h _ fun _ => .inr rfl)

/-- Once it has sealed, an open strip is sealed. -/
theorem State.seal_sealed {s : State} {h : Nat} {st : Strip} (hst : ((s.seal h).hartAt h).ctx.strip = some st) :
    st.isSealed = true := by
  unfold State.seal at hst
  split at hst
  · next hn =>
    rw [hn] at hst
    cases hst
  · next q hq =>
    split at hst
    · next hs =>
      rw [hq] at hst
      exact Option.some.inj hst ▸ hs
    · rw [State.modStrip, State.modCtx, State.hartAt_modHart_self] at hst
      obtain ⟨r, -, rfl⟩ := Option.map_eq_some_iff.mp hst
      rfl

/-- What the words of a strip read and write is noted in it. -/
theorem strips_touch (s : State) (h : Nat) (t : Touch) : Strips h s (s.touch h t) := by
  obtain ⟨s1, hs1⟩ : ∃ s1, s1 = s.modStrip h fun st => { st with cnt := { st.cnt with skipped := st.cnt.skipped + t.skip } } := ⟨_, rfl⟩
  have h1 : Strips h s s1 := hs1 ▸ strips_modStrip s h _ fun _ => .inl rfl
  have readV : ∀ (l : List Nat) (st : Strip), (l.foldl Strip.readV st).buf = st.buf := fun l => by
    induction l with
    | nil => exact fun _ => rfl
    | cons n l ih =>
      intro st
      rw [List.foldl_cons, ih, Strip.readV]
      split <;> rfl
  have readM : ∀ (l : List Nat) (st : Strip), (l.foldl Strip.readM st).buf = st.buf := fun l => by
    induction l with
    | nil => exact fun _ => rfl
    | cons n l ih =>
      intro st
      rw [List.foldl_cons, ih, Strip.readM]
      split <;> rfl
  have buf : ∀ st : Strip, ((st.afterReads t).afterWrites t).buf = st.buf := fun st => (readM _ _).trans (readV _ _)
  rw [State.touch, ← hs1]
  split
  · exact h1
  · next st hst =>
    split
    · exact h1
    · have h2 : Strips h s1 (s1.modStrip h fun _ => (st.afterReads t).afterWrites t) := by
        have e : (s1.modStrip h fun _ => (st.afterReads t).afterWrites t)
            = s1.modStrip h fun q => { (st.afterReads t).afterWrites t with buf := q.buf } := by
          rw [State.modStrip, State.modStrip, State.modCtx, State.modCtx, State.modHart, State.modHart, hst]
          simp only [Option.map_some]
          rw [← buf st]
        rw [e]
        exact strips_modStrip s1 h _ fun _ => .inl rfl
      dsimp only
      split
      · exact (h1.trans h2).trans (strips_seal _ h)
      · exact h1.trans h2

end Sys2Proof.Machine

/-! PROOFS. How a word of a block ends: the next word, a vector fault, and what a word may change (R60, R199, R211, R301). -/

namespace Sys2Proof.Machine

/-! ### The next word (R301) -/

/-- The context with its word passed. -/
def VCtx.passed (c : VCtx) : VCtx :=
  let c1 := { c with waiting := none, step := 0, vsup := false, answered := false, acqM := none }
  match c.blk with
  | none => c1
  | some b =>
    let (lc, loops, pc) := loopStep b.pc c.lc c.loops
    { c1 with blk := some { b with pc := pc }, lc := lc, loops := loops }

/-- The context with its word counted by ICNT. -/
def VCtx.counted (c : VCtx) : VCtx := { c with icnt := (c.icnt + 1) % 8 }

theorem State.passWord_eq (s : State) (h : Nat) : s.passWord h = s.modCtx h VCtx.passed := rfl

theorem State.countIssue_eq (s : State) (h : Nat) : s.countIssue h = s.modCtx h VCtx.counted := rfl

/-- A word that passes changes what places it, and nothing else. -/
theorem VCtx.passed_eq (c : VCtx) : ∃ b lc l, c.passed = { c with
    blk := b, lc := lc, loops := l, waiting := none, step := 0, vsup := false, answered := false, acqM := none } := by
  unfold VCtx.passed
  split
  · exact ⟨_, _, _, rfl⟩
  · exact ⟨_, _, _, rfl⟩

/-- Where a word leads rests on its place and the loops alone. -/
theorem VCtx.passed_congr {c d : VCtx} (hb : c.blk = d.blk) (hlc : c.lc = d.lc) (hl : c.loops = d.loops) :
    c.passed.blk = d.passed.blk ∧ c.passed.lc = d.passed.lc ∧ c.passed.loops = d.passed.loops := by
  cases hd : d.blk with
  | none => simp only [VCtx.passed, hb, hd, hlc, hl, and_self]
  | some b => simp only [VCtx.passed, hb, hd, hlc, hl, and_self]

theorem State.modCtx_hartAt_self (s : State) (h : Nat) (f : VCtx → VCtx) :
    (s.modCtx h f).hartAt h = (s.hartAt h).withCtx (f (s.hartAt h).ctx) := State.hartAt_modHart_self ..

theorem State.modCtx_hartAt_ne (s : State) {h j : Nat} (f : VCtx → VCtx) (hj : j ≠ h) : (s.modCtx h f).hartAt j = s.hartAt j :=
  State.hartAt_modHart_ne _ _ hj

/-- A hart is as it was under a change of its context that changes nothing. -/
theorem State.modCtx_hartAt (s : State) (h j : Nat) (f : VCtx → VCtx) :
    (s.modCtx h f).hartAt j = if j = h then (s.hartAt h).withCtx (f (s.hartAt h).ctx) else s.hartAt j := by
  split
  · next e => rw [e, State.modCtx_hartAt_self]
  · next e => exact s.modCtx_hartAt_ne f e

/-- The state after a vector word that has completed. -/
def State.ended (s : State) (h : Nat) : State := (s.countIssue h).passWord h

theorem endV_ok (s t : State) : endV s (.ok t) = .next (t.ended t.cur) := rfl

theorem State.ended_hartAt_self (t : State) (h : Nat) : (t.ended h).hartAt h = (t.hartAt h).withCtx (t.hartAt h).ctx.counted.passed := by
  rw [State.ended, State.passWord_eq, State.countIssue_eq, State.modCtx_hartAt_self, State.modCtx_hartAt_self]
  rfl

end Sys2Proof.Machine

namespace Sys2Proof.Claims
open Sys2Proof.Machine

theorem passed_ctx (s : State) : (passed s).ctx = s.ctx.passed := by
  show ((s.modCtx s.cur VCtx.passed).hartAt s.cur).ctx = _
  rw [State.modCtx_hartAt_self]
  rfl

/-- A context that has passed from the place where it was stands at the next word. -/
theorem nextWord_of {s t : State} {c : VCtx} (hb : t.ctx.blk = c.passed.blk) (hlc : t.ctx.lc = c.passed.lc)
    (hl : t.ctx.loops = c.passed.loops) (h1 : t.ctx.waiting = none ∧ t.ctx.step = 0 ∧ t.ctx.vsup = false ∧ t.ctx.answered = false)
    (cb : c.blk = s.ctx.blk) (clc : c.lc = s.ctx.lc) (cl : c.loops = s.ctx.loops) : NextWord s t := by
  obtain ⟨e1, e2, e3⟩ := VCtx.passed_congr cb clc cl
  exact ⟨by rw [passed_ctx, hb, e1], by rw [passed_ctx, hlc, e2], by rw [passed_ctx, hl, e3], h1⟩

theorem nextWord_of_passed {s t : State} {c : VCtx} (e : t.ctx = c.passed) (cb : c.blk = s.ctx.blk) (clc : c.lc = s.ctx.lc)
    (cl : c.loops = s.ctx.loops) : NextWord s t := by
  obtain ⟨_, _, _, ep⟩ := c.passed_eq
  exact nextWord_of (by rw [e]) (by rw [e]) (by rw [e]) (by rw [e, ep]; exact ⟨rfl, rfl, rfl, rfl⟩) cb clc cl

/-! ### What a word changes -/

theorem unbuffered_spares {s : State} {k : Nat} (h : Unbuffered s k) : ∀ st, (s.hartAt s.cur).ctx.strip = some st → st.Spares k := h

/-- A word changes of memory only what its strip releases. -/
theorem vecFrame_of_strips {s t : State} (h : Strips s.cur s t) : VecFrame s t := by
  obtain ⟨o, m, k, p, e⟩ := h.hart
  have e' : t.hart = _ := (congrArg t.hartAt h.cur).trans e
  refine ⟨fun k hk => ?_, fun j hj => ?_, by rw [e']; rfl, fun hl => ?_, h.agenda, h.rr, h.cur, h.tick⟩
  · obtain ⟨h1, h2⟩ := h.cell k (unbuffered_spares hk)
    exact ⟨h1, fun c => by simp only [State.scalarByte, State.junction, h.coreAt, h2]⟩
  · obtain ⟨m, e⟩ := h.others j hj
    rw [e]
  · rw [show t.hart = t.hartAt s.cur from congrArg t.hartAt h.cur]
    exact h.kept hl

theorem VecFrame.modCtx {s t : State} (h : VecFrame s t) (f : VCtx → VCtx) : VecFrame s (t.modCtx s.cur f) := by
  obtain ⟨h1, h2, h3, h4, h5, h6, h7, h8⟩ := h
  have e : (t.modCtx s.cur f).hart = t.hart.withCtx (f t.hart.ctx) := by
    rw [State.hart, show (t.modCtx s.cur f).cur = s.cur from h7, State.modCtx_hartAt_self, State.hart, h7]
  refine ⟨h1, fun j hj => ?_, ?_, fun hl => ?_, h5, h6, h7, h8⟩
  · rw [State.modCtx_hartAt_ne _ _ hj]
    exact h2 j hj
  · rw [e]
    exact h3
  · rw [e]
    exact h4 hl

theorem VecFrame.modCore {s t : State} (h : VecFrame s t) (c : Nat) {f : Core → Core} (hf : ∀ k, (f k).junction = k.junction) :
    VecFrame s (t.modCore c f) := by
  obtain ⟨h1, h2, h3, h4, h5, h6, h7, h8⟩ := h
  have hj : ∀ k, (t.modCore c f).junction k = t.junction k := fun k => by
    rw [State.junction, State.coreAt_modCore]
    split
    · exact hf _
    · rfl
  refine ⟨fun k hk => ⟨(h1 k hk).1, fun d => ?_⟩, h2, h3, h4, h5, h6, h7, h8⟩
  rw [State.scalarByte, hj]
  exact (h1 k hk).2 d

theorem VecFrame.ended {s t : State} (h : VecFrame s t) : VecFrame s (t.ended s.cur) := (h.modCtx _).modCtx _

/-! ### A word that faults (R60, R199, R290) -/

theorem fld_ofNat (n lo len : Nat) (h : lo + len ≤ 64) : fld (BitVec.ofNat 64 n) lo len = n / 2 ^ lo % 2 ^ len := by
  apply Nat.eq_of_testBit_eq
  intro i
  rw [testBit_fld, Nat.testBit_mod_two_pow, Nat.testBit_div_two_pow, tst, BitVec.getLsbD_ofNat]
  by_cases hi : i < len
  · simp [hi, show lo + i < 64 by omega, Nat.add_comm]
  · simp [hi]

theorem wordOffset_lt (a p : Word) : wordOffset a p < 2 ^ 24 := by
  unfold wordOffset
  dsimp only
  split
  · omega
  · omega

/-- The command of the block that is running. -/
def cmdOf (c : VCtx) : Command := (c.blk.map fun b => b.cmd).getD default

/-- What kvfault says of a fault at the word of a context. -/
def wordFaultRecord (c : VCtx) (sub : Nat) : Word :=
  BitVec.ofNat 64 ((cmdOf c).pos.toNat * 2 ^ 32 + wordOffset (cmdOf c).addr ((c.blk.map fun b => b.pc).getD 0) * 256 + sub)

theorem fld_record {p o sub : Nat} (hp : p < 2 ^ 32) (ho : o < 2 ^ 24) (hs : sub < 256) :
    fld (BitVec.ofNat 64 (p * 2 ^ 32 + o * 256 + sub)) 0 8 = sub ∧ fld (BitVec.ofNat 64 (p * 2 ^ 32 + o * 256 + sub)) 32 32 = p := by
  rw [fld_ofNat _ 0 8 (by decide), fld_ofNat _ 32 32 (by decide)]
  constructor <;> omega

theorem fld_wordFaultRecord (c : VCtx) {sub : Nat} (hs : sub < 256) : fld (wordFaultRecord c sub) 0 8 = sub
    ∧ fld (wordFaultRecord c sub) 32 32 = ((c.blk.map fun (b : Block) => b.cmd.pos).getD 0).toNat := by
  have hw := wordOffset_lt (cmdOf c).addr ((c.blk.map fun b => b.pc).getD 0)
  have hlt := (cmdOf c).pos.isLt
  have hpos : (c.blk.map fun (b : Block) => b.cmd.pos).getD 0 = (cmdOf c).pos := by
    unfold cmdOf
    cases c.blk <;> rfl
  rw [wordFaultRecord, hpos]
  exact fld_record hlt hw hs

/-- A hart whose block has stopped with a vector fault, of which kvfault says n. -/
def faultedHart (v : Hart) (n tval : Word) (r : Map (BitVec 8 × BitVec 16)) : Hart :=
  { v with ctx := { v.ctx with stopped := true, waiting := none, answered := false }
           kvfault := n, kvrst := r, vfTval := tval, vfPend := true }

theorem vfault_hartAt (s : State) (h sub : Nat) (tval : Word) (b : Bool) :
    ∃ n r, (s.vfault h sub tval b).hartAt h = faultedHart (s.hartAt h) n tval r ∧ n = wordFaultRecord (s.hartAt h).ctx sub :=
  ⟨_, (List.range 16).map fun i => (i, s.restartEntry h b (s.clusterSet h).length i), State.hartAt_modHart_self .., rfl⟩

/-- What a hart that has met a fault at its word keeps. -/
theorem faultedHart_fields (v : Hart) (n tval : Word) (r : Map (BitVec 8 × BitVec 16)) {u : Hart}
    (hu : u = (faultedHart v n tval r).withCtx (faultedHart v n tval r).ctx.faulted) :
    u.ctx.stopped = true ∧ u.vfPend = true ∧ u.vfTval = tval ∧ u.kvfault = n
      ∧ { u with ctx := v.ctx, kvfault := v.kvfault, kvrst := v.kvrst, vfTval := v.vfTval, vfPend := v.vfPend } = v
      ∧ { u.ctx with stopped := v.ctx.stopped, waiting := v.ctx.waiting, vsup := v.ctx.vsup, answered := v.ctx.answered
                     issued := v.ctx.issued, recent := v.ctx.recent, acqM := v.ctx.acqM } = v.ctx := by
  subst hu
  exact ⟨rfl, rfl, rfl, rfl, rfl, rfl⟩

theorem endV_fault (s : State) (sub : Nat) (tval : Word) : endV s (.error (.fault sub tval)) =
    .next ((s.vfault s.cur sub tval s.ctx.gathers).modCtx s.cur VCtx.faulted) := rfl

/-- A word that faults with nothing performed. -/
theorem faultsWord_stop (s : State) {sub : Nat} (tval : Word) (hs : sub < 256) :
    FaultsWord s sub tval (endV s (.error (.fault sub tval))) := by
  obtain ⟨u, hu⟩ : ∃ u, u = s.vfault s.cur sub tval s.ctx.gathers := ⟨_, rfl⟩
  obtain ⟨n, r, hv, hn⟩ := vfault_hartAt s s.cur sub tval s.ctx.gathers
  have hcur : u.cur = s.cur := hu ▸ rfl
  have hh : (u.modCtx s.cur VCtx.faulted).hart = (faultedHart s.hart n tval r).withCtx (faultedHart s.hart n tval r).ctx.faulted := by
    rw [State.hart, show (u.modCtx s.cur VCtx.faulted).cur = s.cur from hcur, State.modCtx_hartAt_self, hu, hv]
    rfl
  obtain ⟨hsub, hpos⟩ := fld_wordFaultRecord s.ctx hs
  obtain ⟨h1, h2, h3, h4, h5, h6⟩ := faultedHart_fields s.hart n tval r hh
  rw [endV_fault, ← hu]
  refine ⟨_, rfl, ⟨?_, fun j hj => ?_⟩, h1, h2, h3, ?_, ?_, h5, h6⟩
  · rw [hu]
    exact (sameRest_modHart s s.cur _).trans (sameRest_modHart _ s.cur _)
  · rw [State.modCtx_hartAt_ne _ _ hj, hu]
    exact State.hartAt_modHart_ne _ _ hj
  · rw [h4, hn]
    exact hsub
  · rw [h4, hn]
    exact hpos

end Sys2Proof.Claims

/-! PROOFS. Pennants (R220-R222, Table 11-5): what they say, where they go, and how a strip closes. -/

namespace Sys2Proof.Machine

/-! ### The words of a pennant -/

/-- Word i of bytes that spell words. -/
theorem wordBytes_flatMap (ws : List Word) {i : Nat} (h : i < ws.length) :
    (((ws.flatMap fun w => bytesOf w 8).drop (8 * i)).take 8) = bytesOf ws[i] 8 := by
  induction ws generalizing i with
  | nil => cases h
  | cons w ws ih =>
    have hl : (bytesOf w 8).length = 8 := by simp [bytesOf]
    cases i with
    | zero => rw [List.flatMap_cons, Nat.mul_zero, List.drop_zero, List.take_append_of_le_length (by omega), List.take_of_length_le (by omega)]; rfl
    | succ i =>
      rw [List.flatMap_cons, show 8 * (i + 1) = (bytesOf w 8).length + 8 * i by omega, List.drop_length_add_append, ih (Nat.lt_of_succ_lt_succ h)]
      rfl

theorem word_flatMap (ws : List Word) {i : Nat} (h : i < ws.length) :
    (ofBytes 64 (((ws.flatMap fun w => bytesOf w 8).drop (8 * i)).take 8) : Word) = ws[i] := by
  rw [wordBytes_flatMap ws h, ofBytes_bytesOf_64]

theorem length_flatMap_bytesOf (ws : List Word) : (ws.flatMap fun w => bytesOf w 8).length = 8 * ws.length := by
  induction ws with
  | nil => rfl
  | cons w ws ih => rw [List.flatMap_cons, List.length_append, ih]; simp [bytesOf]; omega

/-! ### The first word -/

/-- The first word of a pennant: hart, clusters, flags, queue position. -/
def pennantHead (h n f p : Nat) : Word := BitVec.ofNat 64 (h + 0x10000 * n + 0x1000000 * f + 2 ^ 32 * p)

theorem pennantHead_fields {h n f p : Nat} (hh : h < 2 ^ 16) (hn : n < 256) (hf : f < 256) (hp : p < 2 ^ 32) :
    fld (pennantHead h n f p) 0 16 = h ∧ fld (pennantHead h n f p) 16 8 = n ∧ fld (pennantHead h n f p) 32 32 = p
      ∧ ∀ k, k < 8 → tst (pennantHead h n f p) (24 + k) = f.testBit k := by
  refine ⟨?_, ?_, ?_, fun k hk => ?_⟩
  · rw [pennantHead, Claims.fld_ofNat _ 0 16 (by decide)]
    omega
  · rw [pennantHead, Claims.fld_ofNat _ 16 8 (by decide)]
    omega
  · rw [pennantHead, Claims.fld_ofNat _ 32 32 (by decide)]
    omega
  · have e : (h + 0x10000 * n + 0x1000000 * f + 2 ^ 32 * p) / 2 ^ 24 = f + 2 ^ 8 * p := by omega
    rw [pennantHead, tst, BitVec.getLsbD_ofNat, decide_eq_true (by omega), Bool.true_and, Nat.add_comm 24 k, ← Nat.testBit_div_two_pow, e,
      Nat.add_comm, Nat.testBit_two_pow_mul_add _ hf, if_pos hk]

/-- The flags of a pennant, bit by bit. -/
theorem testBit_pennantFlags (st : Strip) (g : Grant) (cut killed : Bool) :
    let f := pennantFlags st g cut killed false
    f < 256 ∧ f.testBit 0 = st.isSealed ∧ f.testBit 1 = st.cnt.rewound ∧ f.testBit 2 = tst g.vtype 14 ∧ f.testBit 3 = cut
      ∧ f.testBit 4 = killed ∧ f.testBit 5 = g.trim ∧ f.testBit 6 = false ∧ f.testBit 7 = false := by
  have key : ∀ a b c d e t : Bool,
      let f := natOf a + 2 * natOf b + 4 * natOf c + 8 * natOf d + 16 * natOf e + 32 * natOf t + 64 * natOf false
      f < 256 ∧ f.testBit 0 = a ∧ f.testBit 1 = b ∧ f.testBit 2 = c ∧ f.testBit 3 = d ∧ f.testBit 4 = e ∧ f.testBit 5 = t
        ∧ f.testBit 6 = false ∧ f.testBit 7 = false := by decide
  exact key ..

/-! ### kpenc (R221) -/

/-- PROD of kpenc takes a count. -/
theorem putFld_prod (k : Word) (n : Nat) :
    putFld k 0 24 n = (k &&& 0xFFFFFFFFFF000000) ||| BitVec.ofNat 64 (n % 2 ^ 24) := by
  rw [putFld, show ~~~(BitVec.ofNat 64 (2 ^ 24 - 1) <<< 0) = (0xFFFFFFFFFF000000 : Word) by decide]
  simp only [BitVec.shiftLeft_zero]

/-- DROP of kpenc counts one more, up to 127. -/
theorem bumpDrop_eq (k : Word) :
    bumpDrop k = (k &&& 0x80FFFFFFFFFFFFFF) ||| BitVec.ofNat 64 (min 127 (fld k 56 7 + 1) * 2 ^ 56) := by
  have shift : ∀ n : Nat, BitVec.ofNat 64 n <<< 56 = BitVec.ofNat 64 (n * 2 ^ 56) := fun n => by
    apply BitVec.eq_of_toNat_eq
    rw [BitVec.toNat_shiftLeft, BitVec.toNat_ofNat, BitVec.toNat_ofNat, Nat.shiftLeft_eq, Nat.mod_mul_mod]
  rw [bumpDrop, putFld, show ~~~(BitVec.ofNat 64 (2 ^ 7 - 1) <<< 56) = (0x80FFFFFFFFFFFFFF : Word) by decide,
    Nat.mod_eq_of_lt (show min 127 (fld k 56 7 + 1) < 2 ^ 7 by omega), shift]

end Sys2Proof.Machine

namespace Sys2Proof.Claims
open Sys2Proof.Machine

/-- What the bytes of a pennant say. -/
theorem isPennant_pennantBytes (s : State) (st : Strip) (cut killed : Bool) (hh : s.cur < 2 ^ 16)
    (hn : (s.clusterSet s.cur).length < 256) : IsPennant s st cut killed (s.pennantBytes s.cur st cut killed false) := by
  obtain ⟨hf, f0, f1, f2, f3, f4, f5, f6, f7⟩ := testBit_pennantFlags st s.ctx.grant cut killed
  obtain ⟨w0, w1, w2, w3, w4, w5, w6, w7, hb, e0, e1, e2, e3, e5, e6, e7⟩ : ∃ w0 w1 w2 w3 w4 w5 w6 w7 : Word,
      s.pennantBytes s.cur st cut killed false = [w0, w1, w2, w3, w4, w5, w6, w7].flatMap (fun w => bytesOf w 8)
      ∧ w0 = pennantHead s.cur (s.clusterSet s.cur).length (pennantFlags st s.ctx.grant cut killed false) (cmdOf s.ctx).pos.toNat
      ∧ w1 = (cmdOf s.ctx).addr ∧ w2 = BitVec.ofNat 64 (st.cnt.woff.toNat + 2 ^ 32 * s.ctx.grant.g.toNat)
      ∧ w3 = (s.coreAt (coreOf s.cur)).hcycle - st.cnt.start
      ∧ w5 = BitVec.ofNat 64 (sat32 st.cnt.tcycles + 2 ^ 32 * sat32 st.cnt.terms) ∧ w6 = BitVec.ofNat 64 st.cnt.idle
      ∧ w7 = BitVec.ofNat 64 (sat32 st.cnt.records + 2 ^ 32 * sat32 st.cnt.skipped) :=
    ⟨_, _, _, _, _, _, _, _, rfl, rfl, rfl, rfl, rfl, rfl, rfl, rfl⟩
  have word : ∀ i, (h : i < 8) → (ofBytes 64 (((s.pennantBytes s.cur st cut killed false).drop (8 * i)).take 8) : Word) =
      [w0, w1, w2, w3, w4, w5, w6, w7][i] := fun i h => by rw [hb]; exact word_flatMap _ h
  obtain ⟨p0, p1, p2, p3⟩ := pennantHead_fields hh hn hf (cmdOf s.ctx).pos.isLt
  rw [← e0] at p0 p1 p2 p3
  have two : ∀ a b : Nat, a < 2 ^ 32 → b < 2 ^ 32 →
      fld (BitVec.ofNat 64 (a + 2 ^ 32 * b)) 0 32 = a ∧ fld (BitVec.ofNat 64 (a + 2 ^ 32 * b)) 32 32 = b := fun a b ha hb => by
    rw [fld_ofNat _ 0 32 (by decide), fld_ofNat _ 32 32 (by decide)]
    constructor <;> omega
  have sat : ∀ n, sat32 n < 2 ^ 32 := fun n => by unfold sat32; omega
  obtain ⟨a2, b2⟩ := two _ _ st.cnt.woff.isLt s.ctx.grant.g.isLt
  obtain ⟨a5, b5⟩ := two _ _ (sat st.cnt.tcycles) (sat st.cnt.terms)
  obtain ⟨a7, b7⟩ := two _ _ (sat st.cnt.records) (sat st.cnt.skipped)
  rw [← e2] at a2 b2
  rw [← e5] at a5 b5
  rw [← e7] at a7 b7
  have flag : ∀ k, (hk : k < 8) → ∀ (b : Bool), (pennantFlags st s.ctx.grant cut killed false).testBit k = b →
      (tst w0 (24 + k) = true ↔ b = true) := fun k hk b hb => by rw [p3 k hk, hb]
  unfold IsPennant
  simp only [word 0 (by decide), word 1 (by decide), word 2 (by decide), word 3 (by decide), word 5 (by decide), word 6 (by decide),
    word 7 (by decide)]
  refine ⟨by rw [hb, length_flatMap_bytesOf]; rfl, p0, p1, flag 0 (by decide) _ f0, flag 1 (by decide) _ f1, flag 2 (by decide) _ f2,
    flag 3 (by decide) _ f3, flag 4 (by decide) _ f4, flag 5 (by decide) _ f5, ?_, ?_, fun b hblk => ?_, a2, b2, e3, a5, b5, e6, a7, b7⟩
  · exact (flag 6 (by decide) _ f6).trans (by decide)
  · exact (flag 7 (by decide) _ f7).trans (by decide)
  · have hc : cmdOf s.ctx = b.cmd := by rw [cmdOf, hblk]; rfl
    rw [hc] at p2 e1
    exact ⟨p2, e1⟩

/-! ### Where a pennant goes -/

end Sys2Proof.Claims

namespace Sys2Proof.Machine

/-- A hart with kpenc as given. -/
def Hart.withKpenc (v : Hart) (k : Word) : Hart := { v with kpenc := k }

/-- The address of the next pennant of a hart. -/
def Hart.pennantAt (v : Hart) : Nat := ringSlot (fld v.kpen 12 44 * 0x1000) (fld v.kpen 0 6) 64 (fld v.kpenc 0 24)

/-- The ring of pennants of hart v has room, and lies in memory. -/
def State.pennantRoom (s : State) (v : Hart) : Bool :=
  decide ((fld v.kpenc 0 24 + 2 ^ 24 - fld v.kpenc 24 24) % 2 ^ 24 < 2 ^ (fld v.kpen 0 6 - 6)) && (s.paKind v.pennantAt).isMem

theorem State.pennant_off {s : State} {h : Nat} (st : Strip) (cut killed discarded : Bool) (he : tst (s.hartAt h).kpenc 63 = false) :
    s.pennant h st cut killed discarded = s := if_pos (by rw [he]; rfl)

theorem State.pennant_room {s : State} {h : Nat} (st : Strip) (cut killed discarded : Bool) (he : tst (s.hartAt h).kpenc 63 = true)
    (hr : s.pennantRoom (s.hartAt h) = true) : s.pennant h st cut killed discarded =
      (s.perform h (s.hartAt h).pennantAt (s.pennantBytes h st cut killed discarded) fun _ => true).modHart h
        fun x => x.withKpenc (putFld x.kpenc 0 24 (fld (s.hartAt h).kpenc 0 24 + 1)) :=
  (if_neg (by rw [he]; exact Bool.false_ne_true)).trans (if_pos hr)

theorem State.pennant_full {s : State} {h : Nat} (st : Strip) (cut killed discarded : Bool) (he : tst (s.hartAt h).kpenc 63 = true)
    (hr : s.pennantRoom (s.hartAt h) = false) : s.pennant h st cut killed discarded = s.modHart h fun x => x.withKpenc (bumpDrop x.kpenc) :=
  (if_neg (by rw [he]; exact Bool.false_ne_true)).trans (if_neg fun h => Bool.false_ne_true (hr.symm.trans h))

/-- What a pennant leaves as it is: it performs, and kpenc counts it. -/
theorem State.pennant_frame (s : State) (h : Nat) (st : Strip) (cut killed discarded : Bool) :
    ∃ u, Performed (· = h) s u ∧ u.cores = s.cores ∧ (s.pennant h st cut killed discarded = u
      ∨ ∃ f : Hart → Word, s.pennant h st cut killed discarded = u.modHart h fun x => x.withKpenc (f x)) := by
  cases he : tst (s.hartAt h).kpenc 63 with
  | false => exact ⟨s, .refl _ s, rfl, .inl (State.pennant_off st cut killed discarded he)⟩
  | true =>
    cases hr : s.pennantRoom (s.hartAt h) with
    | false => exact ⟨s, .refl _ s, rfl, .inr ⟨_, State.pennant_full st cut killed discarded he hr⟩⟩
    | true => exact ⟨_, performed_performAs .., (State.performAs_frame ..).1, .inr ⟨_, State.pennant_room st cut killed discarded he hr⟩⟩

/-- From s to t the strip of hart h has closed: only its context's strip, kpenc and what stores that perform change. -/
structure Closes (h : Nat) (s t : State) : Prop where
  cur : t.cur = s.cur
  cores : t.cores = s.cores
  hart : ∃ m k p q, t.hartAt h =
    { (s.hartAt h).withKpenc q with ctx := (s.hartAt h).ctx.withStrip none, monHit := m, kmcheck := k, mcPend := p }
  kept : s.part.hostLost = false → (t.hartAt h).kmcheck = (s.hartAt h).kmcheck ∧ (t.hartAt h).mcPend = (s.hartAt h).mcPend

theorem State.closeStrip_none {s : State} {h : Nat} (killed discarded : Bool) (hn : (s.hartAt h).ctx.strip = none) :
    s.closeStrip h killed discarded = s := by
  unfold State.closeStrip
  rw [hn]

theorem State.closeStrip_some {s : State} {h : Nat} {st : Strip} (killed discarded : Bool) (hs : (s.hartAt h).ctx.strip = some st) :
    s.closeStrip h killed discarded =
      ((s.releaseBuf h st).pennant h st false killed discarded).modCtx h fun c => c.withStrip none := by
  unfold State.closeStrip
  rw [hs]
  rfl

theorem closes_closeStrip (s : State) (h : Nat) (killed discarded : Bool) : Closes h s (s.closeStrip h killed discarded) := by
  cases hs : (s.hartAt h).ctx.strip with
  | none =>
    rw [State.closeStrip_none killed discarded hs]
    have e : s.hartAt h = { (s.hartAt h).withKpenc (s.hartAt h).kpenc with
      ctx := (s.hartAt h).ctx.withStrip none, monHit := (s.hartAt h).monHit, kmcheck := (s.hartAt h).kmcheck
      mcPend := (s.hartAt h).mcPend } := by
      rw [← hs]
      rfl
    exact ⟨rfl, rfl, ⟨_, _, _, _, e⟩, fun _ => ⟨rfl, rfl⟩⟩
  | some st =>
    obtain ⟨p1, c1, -⟩ := performed_releaseBuf s h st
    obtain ⟨u, p2, c2, hu⟩ := State.pennant_frame (s.releaseBuf h st) h st false killed discarded
    have hp := p1.trans p2
    have hc : u.cores = s.cores := c2.trans c1
    obtain ⟨m, k, p, e⟩ := hp.harts h
    have kept := fun hl => hp.kept h (.inl hl)
    rw [State.closeStrip_some killed discarded hs]
    rcases hu with hu | ⟨f, hu⟩
    · rw [hu]
      refine ⟨hp.cur, hc, ⟨m, k, p, (s.hartAt h).kpenc, ?_⟩, fun hl => ?_⟩
      · rw [State.modCtx_hartAt_self, e]
        rfl
      · rw [State.modCtx_hartAt_self]
        exact kept hl
    · rw [hu]
      refine ⟨hp.cur, hc, ⟨m, k, p, f (u.hartAt h), ?_⟩, fun hl => ?_⟩
      · rw [State.modCtx_hartAt_self, State.hartAt_modHart_self]
        generalize f (u.hartAt h) = q
        rw [e]
        rfl
      · rw [State.modCtx_hartAt_self, State.hartAt_modHart_self]
        exact kept hl

end Sys2Proof.Machine

namespace Sys2Proof.Claims
open Sys2Proof.Machine

/-- A pennant that its strip gives off: it performs, is counted as dropped, or nothing happens. -/
theorem closesPennant_pennant (s : State) (st : Strip) (killed : Bool) :
    ClosesPennant s (s.pennant s.cur st false killed false) st false killed := by
  refine ⟨fun h => ?_, fun h hr hm hc hn => ?_, fun h hr => ?_⟩
  · rw [State.pennant_off st false killed false h]
    exact ⟨rfl, .refl s⟩
  · have hp := performed_performAs s s.cur .scalar 0 (s.inStorage s.hart.pennantAt) s.hart.pennantAt
      (s.pennantBytes s.cur st false killed false) fun _ => true
    obtain ⟨m, k, p, e⟩ := hp.harts s.cur
    have hroom : s.pennantRoom s.hart = true := by
      rw [State.pennantRoom, decide_eq_true hr, Bool.true_and]
      exact hm
    obtain ⟨u, hu⟩ : ∃ u, u = s.perform s.cur s.hart.pennantAt (s.pennantBytes s.cur st false killed false) fun _ => true := ⟨_, rfl⟩
    rw [State.pennant_room st false killed false h hroom, show s.hartAt s.cur = s.hart from rfl, ← hu]
    have e : u.hartAt s.cur = { s.hart with monHit := m, kmcheck := k, mcPend := p } := hu ▸ e
    refine ⟨?_, _, isPennant_pennantBytes s st false killed hc hn, performs_of_part (t := u) rfl (hu ▸ performs_perform ..)⟩
    rw [State.hart, show (u.modHart _ _).cur = s.cur from hu ▸ hp.cur, State.hartAt_modHart_self, e, ← putFld_prod]
    rfl
  · have hroom : s.pennantRoom s.hart = false := by
      rw [State.pennantRoom, Bool.and_eq_false_iff, decide_eq_false_iff_not]
      exact hr
    rw [State.pennant_full st false killed false h hroom]
    refine ⟨?_, sameMemory_of_eq rfl rfl⟩
    rw [State.hart, show (s.modHart _ _).cur = s.cur from rfl, State.hartAt_modHart_self, ← bumpDrop_eq]
    rfl

/-- What a pennant does rests on the state that gives it off, on kpenc after it, and on memory. -/
theorem ClosesPennant.after {s u t : State} {st : Strip} {cut killed : Bool} (h : ClosesPennant s u st cut killed)
    (hk : t.hart.kpenc = u.hart.kpenc) (hp : t.part = u.part) (hm : SameMemory u t) : ClosesPennant s t st cut killed := by
  obtain ⟨h1, h2, h3⟩ := h
  refine ⟨fun he => ?_, fun he hr hi hc hn => ?_, fun he hr => ?_⟩
  · obtain ⟨a, b⟩ := h1 he
    exact ⟨hk.trans a, b.trans hm⟩
  · obtain ⟨a, bs, b, c⟩ := h2 he hr hi hc hn
    exact ⟨hk.trans a, bs, b, performs_of_part hp c⟩
  · obtain ⟨a, b⟩ := h3 he hr
    exact ⟨hk.trans a, b.trans hm⟩

/-- A strip that closes gives off its pennant once its stores have performed (R83, R220). -/
theorem closesPennant_closeStrip {s : State} {st : Strip} (killed : Bool) (hs : s.ctx.strip = some st) :
    ClosesPennant (s.releaseBuf s.cur st) (s.closeStrip s.cur killed false) st false killed := by
  obtain ⟨p1, -, -⟩ := performed_releaseBuf s s.cur st
  have h := closesPennant_pennant (s.releaseBuf s.cur st) st killed
  rw [p1.cur] at h
  rw [State.closeStrip_some killed false hs]
  obtain ⟨u, hu⟩ : ∃ u, u = (s.releaseBuf s.cur st).pennant s.cur st false killed false := ⟨_, rfl⟩
  rw [← hu] at h ⊢
  have hcur : u.cur = s.cur := by
    obtain ⟨w, p2, -, e | ⟨f, e⟩⟩ := State.pennant_frame (s.releaseBuf s.cur st) s.cur st false killed false
    · rw [hu, e, p2.cur, p1.cur]
    · rw [hu, e]
      exact p2.cur.trans p1.cur
  refine h.after ?_ rfl (sameMemory_of_eq rfl rfl)
  rw [State.hart, show (u.modCtx _ _).cur = s.cur from hcur, State.modCtx_hartAt_self, State.hart, hcur]
  rfl

end Sys2Proof.Claims

/-! PROOFS. vsetl: its grant, its cluster step where nothing moves, and the strip that it opens (R31, R66, R68-R70, R80, R393). -/

namespace Sys2Proof.Machine

/-! ### The grant (R69) -/

theorem blockRound_eq (blk g : Nat) : blockRound blk g = if blk ≠ 0 ∧ 8 * 2 ^ blk ≤ g then g - g % (8 * 2 ^ blk) else g := by
  unfold blockRound
  by_cases h0 : blk = 0
  · simp [h0]
  · by_cases h1 : 8 * 2 ^ blk ≤ g
    · rw [if_neg h0, if_pos h1, if_pos ⟨h0, h1⟩]
      have := Nat.div_add_mod' g (8 * 2 ^ blk)
      omega
    · rw [if_neg h0, if_neg h1, if_neg fun h => h1 h.2]

/-- Rounding down to whole blocks gives no more. -/
theorem blockRound_le (blk g : Nat) : blockRound blk g ≤ g := by
  rw [blockRound_eq]
  split
  · exact Nat.sub_le ..
  · exact le_refl g

/-- What the clusters, rows, depth cap and tag hold, as the grant counts it. -/
theorem grantG_eq (vt : BitVec 16) (request n most : Nat) {d : Nat} (hd : d ≤ 96)
    (hc : sliceWidth (vt.setWidth 6) = none → most = 2 ^ fld vt 6 2 * (8 * n) * d)
    (hs : ∀ k, sliceWidth (vt.setWidth 6) = some k → most = 2 ^ fld vt 6 2 * (8 * n) * min d (96 / k) * 32) :
    grantG vt request d n = blockRound (fld vt 8 4) (min request most) := by
  unfold grantG slotsOf perPosition isSliced
  cases h : sliceWidth (vt.setWidth 6) with
  | none =>
    rw [hc h]
    simp only [h, Option.isSome_none, Bool.false_eq_true, if_false, Nat.mul_one, Nat.min_eq_left hd, Nat.mul_assoc]
  | some k =>
    rw [hs k h]
    simp only [h, Option.isSome_some, if_true, Nat.mul_assoc]

theorem grantG_lt (vt : BitVec 16) (request : Nat) {d n : Nat} (hd : d ≤ 96) (hn : n ≤ 31) : grantG vt request d n < 2 ^ 32 := by
  have hrows : 2 ^ fld vt 6 2 ≤ 8 := by
    have : fld vt 6 2 < 4 := fld_lt vt 6 2
    calc 2 ^ fld vt 6 2 ≤ 2 ^ 3 := Nat.pow_le_pow_right (by decide) (by omega)
      _ = 8 := rfl
  have hper : perPosition (vt.setWidth 6) ≤ 32 := by
    unfold perPosition
    split <;> decide
  have h1 : 2 ^ fld vt 6 2 * 8 * n * min d (slotsOf (vt.setWidth 6)) * perPosition (vt.setWidth 6) ≤ 8 * 8 * 31 * 96 * 32 :=
    Nat.mul_le_mul (Nat.mul_le_mul (Nat.mul_le_mul (Nat.mul_le_mul hrows (le_refl 8)) hn) ((Nat.min_le_left ..).trans hd)) hper
  exact lt_of_le_of_lt ((blockRound_le ..).trans ((Nat.min_le_right ..).trans h1)) (by decide)

/-- A request of 0 is granted 0. -/
theorem grantG_zero (vt : BitVec 16) (d n : Nat) : grantG vt 0 d n = 0 := by
  rw [grantG, Nat.zero_min]
  exact Nat.le_zero.mp (blockRound_le _ 0)

theorem VCtx.capFrom_le (x : VCtx) (cap : Option BReg) : x.capFrom cap ≤ 96 := by
  unfold VCtx.capFrom
  split
  · exact le_refl _
  · dsimp only
    split <;> omega

theorem State.length_held_le (s : State) (c t : Nat) : (s.held c t).length ≤ 16 := by
  have h := List.length_filter_le (fun k => Map.find (s.coreAt c).clusters k == some t) (List.range 16)
  rwa [List.length_range] at h

/-! ### The cluster step where nothing moves (R31) -/

/-- From s to t clusters have settled, and hart h keeps its context but for what a change of its set takes. -/
structure Grants (h : Nat) (s t : State) : Prop where
  part : t.part = s.part
  cur : t.cur = s.cur
  hart : t.hartAt h = s.hartAt h ∨ t.hartAt h = (s.hartAt h).setChanged
  mem : Claims.SameMemory s t

theorem Grants.refl (h : Nat) (s : State) : Grants h s s := ⟨rfl, rfl, .inl rfl, .refl s⟩

theorem Settles.grants {c : Nat} {g : List Stalled} {s t : State} (h : Settles c g s t) (j : Nat) : Grants j s t :=
  ⟨h.part, h.cur, h.harts j, h.sameMemory⟩

theorem Alike.grants {s t : State} (h : Alike s t) (hc : t.cur = s.cur) (j : Nat) : Grants j s t :=
  ⟨h.part, hc, .inl (by rw [State.hartAt, h.harts]; rfl),
    Claims.sameMemory_of_mem (by rw [h.part]) (by rw [h.part]) (by rw [h.part]) fun c => by rw [h.core]⟩

theorem Alike.held {s t : State} (h : Alike s t) (c x : Nat) : t.held c x = s.held c x := by rw [State.held, h.core]; rfl

/-- A state whose clusters change no owner is as it was. -/
theorem alike_assign_nil (s : State) (c : Nat) (o : Option Nat) : Alike s (s.assign c [] o) :=
  ⟨rfl, rfl, fun k => by
    rw [State.assign, State.coreAt_modCore]
    split <;> rfl⟩

theorem alike_releaseHighest_zero (s : State) (c t : Nat) : Alike s (s.releaseHighest c t 0) ∧ (s.releaseHighest c t 0).cur = s.cur := by
  have hl : s.highest c t 0 = [] := by simp [State.highest]
  rw [State.releaseHighest, hl]
  exact ⟨alike_assign_nil s c none, rfl⟩

theorem alike_takeLowestFree_zero (s : State) (c t : Nat) : Alike s (s.takeLowestFree c t 0) ∧ (s.takeLowestFree c t 0).cur = s.cur :=
  ⟨alike_assign_nil s c (some t), rfl⟩

theorem alike_settle {s : State} {c : Nat} (h : (s.coreAt c).stalled = []) : Alike s (s.settle c) ∧ (s.settle c).cur = s.cur := by
  obtain ⟨h1, h2, h3⟩ := settle_unstalled h
  exact ⟨⟨h1, h2, h3⟩, (settles_settle s).cur⟩

/-- With its clusters at MAX and nobody stalled, a vsetl moves no cluster. -/
theorem alike_clusterStep {s : State} {c t : Nat} (hs : (s.coreAt c).stalled = []) (hm : (s.held c t).length = s.maxOf c t) :
    Alike s (s.clusterStep c t) ∧ (s.clusterStep c t).cur = s.cur := by
  obtain ⟨a0, k0⟩ := alike_releaseHighest_zero s c t
  obtain ⟨a1, k1⟩ := alike_settle (s := s.releaseHighest c t 0) (c := c) (by rw [a0.core]; exact hs)
  obtain ⟨u, hu⟩ : ∃ u, u = (s.releaseHighest c t 0).settle c := ⟨_, rfl⟩
  rw [← hu] at a1 k1
  have au : Alike s u := a0.trans a1
  have hg : u.giveStalled c t = u := by rw [State.giveStalled, au.core, hs]; rfl
  obtain ⟨a2, k2⟩ := alike_settle (s := u) (c := c) (by rw [au.core]; exact hs)
  obtain ⟨w, hw⟩ : ∃ w, w = u.settle c := ⟨_, rfl⟩
  rw [← hw] at a2 k2
  have aw : Alike s w := au.trans a2
  have kw : w.cur = s.cur := k2.trans (k1.trans k0)
  have hz : w.maxOf c t - (w.held c t).length = 0 := by
    have : w.maxOf c t = s.maxOf c t := by rw [State.maxOf, aw.core]; rfl
    rw [aw.held, hm, this, Nat.sub_self]
  obtain ⟨a3, k3⟩ := alike_takeLowestFree_zero w c t
  have e : s.clusterStep c t = if !w.anyStalled c && !w.stranded c t then w.takeLowestFree c t 0 else w := by
    unfold State.clusterStep
    rw [hm, Nat.sub_self, ← hu]
    simp only [hg, ← hw, hz]
  rw [e]
  split
  · exact ⟨aw.trans a3, k3.trans kw⟩
  · exact ⟨aw, kw⟩

theorem State.isStalled_nil {s : State} {c : Nat} (h : (s.coreAt c).stalled = []) (t : Nat) : s.isStalled c t = false := by
  rw [State.isStalled, h]
  rfl

section Clusters
variable {s : State} {h request : Nat} (hw : (s.hartAt h).ctx.waiting ≠ some .clusters)
  (hstr : s.stranded (coreOf h) (ctxOf h) = false) (hs : (s.coreAt (coreOf h)).stalled = [])
include hs

/-- The set of the owner of the matrix array stands (R105). -/
theorem vsetlClusters_owner (ho : s.ownsArray h = true) (hr : request = 0 → Config.ownerReleases = false) :
    s.vsetlClusters h request = .ok s := by
  have hc : (s.ownsArray h && !(request == 0 && Config.ownerReleases)) = true := by
    rw [ho, Bool.true_and, Bool.not_eq_true', Bool.and_eq_false_iff]
    by_cases e : request = 0
    · exact .inr (hr e)
    · exact .inl (beq_false_of_ne e)
  unfold State.vsetlClusters
  simp only [hc, if_true, State.isStalled_nil hs, Bool.false_eq_true, if_false]

include hw hstr

/-- A request of 0 releases every cluster (R31, R394). -/
theorem vsetlClusters_zero (ho : s.ownsArray h = true → Config.ownerReleases = true) :
    ∃ t, s.vsetlClusters h 0 = .ok t ∧ Grants h s t ∧ t.clusterSet h = [] := by
  have hc : (s.ownsArray h && !((0 : Nat) == 0 && Config.ownerReleases)) = false := by
    cases hb : s.ownsArray h with
    | false => rfl
    | true => rw [ho hb]; rfl
  have hset := settles_releaseAll (c := coreOf h) s (ctxOf h)
  have hst : ((s.releaseAll (coreOf h) (ctxOf h)).coreAt (coreOf h)).stalled = [] :=
    List.eq_nil_iff_forall_not_mem.mpr fun r hr => by simpa [hs] using hset.stalled r hr
  refine ⟨s.releaseAll (coreOf h) (ctxOf h), ?_, hset.grants h, State.held_releaseAll (by rw [hs]; nofun)⟩
  unfold State.vsetlClusters
  simp only [hc, Bool.false_eq_true, if_false, hw, hstr, if_true, State.isStalled_nil hst]

/-- A request, with the clusters at MAX, moves none. -/
theorem vsetlClusters_max (hr : request ≠ 0) (hm : (s.clusterSet h).length = s.maxOf (coreOf h) (ctxOf h))
    (hle : s.minOf (coreOf h) (ctxOf h) ≤ s.maxOf (coreOf h) (ctxOf h)) :
    ∃ t, s.vsetlClusters h request = .ok t ∧ Grants h s t ∧ t.clusterSet h = s.clusterSet h := by
  obtain ⟨ha, hk⟩ := alike_clusterStep hs hm
  have hb : ¬ ((s.clusterStep (coreOf h) (ctxOf h)).held (coreOf h) (ctxOf h)).length
      < (s.clusterStep (coreOf h) (ctxOf h)).minOf (coreOf h) (ctxOf h) := by
    have e : (s.clusterStep (coreOf h) (ctxOf h)).minOf (coreOf h) (ctxOf h) = s.minOf (coreOf h) (ctxOf h) := by
      rw [State.minOf, ha.core]
      rfl
    rw [ha.held, e, show (s.held (coreOf h) (ctxOf h)).length = _ from hm]
    exact Nat.not_lt.mpr hle
  have hst : ((s.clusterStep (coreOf h) (ctxOf h)).coreAt (coreOf h)).stalled = [] := by rw [ha.core, hs]
  by_cases ho : s.ownsArray h = true
  · exact ⟨s, vsetlClusters_owner hs ho fun e => absurd e hr, .refl h s, rfl⟩
  · refine ⟨s.clusterStep (coreOf h) (ctxOf h), ?_, ha.grants hk h, ha.held ..⟩
    unfold State.vsetlClusters
    simp only [ho, Bool.false_and, Bool.false_eq_true, if_false, hw, hstr, hr, hb, State.isStalled_nil hst]

end Clusters

/-! ### The strip that opens (R80, R393) -/

/-- The context with its grant, which its b register takes. -/
def VCtx.granted (x : VCtx) (bd : BReg) (g : Grant) : VCtx := { x.bw bd (g.g.setWidth 64) with grant := g, icnt := (x.icnt + 1) % 8 }

/-- The checkpoint that a strip opens with. -/
def VCtx.checkpoint (c : VCtx) (marks : List TileMark) : Checkpoint :=
  { b := c.b, bad := c.bpoison, lc := c.lc, loops := c.loops, grant := c.grant, pc := (c.blk.map fun b => b.pc).getD 0
    marks := marks, rnd := c.rnd }

theorem vsetlGrant_hartAt (s : State) (h : Nat) (bd ba : BReg) (cap : Option BReg) (vt : BitVec 16) :
    let x := (s.hartAt h).ctx
    let g := grantOf vt (x.br ba).toNat (x.capFrom cap) (if tst vt 14 then (s.hartAt h).gcl else (s.clusterSet h).length)
    ∃ marks n w, (s.vsetlGrant h bd ba cap vt).hartAt h = (s.hartAt h).withCtx ((x.granted bd g).passed.withStrip
      (some { ck := (x.granted bd g).passed.checkpoint marks, cnt := { start := n, woff := w } })) := by
  intro x g
  obtain ⟨s1, hs1⟩ : ∃ s1, s1 = (s.modCtx h fun c => { c.bw bd (g.g.setWidth 64) with grant := g, icnt := (c.icnt + 1) % 8 }).passWord h :=
    ⟨_, rfl⟩
  have e1 : s1.hartAt h = (s.hartAt h).withCtx (x.granted bd g).passed := by
    rw [hs1, State.passWord_eq, State.modCtx_hartAt_self, State.modCtx_hartAt_self]
    rfl
  have e : s.vsetlGrant h bd ba cap vt = s1.openStrip h (s.stripOffset h) := by rw [hs1]; rfl
  have e2 : (s1.openStrip h (s.stripOffset h)).hartAt h = (s1.hartAt h).withCtx ((s1.hartAt h).ctx.withStrip
      (some { ck := (s1.hartAt h).ctx.checkpoint (s1.tileMarks h), cnt := { start := (s1.coreAt (coreOf h)).hcycle, woff := s.stripOffset h } })) :=
    State.modCtx_hartAt_self ..
  refine ⟨s1.tileMarks h, (s1.coreAt (coreOf h)).hcycle, s.stripOffset h, ?_⟩
  rw [e, e2, e1]
  rfl

end Sys2Proof.Machine

/-! PROOFS. vsetl as an instruction: a strip that opens after the open one has closed (R31, R66, R68-R70, R80, R83, R393). -/

namespace Sys2Proof.Claims
open Sys2Proof.Machine

/-- The strip registers with a count granted. -/
def grantOfCount (vt : BitVec 16) (d count : Nat) : Grant :=
  { vl := BitVec.ofNat 32 ((count + 2 ^ fld vt 6 2 - 1) / 2 ^ fld vt 6 2), vtype := vt, depth := d
    g := BitVec.ofNat 32 count, trim := false, f := BitVec.ofNat 32 count }

/-- A vsetl has opened a strip in u: `count` is granted, and the context holds the clusters `kept`. -/
def Opens (s : State) (bd : BReg) (vt : BitVec 16) (d : Nat) (count : Nat) (kept : List Nat) (u : State) : Prop :=
  u.ctx.br bd = BitVec.ofNat 64 count ∧ (∀ r, r ≠ bd → u.ctx.br r = s.ctx.br r) ∧ u.clusterSet s.cur = kept
    ∧ u.ctx.grant = grantOfCount vt d count
    ∧ NextWord s u ∧ { u.hart with ctx := s.hart.ctx, kpenc := s.hart.kpenc, monHit := s.hart.monHit
                                   kmcheck := s.hart.kmcheck, mcPend := s.hart.mcPend } = s.hart
    ∧ (Linked s → u.hart.kmcheck = s.hart.kmcheck ∧ u.hart.mcPend = s.hart.mcPend)
    ∧ (s.ctx.strip = none → SameMemory s u ∧ u.hart.kpenc = s.hart.kpenc)
    ∧ (∀ st, s.ctx.strip = some st → ClosesPennant (s.releaseBuf s.cur st) u st false false)
    ∧ ∃ st, u.ctx.strip = some st ∧ st.isSealed = false ∧ st.buf = [] ∧ st.rewinds = 0 ∧ st.ck.b = u.ctx.b
      ∧ st.ck.bad = u.ctx.bpoison ∧ st.ck.lc = u.ctx.lc ∧ st.ck.loops = u.ctx.loops ∧ st.ck.grant = u.ctx.grant ∧ st.ck.pc = u.bpc s.cur
      ∧ st.ck.rnd = u.ctx.rnd

/-- The context after its grant: b[bd] holds it, every other register is as before. -/
theorem VCtx.br_granted (x : VCtx) (bd : BReg) (g : Grant) (r : BReg) :
    ((x.granted bd g).passed.br r) = if r = bd then g.g.setWidth 64 else x.br r := by
  obtain ⟨_, _, _, e⟩ := (x.granted bd g).passed_eq
  rw [e]
  show Sparse.read 0 (Sparse.write 0 x.b bd.toNat _) r.toNat = _
  rw [Sparse.read_write]
  by_cases h : r = bd
  · rw [if_pos h, if_pos (congrArg _ h)]
  · rw [if_neg h, if_neg fun e => h (BitVec.eq_of_toNat_eq e)]
    rfl

section Opening
variable {s s2 : State} {bd ba : BReg} {cap : Option BReg} {vt : BitVec 16} {count : Nat} {kept : List Nat}

/-- A context after its strip has closed and its clusters have settled: nothing that a vsetl reads has changed. -/
theorem closed_hartAt (hg : Grants s.cur (s.closeStrip s.cur false false) s2) :
    ∃ y m k p q, s2.hartAt s.cur = { s.hart.withKpenc q with ctx := y, monHit := m, kmcheck := k, mcPend := p }
      ∧ y.b = s.ctx.b ∧ y.blk = s.ctx.blk ∧ y.lc = s.ctx.lc ∧ y.loops = s.ctx.loops
      ∧ (Linked s → k = s.hart.kmcheck ∧ p = s.hart.mcPend) := by
  have hc := closes_closeStrip s s.cur false false
  obtain ⟨m, k, p, q, e⟩ := hc.hart
  have hk : Linked s → k = s.hart.kmcheck ∧ p = s.hart.mcPend := fun hl => by
    have := hc.kept hl
    rwa [e] at this
  rcases hg.hart with e2 | e2
  · exact ⟨_, m, k, p, q, e2.trans e, rfl, rfl, rfl, rfl, hk⟩
  · exact ⟨(s.ctx.withStrip none).setChanged, m, k, p, q, by rw [e2, e]; rfl, rfl, rfl, rfl, rfl, hk⟩

/-- After its cluster step, a vsetl opens a strip. -/
theorem opens_vsetlGrant (hg : Grants s.cur (s.closeStrip s.cur false false) s2) (hk : s2.clusterSet s.cur = kept)
    (hcount : grantG vt (s.ctx.br ba).toNat (s.ctx.capFrom cap) (if tst vt 14 then s.hart.gcl else kept.length) = count)
    (hlt : count < 2 ^ 32) : Opens s bd vt (s.ctx.capFrom cap) count kept (s2.vsetlGrant s.cur bd ba cap vt) := by
  have hc := closes_closeStrip s s.cur false false
  obtain ⟨y, m, k, p, q, e2, yb, yblk, ylc, yloops, hkept⟩ := closed_hartAt hg
  obtain ⟨u, hu⟩ : ∃ u, u = s2.vsetlGrant s.cur bd ba cap vt := ⟨_, rfl⟩
  have hcur : u.cur = s.cur := by
    rw [hu]
    exact hg.cur.trans hc.cur
  obtain ⟨g, hgr⟩ : ∃ g, g = grantOf vt (s.ctx.br ba).toNat (s.ctx.capFrom cap) (if tst vt 14 then s.hart.gcl else kept.length) := ⟨_, rfl⟩
  have gval : g = grantOfCount vt (s.ctx.capFrom cap) count := by
    rw [hgr, ← hcount]
    rfl
  have ybr : ∀ r, y.br r = s.ctx.br r := fun r => by rw [VCtx.br, yb]; rfl
  obtain ⟨marks, n, w, eu⟩ := vsetlGrant_hartAt s2 s.cur bd ba cap vt
  have hx2 : (s2.hartAt s.cur).ctx = y := by rw [e2]
  have hcap : y.capFrom cap = s.ctx.capFrom cap := by
    cases cap with
    | none => rfl
    | some b => rw [VCtx.capFrom, VCtx.capFrom, ybr]
  have hgcl : (s2.hartAt s.cur).gcl = s.hart.gcl := by rw [e2]; rfl
  rw [hx2, ybr, hcap, hgcl, hk, ← hgr, ← hu] at eu
  have huh : u.hart = (s2.hartAt s.cur).withCtx ((y.granted bd g).passed.withStrip
      (some { ck := (y.granted bd g).passed.checkpoint marks, cnt := { start := n, woff := w } })) := by
    rw [State.hart, hcur, eu]
  have hctx : u.ctx = (y.granted bd g).passed.withStrip
      (some { ck := (y.granted bd g).passed.checkpoint marks, cnt := { start := n, woff := w } }) := by
    rw [State.ctx, huh]
    rfl
  have hbr : ∀ r, u.ctx.br r = if r = bd then g.g.setWidth 64 else s.ctx.br r := fun r => by
    rw [hctx, ← ybr]
    exact VCtx.br_granted y bd g r
  have hkp : u.hart.kpenc = (s2.hartAt s.cur).kpenc := by rw [huh]; rfl
  have hmem : SameMemory s2 u := sameMemory_of_mem (by rw [hu]; rfl) (by rw [hu]; rfl) (by rw [hu]; rfl) fun c => by rw [hu]; rfl
  rw [← hu]
  refine ⟨?_, fun r hr => by rw [hbr, if_neg hr], ?_, ?_, ?_, by rw [huh, e2]; rfl, fun hl => ?_, fun hn => ?_, fun st hst => ?_, ?_⟩
  · rw [hbr, if_pos rfl, gval]
    apply BitVec.eq_of_toNat_eq
    show (BitVec.setWidth 64 (BitVec.ofNat 32 count)).toNat = _
    rw [BitVec.toNat_setWidth, BitVec.toNat_ofNat, BitVec.toNat_ofNat]
    omega
  · rw [← hk, hu]
    rfl
  · obtain ⟨_, _, _, ep⟩ := (y.granted bd g).passed_eq
    rw [hctx, ep, ← gval]
    rfl
  · obtain ⟨_, _, _, ep⟩ := (y.granted bd g).passed_eq
    exact nextWord_of (c := y.granted bd g) (by rw [hctx]; rfl) (by rw [hctx]; rfl) (by rw [hctx]; rfl)
      (by rw [hctx, ep]; exact ⟨rfl, rfl, rfl, rfl⟩) yblk ylc yloops
  · rw [huh, e2]
    exact hkept hl
  · have hs1 : s.closeStrip s.cur false false = s := State.closeStrip_none false false hn
    rw [hs1] at hg
    refine ⟨hg.mem.trans hmem, ?_⟩
    rw [hkp]
    rcases hg.hart with e | e
    · rw [e]
      rfl
    · rw [e]
      rfl
  · refine (closesPennant_closeStrip false hst).after ?_ (by rw [hu]; exact hg.part) (hg.mem.trans hmem)
    rw [hkp, State.hart, hc.cur]
    rcases hg.hart with e | e
    · rw [e]
    · rw [e]
      rfl
  · refine ⟨_, by rw [hctx]; rfl, rfl, rfl, rfl, by rw [hctx]; rfl, by rw [hctx]; rfl, by rw [hctx]; rfl, by rw [hctx]; rfl,
      by rw [hctx]; rfl, ?_, by rw [hctx]; rfl⟩
    rw [State.bpc, eu]
    rfl

end Opening

/-! ### The faults of a vsetl (R285, R393) -/

theorem faultsWord_vsetl_bad {s : State} {bd ba : BReg} {cap : Option BReg} {vt : BitVec 16}
    (h : tst vt 15 = true ∨ 4 ≤ fld vt 8 4 ∨ (tst vt 14 = true ∧ s.hart.inGang = false)) :
    FaultsWord s 0x01 0 (exec (.vsetl bd ba cap vt) s) := by
  show FaultsWord s 0x01 0 (execVsetl bd ba cap vt s)
  have hb : (tst vt 15 || decide (4 ≤ fld vt 8 4) || (tst vt 14 && !s.hart.inGang)) = true := by
    simpa [Bool.or_assoc, or_assoc] using h
  unfold execVsetl
  rw [if_pos hb]
  exact faultsWord_stop s 0 (by decide)

section Good
variable {s : State} {bd ba : BReg} {cap : Option BReg} {vt : BitVec 16}
  (h : ¬ (tst vt 15 = true ∨ 4 ≤ fld vt 8 4 ∨ (tst vt 14 = true ∧ s.hart.inGang = false)))
include h

theorem execVsetl_good : (tst vt 15 || decide (4 ≤ fld vt 8 4) || (tst vt 14 && !s.hart.inGang)) = false := by
  cases hb : (tst vt 15 || decide (4 ≤ fld vt 8 4) || (tst vt 14 && !s.hart.inGang)) with
  | false => rfl
  | true => exact absurd (by simpa [Bool.or_assoc, or_assoc] using hb) h

theorem faultsWord_vsetl_tag (ht : (vt.setWidth 6 : Tag) = 0 ∨ tagListed (vt.setWidth 6) = false) :
    FaultsWord s 0x07 0 (exec (.vsetl bd ba cap vt) s) := by
  show FaultsWord s 0x07 0 (execVsetl bd ba cap vt s)
  have hb : ((vt.setWidth 6 : Tag) == tagNONE || !tagListed (vt.setWidth 6)) = true := by
    rcases ht with e | e
    · rw [e]
      rfl
    · rw [e, Bool.not_false, Bool.or_true]
  unfold execVsetl
  rw [execVsetl_good h, if_neg Bool.false_ne_true]
  dsimp only
  rw [if_pos hb]
  exact faultsWord_stop s 0 (by decide)

/-- A vsetl that neither faults nor stalls. -/
theorem exec_vsetl (h0 : (vt.setWidth 6 : Tag) ≠ 0) (ht : tagListed (vt.setWidth 6) = true) {s2 : State}
    (hc : (s.closeStrip s.cur false false).vsetlClusters s.cur (s.ctx.br ba).toNat = .ok s2) :
    exec (.vsetl bd ba cap vt) s = .next (s2.vsetlGrant s.cur bd ba cap vt) := by
  show execVsetl bd ba cap vt s = _
  have hb : ((vt.setWidth 6 : Tag) == tagNONE || !tagListed (vt.setWidth 6)) = false := by
    rw [ht, Bool.not_true, Bool.or_false]
    exact beq_false_of_ne h0
  unfold execVsetl
  rw [execVsetl_good h, if_neg Bool.false_ne_true]
  dsimp only
  rw [hb, if_neg Bool.false_ne_true, hc]

end Good

end Sys2Proof.Claims

/-! PROOFS. A consumed uncorrectable error: a strip that rewinds, a kill that waits for copies, and a kill (R82, R167, R208, R209). -/

namespace Sys2Proof.Machine

/-- What an address reaches rests on the part and on which harts exist. -/
theorem State.paKind_of_live {s t : State} (hp : t.part = s.part) (hl : ∀ j, (t.hartAt j).live = (s.hartAt j).live) (pa : Nat) :
    t.paKind pa = s.paKind pa := by
  have h0 : ∀ a, t.isLocal a = s.isLocal a := fun a => by
    unfold State.isLocal
    rw [hp]
  have h1 : ∀ c, t.enabled c = s.enabled c := fun c => by
    unfold State.enabled State.slot
    rw [hp]
  have h2 : t.hostUp = s.hostUp := by
    unfold State.hostUp
    rw [hp]
  have h3 : ∀ n, t.reaches n = s.reaches n := fun n => by
    have hu : t.portUp = s.portUp := funext fun a => by
      unfold State.portUp
      rw [hp]
    unfold State.reaches State.portSets
    rw [hu, hp]
  unfold State.paKind
  simp only [h0, hl, h1, h2, h3, hp]

/-! ### Rewind (R82) -/

/-- The context at the checkpoint of its strip, which has rewound once more. -/
def VCtx.rewound (c : VCtx) (st : Strip) : VCtx :=
  { c with
    b := st.ck.b, bpoison := st.ck.bad, lc := st.ck.lc, loops := st.ck.loops, grant := st.ck.grant, rnd := st.ck.rnd
    blk := c.blk.map fun b => { b with pc := st.ck.pc }
    stopped := false, waiting := none, step := 0, answered := false, issued := none, recent := [], acqM := none
    strip := some { ck := st.ck, rewinds := st.rewinds + 1, cnt := { st.cnt with rewound := true } } }

/-- A rewind brings the context back, and touches tiles of its core only under the shadow option. -/
theorem State.rewind_eq (s : State) (h : Nat) (st : Strip) : ∃ u : State, s.rewind h st = (u.modCtx h fun c => c.rewound st)
    ∧ u.part = s.part ∧ u.harts = s.harts ∧ u.cur = s.cur := by
  refine ⟨if (s.hartAt h).ctx.shadow && s.ownsArray h
    then s.modCore (coreOf h) fun k => { k with tiles := restoreTiles k.tiles st, zpoison := restoreMarks k.zpoison st } else s, rfl, ?_⟩
  split
  · exact ⟨rfl, rfl, rfl⟩
  · exact ⟨rfl, rfl, rfl⟩

theorem State.rewind_core (s : State) (h : Nat) (st : Strip) (c : Nat) :
    ∃ t z, (s.rewind h st).coreAt c = { s.coreAt c with tiles := t, zpoison := z } := by
  unfold State.rewind
  dsimp only
  split
  · rw [State.coreAt_modCtx, State.coreAt_modCore]
    split
    · exact ⟨_, _, rfl⟩
    · exact ⟨_, _, rfl⟩
  · exact ⟨_, _, rfl⟩

theorem State.rewind_cores {s : State} {h : Nat} (st : Strip) (hs : (s.hartAt h).ctx.shadow = false) :
    (s.rewind h st).cores = s.cores := by
  unfold State.rewind
  simp only [hs, Bool.false_and, Bool.false_eq_true, if_false]
  rfl

/-! ### Which of the two (Table 11-1) -/

theorem State.consume_rewind {s : State} {h : Nat} {st : Strip} (src pa : Nat) (hs : (s.hartAt h).ctx.strip = some st)
    (hr : st.isSealed = false ∧ st.rewinds < 3) : s.consume h src pa = s.rewind h st := by
  obtain ⟨h1, h2⟩ := hr
  unfold State.consume
  rw [hs]
  exact if_neg (by rw [h1, decide_eq_false (by omega)]; exact Bool.false_ne_true)

theorem State.consume_kill {s : State} {h : Nat} (src pa : Nat)
    (hr : ∀ st, (s.hartAt h).ctx.strip = some st → ¬ (st.isSealed = false ∧ st.rewinds < 3)) : s.consume h src pa = s.kill h src pa := by
  unfold State.consume
  split
  · next st hs =>
    have hn := hr st hs
    exact if_pos (by
      cases hb : st.isSealed with
      | true => rfl
      | false => exact decide_eq_true (Nat.le_of_not_lt fun h => hn ⟨hb, h⟩))
  · rfl

/-! ### The kill (R208) -/

/-- A core that keeps no tile and no counter of the array. -/
def Core.arrayCleared (k : Core) : Core := { k with tiles := [], zpoison := [], counters := [] }

/-- A hart with its machine check pending. -/
def Hart.checked (v : Hart) (rec tval : Word) : Hart := { v with kmcheck := rec, mcPend := some tval }

/-- The strip of the hart that is killed closes with its buffered stores gone, and its array is cleared. -/
def State.killClosed (s : State) (h : Nat) : State := (s.modStrip h Strip.drained).closeStrip h true false

/-- What the kill's machine check says of its strip. -/
def Hart.killRewinds (v : Hart) : Nat := (v.ctx.strip.map fun st => st.rewinds).getD 0

/-- The queue position that the kill's machine check names. -/
def Hart.killPos (v : Hart) : W32 := (v.ctx.blk.map fun b => b.cmd.pos).getD v.next

/-- The state once the strip has closed and the matrix array that the hart owns has been cleared. -/
def State.killCleared (s : State) (h : Nat) : State :=
  if (s.killClosed h).ownsArray h then (s.killClosed h).modCore (coreOf h) Core.arrayCleared else s.killClosed h

theorem State.killNow_eq (s : State) (h src pa : Nat) :
    let t := ((s.killCleared h).emptyCtx h).modHart h fun v =>
      v.checked (mcheckRecord src (s.hartAt h).killRewinds true pa) ((s.hartAt h).killPos.setWidth 64)
    s.killNow h src pa = if tst (t.coreAt (coreOf h)).kbecalm 62 then t.becalm (coreOf h) 2 else t := rfl

theorem State.killCleared_facts (s : State) (h : Nat) : (s.killCleared h).part = (s.killClosed h).part
    ∧ (s.killCleared h).harts = (s.killClosed h).harts ∧ (s.killCleared h).cur = (s.killClosed h).cur
    ∧ ∀ c, ∃ t z n, (s.killCleared h).coreAt c = { (s.killClosed h).coreAt c with tiles := t, zpoison := z, counters := n } := by
  unfold State.killCleared
  split
  · refine ⟨rfl, rfl, rfl, fun c => ?_⟩
    rw [State.coreAt_modCore]
    split
    · exact ⟨_, _, _, rfl⟩
    · exact ⟨_, _, _, rfl⟩
  · exact ⟨rfl, rfl, rfl, fun c => ⟨_, _, _, rfl⟩⟩

/-- A core that becomes becalmed. -/
def Core.becalmedBy (k : Core) (why : Nat) : Core :=
  { k with kbecalm := putBit k.kbecalm 63 true, becalmed := k.hcycle.toNat, holdWhy := why }

theorem State.becalm_eq (s : State) (c why : Nat) : s.becalm c why = s.modCore c fun k => k.becalmedBy why := rfl

end Sys2Proof.Machine

namespace Sys2Proof.Claims
open Sys2Proof.Machine

/-- A machine check that kills has emptied the vector side of the current hart (R208, R209). -/
structure Kills (s u : State) (src pa : Nat) : Prop where
  ctx : u.ctx = { nextCopy := s.ctx.nextCopy }
  hart : ∃ m q, u.hart = (({ s.hart.withKpenc q with monHit := m }).emptied).checked
    (mcheckRecord src s.hart.killRewinds true pa) (s.hart.killPos.setWidth 64)
  closed : (s.killClosed s.cur).part = u.part ∧ u.hart.kpenc = (s.killClosed s.cur).hart.kpenc ∧ SameMemory (s.killClosed s.cur) u
  held : u.clusterSet s.cur = []
  array : (u.coreAt (coreOf s.cur)).array.owner ≠ some s.cur
  stream : (u.coreAt (coreOf s.cur)).stream.owner ≠ some s.cur
  becalmed : tst (s.coreAt (coreOf s.cur)).kbecalm 62 = true → u.isBecalmed (coreOf s.cur) = true

theorem kills_killNow (s : State) (src pa : Nat) : Kills s (s.killNow s.cur src pa) src pa := by
  obtain ⟨c0, hc0⟩ : ∃ c, c = coreOf s.cur := ⟨_, rfl⟩
  obtain ⟨k, hk⟩ : ∃ k, k = s.killClosed s.cur := ⟨_, rfl⟩
  have hC : Closes s.cur (s.modStrip s.cur Strip.drained) k := hk ▸ closes_closeStrip _ s.cur true false
  obtain ⟨hp2, hh2, hcur2, hc2⟩ := s.killCleared_facts s.cur
  rw [← hk] at hp2 hh2 hcur2 hc2
  have hE := emptyCtx_empties (s.killCleared s.cur) s.cur
  obtain ⟨e, he⟩ : ∃ e, e = (s.killCleared s.cur).emptyCtx s.cur := ⟨_, rfl⟩
  rw [← he] at hE
  obtain ⟨f, hf⟩ : ∃ f : Hart → Hart, f = fun v => v.checked (mcheckRecord src s.hart.killRewinds true pa) (s.hart.killPos.setWidth 64) :=
    ⟨_, rfl⟩
  have heq : s.killNow s.cur src pa =
      if tst ((e.modHart s.cur f).coreAt c0).kbecalm 62 then (e.modHart s.cur f).becalm c0 2 else e.modHart s.cur f := by
    rw [State.killNow_eq, ← he, hf, hc0]
    rfl
  obtain ⟨u, hu⟩ : ∃ u, u = s.killNow s.cur src pa := ⟨_, rfl⟩
  rw [← hu] at heq ⊢
  have facts : u.part = k.part ∧ u.cur = s.cur ∧ u.hartAt s.cur = f (e.hartAt s.cur)
      ∧ ∀ c, ∃ b n w, u.coreAt c = { e.coreAt c with kbecalm := b, becalmed := n, holdWhy := w } := by
    have hpart : e.part = k.part := hE.part.trans hp2
    have hcur : e.cur = s.cur := hE.cur.trans (hcur2.trans hC.cur)
    have hhart : (e.modHart s.cur f).hartAt s.cur = f (e.hartAt s.cur) := State.hartAt_modHart_self ..
    rw [heq]
    split
    · refine ⟨hpart, hcur, hhart, fun c => ?_⟩
      rw [State.becalm_eq, State.coreAt_modCore]
      split
      · exact ⟨_, _, _, rfl⟩
      · exact ⟨_, _, _, rfl⟩
    · exact ⟨hpart, hcur, hhart, fun c => ⟨_, _, _, rfl⟩⟩
  obtain ⟨hpart, hcur, hhart, hcore⟩ := facts
  obtain ⟨m, km, mp, q, ek⟩ := hC.hart
  have e0 : (s.modStrip s.cur Strip.drained).hartAt s.cur = s.hart.withCtx (s.ctx.withStrip (s.ctx.strip.map Strip.drained)) :=
    State.modCtx_hartAt_self ..
  have hkill : (s.killCleared s.cur).hartAt s.cur = k.hartAt s.cur := by rw [State.hartAt, hh2]; rfl
  have hv : u.hart = f (e.hartAt s.cur) := (congrArg u.hartAt hcur).trans hhart
  have hve : e.hartAt s.cur = (k.hartAt s.cur).emptied := by rw [hE.hart, hkill]
  have hkc : k.cur = s.cur := hC.cur
  have mem : SameMemory k u := sameMemory_of_mem (by rw [hpart]) (by rw [hpart]) (by rw [hpart]) fun c => by
    obtain ⟨_, _, _, h1⟩ := hcore c
    obtain ⟨_, _, _, _, _, _, h2⟩ := hE.core c
    obtain ⟨_, _, _, h3⟩ := hc2 c
    rw [h1, h2, h3]
    rfl
  refine ⟨?_, ⟨m, q, ?_⟩, ⟨by rw [← hk, hpart], ?_, by rw [← hk]; exact mem⟩, ?_, ?_, ?_, fun hb => ?_⟩
  · rw [State.ctx, hv, hve, ek, e0, hf]
    rfl
  · rw [hv, hve, ek, e0, hf]
    rfl
  · rw [← hk, hv, hve, hf]
    show _ = (k.hartAt k.cur).kpenc
    rw [hkc]
    rfl
  · obtain ⟨_, _, _, h1⟩ := hcore (coreOf s.cur)
    rw [State.clusterSet, State.held, h1]
    exact hE.held
  · obtain ⟨_, _, _, h1⟩ := hcore (coreOf s.cur)
    rw [h1]
    exact hE.array
  · obtain ⟨_, _, _, h1⟩ := hcore (coreOf s.cur)
    rw [h1]
    exact hE.stream
  · have h62 : tst ((e.modHart s.cur f).coreAt c0).kbecalm 62 = true := by
      obtain ⟨_, _, _, _, _, _, h2⟩ := hE.core c0
      obtain ⟨_, _, _, h3⟩ := hc2 c0
      have h4 : k.coreAt c0 = s.coreAt c0 := by rw [State.coreAt, hC.cores]; rfl
      rw [State.coreAt_modHart, h2, h3, h4, hc0]
      exact hb
    rw [heq, if_pos h62, State.isBecalmed, State.becalm_eq, ← hc0, State.coreAt_modCore_self]
    exact (tst_putBit _ 63 63 true).trans (if_pos ⟨rfl, by decide⟩)

/-- What bytes do where they perform rests on the part and on which harts exist. -/
theorem performs_of_source {s r t : State} {h pa : Nat} {bs : List Byte} (hp : r.part = s.part)
    (hl : ∀ j, (r.hartAt j).live = (s.hartAt j).live) (p : Performs r t h pa bs) : Performs s t h pa bs := by
  have hkind := State.paKind_of_live hp hl
  have hcell : ∀ a, r.cell a = s.cell a := State.cell_of_node (by rw [hp])
  have hloc : ∀ a, r.isLocal a = s.isLocal a := fun a => by simp only [State.isLocal, hp]
  have hst : ∀ a, r.inStorage a = s.inStorage a := fun a => by
    unfold State.inStorage State.rangeCovers
    rw [hkind, hp]
  have haw : ∀ k n, r.awaited k n = s.awaited k n := fun k n => by simp only [State.awaited, hp, hcell]
  have hbyte : ∀ k, r.byteAt k = s.byteAt k := fun k => by simp only [State.byteAt, hp]
  unfold Performs at p ⊢
  simp only [hkind, hloc, hst, haw, hcell, hbyte, hp] at p
  exact p

/-- The pennant of the strip that is killed says what it would say with its buffered stores. -/
theorem closesPennant_killClosed {s : State} {st : Strip} (hs : s.ctx.strip = some st) :
    ClosesPennant s (s.killClosed s.cur) st false true := by
  obtain ⟨r, hr⟩ : ∃ r, r = s.modStrip s.cur Strip.drained := ⟨_, rfl⟩
  have hh : r.hartAt s.cur = s.hart.withCtx (s.ctx.withStrip (s.ctx.strip.map Strip.drained)) := hr ▸ State.modCtx_hartAt_self ..
  have hpart : r.part = s.part := hr ▸ rfl
  have hcur : r.cur = s.cur := hr ▸ rfl
  have hhart : r.hart = s.hart.withCtx (s.ctx.withStrip (s.ctx.strip.map Strip.drained)) := by rw [State.hart, hcur, hh]
  have hlive : ∀ j, (r.hartAt j).live = (s.hartAt j).live := fun j => by
    rw [hr, State.modStrip, State.modCtx_hartAt]
    split
    · next e => rw [e]; rfl
    · rfl
  have hkind : ∀ pa, r.paKind pa = s.paKind pa := State.paKind_of_live hpart hlive
  have h : ClosesPennant r (s.killClosed s.cur) st.drained false true := by
    have := closesPennant_closeStrip (s := r) (st := st.drained) true (by rw [State.ctx, hhart, hs]; rfl)
    rwa [State.releaseBuf_drained, hcur, show r.closeStrip s.cur true false = s.killClosed s.cur from hr ▸ rfl] at this
  have hm : ∀ t, SameMemory r t → SameMemory s t := fun t ht => SameMemory.trans (sameMemory_of_eq hpart (by rw [hr]; rfl)) ht
  have hset : r.clusterSet s.cur = s.clusterSet s.cur := hr ▸ rfl
  obtain ⟨h1, h2, h3⟩ := h
  rw [hhart] at h1 h2 h3
  refine ⟨fun he => ?_, fun he hroom hi hc hn => ?_, fun he hroom => ?_⟩
  · obtain ⟨a, b⟩ := h1 he
    exact ⟨a, hm _ b⟩
  · obtain ⟨a, bs, b, c⟩ := h2 he hroom (by rw [hkind]; exact hi) (by rw [hcur]; exact hc) (by rw [hcur, hset]; exact hn)
    refine ⟨a, bs, ?_, ?_⟩
    · unfold IsPennant at b ⊢
      rw [hcur, hset, State.ctx, hhart, show r.coreAt (coreOf s.cur) = s.coreAt (coreOf s.cur) from hr ▸ rfl] at b
      exact b
    · rw [hcur] at c
      exact performs_of_source hpart hlive c
  · obtain ⟨a, b⟩ := h3 he (by rw [hkind]; exact hroom)
    exact ⟨a, hm _ b⟩

end Sys2Proof.Claims

/-! PROOFS. vtag, vrseed, and the statement of strips (R31, R66, R68-R70, R80, R82, R95, R208, R209, R393). -/

namespace Sys2Proof.Machine

/-! ### Tags and lane states -/

/-- Of cells written in turn from one function of the cell, each that was written reads what it gives. -/
theorem Sparse.read_foldl_write {w : Nat} (d : BitVec w) (f : Nat → BitVec w) (l : List Nat) (m : Sparse w) (k : Nat) :
    Sparse.read d (l.foldl (fun m n => Sparse.write d m n (f n)) m) k = if k ∈ l then f k else Sparse.read d m k := by
  induction l generalizing m with
  | nil => rw [List.foldl_nil, if_neg (List.not_mem_nil)]
  | cons n l ih =>
    rw [List.foldl_cons, ih, Sparse.read_write]
    by_cases hl : k ∈ l
    · rw [if_pos hl, if_pos (List.mem_cons_of_mem _ hl)]
    · rw [if_neg hl]
      by_cases hn : k = n
      · rw [if_pos hn, if_pos (hn ▸ List.mem_cons_self), hn]
      · rw [if_neg hn, if_neg fun h => (List.mem_cons.mp h).elim hn hl]

/-- The tags of a group that takes one. -/
theorem read_setTags (m : Sparse 6) (w : Sweep) (vd : VReg) (t : Tag) (k : Nat) :
    Sparse.read 0 (setTags m w vd t) k = if vd.toNat ≤ k ∧ k < vd.toNat + w.vrows then t else Sparse.read 0 m k := by
  have hm : k ∈ w.group vd ↔ vd.toNat ≤ k ∧ k < vd.toNat + w.vrows := by
    simp only [Sweep.group, List.mem_map, List.mem_range]
    constructor
    · rintro ⟨i, hi, rfl⟩
      omega
    · rintro ⟨h1, h2⟩
      exact ⟨k - vd.toNat, by omega, by omega⟩
  rw [setTags, Sparse.read_foldl_write 0 (fun _ => t)]
  simp only [hm]

/-- The state of each lane that is seeded. -/
theorem laneRnd_seedLanes (seed : W32) (l : List Nat) {q : Nat} (hq : q < 8 * l.length) :
    laneRnd (seedLanes seed l) q = seedOf seed (8 * l.getD (q / 8) 0 + q % 8) := by
  rw [laneRnd, seedLanes, Sparse.read_foldl_write onesW fun q => seedOf seed (8 * l.getD (q / 8) 0 + q % 8),
    if_pos (List.mem_range.mpr hq)]

end Sys2Proof.Machine

namespace Sys2Proof.Claims
open Sys2Proof.Machine

/-- vtag names the tag of a group, and keeps its bits (R66). -/
theorem exec_vtag {s : State} {vd : VReg} {tag : Tag} (hr : vd.toNat + (s.sweep s.cur).vrows ≤ 32) (ht : tagListed tag = true) :
    ∃ u, exec (.vtag vd tag) s = .next u ∧ VecFrame s u ∧ NextWord s u ∧ u.ctx.v = s.ctx.v ∧ u.ctx.m = s.ctx.m ∧ u.ctx.b = s.ctx.b
      ∧ u.ctx.grant = s.ctx.grant ∧ u.ctx.vpoison = s.ctx.vpoison ∧ u.hart.kflags = s.hart.kflags
      ∧ ∀ k, u.ctx.tagAt k = if vd.toNat ≤ k ∧ k < vd.toNat + (s.sweep s.cur).vrows then tag else s.ctx.tagAt k := by
  obtain ⟨t, hteq⟩ : ∃ t, t = s.touch s.cur { wv := ((s.sweep s.cur).group vd).map fun n => (n, false) } := ⟨_, rfl⟩
  have hS : Strips s.cur s t := hteq ▸ strips_touch s s.cur _
  obtain ⟨o, m, k, p, e⟩ := hS.hart
  obtain ⟨f, hf⟩ : ∃ f : VCtx → VCtx, f = fun c => { c with vtags := setTags c.vtags (s.sweep s.cur) vd tag } := ⟨_, rfl⟩
  have hex : exec (.vtag vd tag) s = .next ((t.modCtx s.cur f).ended s.cur) := by
    show execVtag vd tag s = _
    have h1 : (s.sweep s.cur).inRange vd = true := decide_eq_true hr
    unfold execVtag Machine.need
    rw [h1, ht]
    show Host.Outcome.next ((s.retag s.cur vd tag).ended (s.retag s.cur vd tag).cur) = _
    have er : s.retag s.cur vd tag = t.modCtx s.cur f := by rw [hteq, hf]; rfl
    rw [er, show (t.modCtx s.cur f).cur = s.cur from hS.cur]
  have hu : ((t.modCtx s.cur f).ended s.cur).hart =
      (t.hartAt s.cur).withCtx (f (t.hartAt s.cur).ctx).counted.passed := by
    rw [State.hart, show ((t.modCtx s.cur f).ended s.cur).cur = s.cur from hS.cur, State.ended_hartAt_self, State.modCtx_hartAt_self]
    rfl
  have hctx : ((t.modCtx s.cur f).ended s.cur).ctx = (f (s.ctx.withStrip o)).counted.passed := by
    rw [State.ctx, hu, e]
    rfl
  obtain ⟨_, _, _, ep⟩ := (f (s.ctx.withStrip o)).counted.passed_eq
  refine ⟨_, hex, ((vecFrame_of_strips hS).modCtx f).ended, nextWord_of_passed hctx ?_ ?_ ?_, ?_, ?_, ?_, ?_, ?_, by rw [hu, e]; rfl, fun n => ?_⟩
  · rw [hf]; rfl
  · rw [hf]; rfl
  · rw [hf]; rfl
  · rw [hctx, ep, hf]; rfl
  · rw [hctx, ep, hf]; rfl
  · rw [hctx, ep, hf]; rfl
  · rw [hctx, ep, hf]; rfl
  · rw [hctx, ep, hf]; rfl
  · rw [hctx, ep, hf]
    exact read_setTags s.ctx.vtags (s.sweep s.cur) vd tag n

theorem faultsWord_vtag {s : State} {vd : VReg} {tag : Tag} (hr : 32 < vd.toNat + (s.sweep s.cur).vrows) :
    FaultsWord s 0x01 0 (exec (.vtag vd tag) s) := by
  show FaultsWord s 0x01 0 (execVtag vd tag s)
  have h1 : (s.sweep s.cur).inRange vd = false := decide_eq_false (by omega)
  unfold execVtag Machine.need
  rw [h1]
  exact faultsWord_stop s 0 (by decide)

/-- vrseed gives each lane held a state of its own (R95). -/
theorem exec_vrseed (s : State) (src : BSrc) (seed : W32) (hseed : exec (.vrseed src) s =
      endV s (.ok (s.modCtx s.cur fun c => { c with rnd := seedLanes seed (s.clusterSet s.cur) }))) :
    ∃ u, exec (.vrseed src) s = .next u ∧ OnlyHart s u ∧ NextWord s u ∧ { u.hart with ctx := s.hart.ctx } = s.hart
      ∧ (∀ q, q < 8 * (s.clusterSet s.cur).length →
          laneRnd u.ctx.rnd q = seedOf seed (8 * (s.clusterSet s.cur).getD (q / 8) 0 + q % 8))
      ∧ { atWord u.ctx s.ctx with rnd := s.ctx.rnd, icnt := s.ctx.icnt } = s.ctx := by
  obtain ⟨f, hf⟩ : ∃ f : VCtx → VCtx, f = fun c => { c with rnd := seedLanes seed (s.clusterSet s.cur) } := ⟨_, rfl⟩
  have hu : ((s.modCtx s.cur f).ended s.cur).hart = s.hart.withCtx (f s.ctx).counted.passed := by
    rw [State.hart, show ((s.modCtx s.cur f).ended s.cur).cur = s.cur from rfl, State.ended_hartAt_self, State.modCtx_hartAt_self]
    rfl
  have hctx : ((s.modCtx s.cur f).ended s.cur).ctx = (f s.ctx).counted.passed := by
    rw [State.ctx, hu]
    rfl
  obtain ⟨_, _, _, ep⟩ := (f s.ctx).counted.passed_eq
  refine ⟨(s.modCtx s.cur f).ended s.cur, by rw [hseed, ← hf]; rfl, ?_, nextWord_of_passed hctx ?_ ?_ ?_, by rw [hu]; rfl, fun q hq => ?_, ?_⟩
  · exact ((onlyHart_modCtx s f).trans (onlyHart_modCtx _ VCtx.counted)).trans (onlyHart_modCtx _ VCtx.passed)
  · rw [hf]; rfl
  · rw [hf]; rfl
  · rw [hf]; rfl
  · rw [hctx, ep, hf]
    exact laneRnd_seedLanes seed _ hq
  · rw [hctx, ep, hf]
    rfl

/-- A strip that rewinds (R82). -/
theorem rewinds_consume {s : State} (src pa : Nat) {st : Strip} (hs : s.ctx.strip = some st)
    (hr : st.isSealed = false ∧ st.rewinds < 3) :
    let u := s.consume s.cur src pa
    u.ctx = s.ctx.rewound st ∧ u.clusterSet s.cur = s.clusterSet s.cur ∧ SameMemory s u ∧ { u.hart with ctx := s.hart.ctx } = s.hart
      ∧ (∀ h, h ≠ s.cur → u.hartAt h = s.hartAt h) ∧ (s.ctx.shadow = false → u.cores = s.cores) := by
  have hc : s.consume s.cur src pa = s.rewind s.cur st := State.consume_rewind src pa hs hr
  obtain ⟨w, e, hp, hh, hk⟩ := s.rewind_eq s.cur st
  have hat : ∀ j, w.hartAt j = s.hartAt j := fun j => by rw [State.hartAt, hh]; rfl
  have hu : (w.modCtx s.cur fun c => c.rewound st).hart = s.hart.withCtx (s.ctx.rewound st) := by
    rw [State.hart, show (w.modCtx s.cur fun c => c.rewound st).cur = s.cur from hk, State.modCtx_hartAt_self, hat]
    rfl
  have core := s.rewind_core s.cur st
  intro u
  have hue : u = w.modCtx s.cur fun c => c.rewound st := hc.trans e
  have hur : u = s.rewind s.cur st := hc
  refine ⟨by rw [State.ctx, hue, hu]; rfl, ?_, ?_, by rw [hue, hu]; rfl, fun h hne => ?_, fun hsh => ?_⟩
  · obtain ⟨_, _, ec⟩ := core (coreOf s.cur)
    rw [hur, State.clusterSet, State.held, ec]
    rfl
  · refine sameMemory_of_mem (by rw [hue]; exact congrArg Part.mem hp) (by rw [hue]; exact congrArg Part.trans hp)
      (by rw [hue]; exact congrArg Part.node hp) fun c => ?_
    obtain ⟨_, _, ec⟩ := core c
    rw [hur, ec]
  · rw [hue, State.modCtx_hartAt_ne _ _ hne, hat]
  · rw [hur]
    exact State.rewind_cores st hsh

/-- Settles O41: the strip closes, the clusters settle, and vsetl opens the next; a consumed error rewinds, or kills. -/
theorem stripsOpen : Obligations.StripsOpen := by
  unfold Obligations.StripsOpen
  intro s bd ba cap vt t x c blk request n d most g0 g bad quiet owner opened
  have hd : s.ctx.capFrom cap = d := by
    cases cap with
    | none => rfl
    | some b => rfl
  have hclosed : ∀ k, (s.closeStrip s.cur false false).coreAt k = s.coreAt k := fun k => by
    rw [State.coreAt, (closes_closeStrip s s.cur false false).cores]
    rfl
  have hset : (s.closeStrip s.cur false false).clusterSet s.cur = s.clusterSet s.cur := by
    rw [State.clusterSet, State.held, hclosed]
    rfl
  have hn : n ≤ 31 := by
    show (if tst vt 14 then s.hart.gcl else (s.clusterSet s.cur).length) ≤ 31
    split
    · exact Nat.lt_succ_iff.mp (fld_lt s.hart.kgang 43 5)
    · exact (s.length_held_le _ _).trans (by decide)
  have hg : grantG vt request (s.ctx.capFrom cap) n = g := by
    rw [grantG_eq vt request n most (s.ctx.capFrom_le cap) (fun e => by simp only [most, t, e, hd]) (fun k e => by simp only [most, t, e, hd]),
      blockRound_eq]
  have hlt : g < 2 ^ 32 := hg ▸ grantG_lt vt request (s.ctx.capFrom_le cap) hn
  have waiting : quiet → ((s.closeStrip s.cur false false).hartAt s.cur).ctx.waiting ≠ some .clusters := fun ⟨hwait, _, _⟩ => by
    obtain ⟨_, _, _, _, e⟩ := (closes_closeStrip s s.cur false false).hart
    rw [e]
    exact hwait
  have stranded : quiet → (s.closeStrip s.cur false false).stranded c (ctxOf s.cur) = false := fun ⟨_, hstr, _⟩ => by
    rw [State.stranded, hclosed]
    exact hstr
  have stalled : quiet → ((s.closeStrip s.cur false false).coreAt c).stalled = [] := fun ⟨_, _, hstall⟩ => by
    rw [hclosed]
    exact hstall
  have owns : (s.closeStrip s.cur false false).ownsArray s.cur = true ↔ owner := by
    rw [State.ownsArray, hclosed, beq_iff_eq]
  have opens : ∀ count kept s2, ¬ bad → t ≠ 0 → tagListed t = true →
      (s.closeStrip s.cur false false).vsetlClusters s.cur request = .ok s2 → Grants s.cur (s.closeStrip s.cur false false) s2 →
      s2.clusterSet s.cur = kept → grantG vt request (s.ctx.capFrom cap) (if tst vt 14 then s.hart.gcl else kept.length) = count →
      count < 2 ^ 32 → opened (exec (.vsetl bd ba cap vt) s) count kept := fun count kept s2 hb h0 hl hok hgr hk hc hlt => by
    rw [exec_vsetl hb h0 hl hok]
    have := opens_vsetlGrant (bd := bd) hgr hk hc hlt
    rw [hd] at this
    exact ⟨_, rfl, this⟩
  refine ⟨faultsWord_vsetl_bad, fun hb ht => faultsWord_vsetl_tag hb ht, fun hb h0 hl hq hr hm hle => ?_,
    fun hb h0 hl hq hr ho => ?_, fun hb h0 hl hq ho hr => ?_, fun src pa => ?_, fun vd tag hr ht => exec_vtag hr ht,
    fun vd tag hr => faultsWord_vtag hr, fun src => ?_⟩
  · obtain ⟨s2, hok, hgr, hk⟩ := vsetlClusters_max (waiting hq) (stranded hq) (stalled hq) hr
      (by rw [hset, State.maxOf, hclosed]; exact hm) (by rw [State.maxOf, State.minOf, hclosed]; exact hle)
    exact opens _ _ s2 hb h0 hl hok hgr (hk.trans hset) hg hlt
  · obtain ⟨s2, hok, hgr, hk⟩ := vsetlClusters_zero (waiting hq) (stranded hq) (stalled hq) fun h => ho (owns.mp h)
    exact opens 0 [] s2 hb h0 hl (hr ▸ hok) hgr hk (by rw [hr, grantG_zero]) (by decide)
  · exact opens _ _ _ hb h0 hl (vsetlClusters_owner (stalled hq) (owns.mpr ho) hr) (.refl _ _) hset hg hlt
  · refine ⟨fun st hst hr => ?_, fun hr hcop => ?_, fun hr hcop => ?_⟩
    · obtain ⟨hctx, hset, hmem, hhart, hothers, hcores⟩ := rewinds_consume src pa hst hr
      rw [hctx]
      exact ⟨rfl, rfl, rfl, rfl, rfl, rfl, rfl, rfl, rfl, rfl, hset, ⟨_, rfl, rfl, rfl, rfl, rfl, rfl⟩, hmem, hhart, hothers, hcores⟩
    · have e : s.consume s.cur src pa = s.modCtx s.cur fun c => { c with dying := some (src, pa), waiting := none } :=
        (State.consume_kill src pa hr).trans (if_pos hcop)
      rw [e]
      refine ⟨onlyHart_modCtx s _, ?_⟩
      show ((s.modCtx s.cur _).hartAt s.cur).ctx = _
      rw [State.modCtx_hartAt_self]
      rfl
    · have e : s.consume s.cur src pa = s.killNow s.cur src pa :=
        (State.consume_kill src pa hr).trans (if_neg fun h => Bool.false_ne_true (hcop.symm.trans h))
      rw [e]
      obtain ⟨hctx, ⟨m, q, hhart⟩, ⟨hpart, hkpenc, hmem⟩, hheld, harr, hstr, hbec⟩ := kills_killNow s src pa
      obtain ⟨m1, m2, m3, m4, m5⟩ := mcheckRecord_fields src s.hart.killRewinds true pa
      refine ⟨hctx, by rw [hhart]; rfl, by rw [hhart]; rfl, by rw [hhart]; rfl, by rw [hhart]; rfl, hheld, harr, hstr, ?_, ?_,
        fun b hb => ?_, ?_, ?_, ?_, ?_, ?_, hbec, fun hn => ?_, fun st hst => ?_⟩
      · rw [State.pc, hhart]
        rfl
      · exact ⟨fun r => Hart.xr_eq_of_x (by rw [hhart]; rfl) r, by rw [hhart]; rfl⟩
      · have hpos : s.hart.killPos = b.cmd.pos := by rw [Hart.killPos, show s.hart.ctx.blk = some b from hb]; rfl
        rw [hhart, ← hpos]
        rfl
      · rw [hhart]; exact m1
      · rw [hhart]; exact m2
      · rw [hhart]; exact m4
      · rw [hhart]; exact m3
      · rw [hhart]; exact m5
      · have hn0 : ((s.modStrip s.cur Strip.drained).hartAt s.cur).ctx.strip = none := by
          rw [State.modStrip, State.modCtx_hartAt_self]
          show s.ctx.strip.map Strip.drained = none
          rw [show s.ctx.strip = none from hn]
          rfl
        have hk : s.killClosed s.cur = s.modStrip s.cur Strip.drained := State.closeStrip_none true false hn0
        rw [hk] at hmem hkpenc
        refine ⟨(sameMemory_of_eq rfl rfl).trans hmem, hkpenc.trans ?_⟩
        show ((s.modStrip s.cur Strip.drained).hartAt s.cur).kpenc = _
        rw [State.modStrip, State.modCtx_hartAt_self]
        rfl
      · exact (closesPennant_killClosed hst).after hkpenc hpart.symm hmem
  · intro seed lane
    cases src with
    | reg r => exact exec_vrseed s (.reg r) _ rfl
    | imm i => exact exec_vrseed s (.imm i) _ rfl

end Sys2Proof.Claims

/-! PROOFS. The instructions of the copy engine: cpy, cpyw, cpyq and cpyr (R37, R156, R157, R160, R162, R305). -/

namespace Sys2Proof.Machine

/-! ### Cells that many writes set, and entries that many erasures take -/

section Many
variable {α : Type}

/-- Of cells set to one value in turn, each that is among them reads it, and any other is as before. -/
theorem Sparse.read_foldl_set {w : Nat} (d v : BitVec w) (g : α → Nat) (l : List α) (m : Sparse w) (k : Nat) :
    Sparse.read d (l.foldl (fun q a => Sparse.write d q (g a) v) m) k = if k ∈ l.map g then v else Sparse.read d m k := by
  induction l generalizing m with
  | nil => rw [List.foldl_nil, List.map_nil, if_neg (List.not_mem_nil)]
  | cons a l ih =>
    rw [List.foldl_cons, ih, Sparse.read_write, List.map_cons]
    by_cases hl : k ∈ l.map g
    · rw [if_pos hl, if_pos (List.mem_cons_of_mem _ hl)]
    · rw [if_neg hl]
      by_cases hn : k = g a
      · rw [if_pos hn, if_pos (hn ▸ List.mem_cons_self)]
      · rw [if_neg hn, if_neg fun h => (List.mem_cons.mp h).elim hn hl]

/-- Entries erased in turn are gone. -/
theorem Map.find_foldl_erase {β : Type} (g : α → Nat) (l : List α) (m : Map β) {k : Nat}
    (h : k ∈ l.map g ∨ Map.find m k = none) : Map.find (l.foldl (fun q a => Map.erase q (g a)) m) k = none := by
  induction l generalizing m with
  | nil => exact h.resolve_left (List.not_mem_nil)
  | cons a l ih =>
    refine ih _ ?_
    by_cases hk : k = g a
    · exact .inr (hk ▸ Map.find_erase_self _ _)
    · rcases h with h | h
      · exact .inl ((List.mem_cons.mp h).resolve_left hk)
      · exact .inr (by rw [Map.find_erase_ne _ hk, h])

end Many

/-! ### Barriers, copies, masks -/

/-- A count added to a barrier raises one of its halves. -/
theorem read_barrierAdd (m : Sparse 64) (cb lo n i : Nat) : Sparse.read 0 (barrierAdd m cb lo n) i =
    if i = cb then putFld (Sparse.read 0 m cb) lo 32 (fld (Sparse.read 0 m cb) lo 32 + n) else Sparse.read 0 m i :=
  Sparse.read_write ..

theorem fld_barrierAdd (m : Sparse 64) (cb n : Nat) :
    fld (Sparse.read 0 (barrierAdd m cb 32 n) cb) 32 32 = (fld (Sparse.read 0 m cb) 32 32 + n) % 2 ^ 32
    ∧ fld (Sparse.read 0 (barrierAdd m cb 32 n) cb) 0 32 = fld (Sparse.read 0 m cb) 0 32
    ∧ fld (Sparse.read 0 (barrierAdd m cb 0 n) cb) 0 32 = (fld (Sparse.read 0 m cb) 0 32 + n) % 2 ^ 32
    ∧ fld (Sparse.read 0 (barrierAdd m cb 0 n) cb) 32 32 = fld (Sparse.read 0 m cb) 32 32 := by
  simp only [read_barrierAdd, if_true]
  exact ⟨fld_putFld_self _ _ _ _ (by decide), fld_putFld_ne _ _ (by decide), fld_putFld_self _ _ _ _ (by decide),
    fld_putFld_ne _ _ (by decide)⟩

/-- The context with a copy handed to the engine (R157). -/
def VCtx.issuing (x : VCtx) (cp : Copy) (mk : Option MReg) : VCtx :=
  VCtx.prune
    { x with
      barriers := barrierAdd x.barriers cp.cb 32 cp.len
      m := (maskRegs mk).foldl (fun q m => clearRow0 q m cp.count) x.m
      mpoison := (maskRegs mk).foldl (fun q m => cleanRow0 q m cp.count) x.mpoison
      binds := (maskRegs mk).foldl (fun q m => Map.put q m cp.id) x.binds
      copies := x.copies ++ [cp], nextCopy := x.nextCopy + 1 }

theorem State.issueCopy_eq (s : State) (h : Nat) (cp : Copy) (mk : Option MReg) : s.issueCopy h cp mk =
    (s.modCore (coreOf h) fun k => { k with copySeq := k.copySeq + 1 }).modCtx h fun x => x.issuing cp mk := rfl

/-- The mask bits of row 0 of a mask register that a cpy clears. -/
theorem mbit_issuing (x : VCtx) (cp : Copy) (mk : Option MReg) {n r : Nat} (p : Nat) (hn : n < 8) (hr : r < 8) :
    (x.issuing cp mk).mbit n r p =
      if mk.any (fun m => m.toNat == n) ∧ r = 0 ∧ p < cp.count then false else x.mbit n r p := by
  cases mk with
  | none => rfl
  | some m =>
    have hm : m.toNat < 8 := m.isLt
    show (Sparse.read 1 (clearRow0 x.m m.toNat cp.count) (64 * p + 8 * r + n) == 1) = _
    unfold clearRow0 putMbit
    rw [Sparse.read_foldl_set 1 (if false = true then 1 else 0) (fun i => 64 * i + 8 * 0 + m.toNat)]
    have hmem : 64 * p + 8 * r + n ∈ (List.range cp.count).map (fun i => 64 * i + 8 * 0 + m.toNat)
        ↔ m.toNat = n ∧ r = 0 ∧ p < cp.count := by
      simp only [List.mem_map, List.mem_range]
      constructor
      · rintro ⟨i, hi, e⟩
        omega
      · rintro ⟨h1, h2, h3⟩
        exact ⟨p, h3, by omega⟩
    simp only [hmem, Option.any_some, beq_iff_eq]
    split
    · rfl
    · rfl

theorem find_mpoison_issuing (x : VCtx) (cp : Copy) (m : MReg) {n : Nat} (hn : n < cp.count) :
    Map.find (x.issuing cp (some m)).mpoison (64 * n + m.toNat) = none :=
  Map.find_foldl_erase _ _ _ (.inl (List.mem_map.mpr ⟨n, List.mem_range.mpr hn, rfl⟩))

/-- A copy of some length is outstanding when it is handed over, and so is listed. -/
theorem mem_copies_issuing (x : VCtx) {cp : Copy} (mk : Option MReg) (hl : cp.len ≠ 0) (hc : cp.chunks = []) :
    cp ∈ (x.issuing cp mk).copies := by
  have hb : 0 < cp.chunkBytes := Nat.mul_pos (by decide) (Nat.two_pow_pos _)
  have hcount : 0 < cp.count := Nat.div_pos (by omega) hb
  have ho : cp.outstanding = true := by
    rw [Copy.outstanding, hc]
    exact Bool.or_eq_true_iff.mpr (.inl (decide_eq_true hcount))
  exact List.mem_filter.mpr ⟨List.mem_append_right _ (List.mem_singleton_self cp), by rw [ho]; rfl⟩

/-! ### The status of a cpyw (R162) -/

/-- Bits raised in turn. -/
theorem tst_foldl_putBit {α : Type} (p : α → Bool) (g : α → Nat) (l : List α) (v : Word) {j : Nat} (hj : j < 64) :
    tst (l.foldl (fun v e => if p e then putBit v (g e) true else v) v) j = true ↔ tst v j = true ∨ ∃ e ∈ l, p e = true ∧ g e = j := by
  induction l generalizing v with
  | nil => simp
  | cons a l ih =>
    rw [List.foldl_cons, ih, List.exists_mem_cons_iff, ← or_assoc]
    refine or_congr ?_ Iff.rfl
    by_cases hp : p a = true
    · rw [if_pos hp, tst_putBit]
      by_cases hg : j = g a
      · rw [if_pos ⟨hg, hg ▸ hj⟩]
        exact ⟨fun _ => .inr ⟨hp, hg.symm⟩, fun _ => rfl⟩
      · rw [if_neg fun h => hg h.1]
        exact ⟨.inl, fun h => h.elim id fun h => absurd h.2.symm hg⟩
    · rw [if_neg hp]
      exact ⟨.inl, fun h => h.elim id fun h => absurd h.1 hp⟩

theorem tst_copyStatus (l : List Copy) {j : Nat} (hj : j < 64) :
    tst (copyStatus l) j = true ↔ ∃ c ∈ l, c.isHeld = true ∧ ∃ e ∈ c.chunks, e.2.faulted = true ∧ e.1 % 64 = j := by
  have key : ∀ (l : List Copy) (v : Word), tst (l.foldl (fun w c =>
      c.chunks.foldl (fun v e => if e.2.faulted then putBit v (e.1 % 64) true else v) w) v) j = true ↔
      tst v j = true ∨ ∃ c ∈ l, ∃ e ∈ c.chunks, e.2.faulted = true ∧ e.1 % 64 = j := fun l => by
    induction l with
    | nil => simp
    | cons c l ih =>
      intro v
      rw [List.foldl_cons, ih, tst_foldl_putBit (fun e : Nat × Chunk => e.2.faulted) (fun e => e.1 % 64) _ _ hj, List.exists_mem_cons_iff,
        or_assoc]
  have h0 : ¬ tst (0 : Word) j = true := by simp [tst]
  rw [copyStatus, key]
  simp only [h0, Bool.false_eq_true, false_or, List.mem_filter, and_assoc]

end Sys2Proof.Machine

namespace Sys2Proof.Claims
open Sys2Proof.Machine

/-! ### Words that seal the strip (R81) -/

/-- A word of the copy engine has completed: the strip is sealed, and what a copy does not touch is as before. -/
def SealsStrip (s u : State) : Prop :=
  VecFrame s u ∧ u.hart.kflags = s.hart.kflags ∧ NextWord s u
    ∧ u.ctx.icnt = (s.ctx.icnt + 1) % 8 ∧ u.ctx.v = s.ctx.v ∧ u.ctx.vtags = s.ctx.vtags ∧ u.ctx.grant = s.ctx.grant
    ∧ ∀ st, u.ctx.strip = some st → st.isSealed = true

/-- The context y has of x all that a word of the copy engine keeps, and the strip o. -/
def Keeps (x y : VCtx) (o : Option Strip) : Prop :=
  y.blk = x.blk ∧ y.lc = x.lc ∧ y.loops = x.loops ∧ y.icnt = x.icnt ∧ y.v = x.v ∧ y.vtags = x.vtags ∧ y.grant = x.grant ∧ y.strip = o

/-- The strip of the current context once it has sealed. -/
theorem seal_hartAt (s : State) : ∃ o m k p, (s.seal s.cur).hartAt s.cur =
      { s.hart with ctx := s.ctx.withStrip o, monHit := m, kmcheck := k, mcPend := p }
    ∧ ∀ st, o = some st → st.isSealed = true := by
  obtain ⟨o, m, k, p, e⟩ := (strips_seal s s.cur).hart
  exact ⟨o, m, k, p, e, fun st hst => State.seal_sealed (s := s) (h := s.cur) (by rw [e]; exact hst)⟩

section Word
variable {s t : State} {g : VCtx → VCtx} (hV : VecFrame s t) (hh : t.hartAt s.cur = (s.seal s.cur).hartAt s.cur)
  (hg : ∀ o, Keeps s.ctx (g (s.ctx.withStrip o)) o)
include hV hh hg

/-- A word that has sealed the strip and changed its context completes. -/
theorem sealsStrip_ended : SealsStrip s ((t.modCtx s.cur g).ended s.cur)
    ∧ ∃ o, ((t.modCtx s.cur g).ended s.cur).ctx = (g (s.ctx.withStrip o)).counted.passed := by
  obtain ⟨o, m, k, p, e, ho⟩ := seal_hartAt s
  obtain ⟨-, -, -, -, -, -, hcur, -⟩ := id hV
  have hu : ((t.modCtx s.cur g).ended s.cur).hart = (t.hartAt s.cur).withCtx (g (t.hartAt s.cur).ctx).counted.passed := by
    rw [State.hart, show ((t.modCtx s.cur g).ended s.cur).cur = s.cur from hcur, State.ended_hartAt_self, State.modCtx_hartAt_self]
    rfl
  have hctx : ((t.modCtx s.cur g).ended s.cur).ctx = (g (s.ctx.withStrip o)).counted.passed := by
    rw [State.ctx, hu, hh, e]
    rfl
  obtain ⟨k1, k2, k3, k4, k5, k6, k7, k8⟩ := hg o
  obtain ⟨_, _, _, ep⟩ := (g (s.ctx.withStrip o)).counted.passed_eq
  refine ⟨⟨(hV.modCtx g).ended, by rw [hu, hh, e]; rfl, nextWord_of_passed hctx k1 k2 k3, ?_, ?_, ?_, ?_, fun st hst => ho st ?_⟩, o, hctx⟩
  · rw [hctx, ep, ← k4]
    rfl
  · rw [hctx, ep]
    exact k5
  · rw [hctx, ep]
    exact k6
  · rw [hctx, ep]
    exact k7
  · rw [hctx, ep] at hst
    exact k8.symm.trans hst

end Word

/-- A word that waits, having sealed the strip or not (R37). -/
theorem waits_stopWord {s t : State} (w : VWait) (hV : VecFrame s t)
    (hb : (t.hartAt s.cur).ctx.blk = s.ctx.blk ∧ (t.hartAt s.cur).ctx.b = s.ctx.b) :
    ∃ u, endV s (.error (.wait w t)) = .next u ∧ u.ctx.waiting = some w ∧ u.ctx.blk = s.ctx.blk ∧ u.ctx.b = s.ctx.b ∧ VecFrame s u := by
  obtain ⟨-, -, -, -, -, -, hcur, -⟩ := id hV
  have hctx : (t.modCtx s.cur fun c => { c.keepMasks with waiting := some w }).ctx = { (t.hartAt s.cur).ctx.keepMasks with waiting := some w } := by
    rw [State.ctx, State.hart, show (t.modCtx s.cur fun c => { c.keepMasks with waiting := some w }).cur = s.cur from hcur,
      State.modCtx_hartAt_self]
    rfl
  exact ⟨t.modCtx s.cur fun c => { c.keepMasks with waiting := some w }, rfl, by rw [hctx], by rw [hctx]; exact hb.1,
    by rw [hctx]; exact hb.2, hV.modCtx _⟩

theorem br_bw (x : VCtx) (bd : BReg) (v : Word) (r : BReg) : (x.bw bd v).br r = if r = bd then v else x.br r := by
  rw [VCtx.br, VCtx.bw, Sparse.read_write]
  by_cases h : r = bd
  · rw [if_pos h, if_pos (congrArg _ h)]
  · rw [if_neg h, if_neg fun e => h (BitVec.eq_of_toNat_eq e)]
    rfl

/-- A word of the copy engine that writes a b register. -/
theorem sealsStrip_bw (s : State) (bd : BReg) (v : Word) :
    ∃ u, endV s (.ok ((s.seal s.cur).bw bd v)) = .next u ∧ SealsStrip s u ∧ ∀ r, u.ctx.br r = if r = bd then v else s.ctx.br r := by
  have hcur : (s.seal s.cur).cur = s.cur := (strips_seal s s.cur).cur
  have e : (s.seal s.cur).bw bd v = (s.seal s.cur).modCtx s.cur fun c => c.bw bd v := by rw [State.bw, hcur]
  obtain ⟨hs, o, hctx⟩ := sealsStrip_ended (g := fun c => c.bw bd v) (vecFrame_of_strips (strips_seal s s.cur)) rfl
    fun o => ⟨rfl, rfl, rfl, rfl, rfl, rfl, rfl, rfl⟩
  refine ⟨_, ?_, hs, fun r => ?_⟩
  · rw [endV_ok, e, show ((s.seal s.cur).modCtx s.cur fun c => c.bw bd v).cur = s.cur from hcur]
  · obtain ⟨_, _, _, ep⟩ := ((s.ctx.withStrip o).bw bd v).counted.passed_eq
    rw [hctx, ep]
    exact br_bw (s.ctx.withStrip o) bd v r

/-! ### cpyw, cpyq, cpyr -/

section Barrier
variable (s : State) (cb : BitVec 2) (bd : BReg)

/-- cpyw returns once no copy of its barrier is outstanding (R162). -/
theorem execCpyw_idle (h : ∀ c ∈ s.ctx.onBarrier cb.toNat, c.outstanding = false) :
    ∃ u, execCpyw cb bd s = .next u ∧ SealsStrip s u ∧ (∀ r, r ≠ bd → u.ctx.br r = s.ctx.br r)
      ∧ u.ctx.br bd = copyStatus (s.ctx.onBarrier cb.toNat) := by
  have hn : (s.ctx.onBarrier cb.toNat).any Copy.outstanding = false :=
    List.any_eq_false.mpr fun c hc => by rw [h c hc]; exact Bool.false_ne_true
  obtain ⟨u, hu, hs, hbr⟩ := sealsStrip_bw s bd (copyStatus (s.ctx.onBarrier cb.toNat))
  refine ⟨u, ?_, hs, fun r hr => by rw [hbr, if_neg hr], by rw [hbr, if_pos rfl]⟩
  unfold execCpyw
  dsimp only
  rw [hn]
  exact hu

theorem execCpyw_waits (h : ¬ ∀ c ∈ s.ctx.onBarrier cb.toNat, c.outstanding = false) :
    ∃ u, execCpyw cb bd s = .next u ∧ u.ctx.waiting = some .cpyw ∧ u.ctx.blk = s.ctx.blk ∧ u.ctx.b = s.ctx.b ∧ VecFrame s u := by
  have hy : (s.ctx.onBarrier cb.toNat).any Copy.outstanding = true := by
    by_contra hn
    exact h fun c hc => by simpa using List.any_eq_false.mp (Bool.eq_false_iff.mpr hn) c hc
  obtain ⟨o, _, _, _, e, -⟩ := seal_hartAt s
  obtain ⟨u, hu, hw⟩ := waits_stopWord .cpyw (vecFrame_of_strips (strips_seal s s.cur)) (by rw [e]; exact ⟨rfl, rfl⟩)
  refine ⟨u, ?_, hw⟩
  unfold execCpyw
  dsimp only
  rw [hy]
  exact hu

/-- The context with the held copies of a barrier handed back to the engine. -/
def replaying (cb : Nat) (t : State) (x : VCtx) : VCtx :=
  { x with copies := x.copies.map fun c => if c.cb == cb && c.isHeld then c.replay t else c }

theorem devMem_of_part {s t : State} (h : t.part = s.part) : t.devMem = s.devMem := by
  have hc : ∀ a, t.cell a = s.cell a := State.cell_of_node (by rw [h])
  simp only [State.devMem, hc, h]

/-- A copy that is handed back depends on memory alone. -/
theorem replay_of_part {s t : State} (h : t.part = s.part) (c : Copy) : c.replay t = c.replay s := by
  unfold Copy.replay
  rw [devMem_of_part h, h]

theorem execCpyr_ok : ∃ u, execCpyr cb s = .next u ∧ SealsStrip s u ∧ u.ctx.b = s.ctx.b
    ∧ u.ctx.copies = s.ctx.copies.map fun c => if c.cb == cb.toNat && c.isHeld then c.replay u else c := by
  have hcur : (s.seal s.cur).cur = s.cur := (strips_seal s s.cur).cur
  obtain ⟨hs, o, hctx⟩ := sealsStrip_ended (g := replaying cb.toNat (s.seal s.cur)) (vecFrame_of_strips (strips_seal s s.cur)) rfl
    fun o => ⟨rfl, rfl, rfl, rfl, rfl, rfl, rfl, rfl⟩
  obtain ⟨_, _, _, ep⟩ := (replaying cb.toNat (s.seal s.cur) (s.ctx.withStrip o)).counted.passed_eq
  have hpart : (((s.seal s.cur).modCtx s.cur (replaying cb.toNat (s.seal s.cur))).ended s.cur).part = (s.seal s.cur).part := rfl
  refine ⟨_, ?_, hs, by rw [hctx, ep]; rfl, ?_⟩
  · show endV s (.ok ((s.seal s.cur).modCtx s.cur (replaying cb.toNat (s.seal s.cur)))) = _
    rw [endV_ok, show ((s.seal s.cur).modCtx s.cur _).cur = s.cur from hcur]
  · simp only [replay_of_part hpart]
    rw [hctx, ep]
    rfl

end Barrier

/-! ### cpy -/

section Copy
variable {s : State} {bd bs bl : BReg} {code : BitVec 3} {cb : BitVec 2} {sc : Scope} {mk : Option MReg}

theorem faultsWord_cpy_misaligned {a : Word}
    (h : ([s.ctx.br bd, s.ctx.br bs, s.ctx.br bl].find? fun a => a.toNat % 256 != 0) = some a) :
    FaultsWord s 0x06 a (execCpy bd bs bl code cb sc mk s) := by
  have e : s.cpy s.cur bd bs bl code cb sc mk = .error (.fault 0x06 a) := by
    unfold State.cpy
    dsimp only
    have h' : ([(s.hartAt s.cur).ctx.br bd, (s.hartAt s.cur).ctx.br bs, (s.hartAt s.cur).ctx.br bl].find? fun a => !aligned a 256) = some a := h
    rw [h']
  unfold execCpy
  rw [e]
  exact faultsWord_stop s a (by decide)

/-- What a cpy of valid addresses comes to. -/
theorem cpy_aligned (h : ([s.ctx.br bd, s.ctx.br bs, s.ctx.br bl].find? fun a => a.toNat % 256 != 0) = none) :
    s.cpy s.cur bd bs bl code cb sc mk = (do
      Machine.need (!(decide (2 ^ 31 < (s.ctx.br bl).toNat)
        || (mk.isSome && decide (96 * (s.sweep s.cur).lanes < chunkCount (s.ctx.br bl).toNat code.toNat)))) (.fault 0x05 (s.ctx.br bd))
      Machine.need (decide (s.ctx.slotsUsed < 16)) (.wait .copySlot s)
      .ok ((s.seal s.cur).issueCopy s.cur
        ((s.seal s.cur).newCopy s.cur (s.ctx.br bd) (s.ctx.br bs) (s.ctx.br bl).toNat code.toNat cb.toNat sc) mk)) := by
  have h' : ([(s.hartAt s.cur).ctx.br bd, (s.hartAt s.cur).ctx.br bs, (s.hartAt s.cur).ctx.br bl].find? fun a => !aligned a 256) = none := h
  unfold State.cpy
  dsimp only
  rw [h']
  rfl

/-- A length beyond 2^31, or with more chunks than the mask has positions. -/
def TooLong (s : State) (len count : Nat) (mk : Option MReg) : Prop :=
  2 ^ 31 < len ∨ (mk ≠ none ∧ 96 * (8 * (s.clusterSet s.cur).length) < count)

theorem tooLong_iff (s : State) (len count : Nat) (mk : Option MReg) :
    (decide (2 ^ 31 < len) || (mk.isSome && decide (96 * (s.sweep s.cur).lanes < count))) = true ↔ TooLong s len count mk := by
  rw [Bool.or_eq_true_iff, Bool.and_eq_true_iff, decide_eq_true_iff, decide_eq_true_iff, Option.isSome_iff_ne_none]
  rfl

variable (h : ([s.ctx.br bd, s.ctx.br bs, s.ctx.br bl].find? fun a => a.toNat % 256 != 0) = none)
include h

theorem faultsWord_cpy_long (hl : TooLong s (s.ctx.br bl).toNat (chunkCount (s.ctx.br bl).toNat code.toNat) mk) :
    FaultsWord s 0x05 (s.ctx.br bd) (execCpy bd bs bl code cb sc mk s) := by
  unfold execCpy
  rw [cpy_aligned h, (tooLong_iff ..).mpr hl]
  exact faultsWord_stop s _ (by decide)

variable (hl : ¬ TooLong s (s.ctx.br bl).toNat (chunkCount (s.ctx.br bl).toNat code.toNat) mk)
include hl

theorem execCpy_waits (hf : 16 ≤ s.ctx.slotsUsed) : ∃ u, execCpy bd bs bl code cb sc mk s = .next u
    ∧ u.ctx.waiting = some .copySlot ∧ u.ctx.blk = s.ctx.blk ∧ u.ctx.b = s.ctx.b ∧ VecFrame s u := by
  obtain ⟨u, hu, hw⟩ := waits_stopWord (s := s) (t := s) .copySlot (vecFrame_of_strips (.refl s.cur s)) ⟨rfl, rfl⟩
  refine ⟨u, ?_, hw⟩
  unfold execCpy
  rw [cpy_aligned h, Bool.eq_false_iff.mpr (mt (tooLong_iff ..).mp hl), decide_eq_false (by omega : ¬ s.ctx.slotsUsed < 16)]
  exact hu

/-- A cpy that hands its copy to the engine (R157). -/
theorem execCpy_issues (hf : s.ctx.slotsUsed < 16) : ∃ u cp o, execCpy bd bs bl code cb sc mk s = .next u ∧ SealsStrip s u
    ∧ cp = (s.seal s.cur).newCopy s.cur (s.ctx.br bd) (s.ctx.br bs) (s.ctx.br bl).toNat code.toNat cb.toNat sc
    ∧ u.ctx = ((s.ctx.withStrip o).issuing cp mk).counted.passed ∧ u.part = (s.seal s.cur).part
    ∧ (u.coreAt (coreOf s.cur)).copySeq = (s.coreAt (coreOf s.cur)).copySeq + 1 := by
  obtain ⟨cp, hcp⟩ : ∃ cp, cp = (s.seal s.cur).newCopy s.cur (s.ctx.br bd) (s.ctx.br bs) (s.ctx.br bl).toNat code.toNat cb.toNat sc :=
    ⟨_, rfl⟩
  have hS := strips_seal s s.cur
  obtain ⟨t, ht⟩ : ∃ t, t = (s.seal s.cur).modCore (coreOf s.cur) fun k => { k with copySeq := k.copySeq + 1 } := ⟨_, rfl⟩
  obtain ⟨hs, o, hctx⟩ := sealsStrip_ended (t := t) (g := fun x => x.issuing cp mk)
    (by rw [ht]; exact (vecFrame_of_strips hS).modCore _ fun _ => rfl) (by rw [ht]; rfl) fun o => ⟨rfl, rfl, rfl, rfl, rfl, rfl, rfl, rfl⟩
  refine ⟨_, cp, o, ?_, hs, hcp, hctx, by rw [ht]; rfl, ?_⟩
  · unfold execCpy
    rw [cpy_aligned h, Bool.eq_false_iff.mpr (mt (tooLong_iff ..).mp hl), decide_eq_true hf]
    show endV s (.ok ((s.seal s.cur).issueCopy s.cur _ mk)) = _
    rw [endV_ok, ← hcp, State.issueCopy_eq, ← ht]
    rw [show (t.modCtx s.cur fun x => x.issuing cp mk).cur = s.cur by rw [ht]; exact hS.cur]
  · show (t.coreAt (coreOf s.cur)).copySeq = _
    rw [ht, State.coreAt_modCore_self, hS.coreAt]

end Copy

/-- A cpy has handed its copy to the engine in u (R37, R157, R206). -/
def IssuesCopy (s : State) (bd bs bl : BReg) (code : BitVec 3) (cb : BitVec 2) (sc : Scope) (mk : Option MReg) (u : State) : Prop :=
  let x := s.ctx
  let v := s.vecView s.cur
  let len := (x.br bl).toNat
  let count := chunkCount len code.toNat
  let bar (y : VCtx) (i : Nat) : Word := Sparse.read 0 y.barriers i
  SealsStrip s u ∧ u.ctx.b = x.b
    ∧ fld (bar u.ctx cb.toNat) 32 32 = (fld (bar x cb.toNat) 32 32 + len) % 2 ^ 32
    ∧ fld (bar u.ctx cb.toNat) 0 32 = fld (bar x cb.toNat) 0 32 ∧ (∀ i, i ≠ cb.toNat → bar u.ctx i = bar x i)
    ∧ (∀ n r p, n < 8 → r < 8 → u.ctx.mbit n r p =
        if mk.any (fun m => m.toNat == n) ∧ r = 0 ∧ p < count then false else x.mbit n r p)
    ∧ (∀ m, mk = some m → Map.find u.ctx.binds m.toNat = some x.nextCopy)
    ∧ (len ≠ 0 → ∃ c ∈ u.ctx.copies, c.id = x.nextCopy ∧ c.dst = x.br bd ∧ c.src = x.br bs ∧ c.len = len
      ∧ c.code = code.toNat ∧ c.cb = cb.toNat ∧ c.scope = sc ∧ c.katp = v.katp ∧ c.mode = v.mode ∧ c.sum = v.sum
      ∧ c.window = v.kspb ∧ c.chunks = [] ∧ c.seq = (s.coreAt (coreOf s.cur)).copySeq
      ∧ (c.snap, c.snapBad) = if (x.br bd - x.br bs).toNat < len ∨ (x.br bs - x.br bd).toNat < len
          then (some u.devMem, u.part.poison) else (none, []))
    ∧ (∀ m n, mk = some m → n < count → Map.find u.ctx.mpoison (64 * n + m.toNat) = none)
    ∧ (u.coreAt (coreOf s.cur)).copySeq = (s.coreAt (coreOf s.cur)).copySeq + 1

/-- The copy that a cpy hands over, once the strip has sealed: under the view of its block. -/
theorem newCopy_seal (s : State) (dst src : Word) (len code cb : Nat) (sc : Scope) :
    (s.seal s.cur).newCopy s.cur dst src len code cb sc =
      { s.newCopy s.cur dst src len code cb sc with
        snap := if rangesMeet dst src len then some (s.seal s.cur).devMem else none
        snapBad := if rangesMeet dst src len then (s.seal s.cur).part.poison else [] } := by
  obtain ⟨o, m, k, p, e, -⟩ := seal_hartAt s
  have hv : (s.seal s.cur).vecView s.cur = s.vecView s.cur := by
    unfold State.vecView
    rw [e]
    rfl
  unfold State.newCopy
  rw [hv, e, (strips_seal s s.cur).coreAt]
  rfl

/-- The memory from before an overlapping copy (R158). -/
theorem snap_newCopy {t u : State} (h : u.part = t.part) (dst src : Word) (len : Nat) :
    ((if rangesMeet dst src len then some t.devMem else none,
      if rangesMeet dst src len then t.part.poison else []) : Option (List Host.Cell) × Map Unit)
      = if (dst - src).toNat < len ∨ (src - dst).toNat < len then (some u.devMem, u.part.poison) else (none, []) := by
  have hm : rangesMeet dst src len = true ↔ (dst - src).toNat < len ∨ (src - dst).toNat < len := by
    rw [rangesMeet, Bool.or_eq_true_iff, decide_eq_true_iff, decide_eq_true_iff]
  rw [devMem_of_part h, h]
  by_cases hr : rangesMeet dst src len = true
  · rw [if_pos hr, if_pos hr, if_pos (hm.mp hr)]
  · rw [if_neg hr, if_neg hr, if_neg (mt hm.mpr hr)]

theorem issuesCopy_execCpy {s : State} {bd bs bl : BReg} {code : BitVec 3} {cb : BitVec 2} {sc : Scope} {mk : Option MReg}
    (h : ([s.ctx.br bd, s.ctx.br bs, s.ctx.br bl].find? fun a => a.toNat % 256 != 0) = none)
    (hl : ¬ TooLong s (s.ctx.br bl).toNat (chunkCount (s.ctx.br bl).toNat code.toNat) mk) (hf : s.ctx.slotsUsed < 16) :
    ∃ u, execCpy bd bs bl code cb sc mk s = .next u ∧ IssuesCopy s bd bs bl code cb sc mk u := by
  obtain ⟨u, cp, o, he, hs, hcp, hctx, hpart, hseq⟩ := execCpy_issues (bs := bs) (cb := cb) (sc := sc) h hl hf
  rw [newCopy_seal] at hcp
  have hcb : cp.cb = cb.toNat := by rw [hcp]; rfl
  have hlen : cp.len = (s.ctx.br bl).toNat := by rw [hcp]; rfl
  have hcount : cp.count = chunkCount (s.ctx.br bl).toNat code.toNat := by rw [hcp]; rfl
  have hid : cp.id = s.ctx.nextCopy := by rw [hcp]; rfl
  have hch : cp.chunks = [] := by rw [hcp]; rfl
  obtain ⟨_, _, _, ep⟩ := ((s.ctx.withStrip o).issuing cp mk).counted.passed_eq
  have hbar : u.ctx.barriers = barrierAdd s.ctx.barriers cb.toNat 32 (s.ctx.br bl).toNat := by
    rw [hctx, ep, ← hcb, ← hlen]
    rfl
  obtain ⟨b1, b2, -, -⟩ := fld_barrierAdd s.ctx.barriers cb.toNat (s.ctx.br bl).toNat
  rw [← hbar] at b1 b2
  refine ⟨u, he, hs, by rw [hctx, ep]; rfl, b1, b2, fun i hi => ?_, fun n r p hn hr => ?_,
    fun m hm => ?_, fun hne => ⟨cp, ?_, hid, ?_⟩, fun m n hm hn => ?_, hseq⟩
  · show Sparse.read 0 u.ctx.barriers i = _
    rw [hbar]
    exact (read_barrierAdd ..).trans (if_neg hi)
  · rw [hctx, ep, ← hcount]
    exact mbit_issuing (s.ctx.withStrip o) cp mk p hn hr
  · rw [hctx, ep, hm, ← hid]
    exact (Map.find_put _ _ _ _).trans (if_pos rfl)
  · rw [hctx, ep]
    exact mem_copies_issuing (s.ctx.withStrip o) mk (hlen ▸ hne) hch
  · rw [hcp]
    exact ⟨rfl, rfl, rfl, rfl, rfl, rfl, rfl, rfl, rfl, rfl, rfl, rfl, snap_newCopy hpart _ _ _⟩
  · rw [hctx, ep, hm]
    exact find_mpoison_issuing (s.ctx.withStrip o) cp m (hcount ▸ hn)

end Sys2Proof.Claims

/-! PROOFS. The chunks of copies: how their sectors run, where they complete, and where they fault (R37, R158, R160, R161, R217). -/

namespace Sys2Proof.Machine

/-! ### Transactions stay under way -/

/-- From s to t no transaction has ended. -/
def Grows (s t : State) : Prop := ∃ l, t.part.trans = s.part.trans ++ l

theorem Grows.refl (s : State) : Grows s s := ⟨[], (List.append_nil _).symm⟩

theorem Grows.of_part {s t : State} (h : t.part.trans = s.part.trans) : Grows s t := ⟨[], by rw [h, List.append_nil]⟩

theorem Grows.trans {s t u : State} (h : Grows s t) (g : Grows t u) : Grows s u := by
  obtain ⟨l, hl⟩ := h
  obtain ⟨m, hm⟩ := g
  exact ⟨l ++ m, by rw [hm, hl, List.append_assoc]⟩

theorem Grows.mem {s t : State} (h : Grows s t) {x : Transaction} (hx : x ∈ s.part.trans) : x ∈ t.part.trans := by
  obtain ⟨l, hl⟩ := h
  rw [hl]
  exact List.mem_append_left _ hx

theorem grows_performAs (s : State) (h : Nat) (a : Asker) (addr : Word) (st : Bool) (pa : Nat) (bs : List Byte) (w : Nat → Bool) :
    Grows s (s.performAs h a addr st pa bs w) := by
  have hp := State.performAs_part s h a addr st pa bs w
  split_ifs at hp
  · exact .of_part (by rw [hp])
  · exact .of_part (by rw [hp, Part.putBytes_trans])
  · exact ⟨_, by rw [hp]; rfl⟩

theorem grows_appendHeat (s : State) (t : Nat) (e : TlbEntry) (b : Bool) : Grows s (s.appendHeat t e b) := by
  unfold State.appendHeat
  dsimp only
  split
  · exact (grows_performAs ..).trans (.of_part rfl)
  · exact .of_part rfl

theorem grows_fillL2 (s : State) (t : Nat) (e : TlbEntry) : Grows s (s.fillL2 t e) := by
  obtain ⟨s1, f, he, rfl | ⟨g, rfl⟩⟩ := s.fillL2_cases t e
  · rw [he]
    exact .of_part rfl
  · rw [he]
    exact (grows_appendHeat ..).trans (.of_part rfl)

theorem grows_markLeaf (s : State) (a : Acc) (pte : Word) (addr : Nat) : Grows s (s.markLeaf a pte addr) := by
  unfold State.markLeaf
  split
  · exact .refl s
  · exact grows_performAs ..

theorem grows_translate {s s1 : State} {v : View} {a : Acc} {va : Word} {ok : PaKind → Bool} {x : Xlat}
    (h : s.translate v a va ok = .ok (x, s1)) : Grows s s1 := by
  rcases State.translate_ok h with ⟨o, -, -, rfl⟩ | ⟨-, rfl⟩ | ⟨e, -, rfl | ⟨e', rfl⟩ | ⟨pte, level, addr, -, rfl⟩⟩
  · exact .refl _
  · exact .refl _
  · exact .refl _
  · exact .of_part rfl
  · exact ((grows_markLeaf ..).trans (grows_fillL2 ..)).trans (.of_part rfl)

/-! ### Sectors and runs, wherever they lead -/

/-- From s to t no hart changes but by a monitor woken, and no transaction has ended. -/
structure Ran (s t : State) : Prop where
  woken : Woken s t
  grows : Grows s t

theorem Ran.refl (s : State) : Ran s s := ⟨.refl s, .refl s⟩

theorem Ran.trans {s t u : State} (h : Ran s t) (g : Ran t u) : Ran s u := ⟨h.woken.trans g.woken, h.grows.trans g.grows⟩

theorem Ran.hartAt {s t : State} (h : Ran s t) (j : Nat) : ∃ m, t.hartAt j = { s.hartAt j with monHit := m } := h.woken.1 j

theorem Ran.cur {s t : State} (h : Ran s t) : t.cur = s.cur := by
  obtain ⟨-, -, -, hcur, -⟩ := h.woken
  exact hcur

theorem ran_modPart {s : State} {f : Part → Part} (h : (f s.part).trans = s.part.trans) : Ran s (s.modPart f) :=
  ⟨.refl s, .of_part h⟩

theorem ran_sector {s u : State} {h k i pa : Nat} {c : Copy} {lost : Bool} (e : s.sector h c k lost i = .written pa u) : Ran s u := by
  unfold State.sector at e
  dsimp only at e
  split at e
  · cases e
  · next x s1 e1 =>
    split at e
    · cases e
    · split at e
      · cases e
      · next y s2 e2 =>
        split at e
        · cases e
        · next hr =>
          have hk : s2.paKind y.pa ≠ .hostLost := fun hk => hr (by rw [State.outOfReach, hk]; rfl)
          have h1 : Ran s s1 := ⟨(State.translate_frame e1).1, grows_translate e1⟩
          have h2 : Ran s1 s2 := ⟨(State.translate_frame e2).1, grows_translate e2⟩
          cases e
          refine ((h1.trans h2).trans ⟨woken_performAs s2 _ _ _ _ _ _ _ hk, grows_performAs ..⟩).trans (ran_modPart ?_)
          generalize s2.performAs .. = s3
          have key : ∀ (l : List Nat) (p : Part), (l.foldl (fun q j => q.markPoison (s3.cell y.pa + j)) p).trans = p.trans := fun l => by
            induction l with
            | nil => exact fun _ => rfl
            | cons j l ih => exact fun p => (ih _).trans rfl
          exact key _ _

/-- One sector of a run, if it is due. -/
def runSector (h : Nat) (c : Copy) (k : Nat) (ch : Chunk) (r : ChunkRun) (i : Nat) : ChunkRun :=
  if tst ch.unwritten i then
    match r.s.sector h c k ch.lost i with
    | .written pa s1 => { r with s := s1, unwritten := putBit r.unwritten i false, pas := r.pas ++ [pa] }
    | .failed sub a => { r with fault := some (r.fault.getD (sub, a)) }
  else r

theorem State.runChunk_eq (s : State) (h : Nat) (c : Copy) (k : Nat) (ch : Chunk) : s.runChunk h c k ch =
    (List.range 128).foldl (runSector h c k ch) { s := s, unwritten := ch.unwritten, fault := none, pas := ch.pas } := rfl

theorem ran_runSector (h : Nat) (c : Copy) (k : Nat) (ch : Chunk) (r : ChunkRun) (i : Nat) : Ran r.s (runSector h c k ch r i).s := by
  unfold runSector
  split
  · split
    · next pa s1 e => exact ran_sector e
    · exact .refl _
  · exact .refl _

theorem ran_runChunk (s : State) (h : Nat) (c : Copy) (k : Nat) (ch : Chunk) : Ran s (s.runChunk h c k ch).s := by
  have key : ∀ (l : List Nat) (r : ChunkRun), Ran r.s (l.foldl (runSector h c k ch) r).s := fun l => by
    induction l with
    | nil => exact fun r => .refl _
    | cons i l ih => exact fun r => (ran_runSector h c k ch r i).trans (ih _)
  rw [State.runChunk_eq]
  exact key (List.range 128) { s := s, unwritten := ch.unwritten, fault := none, pas := ch.pas }

/-! ### A copy whose sectors lie in the HBM of this node, untranslated -/

section Clear
variable {c : Copy} (hbare : fld c.katp 60 4 = 0) (hmode : c.mode ≠ 0) (hwin : tst c.window 63 = false) (hsnap : c.snap = none)
  {h k : Nat}

/-- The physical address of a sector's side. -/
def sectorPa (a : Word) (c : Copy) (k i : Nat) : Nat := fld (a + BitVec.ofNat 64 (k * c.chunkBytes + 256 * i)) 0 56

include hbare hmode hwin in
theorem translate_clear {w : State} {a : Acc} {va : Word} (hs : w.inHbm (fld va 0 56) 256 = true) :
    w.translate (c.view (coreOf h)) a va PaKind.isMem = .ok ({ pa := fld va 0 56, pbmt := 0, page := none }, w) := by
  have hw : windowOff (c.view (coreOf h)).kspb va = none := by
    unfold windowOff
    rw [show tst (c.view (coreOf h)).kspb 63 = false from hwin]
    rfl
  rw [State.translate_bare w _ a va _ hw hbare, if_neg (show ¬ (c.view (coreOf h)).mode = 0 from hmode), State.paKind_of_inHbm hs (by decide)]
  exact if_pos (Claims.reach_of_ok rfl)

theorem outOfReach_inHbm {w : State} {pa : Nat} (hs : w.inHbm pa 256 = true) (lost : Bool) : w.outOfReach lost pa = false := by
  rw [State.outOfReach, State.paKind_of_inHbm hs (by decide), State.inStorage_of_inHbm hs (by decide)]
  cases lost <;> rfl

/-- What a sector in HBM reads. -/
theorem getD_devBytes {w : State} {a j : Nat} (ha : a + 256 ≤ 0xC000000000) (hj : j < 256) :
    (w.devBytes a 256).getD j 0 = w.byteAt (a + j) := by
  have e : (w.devBytes a 256).getD j 0 = w.devByte (a + j) := by
    simp [State.devBytes, List.getD_eq_getElem?_getD, hj]
  rw [e, State.devByte, if_pos (by omega)]

/-- From w to u one sector has been copied, from cell a to cell b. -/
structure Copies (h a b : Nat) (w u : State) : Prop where
  performed : Performed (· = h) w u
  trans : u.part.trans = w.part.trans
  byte : ∀ j, u.byteAt j = if b ≤ j ∧ j < b + 256 then w.byteAt (a + (j - b)) else w.byteAt j

include hbare hmode hwin hsnap in
/-- A sector whose sides lie in HBM is written. -/
theorem sector_clear {w : State} {lost : Bool} {i : Nat} (hs : w.inHbm (sectorPa c.src c k i) 256 = true)
    (hd : w.inHbm (sectorPa c.dst c k i) 256 = true) :
    ∃ u, w.sector h c k lost i = .written (sectorPa c.dst c k i) u
      ∧ Copies h (sectorPa c.src c k i % 2 ^ 44) (sectorPa c.dst c k i % 2 ^ 44) w u := by
  obtain ⟨cs, ls⟩ := State.cell_of_inHbm hs
  obtain ⟨cd, ld⟩ := State.cell_of_inHbm hd
  obtain ⟨bytes, hbytes⟩ : ∃ l, l = w.devBytes (w.cell (sectorPa c.src c k i)) 256 := ⟨_, rfl⟩
  have hlen : bytes.length = 256 := by rw [hbytes, State.devBytes, List.length_map, List.length_range]
  obtain ⟨t, ht⟩ : ∃ t, t = w.performAs h (.chunk c.id k) (c.dst + BitVec.ofNat 64 (k * c.chunkBytes + 256 * i)) false
      (sectorPa c.dst c k i) bytes fun _ => true := ⟨_, rfl⟩
  obtain ⟨bad, hbad⟩ : ∃ l, l = w.sectorBad c (128 * k + i) (sectorPa c.src c k i) := ⟨_, rfl⟩
  have hsector : w.sector h c k lost i = .written (sectorPa c.dst c k i)
      (t.modPart fun p => bad.foldl (fun q j => q.markPoison (t.cell (sectorPa c.dst c k i) + j)) p) := by
    have hb : w.sectorBytes c (128 * k + i) (sectorPa c.src c k i) = bytes := by
      have hn : w.sectorSnap c (128 * k + i) = none := by
        unfold State.sectorSnap
        rw [hsnap]
        split <;> rfl
      unfold State.sectorBytes
      rw [hn, hbytes]
    unfold State.sector
    dsimp only
    rw [translate_clear hbare hmode hwin hs]
    dsimp only
    rw [show fld (c.src + BitVec.ofNat 64 (k * c.chunkBytes + 256 * i)) 0 56 = sectorPa c.src c k i from rfl, outOfReach_inHbm hs lost,
      if_neg Bool.false_ne_true, translate_clear hbare hmode hwin hd]
    dsimp only
    rw [show fld (c.dst + BitVec.ofNat 64 (k * c.chunkBytes + 256 * i)) 0 56 = sectorPa c.dst c k i from rfl, outOfReach_inHbm hd lost,
      if_neg Bool.false_ne_true, State.inStorage_of_inHbm hd (by decide), hb, ← ht, hbad]
  have hp : Performed (· = h) w t := ht ▸ performed_performAs ..
  have hpart : t.part = w.part.putBytes (w.cell (sectorPa c.dst c k i)) bytes := by
    have haw := State.awaited_of_inHbm hd
    rw [ht, State.performAs_part, State.paKind_of_inHbm hd (by decide), if_neg (by nofun), hlen, haw, State.isLocal_of_inHbm hd]
    rfl
  have marks : ∀ (l : List Nat) (p : Part), ∃ m, l.foldl (fun q j => q.markPoison (t.cell (sectorPa c.dst c k i) + j)) p =
      { p with poison := m } := fun l => by
    induction l with
    | nil => exact fun p => ⟨_, rfl⟩
    | cons j l ih =>
      intro p
      obtain ⟨m, hm⟩ := ih (p.markPoison (t.cell (sectorPa c.dst c k i) + j))
      exact ⟨m, by rw [List.foldl_cons, hm]; rfl⟩
  obtain ⟨m, hm⟩ := marks bad t.part
  refine ⟨_, hsector, hp.trans (performed_modPart t _ ⟨_, m, _, _, hm⟩ _), ?_, fun j => ?_⟩
  · rw [State.modPart, hm, hpart]
    exact Part.putBytes_trans ..
  · rw [State.byteAt, State.modPart, hm, hpart]
    show Sparse.read 0 (w.part.putBytes _ bytes).mem j = _
    rw [Part.putBytes_read, hlen, cd]
    split
    · next hj =>
      rw [hbytes, cs, getD_devBytes (by omega) (by omega)]
    · rfl

/-- What a run of due sectors has copied, from w to u: each to its place, and nothing elsewhere. -/
structure RanClear (h : Nat) (c : Copy) (k : Nat) (ch : Chunk) (l : List Nat) (w u : State) : Prop where
  performed : Performed (· = h) w u
  trans : u.part.trans = w.part.trans
  copied : ∀ i ∈ l, tst ch.unwritten i = true → ∀ b, b < 256 →
    u.byteAt (sectorPa c.dst c k i % 2 ^ 44 + b) = w.byteAt (sectorPa c.src c k i % 2 ^ 44 + b)
  kept : ∀ j, (∀ i ∈ l, tst ch.unwritten i = true → j < sectorPa c.dst c k i % 2 ^ 44 ∨ sectorPa c.dst c k i % 2 ^ 44 + 256 ≤ j) →
    u.byteAt j = w.byteAt j

include hbare hmode hwin hsnap in
theorem ranClear_foldl {ch : Chunk} (l : List Nat) (hn : l.Nodup) (r : ChunkRun)
    (hin : ∀ i ∈ l, tst ch.unwritten i = true →
      r.s.inHbm (sectorPa c.src c k i) 256 = true ∧ r.s.inHbm (sectorPa c.dst c k i) 256 = true)
    (hd : ∀ i ∈ l, ∀ j ∈ l, tst ch.unwritten i = true → tst ch.unwritten j = true →
      (sectorPa c.src c k i % 2 ^ 44 + 256 ≤ sectorPa c.dst c k j % 2 ^ 44 ∨ sectorPa c.dst c k j % 2 ^ 44 + 256 ≤ sectorPa c.src c k i % 2 ^ 44)
      ∧ (i ≠ j → sectorPa c.dst c k i % 2 ^ 44 + 256 ≤ sectorPa c.dst c k j % 2 ^ 44
        ∨ sectorPa c.dst c k j % 2 ^ 44 + 256 ≤ sectorPa c.dst c k i % 2 ^ 44)) :
    (l.foldl (runSector h c k ch) r).fault = r.fault ∧ RanClear h c k ch l r.s (l.foldl (runSector h c k ch) r).s := by
  induction l generalizing r with
  | nil => exact ⟨rfl, .refl _ _, rfl, nofun, fun _ _ => rfl⟩
  | cons i l ih =>
    obtain ⟨hi, hnl⟩ := List.nodup_cons.mp hn
    have sub : ∀ {j}, j ∈ l → j ∈ i :: l := List.mem_cons_of_mem _
    rw [List.foldl_cons]
    by_cases hdue : tst ch.unwritten i = true
    · obtain ⟨hs, hdst⟩ := hin i List.mem_cons_self hdue
      obtain ⟨u, hu, hC⟩ := sector_clear (h := h) (lost := ch.lost) hbare hmode hwin hsnap hs hdst
      obtain ⟨r', hr'⟩ : ∃ r', r' = runSector h c k ch r i := ⟨_, rfl⟩
      have hrs : r'.s = u ∧ r'.fault = r.fault := by
        rw [hr', runSector, if_pos hdue, hu]
        exact ⟨rfl, rfl⟩
      obtain ⟨hrs, hrf⟩ := hrs
      rw [← hr']
      obtain ⟨hf, hp, ht, hcop, hkept⟩ := ih hnl r'
        (fun j hj hdj => by rw [hrs, hC.performed.inHbm, hC.performed.inHbm]; exact hin j (sub hj) hdj)
        fun a ha b hb => hd a (sub ha) b (sub hb)
      rw [hrs] at hp ht hcop hkept
      refine ⟨hf.trans hrf, hC.performed.trans hp, ht.trans hC.trans, fun j hj hdj b hb => ?_, fun j hj => ?_⟩
      · rcases List.mem_cons.mp hj with rfl | hj
        · rw [hkept _ fun a ha hda => ?_, hC.byte, if_pos (by omega), Nat.add_sub_cancel_left]
          have := (hd j List.mem_cons_self a (sub ha) hdue hda).2 fun e => hi (e ▸ ha)
          omega
        · rw [hcop j hj hdj b hb, hC.byte, if_neg]
          have := (hd j (sub hj) i List.mem_cons_self hdj hdue).1
          omega
      · rw [hkept j fun a ha hda => hj a (sub ha) hda, hC.byte, if_neg]
        have := hj i List.mem_cons_self hdue
        omega
    · have hr : runSector h c k ch r i = r := if_neg hdue
      rw [hr]
      obtain ⟨hf, hp, ht, hcop, hkept⟩ := ih hnl r (fun j hj => hin j (sub hj)) fun a ha b hb => hd a (sub ha) b (sub hb)
      refine ⟨hf, hp, ht, fun j hj hdj => ?_, fun j hj => hkept j fun a ha => hj a (sub ha)⟩
      rcases List.mem_cons.mp hj with rfl | hj
      · exact absurd hdj hdue
      · exact hcop j hj hdj

include hbare hmode hwin in
/-- A copy within HBM waits for no other node. -/
theorem awaitedSource_clear {s : State} {ch : Chunk}
    (hin : ∀ i, i < 128 → tst ch.unwritten i = true → s.inHbm (sectorPa c.src c k i) 256 = true) : s.awaitedSource h c k ch = none := by
  unfold State.awaitedSource
  split
  · rfl
  · unfold State.remoteSource
    refine List.findSome?_eq_none_iff.mpr fun i hi => ?_
    obtain ⟨hr, hdue⟩ := List.mem_filter.mp hi
    have hs := hin i (List.mem_range.mp hr) hdue
    dsimp only
    rw [translate_clear hbare hmode hwin hs]
    dsimp only
    rw [State.paKind_of_inHbm (pa := fld (c.src + BitVec.ofNat 64 (k * c.chunkBytes + 256 * i)) 0 56) hs (by decide)]
    rfl

end Clear

end Sys2Proof.Machine

/-! PROOFS. Chunks that complete, wait or fault, and the statement of copies (R37, R156-R163, R206, R266, R304, R305). -/

namespace Sys2Proof.Machine

/-! ### A chunk that the engine may run -/

/-- Chunk k of every copy with an id stands as given. -/
theorem chunkAt_of_withChunk {v : Hart} {id k : Nat} {ch : Chunk} {c : Copy} (hc : c ∈ (v.withChunk id k ch).ctx.copies) (hid : c.id = id) :
    c.chunkAt k = ch := by
  obtain ⟨y, -, e⟩ := List.mem_map.mp hc
  by_cases hy : y.id = id
  · rw [if_pos hy] at e
    rw [← e]
    exact (chunkAt_withChunk y k k ch).trans (if_pos rfl)
  · rw [if_neg hy] at e
    exact absurd (e ▸ hid) hy

/-- A chunk that has completed or faulted, in whichever copy bears the id, is not run. -/
theorem openChunk_none {u : State} {h id k : Nat}
    (hall : ∀ c ∈ (u.hartAt h).ctx.copies, c.id = id → (c.chunkAt k).complete = true ∨ (c.chunkAt k).faulted = true) :
    u.openChunk h id k = none := by
  unfold State.openChunk
  split
  · next c hc =>
    refine if_neg fun hb => ?_
    simp only [Bool.and_eq_true, Bool.not_eq_true'] at hb
    obtain ⟨⟨⟨-, h1⟩, h2⟩, -⟩ := hb
    rcases hall c (List.mem_of_find?_eq_some hc) (find_copy_id hc) with h | h
    · rw [h1] at h
      cases h
    · rw [h2] at h
      cases h
  · rfl

/-- What an open chunk is (R37, R160). -/
theorem openChunk_some {s : State} {h id k : Nat} {c : Copy} {ch : Chunk} (e : s.openChunk h id k = some (c, ch)) :
    c ∈ (s.hartAt h).ctx.copies ∧ c.id = id ∧ k < c.count ∧ ch = c.chunkAt k ∧ ch.complete = false ∧ ch.faulted = false
      ∧ (c.chunks = [] → ∀ t < 4, ∀ q ∈ (s.hartAt (4 * coreOf h + t)).ctx.copies,
        q.seq < c.seq → q.outstanding = true → q.chunks ≠ []) := by
  unfold State.openChunk at e
  split at e
  · next c' hc =>
    dsimp only at e
    split at e
    · next hb =>
      cases e
      simp only [Bool.and_eq_true, Bool.not_eq_true', decide_eq_true_eq] at hb
      obtain ⟨⟨⟨h0, h1⟩, h2⟩, h3⟩ := hb
      refine ⟨List.mem_of_find?_eq_some hc, find_copy_id hc, h0, rfl, h1, h2, fun hnil t ht q hq hseq hout hq0 => ?_⟩
      have hearlier : s.earlierCopy (coreOf h) c.seq = true := by
        refine List.any_eq_true.mpr ⟨t, List.mem_range.mpr ht, List.any_eq_true.mpr ⟨q, hq, ?_⟩⟩
        rw [decide_eq_true hseq, hout, hq0]
        rfl
      rw [hnil, hearlier] at h3
      cases h3
    · cases e
  · cases e

/-! ### A chunk that completes (R158) -/

/-- The context with the mask bit and the DONE count of a chunk that has completed. -/
def VCtx.completing (x : VCtx) (c : Copy) (k : Nat) : VCtx :=
  VCtx.prune
    { x with
      m := (x.binds.filter fun b => b.2 == c.id).foldl (fun q b => putMbit q b.1 0 k true) x.m
      mpoison := (x.binds.filter fun b => b.2 == c.id).foldl (fun q b => Map.erase q (64 * k + b.1)) x.mpoison
      barriers := barrierAdd x.barriers c.cb 0 (c.bytesOf k) }

theorem completeChunk_eq (h : Nat) (c : Copy) (k : Nat) (r : ChunkRun) : completeChunk h c k r =
    (r.s.setChunk h c.id k { unwritten := 0, complete := true, pas := r.pas }).modCtx h fun x => x.completing c k := rfl

/-- The masks that a copy is bound to take the bit of a chunk that completes, and its poison goes (R206). -/
theorem mbit_completing (x : VCtx) (c : Copy) (k : Nat) {e : Nat × Nat} (he : e ∈ x.binds) (hid : e.2 = c.id) :
    (x.completing c k).mbit e.1 0 k = true ∧ Map.find (x.completing c k).mpoison (64 * k + e.1) = none := by
  have hm : e ∈ x.binds.filter fun b => b.2 == c.id := List.mem_filter.mpr ⟨he, beq_iff_eq.mpr hid⟩
  constructor
  · show (Sparse.read 1 ((x.binds.filter fun b => b.2 == c.id).foldl (fun q b => putMbit q b.1 0 k true) x.m) (64 * k + 8 * 0 + e.1) == 1) = true
    unfold putMbit
    rw [Sparse.read_foldl_set 1 (if true = true then 1 else 0) (fun b : Nat × Nat => 64 * k + 8 * 0 + b.1),
      if_pos (List.mem_map.mpr ⟨e, hm, rfl⟩)]
    rfl
  · exact Map.find_foldl_erase (fun b : Nat × Nat => 64 * k + b.1) _ _ (.inl (List.mem_map.mpr ⟨e, hm, rfl⟩))

theorem mem_completing {x : VCtx} {c : Copy} {k : Nat} {q : Copy} (h : q ∈ (x.completing c k).copies) : q ∈ x.copies :=
  (List.mem_filter.mp h).1

/-! ### A chunk that faults (R160, R161) -/

/-- A hart with its fault queue as given. -/
def Hart.withFaults (v : Hart) (q : Word) (n : Nat) : Hart := { v with kcpfq := q, cpfProd := n }

/-- The address of the next fault record of a hart. -/
def Hart.faultAt (v : Hart) : Nat := ringSlot (fld v.kcpfq 12 44 * 0x1000) (fld v.kcpfq 0 6) 64 v.cpfProd

section Record
variable {s : State} {h : Nat} (bs : List Byte)

theorem recordFault_dead (hl : (s.hartAt h).live = false) : s.recordFault h bs = s := if_pos (by rw [hl]; rfl)

variable (hl : (s.hartAt h).live = true)
include hl

theorem recordFault_full (hn : (tst (s.hartAt h).kcpfq 63 && s.ringOk (s.hartAt h).faultAt
      && !tst (ofBytes 64 (s.devBytes (s.cell ((s.hartAt h).faultAt + 56)) 8) : Word) 63) = false) :
    s.recordFault h bs = s.modHart h fun x => x.withFaults (bumpDrop x.kcpfq) x.cpfProd :=
  (if_neg (by rw [hl]; exact Bool.false_ne_true)).trans (if_neg fun e => Bool.false_ne_true (hn.symm.trans e))

theorem recordFault_room (hr : (tst (s.hartAt h).kcpfq 63 && s.ringOk (s.hartAt h).faultAt
      && !tst (ofBytes 64 (s.devBytes (s.cell ((s.hartAt h).faultAt + 56)) 8) : Word) 63) = true) :
    s.recordFault h bs = (s.perform h (s.hartAt h).faultAt (bs ++ bytesOf (BitVec.ofNat 64 (2 ^ 63)) 8) fun _ => true).modHart h
      fun x => x.withFaults x.kcpfq (x.cpfProd + 1) :=
  (if_neg (by rw [hl]; exact Bool.false_ne_true)).trans (if_pos hr)

end Record

/-- A fault record leaves the context of its hart as it is. -/
theorem recordFault_frame (s : State) (h : Nat) (bs : List Byte) : ((s.recordFault h bs).hartAt h).ctx = (s.hartAt h).ctx
    ∧ (s.recordFault h bs).cur = s.cur := by
  cases hl : (s.hartAt h).live with
  | false => rw [recordFault_dead bs hl]; exact ⟨rfl, rfl⟩
  | true =>
    cases hr : (tst (s.hartAt h).kcpfq 63 && s.ringOk (s.hartAt h).faultAt
        && !tst (ofBytes 64 (s.devBytes (s.cell ((s.hartAt h).faultAt + 56)) 8) : Word) 63) with
    | false =>
      rw [recordFault_full bs hl hr, State.hartAt_modHart_self]
      exact ⟨rfl, rfl⟩
    | true =>
      have hp := performed_performAs s h .scalar 0 (s.inStorage (s.hartAt h).faultAt) (s.hartAt h).faultAt
        (bs ++ bytesOf (BitVec.ofNat 64 (2 ^ 63)) 8) fun _ => true
      obtain ⟨m, k, p, e⟩ := hp.harts h
      obtain ⟨u, hu⟩ : ∃ u, u = s.perform h (s.hartAt h).faultAt (bs ++ bytesOf (BitVec.ofNat 64 (2 ^ 63)) 8) fun _ => true := ⟨_, rfl⟩
      have e : u.hartAt h = { s.hartAt h with monHit := m, kmcheck := k, mcPend := p } := hu ▸ e
      rw [recordFault_room bs hl hr, State.hartAt_modHart_self, ← hu, e]
      exact ⟨rfl, hu ▸ hp.cur⟩

end Sys2Proof.Machine

namespace Sys2Proof.Claims
open Sys2Proof.Machine

/-! ### The outcomes of a chunk -/

section Chunk
variable {s : State} {copy chunk : Nat} {c : Copy} {ch : Chunk} (ho : s.openChunk s.cur copy chunk = some (c, ch))

/-- The run of a chunk, as a state from which nothing but memory and monitors differs. -/
theorem run_hart (s : State) (c : Copy) (chunk : Nat) (ch : Chunk) :
    ∃ m, (s.runChunk s.cur c chunk ch).s.hartAt s.cur = { s.hart with monHit := m } :=
  (ran_runChunk s s.cur c chunk ch).hartAt s.cur

/-- A state after a chunk of the current hart has been noted in its copies. -/
theorem setChunk_ctx {t : State} (hcur : t.cur = s.cur) {m : Bool} (ht : t.hartAt s.cur = { s.hart with monHit := m }) (id k : Nat)
    (d : Chunk) : (t.setChunk s.cur id k d).hartAt s.cur = { (s.hart.withChunk id k d) with monHit := m }
      ∧ (t.setChunk s.cur id k d).ctx.barriers = s.ctx.barriers ∧ (t.setChunk s.cur id k d).ctx.m = s.ctx.m := by
  have e : (t.setChunk s.cur id k d).hartAt s.cur = { (s.hart.withChunk id k d) with monHit := m } := by
    rw [setChunk_eq, State.hartAt_modHart_self, ht]
    rfl
  have e' : (t.setChunk s.cur id k d).hart = _ := (congrArg (t.setChunk s.cur id k d).hartAt hcur).trans e
  exact ⟨e, by rw [State.ctx, e']; rfl, by rw [State.ctx, e']; rfl⟩

include ho

/-- A chunk whose writes are under way does not complete (R158). -/
theorem chunk_pending {x : Transaction} (hx : x ∈ s.part.trans)
    (hw : x.write = true ∧ x.hart = s.cur ∧ x.asker = .chunk c.id chunk ∧ (x.storage = false ∨ c.scope = .sys)) :
    ∃ u, exec (.copyChunkComplete copy chunk) s = .next u ∧ u.ctx.barriers = s.ctx.barriers ∧ u.ctx.m = s.ctx.m := by
  obtain ⟨h1, h2, h3, h4⟩ := hw
  have hR := ran_runChunk s s.cur c chunk ch
  have hpend : (s.runChunk s.cur c chunk ch).s.chunkPending s.cur c chunk = true := by
    refine List.any_eq_true.mpr ⟨x, hR.grows.mem hx, ?_⟩
    rw [h1, h2, h3]
    rcases h4 with h4 | h4
    · simp [h4]
    · simp [h4]
  cases ha : s.awaitedSource s.cur c chunk ch with
  | some a =>
    have e : exec (.copyChunkComplete copy chunk) s = .next (if ch.asked then s
        else (s.ask s.cur (.chunk copy chunk) a.1 a.2).setChunk s.cur copy chunk { ch with asked := true }) := by
      show execCopyChunkComplete copy chunk s = _
      unfold execCopyChunkComplete
      dsimp only
      rw [ho]
      dsimp only
      rw [ha]
    refine ⟨_, e, ?_⟩
    split
    · exact ⟨rfl, rfl⟩
    · have hask : (s.ask s.cur (.chunk copy chunk) a.1 a.2).cur = s.cur
          ∧ (s.ask s.cur (.chunk copy chunk) a.1 a.2).hartAt s.cur = { s.hart with monHit := s.hart.monHit } := by
        unfold State.ask
        split <;> exact ⟨rfl, rfl⟩
      exact (setChunk_ctx hask.1 hask.2 copy chunk _).2
  | none =>
    have e : exec (.copyChunkComplete copy chunk) s = if (s.runChunk s.cur c chunk ch).fault.isSome then .next s
        else .next ((s.runChunk s.cur c chunk ch).s.setChunk s.cur copy chunk
          { ch with unwritten := (s.runChunk s.cur c chunk ch).unwritten, pas := (s.runChunk s.cur c chunk ch).pas }) := by
      show execCopyChunkComplete copy chunk s = _
      unfold execCopyChunkComplete
      dsimp only
      rw [ho]
      dsimp only
      rw [ha]
      dsimp only
      rw [hpend, if_pos rfl]
    by_cases hf : (s.runChunk s.cur c chunk ch).fault.isSome = true
    · exact ⟨s, e.trans (if_pos hf), rfl, rfl⟩
    · obtain ⟨m, hm⟩ := run_hart s c chunk ch
      exact ⟨_, e.trans (if_neg hf), (setChunk_ctx hR.cur hm copy chunk _).2⟩

/-- A chunk that runs with no fault and no write under way completes. -/
theorem chunk_completes (hid : c.id = copy) (ha : s.awaitedSource s.cur c chunk ch = none)
    (hf : (s.runChunk s.cur c chunk ch).fault = none) (hp : (s.runChunk s.cur c chunk ch).s.chunkPending s.cur c chunk = false) :
    ∃ u, exec (.copyChunkComplete copy chunk) s = .next u ∧ u.part = (s.runChunk s.cur c chunk ch).s.part
      ∧ u.openChunk s.cur copy chunk = none
      ∧ fld (Sparse.read 0 u.ctx.barriers c.cb) 0 32 = (fld (Sparse.read 0 s.ctx.barriers c.cb) 0 32 + c.bytesOf chunk) % 2 ^ 32
      ∧ fld (Sparse.read 0 u.ctx.barriers c.cb) 32 32 = fld (Sparse.read 0 s.ctx.barriers c.cb) 32 32
      ∧ ∀ e ∈ s.ctx.binds, e.2 = c.id → u.ctx.mbit e.1 0 chunk = true ∧ Map.find u.ctx.mpoison (64 * chunk + e.1) = none := by
  obtain ⟨r, hr⟩ : ∃ r, r = s.runChunk s.cur c chunk ch := ⟨_, rfl⟩
  rw [← hr] at hf hp
  obtain ⟨m, hm⟩ := run_hart s c chunk ch
  have hcur : r.s.cur = s.cur := hr ▸ (ran_runChunk s s.cur c chunk ch).cur
  obtain ⟨d, hd⟩ : ∃ d : Chunk, d = { unwritten := 0, complete := true, pas := r.pas } := ⟨_, rfl⟩
  obtain ⟨e1, -⟩ := setChunk_ctx hcur (by rw [hr]; exact hm) c.id chunk d
  obtain ⟨u, hu⟩ : ∃ u, u = completeChunk s.cur c chunk r := ⟨_, rfl⟩
  have he : exec (.copyChunkComplete copy chunk) s = .next u := by
    show execCopyChunkComplete copy chunk s = _
    unfold execCopyChunkComplete
    dsimp only
    rw [ho]
    dsimp only
    rw [ha]
    dsimp only
    rw [← hr, hf, hp, hu]
    rfl
  have hat : u.hartAt s.cur =
      { (s.hart.withChunk c.id chunk d).withCtx ((s.hart.withChunk c.id chunk d).ctx.completing c chunk) with monHit := m } := by
    rw [hu, completeChunk_eq, ← hd, State.modCtx_hartAt_self, e1]
    rfl
  have hctx : u.ctx = (s.hart.withChunk c.id chunk d).ctx.completing c chunk := by
    rw [State.ctx, State.hart, show u.cur = s.cur by rw [hu]; exact hcur, hat]
    rfl
  obtain ⟨-, -, b1, b2⟩ := fld_barrierAdd s.ctx.barriers c.cb (c.bytesOf chunk)
  refine ⟨u, he, by rw [hu, ← hr]; rfl, openChunk_none fun q hq hqid => .inl ?_, ?_, ?_, fun e hb hbid => ?_⟩
  · rw [hat] at hq
    rw [chunkAt_of_withChunk (mem_completing hq) (hqid.trans hid.symm), hd]
  · rw [hctx]
    exact b1
  · rw [hctx]
    exact b2
  · rw [hctx]
    exact mbit_completing _ c chunk hb hbid

/-- A fault waits for the chunks before it (R266). -/
theorem chunk_fault_waits (h : ∃ j < chunk, (c.chunkAt j).complete = false ∧ (c.chunkAt j).faulted = false) :
    exec (.copySectorFault copy chunk) s = .next s := by
  obtain ⟨j, hj, h1, h2⟩ := h
  have hn : ((List.range chunk).all fun j => (c.chunkAt j).complete || (c.chunkAt j).faulted) = false :=
    List.all_eq_false.mpr ⟨j, List.mem_range.mpr hj, by rw [h1, h2]; exact Bool.false_ne_true⟩
  show execCopySectorFault copy chunk s = _
  unfold execCopySectorFault
  dsimp only
  rw [ho]
  dsimp only
  split
  · rw [hn]
    exact if_neg Bool.false_ne_true
  · rfl

/-- A chunk that faults goes to the fault queue, and waits (R160, R161). -/
theorem chunk_faults (hid : c.id = copy) {sub : Nat} {a : Word} (hf : (s.runChunk s.cur c chunk ch).fault = some (sub, a))
    (hl : s.hart.live = true) (ha : s.awaitedSource s.cur c chunk ch = none)
    (hall : ∀ j < chunk, (c.chunkAt j).complete = true ∨ (c.chunkAt j).faulted = true) :
    let r := s.runChunk s.cur c chunk ch
    ∃ u, exec (.copySectorFault copy chunk) s = .next u ∧ u.openChunk s.cur copy chunk = none
      ∧ u.ctx.barriers = s.ctx.barriers ∧ u.ctx.m = s.ctx.m
      ∧ (tst s.hart.kcpfq 63 = false → u.hart.cpfProd = s.hart.cpfProd ∧ ∀ k, u.byteAt k = r.s.byteAt k)
      ∧ (tst s.hart.kcpfq 63 = true → r.s.ringOk s.hart.faultAt = true →
          tst (ofBytes 64 (r.s.devBytes (r.s.cell (s.hart.faultAt + 56)) 8) : Word) 63 = false →
        u.hart.cpfProd = s.hart.cpfProd + 1 ∧ Performs r.s u s.cur s.hart.faultAt
          (Machine.faultRecord s.cur c chunk sub a r.unwritten ++ bytesOf (BitVec.ofNat 64 (2 ^ 63)) 8)) := by
  obtain ⟨r, hr⟩ : ∃ r, r = s.runChunk s.cur c chunk ch := ⟨_, rfl⟩
  rw [← hr] at hf ⊢
  have hR : Ran s r.s := hr ▸ ran_runChunk s s.cur c chunk ch
  obtain ⟨m, hm⟩ := run_hart s c chunk ch
  obtain ⟨bs, hbs⟩ : ∃ bs, bs = Machine.faultRecord s.cur c chunk sub a r.unwritten := ⟨_, rfl⟩
  obtain ⟨d, hd⟩ : ∃ d : Chunk, d = { unwritten := r.unwritten, faulted := true, pas := r.pas } := ⟨_, rfl⟩
  obtain ⟨t, ht⟩ : ∃ t, t = r.s.setChunk s.cur c.id chunk d := ⟨_, rfl⟩
  obtain ⟨e1, b1, m1⟩ := setChunk_ctx hR.cur (by rw [hr]; exact hm) c.id chunk d
  rw [← ht] at e1 b1 m1
  have tpart : t.part = r.s.part := ht ▸ rfl
  have tcur : t.cur = s.cur := ht ▸ hR.cur
  have tctx : t.ctx = (t.hartAt s.cur).ctx := by rw [State.ctx, State.hart, tcur]
  have tlive : ∀ j, (t.hartAt j).live = (r.s.hartAt j).live := fun j => by
    rw [ht, setChunk_eq, State.hartAt_modHart]
    split
    · next e => rw [e]; rfl
    · rfl
  obtain ⟨fctx, fcur⟩ := recordFault_frame t s.cur bs
  obtain ⟨w, hw⟩ : ∃ w, w = t.recordFault s.cur bs := ⟨_, rfl⟩
  rw [← hw] at fctx fcur
  have he : exec (.copySectorFault copy chunk) s = .next (w.modCtx s.cur VCtx.prune) := by
    have hy : ((List.range chunk).all fun j => (c.chunkAt j).complete || (c.chunkAt j).faulted) = true :=
      List.all_eq_true.mpr fun j hj => Bool.or_eq_true_iff.mpr (hall j (List.mem_range.mp hj))
    show execCopySectorFault copy chunk s = _
    unfold execCopySectorFault
    dsimp only
    rw [ho]
    dsimp only
    rw [ha, ← hr, hf]
    dsimp only
    rw [if_pos hy, hw, ht, hd, hbs]
    rfl
  have hat : (w.modCtx s.cur VCtx.prune).hart = (w.hartAt s.cur).withCtx (w.hartAt s.cur).ctx.prune := by
    rw [State.hart, show (w.modCtx s.cur VCtx.prune).cur = s.cur from fcur.trans tcur, State.modCtx_hartAt_self]
  have hctx : (w.modCtx s.cur VCtx.prune).ctx = t.ctx.prune := by
    rw [State.ctx, hat, tctx, ← fctx]
    rfl
  have tl : (t.hartAt s.cur).live = true := by rw [e1]; exact hl
  have hbyte : ∀ k, t.byteAt k = r.s.byteAt k := fun k => by simp only [State.byteAt, tpart]
  refine ⟨_, he, openChunk_none fun q hq hqid => .inr ?_, by rw [hctx]; exact b1, by rw [hctx]; exact m1, fun hoff => ?_,
    fun hon hring hfree => ?_⟩
  · rw [State.modCtx_hartAt_self, fctx, e1] at hq
    rw [chunkAt_of_withChunk (v := s.hart) (List.mem_filter.mp hq).1 (hqid.trans hid.symm), hd]
  · have hn : (tst (t.hartAt s.cur).kcpfq 63 && t.ringOk (t.hartAt s.cur).faultAt
        && !tst (ofBytes 64 (t.devBytes (t.cell ((t.hartAt s.cur).faultAt + 56)) 8) : Word) 63) = false := by
      rw [e1, show tst ({ s.hart.withChunk c.id chunk d with monHit := m } : Hart).kcpfq 63 = false from hoff, Bool.false_and, Bool.false_and]
    have ew : w = t.modHart s.cur fun x => x.withFaults (bumpDrop x.kcpfq) x.cpfProd := hw.trans (recordFault_full bs tl hn)
    refine ⟨?_, fun k => ?_⟩
    · rw [hat, ew, State.hartAt_modHart_self, e1]
      rfl
    · rw [← hbyte, ew]
      rfl
  · have hfa : (t.hartAt s.cur).faultAt = s.hart.faultAt := by rw [e1]; rfl
    have hcell : ∀ x, t.cell x = r.s.cell x := State.cell_of_node (by rw [tpart])
    have hdev : ∀ k, t.devByte k = r.s.devByte k := fun k => State.devByte_of_trans (hbyte k) (by rw [tpart]) (by rw [tpart])
    have hring' : t.ringOk s.hart.faultAt = r.s.ringOk s.hart.faultAt := by
      rw [State.ringOk, State.paKind_of_live tpart tlive]
      rfl
    have hroom : (tst (t.hartAt s.cur).kcpfq 63 && t.ringOk (t.hartAt s.cur).faultAt
        && !tst (ofBytes 64 (t.devBytes (t.cell ((t.hartAt s.cur).faultAt + 56)) 8) : Word) 63) = true := by
      rw [hfa, hring', hring, show tst (t.hartAt s.cur).kcpfq 63 = true by rw [e1]; exact hon]
      simp only [State.devBytes, hcell, hdev] at hfree ⊢
      rw [hfree]
      rfl
    obtain ⟨z, hz⟩ : ∃ z, z = t.perform s.cur s.hart.faultAt (bs ++ bytesOf (BitVec.ofNat 64 (2 ^ 63)) 8) fun _ => true := ⟨_, rfl⟩
    have ew : w = z.modHart s.cur fun x => x.withFaults x.kcpfq (x.cpfProd + 1) := by
      rw [hw, recordFault_room bs tl hroom, hfa, hz]
    obtain ⟨m', k', p', ez⟩ := (performed_performAs t s.cur .scalar 0 (t.inStorage s.hart.faultAt) s.hart.faultAt
      (bs ++ bytesOf (BitVec.ofNat 64 (2 ^ 63)) 8) fun _ => true).harts s.cur
    have ez : z.hartAt s.cur = { t.hartAt s.cur with monHit := m', kmcheck := k', mcPend := p' } := hz ▸ ez
    refine ⟨?_, ?_⟩
    · rw [hat, ew, State.hartAt_modHart_self, ez, e1]
      rfl
    · rw [← hbs]
      exact performs_of_source tpart tlive (performs_of_part (t := z) (by rw [ew]; rfl) (hz ▸ performs_perform ..))

end Chunk

/-! ### The statement -/

section Guard
variable {s : State}

/-- A word whose block registers hold no poison runs unguarded (R207). -/
theorem guardB_clean (i : Instr) (o : Out) (h : ∀ r ∈ bReads i, ¬ BPoisoned s r) : s.guardB i o = o := by
  have hb : s.bBad i = false := by
    rw [State.bBad, Bool.and_eq_false_iff]
    exact .inr (List.any_eq_false.mpr h)
  unfold State.guardB
  rw [hb]
  exact if_neg Bool.false_ne_true

end Guard

/-- Settles O50: each word of the copy engine seals the strip and changes its own part of the context, and a chunk is a run of
its sectors, each written, kept, or faulted. -/
theorem copiesRun : Obligations.CopiesRun := by
  unfold Obligations.CopiesRun
  intro s bd bs bl code cb sc mk copy chunk x v len count bar onCb seals misaligned long issues status waits idle
  refine ⟨fun a h => faultsWord_cpy_misaligned h, fun h hl => faultsWord_cpy_long h hl, fun h hl => ⟨fun hf => ⟨?_, fun hw hp => ?_⟩,
    fun hf => execCpy_waits h hl hf⟩, fun hi => ?_, fun hi => execCpyw_waits s cb bd hi, ?_, execCpyr_ok s cb, fun c ch ho => ?_⟩
  · exact issuesCopy_execCpy h hl hf
  · have e : exec .cpyStallEnd s = execCpy bd bs bl code cb sc mk s := by
      show execCpyStallEnd s = _
      unfold execCpyStallEnd
      rw [hw]
      exact guardB_clean _ _ hp
    rw [e]
    exact issuesCopy_execCpy h hl hf
  · obtain ⟨u, hu, hs, hr, hb⟩ := execCpyw_idle s cb bd hi
    have hst : status u bd := ⟨hr, fun j hj => by rw [hb]; exact tst_copyStatus _ hj⟩
    refine ⟨⟨u, hu, hs, hst⟩, fun hw => ⟨u, ?_, hs, hst⟩⟩
    show execCpywWake s = _
    unfold execCpywWake
    rw [hw]
    exact hu
  · obtain ⟨u, hu, hs, hbr⟩ := sealsStrip_bw s bd (bar x cb.toNat)
    exact ⟨u, hu, hs, by rw [hbr, if_pos rfl], fun r hr => by rw [hbr, if_neg hr]⟩
  · have hopen := openChunk_some ho
    obtain ⟨hmem, hid, hk, hch, hnc, hnf, horder⟩ := id hopen
    refine ⟨hopen, ?_⟩
    intro at_ src dst due clear r ring
    refine ⟨fun hclear => ?_, fun hpend => ?_, fun h => chunk_fault_waits ho h, fun sub a hf hl ha hall => ?_⟩
    · obtain ⟨hbare, hmode, hwin, hsnap, hin, hdis, htr⟩ := hclear
      have hS : ∀ i, due i → src i = sectorPa c.src c chunk i % 2 ^ 44 := fun i hi => (State.cell_of_inHbm (hin i hi).1).1
      have hD : ∀ i, due i → dst i = sectorPa c.dst c chunk i % 2 ^ 44 := fun i hi => (State.cell_of_inHbm (hin i hi).2).1
      obtain ⟨hf, hp, ht, hcop, hkept⟩ := ranClear_foldl (h := s.cur) (k := chunk) (ch := ch) hbare hmode
        hwin hsnap (List.range 128) List.nodup_range
        { s := s, unwritten := ch.unwritten, fault := none, pas := ch.pas }
        (fun i hi hd => hin i ⟨List.mem_range.mp hi, hd⟩) fun i hi j hj hdi hdj => by
          have h1 : due i := ⟨List.mem_range.mp hi, hdi⟩
          have h2 : due j := ⟨List.mem_range.mp hj, hdj⟩
          rw [← hS i h1, ← hD j h2, ← hD i h1]
          exact hdis i j h1 h2
      have ht : r.s.part.trans = s.part.trans := ht
      have hpend : r.s.chunkPending s.cur c chunk = false := by
        refine List.any_eq_false.mpr fun tr htr' => ?_
        rw [ht] at htr'
        have hne : (tr.asker == .chunk c.id chunk) = false := beq_false_of_ne (htr tr htr')
        rw [hne]
        simp
      obtain ⟨u, hu, hpart, hopen', hdone, hissued, hmask⟩ := chunk_completes ho hid
        (awaitedSource_clear hbare hmode hwin fun i hi hd => (hin i ⟨hi, hd⟩).1) hf hpend
      have hbyte : ∀ k, u.byteAt k = r.s.byteAt k := fun k => by rw [State.byteAt, hpart]; rfl
      refine ⟨u, hu, fun i b hi hb => ?_, fun k hk => ?_, hopen', hdone, hissued, hmask⟩
      · rw [hbyte, hS i hi, hD i hi]
        exact hcop i (List.mem_range.mpr hi.1) hi.2 b hb
      · rw [hbyte]
        refine hkept k fun i hi hd => ?_
        rw [← hD i ⟨List.mem_range.mp hi, hd⟩]
        exact hk i ⟨List.mem_range.mp hi, hd⟩
    · obtain ⟨tr, htr, h1, h2, h3, h4⟩ := hpend
      exact chunk_pending ho htr ⟨h1, h2, h3, h4⟩
    · exact chunk_faults ho hid hf hl ha hall

end Sys2Proof.Claims

/-! PROOFS. Words of the spec and the instructions they stand for (R46, R68, R121, R137, R155, R274-R286). -/

namespace Sys2Proof.Claims
open Sys2Proof.Machine

/-- Settles O1, by running the decoder on each word. -/
theorem decodeWords : Obligations.DecodeWords := by
  unfold Obligations.DecodeWords
  decide

end Sys2Proof.Claims

/-! PROOFS. Replies, the queue position and vsync (R58, R59, R206-R208, R338, R384). -/

namespace Sys2Proof.Machine

/-! ### The oldest reply leaves the queue (R58) -/

/-- The marks of poisoned replies move up by one place as the oldest leaves. -/
theorem find_dropMark (m : Map Unit) (k : Nat) : (Map.find (dropMark m) k).isSome = (Map.find m (k + 1)).isSome := by
  induction m with
  | nil => rfl
  | cons e m ih =>
    obtain ⟨j, u⟩ := e
    have step : dropMark ((j, u) :: m) = (if j = 0 then dropMark m else (j - 1, ()) :: dropMark m) := by
      unfold dropMark
      by_cases h : j = 0 <;> simp [h]
    rw [step, Map.find]
    by_cases h0 : j = 0
    · rw [if_pos h0, ih, if_neg (by omega)]
    · rw [if_neg h0, Map.find]
      by_cases h1 : j - 1 = k
      · rw [if_pos h1, if_pos (by omega)]
      · rw [if_neg h1, if_neg (by omega), ih]

/-- A hart whose oldest reply has left its queue. -/
def Hart.dropReply (v : Hart) (rest : List Word) : Hart := { v with replies := rest, replyBad := dropMark v.replyBad }

theorem execRqget_clean {s : State} {w : Word} {rest : List Word} (d : XReg) (hr : s.hart.replies = w :: rest)
    (hb : (Map.find s.hart.replyBad 0).isSome = false) :
    exec (.rqget d) s = .next ((s.mod fun v => v.dropReply rest).done d w) := by
  show execRqget d s = _
  unfold execRqget
  rw [hr]
  simp only [hb, Bool.false_eq_true, if_false]
  rfl

theorem execRqget_poisoned {s : State} {w : Word} {rest : List Word} (d : XReg) (hr : s.hart.replies = w :: rest)
    (hb : (Map.find s.hart.replyBad 0).isSome = true) :
    exec (.rqget d) s = .next ((s.mod fun v => v.dropReply rest).scalarPoisoned s.cur 0).advance := by
  show execRqget d s = _
  unfold execRqget
  rw [hr]
  simp only [hb, if_true]
  rfl

theorem execRqget_none {s : State} (d : XReg) (hr : s.hart.replies = []) : exec (.rqget d) s = .next (s.stall .rqget) := by
  show execRqget d s = _
  unfold execRqget
  rw [hr]

theorem execVsync_ended {s : State} (h : s.hart.head = s.hart.next) : execVsync s = .next s.advance :=
  if_pos (beq_iff_eq.mpr h)

theorem execVsync_waits {s : State} (h : s.hart.head ≠ s.hart.next) : execVsync s = .next (s.stall .vsync) :=
  if_neg fun e => h (beq_iff_eq.mp e)

end Sys2Proof.Machine

namespace Sys2Proof.Claims
open Sys2Proof.Machine

section Rqget
variable {s : State} {w : Word} {rest : List Word} (d : XReg) (hr : s.hart.replies = w :: rest)
include hr

/-- rqget takes the oldest reply (R58, R338). -/
theorem rqget_clean (hb : (Map.find s.hart.replyBad 0).isSome = false) :
    ∃ t, exec (.rqget d) s = .next t ∧ t.xr d = (if d = 0 then 0 else w) ∧ OtherX s t d ∧ OnlyHart s t ∧ t.pc = s.pc + 4
      ∧ t.hart = { (s.hart.dropReply rest).xw d w with pc := s.hart.pc + 4, wait := none, answered := false } := by
  obtain ⟨u, hu⟩ : ∃ u, u = s.mod fun v => v.dropReply rest := ⟨_, rfl⟩
  have hh : u.hart = s.hart.dropReply rest := hu ▸ State.mod_hart _ _
  have hx : OtherX u (u.done d w) d → OtherX s (u.done d w) d := fun h r hn => by
    obtain ⟨h1, h2⟩ := h r hn
    unfold XPoisoned at h2 ⊢
    rw [hh] at h2
    exact ⟨h1.trans (by rw [State.xr, hh]; rfl), h2⟩
  obtain ⟨t, ht, h1, -, h3, h4, -, h6, -⟩ := writesX_done u d w
  obtain rfl : u.done d w = t := Host.Outcome.next.inj ht
  refine ⟨_, (execRqget_clean d hr hb).trans (by rw [← hu]), h1, hx h3, ?_, ?_, by rw [done_hart, hh]; rfl⟩
  · exact OnlyHart.trans (hu ▸ onlyHart_mod s _) h6
  · rw [h4, State.pc, hh]
    rfl

/-- A poisoned reply leaves the queue and x[d] unwritten (R206-R208). -/
theorem rqget_poisoned (hb : (Map.find s.hart.replyBad 0).isSome = true) :
    ∃ t, exec (.rqget d) s = .next t ∧ OnlyHart s t
      ∧ t.hart = { s.hart.dropReply rest with kmcheck := mcheckRecord 0 0 false 0, mcPend := some (s.hart.next.setWidth 64)
                                              pc := s.hart.pc + 4, wait := none, answered := false } := by
  obtain ⟨u, hu⟩ : ∃ u, u = s.mod fun v => v.dropReply rest := ⟨_, rfl⟩
  have hh : u.hart = s.hart.dropReply rest := hu ▸ State.mod_hart _ _
  have hc : u.cur = s.cur := hu ▸ rfl
  refine ⟨_, (execRqget_poisoned d hr hb).trans (by rw [← hu]), ?_, ?_⟩
  · rw [← hc]
    exact (OnlyHart.trans (hu ▸ onlyHart_mod s _) (onlyHart_mod u _)).trans (onlyHart_mod _ _)
  · rw [← hc]
    refine (State.mod_hart _ _).trans ?_
    rw [State.scalarPoisoned_hart, hh]
    rfl

end Rqget

/-- Settles O26: each of the four runs on the queues of its hart alone. -/
theorem repliesAndSync : Obligations.RepliesAndSync := by
  unfold Obligations.RepliesAndSync
  intro s d
  refine ⟨fun w rest hr => ⟨fun hb => ?_, fun hb => ?_⟩, fun hr => ?_, writesX_done s d _, writesX_done s d _,
    fun h => ⟨?_, fun hw => ?_⟩, fun h => ?_⟩
  · obtain ⟨t, ht, hx, ho, hh, hpc, e⟩ := rqget_clean d hr hb
    refine ⟨t, ht, hx, ho, ⟨?_, fun k => ?_, hpc, hh⟩, ?_⟩
    · rw [e]
      unfold Hart.xw
      split <;> rfl
    · rw [e, ← find_dropMark]
      unfold Hart.xw
      split <;> rfl
    · rw [e]
      unfold Hart.xw
      split <;> rfl
  · obtain ⟨t, ht, hh, e⟩ := rqget_poisoned d hr hb
    obtain ⟨-, hsrc, -, hkill, -⟩ := mcheckRecord_fields 0 0 false 0
    refine ⟨t, ht, ⟨fun r => Hart.xr_eq_of_x (by rw [e]; rfl) r, by rw [e]; rfl⟩,
      ⟨by rw [e]; rfl, fun k => ?_, by rw [State.pc, e]; rfl, hh⟩, by rw [e], by rw [e]; exact hsrc, by rw [e]; exact hkill⟩
    rw [e]
    exact find_dropMark _ k
  · rw [execRqget_none d hr]
    exact waitsIn_stall s _
  · show GoesTo s _ (execVsync s)
    rw [execVsync_ended h]
    exact goesTo_advance s
  · show GoesTo s _ (if s.hart.wait = some .vsync then execVsync s else .next s)
    rw [if_pos hw, execVsync_ended h]
    exact goesTo_advance s
  · show WaitsIn s _ (execVsync s)
    rw [execVsync_waits h]
    exact waitsIn_stall s _

end Sys2Proof.Claims

/-! PROOFS. A turn of a vector context (R52, R55, R81, R207, R210, R211, R217, R285). -/

namespace Sys2Proof.Machine

/-! ### The turn of a vector context -/

/-- A turn of a vector context that the agenda, or the round robin, gives. -/
theorem step_vec {s s0 : State} {h : Nat} (hd : s.isDead = false) (hn : s.nextMove = some (.vec h, s0)) :
    step s = stepVec (s0.turn h) := by
  simp [step, hd, hn, stepMove]

/-- A context that is held by nothing runs the word that it has fetched. -/
theorem stepVec_run {s s1 : State} {i : Instr} (hb : s.beforeWord = none) (hw : s.heldV = none) (hf : s.fetchedV = .run i s1) :
    stepVec s = runV i (s1.issueV (some i)) := by
  simp only [stepVec, hb, hw, hf]

theorem stepVec_done {s t : State} (hb : s.beforeWord = none) (hw : s.heldV = none) (hf : s.fetchedV = .done t) :
    stepVec s = .next t := by
  simp only [stepVec, hb, hw, hf]

/-- A context that waits goes on with the word that it holds. -/
theorem stepVec_held {s : State} {i : Instr} (hb : s.beforeWord = none) (hw : s.heldV = some i) : stepVec s = runV i s := by
  simp only [stepVec, hb, hw]

theorem VWait.isFetch_of_ne {w : VWait} (h : w ≠ .fetch) : w.isFetch = false := by
  cases w with
  | fetch => exact absurd rfl h
  | _ => rfl

/-- A context that waits in anything but its fetch holds the word that it has issued (R37). -/
theorem State.heldV_of_wait {s : State} {w : VWait} (hw : s.ctx.waiting = some w) (hf : w ≠ .fetch) : s.heldV = s.ctx.issued := by
  simp [State.heldV, hw, VWait.isFetch_of_ne hf]

/-! ### The word at the block pc -/

section Fetch
variable {s s1 : State} {x : Xlat} (ht : s.translate (s.vecView s.cur) .fetch (s.bpc s.cur) PaKind.isMem = .ok (x, s1))
include ht

/-- A word on another node that has not come is waited for (R217). -/
theorem State.fetchedV_remote (hr : (s1.paKind x.pa).isRemote = true) (hn : s.ctx.answered = false) : s.fetchedV =
    .done ((s1.ask s.cur .vfetch ((s.vecView s.cur).faultAddr (s.bpc s.cur) x.pa) x.pa).modCtx s.cur
      fun c => { c with waiting := some .fetch }) := by
  simp only [State.ctx, State.hart] at hn
  simp [State.fetchedV, State.fetchV, ht, hr, hn]

/-- The eight bytes at the block pc, the lowest first, are the word (R1, R285). -/
theorem State.fetchedV_run {i : Instr} (hr : (s1.paKind x.pa).isRemote = false ∨ s.ctx.answered = true)
    (hp : s1.vecPoison s.cur (s1.cell x.pa) 8 = false)
    (hd : decodeV (ofBytes 64 (s1.vecBytes s.cur (s1.cell x.pa) 8)) = .ok i) : s.fetchedV = .run i s1 := by
  simp only [State.ctx, State.hart] at hr
  have hw : ((s1.paKind x.pa).isRemote && !(s.hartAt s.cur).ctx.answered) = false := by
    rcases hr with hr | hr <;> simp [hr]
  simp [State.fetchedV, State.fetchV, ht, hw, hp, hd]

end Fetch

/-! ### Block registers that hold poison (R207) -/

theorem State.bBad_iff (s : State) (i : Instr) : s.bBad i = true ↔ ∃ r ∈ bReads i, Claims.BPoisoned s r := by
  rw [State.bBad, Bool.and_eq_true, List.any_eq_true]
  refine ⟨fun h => h.2, fun ⟨r, hr, hp⟩ => ⟨?_, r, hr, hp⟩⟩
  have hp' : (Map.find s.ctx.bpoison r.toNat).isSome = true := hp
  cases hx : s.ctx.bpoison with
  | nil => rw [hx] at hp'; cases hp'
  | cons e m => rfl

/-- Whether a block register holds poison does not change as a word issues. -/
theorem issueV_reads (s : State) (i : Option Instr) (r : BReg) : Claims.BPoisoned (s.issueV i) r ↔ Claims.BPoisoned s r := by
  unfold Claims.BPoisoned State.issueV
  rw [Claims.modCtx_ctx]
  rfl

/-- A word that reads poison comes to its consumption (R207). -/
theorem State.guardB_poisoned {s t : State} {i : Instr} {r : BReg} (hr : r ∈ bReads i) (hp : Claims.BPoisoned s r) :
    s.guardB i (.next t) = .next (s.consumeB t i) := if_pos ((s.bBad_iff i).mpr ⟨r, hr, hp⟩)

/-! ### Where poison is consumed (R207, R210) -/

/-- The strip of the current context is sealed. -/
def State.Shut (s : State) : Prop := ∃ st, s.ctx.strip = some st ∧ st.isSealed = true

theorem State.shut_iff (s : State) : s.Shut ↔ (s.ctx.strip.any fun st => st.isSealed) = true := by
  unfold State.Shut
  cases s.ctx.strip <;> simp

/-- The word that comes from u to t, where it waits, has performed a part (R210). -/
def State.Begun (u t : State) : Prop := t.ctx.waiting = some .clusters ∨ t.ctx.step ≠ u.ctx.step
  ∨ (t.coreAt (coreOf u.cur)).descs ≠ (u.coreAt (coreOf u.cur)).descs

theorem State.begun_iff (u t : State) : u.Begun t ↔ u.partDone t = true := by
  simp [State.Begun, State.partDone, or_assoc]

/-- A fault at which a word has performed nothing, and a wait before it performs anything, come first (R210). -/
theorem State.consumeB_bare {u t : State} {i : Instr} (h : u.faultsBare t = true ∨ (t.ctx.waiting ≠ none ∧ ¬ u.Begun t)) :
    u.consumeB t i = t := by
  refine if_pos ?_
  rcases h with h | ⟨hw, hb⟩
  · rw [h, Bool.true_or]
  · rw [State.begun_iff, Bool.not_eq_true] at hb
    rw [hb, Option.isSome_iff_ne_none.mpr hw]
    exact Bool.or_true _

section Consumes
variable {u t : State} {i : Instr} (hf : u.faultsBare t = false) (hw : t.ctx.waiting = none ∨ u.Begun t)
include hf hw

/-- Else the word consumes the poison, in the strip as it would have sealed it (R81), and ICNT counts it (R211). -/
theorem State.consumeB_performs : u.consumeB t i =
    let k := if (t.ctx.strip.any fun st => st.isSealed) && !(u.ctx.strip.any fun st => st.isSealed) then u.seal u.cur else u
    (if counts i then k.countIssue u.cur else k).consume u.cur 1 0 := by
  refine if_neg ?_
  rw [hf, Bool.false_or, Bool.and_eq_true, not_and]
  intro hs
  rcases hw with hw | hw
  · rw [hw] at hs
    cases hs
  · rw [(u.begun_iff t).mp hw]
    exact Bool.false_ne_true

theorem State.consumeB_seals (ht : t.Shut) (hu : ¬ u.Shut) :
    u.consumeB t i = (if counts i then (u.seal u.cur).countIssue u.cur else u.seal u.cur).consume u.cur 1 0 := by
  rw [State.shut_iff] at ht hu
  rw [State.consumeB_performs hf hw, ht, Bool.eq_false_iff.mpr hu]
  rfl

theorem State.consumeB_stays (h : ¬ t.Shut ∨ u.Shut) :
    u.consumeB t i = (if counts i then u.countIssue u.cur else u).consume u.cur 1 0 := by
  have hn : ((t.ctx.strip.any fun st => st.isSealed) && !(u.ctx.strip.any fun st => st.isSealed)) = false := by
    rcases h with h | h
    · rw [State.shut_iff] at h
      rw [Bool.eq_false_iff.mpr h, Bool.false_and]
    · rw [State.shut_iff] at h
      rw [h]
      exact Bool.and_false _
  rw [State.consumeB_performs hf hw, hn]
  rfl

end Consumes

end Sys2Proof.Machine

namespace Sys2Proof.Claims
open Sys2Proof.Machine

/-- A context that waits for its word keeps its block. -/
theorem waits_vfetch {s1 : State} (h : Nat) (hc : s1.cur = h) (addr : Word) (pa : Nat) :
    let t := (s1.ask h .vfetch addr pa).modCtx h fun c => { c with waiting := some .fetch }
    t.ctx.blk = s1.ctx.blk ∧ t.ctx.waiting = some .fetch ∧ t.asking h .vfetch pa = true := by
  subst hc
  intro t
  obtain ⟨hh, hu⟩ := s1.ask_harts s1.cur .vfetch addr pa
  have e : t.ctx = { s1.ctx with waiting := some .fetch } := by
    show (((s1.ask s1.cur .vfetch addr pa).modCtx s1.cur _).hartAt (s1.ask s1.cur .vfetch addr pa).cur).ctx = _
    rw [hu, State.modCtx_hartAt_self, State.hartAt, hh]
    rfl
  exact ⟨by rw [e], by rw [e], s1.asking_ask ..⟩

/-- Settles O5, by what the fetch of the word comes to and by where a word that reads poison consumes it. -/
theorem stepRunsV : Obligations.StepRunsV := by
  unfold Obligations.StepRunsV
  refine ⟨fun s s0 s1 h x w i hd hn hb hw ht => ?_, fun s s0 h w i hd hn hb hw hf hi hx => ?_⟩
  · rw [step_vec hd hn]
    have hcur : s1.cur = h := (State.translate_frame ht).1.2.2.2.1
    refine ⟨fun hr hna => ?_, fun hr hp hword hdec => ?_⟩
    · rw [stepVec_done hb hw (State.fetchedV_remote ht hr hna)]
      exact ⟨_, rfl, waits_vfetch h hcur _ _⟩
    · subst hword
      rw [stepVec_run hb hw (State.fetchedV_run ht hr hp hdec)]
      intro u
      refine ⟨fun hc => guardB_clean _ _ fun r hr => by rw [issueV_reads]; exact hc r hr, fun r hr hc t het => ?_⟩
      intro begun shut consumes
      have hrun : runV i u = .next (u.consumeB t i) := by
        rw [runV, het]
        exact State.guardB_poisoned hr ((issueV_reads s1 _ r).mpr hc)
      have hu : u.cur = h := hcur
      have hbegun : begun ↔ u.Begun t := by
        unfold State.Begun
        rw [hu]
      refine ⟨fun hq => ?_, fun hbare hq => ⟨fun h1 h2 => ?_, fun h1 => ?_⟩⟩
      · rw [hbegun] at hq
        rw [hrun, State.consumeB_bare hq]
      · rw [hbegun] at hq
        show runV i u = _
        rw [hrun, State.consumeB_seals hbare hq h1 h2, hu]
      · rw [hbegun] at hq
        show runV i u = _
        rw [hrun, State.consumeB_stays hbare hq h1, hu]
  · rw [step_vec hd hn, stepVec_held hb ((State.heldV_of_wait hw hf).trans hi)]
    exact guardB_clean _ _ hx

end Sys2Proof.Claims

/-! PROOFS. The loop step, and the branches and loops of a block (R54, R298, R301). -/

namespace Sys2Proof.Machine

/-! ### The loop step (R301) -/

theorem loopStep_next {pc : Word} {lc : List W32} {loops : List Loop} (h : ∀ l ls, loops = l :: ls → l.last ≠ pc) :
    loopStep pc lc loops = (lc, loops, pc + 8) := by
  cases loops with
  | nil => rfl
  | cons l ls => exact if_neg (h l ls rfl)

/-- The innermost loop goes back to its first word while its counter is not 0. -/
theorem loopStep_back {pc : Word} {lc : List W32} {l : Loop} (ls : List Loop) (h : l.last = pc) (hk : lc.getD l.n 0 - 1 ≠ 0) :
    loopStep pc lc (l :: ls) = (lc.set l.n (lc.getD l.n 0 - 1), l :: ls, l.first) := by
  rw [loopStep, if_pos h]
  exact if_pos hk

/-- A loop that ends passes the step on to the loop around it. -/
theorem loopStep_out {pc : Word} {lc : List W32} {l : Loop} (ls : List Loop) (h : l.last = pc) (hk : lc.getD l.n 0 - 1 = 0) :
    loopStep pc lc (l :: ls) = loopStep pc (lc.set l.n (lc.getD l.n 0 - 1)) ls := by
  rw [loopStep, if_pos h]
  exact if_neg fun hn => hn hk

/-- Where a word of a block leads. -/
theorem VCtx.passed_block {c : VCtx} {b : Block} (hb : c.blk = some b) : c.passed.lc = (loopStep b.pc c.lc c.loops).1
    ∧ c.passed.loops = (loopStep b.pc c.lc c.loops).2.1
    ∧ c.passed.blk = some { b with pc := (loopStep b.pc c.lc c.loops).2.2 } := by
  simp only [VCtx.passed, hb, and_self]

/-! ### A taken branch (R298) -/

/-- The loops that a branch to t leaves active: those from the innermost one whose body, and that of each loop around it, holds
t. -/
def loopsKept (t : Word) (l : List Loop) : List Loop :=
  (l.reverse.takeWhile fun x => x.first.ule t && t.ule x.last).reverse

/-- The loops that it ends. -/
def loopsGone (t : Word) (l : List Loop) : List Loop := l.take (l.length - (loopsKept t l).length)

theorem loopsKept_eq (t : Word) (l : List Loop) : ∃ g, l = g ++ loopsKept t l
    ∧ g = (l.reverse.dropWhile fun x => x.first.ule t && t.ule x.last).reverse := by
  refine ⟨_, ?_, rfl⟩
  rw [loopsKept, ← List.reverse_append, List.takeWhile_append_dropWhile, List.reverse_reverse]

theorem loopsGone_eq (t : Word) (l : List Loop) :
    loopsGone t l = (l.reverse.dropWhile fun x => x.first.ule t && t.ule x.last).reverse := by
  obtain ⟨g, hl, hg⟩ := loopsKept_eq t l
  have front : ∀ a k : List Loop, (a ++ k).take ((a ++ k).length - k.length) = a := by simp
  have := front g (loopsKept t l)
  rwa [← hl, hg] at this

/-- The loops that end are the inner ones. -/
theorem loopsGone_append (t : Word) (l : List Loop) : l = loopsGone t l ++ loopsKept t l := by
  obtain ⟨g, hl, hg⟩ := loopsKept_eq t l
  rwa [loopsGone_eq, ← hg]

/-- The body of each loop that stays holds the target. -/
theorem mem_loopsKept {t : Word} {l : List Loop} {x : Loop} (h : x ∈ loopsKept t l) :
    x.first.toNat ≤ t.toNat ∧ t.toNat ≤ x.last.toNat := by
  have hp := List.mem_takeWhile_imp (List.mem_reverse.mp h)
  rw [Bool.and_eq_true, BitVec.ule, BitVec.ule, decide_eq_true_eq, decide_eq_true_eq] at hp
  exact hp

/-- The outermost loop that ends does not hold it. -/
theorem getLast?_loopsGone {t : Word} {l : List Loop} {x : Loop} (h : (loopsGone t l).getLast? = some x) :
    ¬ (x.first.toNat ≤ t.toNat ∧ t.toNat ≤ x.last.toNat) := by
  rw [loopsGone_eq, List.getLast?_reverse] at h
  have hn : (x.first.ule t && t.ule x.last) = false := by
    have := List.head?_dropWhile_not (fun x : Loop => x.first.ule t && t.ule x.last) l.reverse
    rw [h] at this
    exact this
  intro ⟨h1, h2⟩
  rw [BitVec.ule, BitVec.ule, decide_eq_true h1, decide_eq_true h2] at hn
  cases hn

/-- The counters of loops that end read 0. -/
theorem getD_foldl_clear (g : List Loop) (lc : List W32) (i : Nat) :
    (g.foldl (fun (m : List W32) l => m.set l.n 0) lc).getD i 0 = if g.any (fun l => l.n == i) then 0 else lc.getD i 0 := by
  induction g generalizing lc with
  | nil => rfl
  | cons l g ih =>
    rw [List.foldl_cons, ih, List.any_cons]
    by_cases h : l.n = i
    · rw [h, beq_self_eq_true, Bool.true_or, if_pos rfl]
      split
      · rfl
      · by_cases hi : i < lc.length <;> simp [hi]
    · rw [beq_false_of_ne h, Bool.false_or, List.getD_eq_getElem?_getD, List.getD_eq_getElem?_getD, List.getElem?_set_ne h]

/-- The context once its word has branched to t. -/
def VCtx.branched (c : VCtx) (t : Word) : VCtx :=
  { c with blk := c.blk.map fun b => { b with pc := t }
           lc := (loopsGone t c.loops).foldl (fun m l => m.set l.n 0) c.lc, loops := loopsKept t c.loops
           step := 0, vsup := false, waiting := none }

/-- The context once its branch has placed it, before it waits for nothing. -/
def VCtx.branching (t : Word) (c : VCtx) : VCtx := { c.branched t with waiting := c.waiting }

theorem State.endBranch_eq (s : State) (t : Word) : s.endBranch t =
    (s.modCtx s.cur (VCtx.branching t)).modCtx s.cur fun c => { c with waiting := none } := rfl

/-- The context once a bloop has opened a loop, or passed over its body. -/
def VCtx.looped (c : VCtx) (n : Nat) (count : W32) (pc last : Word) : VCtx :=
  { c with
    blk := c.blk.map fun b => { b with pc := if count = 0 then last + 8 else pc + 8 }
    lc := if count = 0 then c.lc else c.lc.set n count
    loops := if count = 0 then c.loops else { n := n, first := pc + 8, last := last } :: c.loops
    waiting := none, step := 0, vsup := false }

theorem State.bpc_of_blk {s : State} {b : Block} (hb : s.ctx.blk = some b) : s.bpc s.cur = b.pc := by
  rw [State.bpc, show (s.hartAt s.cur).ctx.blk = some b from hb]
  rfl

theorem State.atLoopEnd_iff {s : State} {b : Block} (hb : s.ctx.blk = some b) :
    s.atLoopEnd s.cur = true ↔ ∃ l ∈ s.ctx.loops, l.last = b.pc := by
  rw [State.atLoopEnd, State.bpc_of_blk hb, List.any_eq_true]
  simp only [beq_iff_eq]
  rfl

end Sys2Proof.Machine

namespace Sys2Proof.Claims
open Sys2Proof.Machine

/-- An illegal word of a block instruction (R285). -/
theorem faultsWord_illegal (s : State) : FaultsWord s 0x01 0 (endB s (.error illegalWord)) := faultsWord_stop s 0 (by decide)

/-- A block instruction that changes nothing but where the next word is. -/
theorem ctxBecomes_pass (s : State) : CtxBecomes s id (endB s (.ok s)) := by
  obtain ⟨_, _, _, ep⟩ := s.ctx.passed_eq
  have hc : (s.passWord s.cur).ctx = s.ctx.passed := passed_ctx s
  refine ⟨_, rfl, onlyHart_modCtx s VCtx.passed, nextWord_of_passed hc rfl rfl rfl, ?_, by rw [hc, ep]; rfl⟩
  rw [State.passWord_eq, modCtx_hart]

/-! ### Branches -/

theorem endBranch_hart (s : State) (t : Word) : (s.endBranch t).hart = s.hart.withCtx (s.ctx.branched t) := by
  rw [State.endBranch_eq]
  refine (modCtx_hart (s.modCtx s.cur (VCtx.branching t)) _).trans ?_
  rw [modCtx_hart, modCtx_ctx]
  rfl

theorem onlyHart_endBranch (s : State) (t : Word) : OnlyHart s (s.endBranch t) := by
  rw [State.endBranch_eq]
  exact (onlyHart_modCtx s _).trans (onlyHart_modCtx (s.modCtx s.cur (VCtx.branching t)) _)

section Words
variable {s : State} {b : Block} (hb : s.ctx.blk = some b)
include hb

/-- A branch at the end of a loop body is an illegal word (R54). -/
theorem exec_atEnd (h : ∃ l ∈ s.ctx.loops, l.last = b.pc) (c : Cond) (ba bb : BReg) (off : W32) :
    exec (.bbr c ba bb off) s = endB s (.error illegalWord) ∧ exec (.bjmp off) s = endB s (.error illegalWord) := by
  have he := (State.atLoopEnd_iff hb).mpr h
  exact ⟨if_pos he, if_pos he⟩

theorem not_atLoopEnd (h : ¬ ∃ l ∈ s.ctx.loops, l.last = b.pc) : s.atLoopEnd s.cur = false :=
  Bool.eq_false_iff.mpr fun he => h ((State.atLoopEnd_iff hb).mp he)

theorem exec_bbr_taken {c : Cond} {ba bb : BReg} (off : W32) (h : ¬ ∃ l ∈ s.ctx.loops, l.last = b.pc)
    (hc : condHolds c (s.ctx.br ba) (s.ctx.br bb) = true) :
    exec (.bbr c ba bb off) s = .next (s.endBranch (b.pc + 8 * off.signExtend 64)) := by
  show execBbr c ba bb off s = _
  rw [execBbr, not_atLoopEnd hb h, State.bpc_of_blk hb, hc]
  rfl

theorem exec_bbr_passed {c : Cond} {ba bb : BReg} (off : W32) (h : ¬ ∃ l ∈ s.ctx.loops, l.last = b.pc)
    (hc : condHolds c (s.ctx.br ba) (s.ctx.br bb) = false) : exec (.bbr c ba bb off) s = endB s (.ok s) := by
  show execBbr c ba bb off s = _
  rw [execBbr, not_atLoopEnd hb h, hc]
  rfl

theorem exec_bjmp (off : W32) (h : ¬ ∃ l ∈ s.ctx.loops, l.last = b.pc) :
    exec (.bjmp off) s = .next (s.endBranch (b.pc + 8 * off.signExtend 64)) := by
  show execBjmp off s = _
  rw [execBjmp, not_atLoopEnd hb h, State.bpc_of_blk hb]
  rfl

end Words

/-! ### bloop (R54, R301) -/

/-- What makes a bloop of loop n with a count, over a body that ends at `last`, an illegal word. -/
def BloopBad (s : State) (b : Block) (n : Nat) (last : Word) (count : W32) (off : W32) : Prop :=
  (∃ l ∈ s.ctx.loops, l.last = b.pc) ∨ off.toInt ≤ 0 ∨ (count ≠ 0 ∧ 4 ≤ s.ctx.loops.length)
    ∨ (∃ l ∈ s.ctx.loops, l.n = n) ∨ ∃ l ls, s.ctx.loops = l :: ls ∧ l.last.toNat < last.toNat

theorem bloopBad_iff {s : State} {b : Block} (hb : s.ctx.blk = some b) (n : Nat) (last : Word) (count off : W32) :
    s.bloopBad n last count.toNat off = true ↔ BloopBad s b n last count off := by
  have hz : count.toNat = 0 ↔ count = 0 := by simp [BitVec.toNat_eq]
  unfold BloopBad State.bloopBad
  rw [← State.atLoopEnd_iff hb]
  cases hl : s.ctx.loops with
  | nil => simp
  | cons l ls => simp [hz, or_assoc, BitVec.ult]

section Bloop
variable {s : State} {b : Block} (hb : s.ctx.blk = some b) {n : BitVec 2} {ba : BReg} {off : W32}
include hb

theorem exec_bloop_bad (h : BloopBad s b n.toNat (b.pc + 8 * off.signExtend 64) ((s.ctx.br ba).setWidth 32) off) :
    FaultsWord s 0x01 0 (exec (.bloop n ba off) s) := by
  rw [← bloopBad_iff hb, ← State.bpc_of_blk hb] at h
  have e : exec (.bloop n ba off) s = endB s (.error illegalWord) := if_pos h
  rw [e]
  exact faultsWord_illegal s

theorem exec_bloop (h : ¬ BloopBad s b n.toNat (b.pc + 8 * off.signExtend 64) ((s.ctx.br ba).setWidth 32) off) :
    exec (.bloop n ba off) s = .next (s.modCtx s.cur fun c =>
      c.looped n.toNat ((s.ctx.br ba).setWidth 32) b.pc (b.pc + 8 * off.signExtend 64)) := by
  rw [← bloopBad_iff hb, ← State.bpc_of_blk hb] at h
  rw [← State.bpc_of_blk hb]
  exact if_neg h

end Bloop

/-- Settles O39: the loop step by its three cases, a taken branch by the loops that it keeps and ends, and bloop by what makes it
an illegal word. -/
theorem loopsAndBranches : Obligations.LoopsAndBranches := by
  unfold Obligations.LoopsAndBranches
  refine ⟨fun s b hb => ?_, fun s b c ba bb n off hb => ?_⟩
  · obtain ⟨hlc, hloops, hblk⟩ := VCtx.passed_block hb
    refine ⟨fun h => ?_, fun l ls hl he => ?_⟩
    · rw [passed_ctx, hlc, hloops, hblk, loopStep_next h]
      exact ⟨rfl, rfl, rfl⟩
    · intro k u
      refine ⟨fun hk => ?_, fun hk => ?_⟩
      · rw [passed_ctx, hlc, hloops, hblk, hl, loopStep_back ls he hk]
        exact ⟨rfl, rfl, rfl⟩
      · have hu : u.ctx = { s.ctx with lc := s.ctx.lc.set l.n k, loops := ls } := modCtx_ctx s _
        obtain ⟨ulc, uloops, ublk⟩ := VCtx.passed_block (c := u.ctx) (b := b) (by rw [hu]; exact hb)
        rw [passed_ctx, passed_ctx, hlc, hloops, hblk, ulc, uloops, ublk, hl, loopStep_out ls he hk, hu]
        exact ⟨rfl, rfl, rfl⟩
  · intro atEnd target count inBody branches opens
    have taken : branches (.next (s.endBranch target)) := by
      have hc : (s.endBranch target).ctx = s.ctx.branched target := by
        rw [State.ctx, endBranch_hart]
        rfl
      refine ⟨_, loopsGone target s.ctx.loops, rfl, onlyHart_endBranch s target, by rw [endBranch_hart]; rfl, ?_, ?_, ?_, ?_, ?_, ?_⟩
      · rw [hc, VCtx.branched, hb]
        rfl
      · rw [hc]
        exact loopsGone_append target s.ctx.loops
      · rw [hc]
        exact fun l hl => mem_loopsKept hl
      · exact fun l hl => getLast?_loopsGone hl
      · rw [hc]
        exact fun i => getD_foldl_clear _ _ i
      · rw [hc]
        rfl
    have loops : ∀ pc f k, s.ctx.looped n.toNat count b.pc target = { s.ctx with
        blk := some { b with pc := pc }, loops := f, lc := k, waiting := none, step := 0, vsup := false } →
        opens pc f k (.next (s.modCtx s.cur fun c => c.looped n.toNat count b.pc target)) := fun pc f k e => by
      have hc : (s.modCtx s.cur fun c => c.looped n.toNat count b.pc target).ctx = _ := (modCtx_ctx s _).trans e
      exact ⟨_, rfl, onlyHart_modCtx s _, by rw [modCtx_hart], by rw [hc], by rw [hc], by rw [hc], by rw [hc]⟩
    refine ⟨fun he => ?_, fun h => ?_, fun h4 h0 => ?_, fun l ls hl h => ?_, fun he hc => ?_, fun he hc => ?_, fun he => ?_,
      fun he hoff hn hin => ?_⟩
    · obtain ⟨e1, e2⟩ := exec_atEnd hb he c ba bb off
      rw [e1, e2]
      exact ⟨faultsWord_illegal s, faultsWord_illegal s, exec_bloop_bad hb (.inl he)⟩
    · rcases h with h | h
      · exact exec_bloop_bad hb (.inr (.inl h))
      · exact exec_bloop_bad hb (.inr (.inr (.inr (.inl h))))
    · exact exec_bloop_bad hb (.inr (.inr (.inl ⟨h0, h4⟩)))
    · exact exec_bloop_bad hb (.inr (.inr (.inr (.inr ⟨l, ls, hl, h⟩))))
    · rw [exec_bbr_taken hb off he hc]
      exact taken
    · rw [exec_bbr_passed hb off he hc]
      exact ctxBecomes_pass s
    · rw [exec_bjmp hb off he]
      exact taken
    · have good : (count ≠ 0 → s.ctx.loops.length < 4) → ¬ BloopBad s b n.toNat target count off := fun h4 => by
        rintro (h | h | ⟨h0, h⟩ | ⟨l, hl, h⟩ | ⟨l, ls, hl, h⟩)
        · exact he h
        · omega
        · have := h4 h0
          omega
        · exact hn l hl h
        · have := hin l ls hl
          omega
      refine ⟨fun h0 h4 => ?_, fun h0 => ?_⟩
      · rw [exec_bloop hb (good fun _ => h4)]
        refine loops _ _ _ ?_
        simp only [VCtx.looped, hb, h0, if_false, Option.map_some]
      · rw [exec_bloop hb (good fun h => absurd h0 h)]
        refine loops _ _ _ ?_
        simp only [VCtx.looped, hb, h0, if_true, Option.map_some]

end Sys2Proof.Claims

/-! PROOFS. Commands: vdisp, and the block that starts from one (R43-R48, R52, R180). -/

namespace Sys2Proof.Machine

/-! ### The checks of a vdisp (R46) -/

/-- The quota of a hart allows another command (R46). -/
def Hart.WithinQuota (v : Hart) : Prop := v.quota = 0 ∨ (v.next - v.head).toNat + 1 ≤ v.quota.toNat

section Checks
variable {s : State} {a : XReg} {n : BitVec 6}

theorem execVdisp_noContext (h : s.noContext = true) : exec (.vdisp a n) s = .next (s.raise (illegal (.vdisp a n))) := if_pos h

variable (hc : s.noContext = false) (ha : (s.xr a).toNat % 64 = 0)
include hc ha

/-- A hart with a context checks its quota, then its reply slots and its room. -/
theorem execVdisp_eq : exec (.vdisp a n) s =
    if s.hart.quota ≠ 0 ∧ s.hart.quota.toNat < s.hart.outstanding + 1 then
      .next (s.raise { cause := 0x0B, tval := zext s.hart.quota })
    else if s.hart.freeSlots < n.toNat ∨ s.hart.canEnqueue = false then .next (s.stall .vdisp)
    else .next (s.dispatch (s.xr a) n.toNat).advance := by
  show execVdisp a n s = _
  unfold execVdisp
  simp only [hc, aligned, ha, Bool.not_eq_true']
  rfl

theorem execVdisp_quota (hq : ¬ s.hart.WithinQuota) :
    exec (.vdisp a n) s = .next (s.raise { cause := 0x0B, tval := zext s.hart.quota }) := by
  rw [execVdisp_eq hc ha, if_pos]
  exact ⟨fun e => hq (.inl e), Nat.lt_of_not_le fun e => hq (.inr e)⟩

/-- Within its quota a command is accepted where it finds its reply slots and room, and waits for them else. -/
theorem execVdisp_within (hq : s.hart.WithinQuota) : exec (.vdisp a n) s =
    if s.hart.freeSlots < n.toNat ∨ s.hart.canEnqueue = false then .next (s.stall .vdisp)
    else .next (s.dispatch (s.xr a) n.toNat).advance := by
  rw [execVdisp_eq hc ha, if_neg]
  rintro ⟨h0, h1⟩
  rcases hq with e | e
  · exact h0 e
  · exact Nat.not_lt.mpr e h1

theorem execVdisp_accepts (hq : s.hart.WithinQuota) (hs : n.toNat + s.hart.replies.length + s.hart.rsv ≤ 64)
    (he : s.hart.canEnqueue = true) : exec (.vdisp a n) s = .next (s.dispatch (s.xr a) n.toNat).advance := by
  rw [execVdisp_within hc ha hq, if_neg]
  rintro (h | h)
  · unfold Hart.freeSlots at h
    omega
  · rw [he] at h
    cases h

theorem execVdisp_stalls (hq : s.hart.WithinQuota)
    (h : (64 < n.toNat + s.hart.replies.length + s.hart.rsv ∧ n ≠ 0) ∨ s.hart.canEnqueue = false) :
    exec (.vdisp a n) s = .next (s.stall .vdisp) := by
  rw [execVdisp_within hc ha hq, if_pos]
  refine h.imp (fun ⟨h, h0⟩ => ?_) id
  have : n.toNat ≠ 0 := fun e => h0 (BitVec.eq_of_toNat_eq e)
  unfold Hart.freeSlots
  omega

end Checks

/-! ### Where a command goes (R48) -/

section Queue
variable {v : Hart}

theorem Hart.canEnqueue_chip (h : v.queue.length < 256 ∧ v.spilt = 0) : v.canEnqueue = true := by
  rw [Hart.canEnqueue, decide_eq_true h.1, h.2]
  rfl

theorem Hart.canEnqueue_ring (h : tst v.ksqb 63 = true ∧ v.spilt.toNat < 2 ^ (fld v.ksqb 0 6 - 7)) : v.canEnqueue = true := by
  rw [Hart.canEnqueue, h.1, ringEntries, decide_eq_true h.2]
  exact Bool.or_true _

theorem Hart.canEnqueue_not (h : 256 ≤ v.queue.length ∨ v.spilt ≠ 0)
    (hr : tst v.ksqb 63 = false ∨ 2 ^ (fld v.ksqb 0 6 - 7) ≤ v.spilt.toNat) : v.canEnqueue = false := by
  have h1 : (decide (v.queue.length < 256) && v.spilt == 0) = false := by
    rcases h with h | h
    · rw [decide_eq_false (by omega), Bool.false_and]
    · rw [beq_false_of_ne h, Bool.and_false]
  have h2 : (tst v.ksqb 63 && decide (v.spilt.toNat < ringEntries v.ksqb)) = false := by
    rcases hr with h | h
    · rw [h, Bool.false_and]
    · rw [ringEntries, decide_eq_false (by omega), Bool.and_false]
  rw [Hart.canEnqueue, h1, h2]
  rfl

end Queue

/-- A hart that has taken a command: NEXT, and the reply slots that it reserves (R46). -/
def Hart.dispatched (v : Hart) (nrep : Nat) : Hart := { v with next := v.next + 1, rsv := v.rsv + nrep }

/-- A hart with a command at the end of its on-chip queue. -/
def Hart.enqueued (v : Hart) (c : Command) : Hart := { v with queue := v.queue ++ [c] }

/-- A hart with one more command in its squall ring. -/
def Hart.ringed (v : Hart) : Hart := { v with sqProd := v.sqProd + 1, spilt := v.spilt + 1 }

theorem State.dispatch_chip {s : State} (addr : Word) (nrep : Nat) (h : s.hart.queue.length < 256 ∧ s.hart.spilt = 0) :
    s.dispatch addr nrep = (s.mod fun v => v.enqueued (s.hart.command s.cur addr nrep)).mod fun v => v.dispatched nrep :=
  congrArg (State.mod · fun v => v.dispatched nrep) (if_pos h)

/-- The state once a command has been written to the squall ring. -/
def State.rung (s : State) (c : Command) : State :=
  s.perform s.cur (squallSlot s.hart.ksqb s.hart.sqProd) ({ c with spilt := true } : Command).bytes fun _ => true

theorem State.dispatch_ring {s : State} (addr : Word) (nrep : Nat) (h : ¬ (s.hart.queue.length < 256 ∧ s.hart.spilt = 0)) :
    s.dispatch addr nrep =
      ((s.rung (s.hart.command s.cur addr nrep)).modHart s.cur Hart.ringed).mod fun v => v.dispatched nrep :=
  congrArg (State.mod · fun v => v.dispatched nrep) (if_neg h)

/-! ### The block that starts (R52) -/

theorem State.canStart_of {s : State} {c : Command} {rest : List Command} (hq : s.hart.queue = c :: rest) (hb : s.ctx.blk = none)
    (hs : s.ctx.stopped = false) (hv : s.hart.scalar = false) (hg : s.gangPending (coreOf s.cur) = false)
    (hr : s.retirePending (coreOf s.cur) = false) (hc : (s.coreAt (coreOf s.cur)).ccOut = false)
    (ho : ∀ l, l ∈ s.junction (coreOf s.cur) → l.line ∉ s.hart.owed) : s.canStart s.cur = true := by
  have owes : s.owes s.cur = false := List.any_eq_false.mpr fun l hl => by
    rw [mem_hasNat, decide_eq_true_eq]
    exact ho l hl
  unfold State.canStart
  simp only [State.ctx, State.hart] at *
  simp [hq, hb, hs, hv, hg, hr, hc, owes]

/-- The hart as the block of its oldest command starts. -/
def Hart.started (c : Command) (v : Hart) : Hart := { v with owed := [], ctx := v.ctx.start c }

theorem State.startBlock_eq {s : State} {c : Command} {rest : List Command} (hq : s.hart.queue = c :: rest) :
    s.startBlock s.cur = s.mod (Hart.started c) := by
  have hq' : (s.hartAt s.cur).queue = c :: rest := hq
  unfold State.startBlock
  rw [hq']
  rfl

theorem State.beginBlock_eq {s : State} {c : Command} {rest : List Command} (hq : s.hart.queue = c :: rest) :
    s.beginBlock s.cur = if c.bad then (s.mod (Hart.started c)).consume s.cur 1 0 else s.mod (Hart.started c) := by
  have hq' : (s.hartAt s.cur).queue = c :: rest := hq
  rw [State.beginBlock, State.startBlock_eq hq, hq']
  rfl

/-- b0-b7 of the block that starts are the arguments of its command. -/
theorem VCtx.br_start (x : VCtx) (c : Command) (r : BReg) :
    (x.start c).br r = if r.toNat < 8 then c.args.getD r.toNat 0 else x.br r := by
  show Sparse.read 0 ((List.range 8).foldl (fun m i => Sparse.write 0 m i (c.args.getD i 0)) x.b) r.toNat = _
  rw [Sparse.read_foldl_write 0 fun i => c.args.getD i 0]
  simp only [List.mem_range]
  rfl

theorem VCtx.bpoison_start (x : VCtx) (c : Command) (k : Nat) :
    (Map.find (x.start c).bpoison k).isSome = true ↔ 8 ≤ k ∧ (Map.find x.bpoison k).isSome = true := by
  show (Map.find (x.bpoison.filter fun e => decide (8 ≤ e.1)) k).isSome = true ↔ _
  rw [Map.find_filter x.bpoison (fun j => decide (8 ≤ j))]
  by_cases h : 8 ≤ k <;> simp [h]

end Sys2Proof.Machine

namespace Sys2Proof.Claims
open Sys2Proof.Machine

section Dispatch
variable {s : State} {a : XReg} {n : BitVec 6}

/-- A command that goes to the on-chip queue, as one act (R46). -/
theorem hartBecomes_dispatch (h : s.hart.queue.length < 256 ∧ s.hart.spilt = 0) :
    HartBecomes s (fun y => (y.enqueued (s.hart.command s.cur (s.xr a) n.toNat)).dispatched n.toNat)
      (.next (s.dispatch (s.xr a) n.toNat).advance) := by
  refine ⟨_, rfl, ?_, ?_⟩
  · rw [State.dispatch_chip _ _ h]
    exact ((onlyHart_mod s _).trans (onlyHart_mod (s.mod _) _)).trans (onlyHart_mod ((s.mod _).mod _) _)
  · rw [State.dispatch_chip _ _ h, State.advance, State.mod_hart, State.mod_hart, State.mod_hart]
    rfl

/-- A command that goes to the squall ring: its 128 bytes perform there (R48). -/
theorem dispatch_spills (h : ¬ (s.hart.queue.length < 256 ∧ s.hart.spilt = 0)) :
    let t := (s.dispatch (s.xr a) n.toNat).advance
    (∃ m k p, t.hart = { s.hart.ringed.dispatched n.toNat with
      pc := s.hart.pc + 4, wait := none, answered := false, monHit := m, kmcheck := k, mcPend := p })
      ∧ Performs s t s.cur (squallSlot s.hart.ksqb s.hart.sqProd)
          ({ s.hart.command s.cur (s.xr a) n.toNat with spilt := true } : Command).bytes := by
  intro t
  obtain ⟨u, hu⟩ : ∃ u, u = s.rung (s.hart.command s.cur (s.xr a) n.toNat) := ⟨_, rfl⟩
  have hp : Performed (· = s.cur) s u := hu ▸ performed_performAs ..
  have ht : t = ((u.modHart s.cur Hart.ringed).mod fun v => v.dispatched n.toNat).advance := by
    rw [hu, ← State.dispatch_ring _ _ h]
  obtain ⟨m, k, p, e⟩ := hp.harts s.cur
  refine ⟨⟨m, k, p, ?_⟩, performs_of_part (t := u) (by rw [ht]; rfl) (hu ▸ performs_perform ..)⟩
  have hh : (u.modHart s.cur Hart.ringed).hart = Hart.ringed { s.hart with monHit := m, kmcheck := k, mcPend := p } := by
    rw [State.hart, show (u.modHart s.cur Hart.ringed).cur = s.cur from hp.cur, State.hartAt_modHart_self, e]
    rfl
  rw [ht, State.advance, State.mod_hart, State.mod_hart, hh]
  rfl

end Dispatch

section Start
variable {s : State} {c : Command} {rest : List Command} (hq : s.hart.queue = c :: rest)

/-- A block that starts changes its hart alone (R52). -/
theorem started_hart (s : State) (c : Command) : (s.mod (Hart.started c)).hart = s.hart.started c := State.mod_hart _ _

theorem started_ctx (s : State) (c : Command) : (s.mod (Hart.started c)).ctx = s.ctx.start c := by
  rw [State.ctx, started_hart]
  rfl

/-- What the control thread of a hart keeps when its block is killed as it starts. -/
theorem killed_fields {u v : Hart} {c : Command} {m : Bool} {q rec tval : Word}
    (e : u = (({ (v.started c).withKpenc q with monHit := m }).emptied).checked rec tval) :
    u.mcPend = some tval ∧ u.kmcheck = rec ∧ u.queue = [] ∧ u.pc = v.pc ∧ u.x = v.x ∧ u.xpoison = v.xpoison := by
  subst e
  simp only [Hart.checked, Hart.emptied, Hart.withKpenc, Hart.started, and_self]

/-- A command with an uncorrectable error kills the context that starts its block (R208; log 110). -/
theorem started_killed (hs : s.ctx.strip = none) (hcop : ∀ q ∈ s.ctx.copies, q.outstanding = false) :
    (s.mod (Hart.started c)).consume s.cur 1 0 = (s.mod (Hart.started c)).killNow s.cur 1 0 := by
  have hk := State.consume_kill (s := s.mod (Hart.started c)) (h := s.cur) 1 0 fun st hst => by
    have e : (s.mod (Hart.started c)).ctx.strip = some st := hst
    rw [started_ctx] at e
    exact absurd (hs.symm.trans e) nofun
  refine hk.trans (if_neg ?_)
  show ¬ (s.mod (Hart.started c)).ctx.copying = true
  rw [started_ctx, Bool.not_eq_true]
  exact List.any_eq_false.mpr fun q h => by rw [hcop q h]; exact Bool.false_ne_true

end Start

/-- Settles O24: vdisp by its checks in order, and the start of a block by what the command gives it. -/
theorem vdispEnqueues : Obligations.VdispEnqueues := by
  unfold Obligations.VdispEnqueues
  refine ⟨fun s a n => ⟨fun h => ?_, fun hc ha => ⟨fun hq => ?_, fun hq hs hlen hsp => ?_, fun hq hs hfull hring hroom => ?_,
    fun hq h => ?_⟩⟩, fun s c rest hq hb hstop hscal hgang hret hcc howed => ⟨fun hbad => ?_, fun hbad hstrip hcop => ?_⟩⟩
  · rw [execVdisp_noContext h]
    exact traps_raise s _
  · rw [execVdisp_quota hc ha hq]
    exact traps_raise s _
  · rw [execVdisp_accepts hc ha hq hs (Hart.canEnqueue_chip ⟨hlen, hsp⟩)]
    exact hartBecomes_dispatch ⟨hlen, hsp⟩
  · have hn : ¬ (s.hart.queue.length < 256 ∧ s.hart.spilt = 0) := fun ⟨h1, h2⟩ =>
      hfull.elim (fun h => Nat.not_lt.mpr h h1) fun h => h h2
    obtain ⟨⟨m, k, p, e⟩, hperf⟩ := dispatch_spills (s := s) (a := a) (n := n) hn
    exact ⟨_, execVdisp_accepts hc ha hq hs (Hart.canEnqueue_ring ⟨hring, hroom⟩), by rw [State.pc, e]; rfl, by rw [e]; rfl, by rw [e]; rfl,
      by rw [e]; rfl, by rw [e]; rfl, by rw [e]; rfl, hperf⟩
  · rw [execVdisp_stalls hc ha hq (h.imp id fun ⟨h1, h2⟩ => Hart.canEnqueue_not h1 h2)]
    exact waitsIn_stall s _
  · have hexec : exec .blockStart s = .next (s.mod (Hart.started c)) := by
      show execBlockStart s = _
      rw [execBlockStart, if_pos (State.canStart_of hq hb hstop hscal hgang hret hcc howed), State.beginBlock_eq hq, hbad]
      rfl
    refine ⟨_, hexec, onlyHart_mod s _, by rw [started_hart]; rfl, ?_, ?_, ?_, fun r => ?_, fun r => ?_, ?_⟩
    · rw [started_ctx]; rfl
    · rw [started_ctx]; rfl
    · rw [started_ctx]; rfl
    · rw [started_ctx]
      exact VCtx.br_start ..
    · rw [BPoisoned, started_ctx]
      exact VCtx.bpoison_start ..
    · rw [started_ctx]; rfl
  · have hexec : exec .blockStart s = .next ((s.mod (Hart.started c)).killNow s.cur 1 0) := by
      show execBlockStart s = _
      rw [execBlockStart, if_pos (State.canStart_of hq hb hstop hscal hgang hret hcc howed), State.beginBlock_eq hq, hbad, if_pos rfl,
        started_killed hstrip hcop]
    obtain ⟨u, hu⟩ : ∃ u, u = (s.mod (Hart.started c)).killNow s.cur 1 0 := ⟨_, rfl⟩
    have hk : Kills (s.mod (Hart.started c)) u 1 0 := hu ▸ kills_killNow (s.mod (Hart.started c)) 1 0
    obtain ⟨m, q, e⟩ := hk.hart
    rw [started_hart] at e
    obtain ⟨-, hsrc, -, hkill, -⟩ := mcheckRecord_fields 1 (s.hart.started c).killRewinds true 0
    obtain ⟨e1, e2, e3, e4, e5, e6⟩ := killed_fields e
    exact ⟨u, by rw [hu]; exact hexec, e1, by rw [e2]; exact hsrc, by rw [e2]; exact hkill, by rw [hk.ctx], e3, e4,
      fun r => Hart.xr_eq_of_x e5 r, e6⟩

end Sys2Proof.Claims

/-! PROOFS. A command in the squall ring, and its way back (R48, R49, Table 3-1). -/

namespace Sys2Proof.Machine

/-! ### The words of a command (Table 3-1) -/

/-- Bytes between others are the word at their offset. -/
theorem wordAt_mid {w off n : Nat} {bs pre mid post : List Byte} (hb : bs = pre ++ mid ++ post) (hp : pre.length = off)
    (hm : mid.length = n) : (wordAt w bs off n : BitVec w) = ofBytes w mid := by
  have e : (bs.drop off).take n = mid := by
    rw [hb, ← hp, List.append_assoc, List.drop_left, ← hm, List.take_left]
  rw [wordAt, e]

/-- A word that its bytes hold whole reads back. -/
theorem ofBytes_bytesOf {w n : Nat} (v : BitVec w) (h : w ≤ 8 * n) : ofBytes w (bytesOf v n) = v := by
  apply BitVec.eq_of_getLsbD_eq
  intro i hi
  rw [getLsbD_ofBytes_bytesOf, decide_eq_true hi, decide_eq_true (Nat.lt_of_lt_of_le hi h)]
  rfl

theorem ofBytes_byte (b : Byte) : ofBytes 8 [b] = b := by
  apply BitVec.eq_of_toNat_eq
  simp [ofBytes, natOfBytes]

/-- MODE, SPILT and SUM share a byte. -/
theorem command_flags {m : Nat} (hm : m < 4) (a b : Bool) :
    let f : Byte := BitVec.ofNat 8 (m + 4 * natOf a + 8 * natOf b)
    fld f 0 2 = m ∧ tst f 2 = a ∧ tst f 3 = b := by
  have all : ∀ m < 4, ∀ a b : Bool, let f : Byte := BitVec.ofNat 8 (m + 4 * natOf a + 8 * natOf b)
    fld f 0 2 = m ∧ tst f 2 = a ∧ tst f 3 = b := by decide
  exact all m hm a b

/-- The bytes of the arguments of a command. -/
def Command.argBytes (c : Command) : List Byte := (List.range 8).flatMap fun i => bytesOf (c.args.getD i 0) 8

theorem Command.argBytes_eq (c : Command) :
    c.argBytes = ((List.range 8).map fun i => c.args.getD i 0).flatMap fun w => bytesOf w 8 := by
  rw [Command.argBytes, List.flatMap_map]

theorem Command.length_argBytes (c : Command) : c.argBytes.length = 64 := by
  rw [Command.argBytes_eq, length_flatMap_bytesOf]
  rfl

theorem Command.length_bytes (c : Command) : c.bytes.length = 128 := by
  show (_ ++ c.argBytes ++ _ ++ _ : List Byte).length = 128
  simp only [List.length_append, length_bytesOf, c.length_argBytes, List.length_replicate, List.length_singleton]

/-- The bytes before the arguments. -/
def Command.headBytes (c : Command) : List Byte :=
  bytesOf c.pos 4 ++ [BitVec.ofNat 8 (c.nrep % 64)] ++ [BitVec.ofNat 8 (c.mode + 4 * natOf c.spilt + 8 * natOf c.sum)]
    ++ bytesOf (BitVec.ofNat 16 c.hart) 2 ++ bytesOf c.addr 8

theorem Command.length_headBytes (c : Command) : c.headBytes.length = 16 := by
  simp only [Command.headBytes, List.length_append, length_bytesOf, List.length_singleton]

theorem Command.bytes_eq (c : Command) :
    c.bytes = c.headBytes ++ c.argBytes ++ bytesOf c.katp 8 ++ List.replicate 40 0 := rfl

/-- Argument i stands 16 + 8·i bytes in. -/
theorem Command.wordAt_arg (c : Command) {i : Nat} (h : i < 8) : (wordAt 64 c.bytes (16 + 8 * i) 8 : Word) = c.args.getD i 0 := by
  have hd : c.bytes.drop (16 + 8 * i) = c.argBytes.drop (8 * i) ++ (bytesOf c.katp 8 ++ List.replicate 40 0) := by
    rw [Command.bytes_eq, List.append_assoc, List.append_assoc, ← c.length_headBytes, List.drop_length_add_append,
      List.drop_append_of_le_length (by rw [c.length_argBytes]; omega)]
  have hl : 8 ≤ (c.argBytes.drop (8 * i)).length := by
    rw [List.length_drop, c.length_argBytes]
    omega
  rw [wordAt, hd, List.take_append_of_le_length hl, Command.argBytes_eq, word_flatMap _ (by simpa using h)]
  simp

theorem Command.args_read {c : Command} (h : c.args.length = 8) :
    ((List.range 8).map fun i => (wordAt 64 c.bytes (16 + 8 * i) 8 : Word)) = c.args := by
  refine List.ext_getElem (by simp [h]) fun i h1 h2 => ?_
  have hi : i < 8 := by rwa [h] at h2
  rw [List.getElem_map, List.getElem_range, c.wordAt_arg hi, List.getD_eq_getElem _ _ h2]

/-- The words of the first 16 bytes. -/
theorem Command.headWords (c : Command) : (wordAt 32 c.bytes 0 4 : W32) = c.pos
    ∧ (wordAt 8 c.bytes 4 1 : Byte) = BitVec.ofNat 8 (c.nrep % 64)
    ∧ (wordAt 8 c.bytes 5 1 : Byte) = BitVec.ofNat 8 (c.mode + 4 * natOf c.spilt + 8 * natOf c.sum)
    ∧ (wordAt 16 c.bytes 6 2 : BitVec 16) = BitVec.ofNat 16 c.hart ∧ (wordAt 64 c.bytes 8 8 : Word) = c.addr := by
  obtain ⟨n, hn⟩ : ∃ n : Byte, n = BitVec.ofNat 8 (c.nrep % 64) := ⟨_, rfl⟩
  obtain ⟨f, hf⟩ : ∃ f : Byte, f = BitVec.ofNat 8 (c.mode + 4 * natOf c.spilt + 8 * natOf c.sum) := ⟨_, rfl⟩
  obtain ⟨post, hb⟩ : ∃ post, c.bytes = bytesOf c.pos 4 ++ [n] ++ [f] ++ bytesOf (BitVec.ofNat 16 c.hart) 2
      ++ bytesOf c.addr 8 ++ post :=
    ⟨c.argBytes ++ bytesOf c.katp 8 ++ List.replicate 40 0, by rw [Command.bytes_eq, Command.headBytes, hn, hf]; simp only [List.append_assoc]⟩
  rw [hb, ← hn, ← hf]
  refine ⟨?_, ?_, ?_, ?_, ?_⟩
  · exact (wordAt_mid (pre := []) (mid := bytesOf c.pos 4) (by simp only [List.append_assoc, List.nil_append]; rfl) rfl
      (length_bytesOf ..)).trans (ofBytes_bytesOf _ (by decide))
  · exact (wordAt_mid (pre := bytesOf c.pos 4) (mid := [n]) (by simp only [List.append_assoc]; rfl) (length_bytesOf ..)
      rfl).trans (ofBytes_byte n)
  · exact (wordAt_mid (pre := bytesOf c.pos 4 ++ [n]) (mid := [f]) (by simp only [List.append_assoc]; rfl)
      (by simp [length_bytesOf]) rfl).trans (ofBytes_byte f)
  · exact (wordAt_mid (pre := bytesOf c.pos 4 ++ [n] ++ [f]) (mid := bytesOf (BitVec.ofNat 16 c.hart) 2)
      (by simp only [List.append_assoc]; rfl) (by simp [length_bytesOf]) (length_bytesOf ..)).trans
      (ofBytes_bytesOf _ (by decide))
  · exact (wordAt_mid (pre := bytesOf c.pos 4 ++ [n] ++ [f] ++ bytesOf (BitVec.ofNat 16 c.hart) 2) (mid := bytesOf c.addr 8)
      (by simp only [List.append_assoc]; rfl) (by simp [length_bytesOf]) (length_bytesOf ..)).trans
      (ofBytes_bytesOf _ (by decide))

/-- katp stands 80 bytes in. -/
theorem Command.wordAt_katp (c : Command) : (wordAt 64 c.bytes 80 8 : Word) = c.katp :=
  (wordAt_mid c.bytes_eq (by rw [List.length_append, c.length_headBytes, c.length_argBytes]) (length_bytesOf ..)).trans
    (ofBytes_bytesOf _ (by decide))

/-- The bytes of a command hold every field of it. -/
theorem Command.ofBytes_bytes {c : Command} (hn : c.nrep < 64) (hm : c.mode < 4) (hh : c.hart < 65536) (ha : c.args.length = 8) :
    Command.ofBytes c.bytes c.bad = c := by
  obtain ⟨hpos, hnrep, hflags, hhart, haddr⟩ := c.headWords
  obtain ⟨hmode, hspilt, hsum⟩ := command_flags hm c.spilt c.sum
  have hn' : (BitVec.ofNat 8 (c.nrep % 64)).toNat % 64 = c.nrep := by
    rw [BitVec.toNat_ofNat]
    omega
  have hh' : (BitVec.ofNat 16 c.hart).toNat = c.hart := by
    rw [BitVec.toNat_ofNat]
    exact Nat.mod_eq_of_lt hh
  rw [Command.ofBytes, hpos, hnrep, hflags, hhart, haddr, args_read ha, c.wordAt_katp, hn', hh', hmode, hspilt, hsum]

end Sys2Proof.Machine

namespace Sys2Proof.Claims
open Sys2Proof.Machine

section
variable {s : State} (hs : s.hart.spilt ≠ 0) (hq : s.hart.queue.length < 256)
include hs hq

/-- An entry that can be read goes to the end of the on-chip queue (R48). -/
theorem refill_clean (hp : s.anyPoison (s.cell (squallSlot s.hart.ksqb s.hart.sqCons)) 128 = false) :
    s.refill s.cur = s.mod fun v =>
      { v with queue := v.queue ++ [Command.ofBytes (s.devBytes (s.cell (squallSlot s.hart.ksqb s.hart.sqCons)) 128) false]
               sqCons := v.sqCons + 1, spilt := v.spilt - 1, ctx := { v.ctx with refillBad := false } } := by
  have hc : s.ringRead s.cur s.hart.sqCons
      = Command.ofBytes (s.devBytes (s.cell (squallSlot s.hart.ksqb s.hart.sqCons)) 128) false := by
    rw [State.ringRead, ← hp]
    rfl
  have hbad : ¬ (s.ringRead s.cur s.hart.sqCons).bad = true := by
    rw [hc]
    exact Bool.false_ne_true
  rw [← hc]
  exact (if_neg (not_or.mpr ⟨hs, Nat.not_le.mpr hq⟩)).trans (if_neg hbad)

section
variable (hp : s.anyPoison (s.cell (squallSlot s.hart.ksqb s.hart.sqCons)) 128 = true)
include hp

/-- An entry with an uncorrectable error raises one machine check, and every command stays (R49). -/
theorem refill_poisoned (hb : s.ctx.refillBad = false) :
    s.refill s.cur = (s.mod fun v => { v with ctx := { v.ctx with refillBad := true } }).mod fun v =>
      { v with kmcheck := mcheckRecord 6 0 false (squallSlot s.hart.ksqb s.hart.sqCons)
               mcPend := some ((s.hart.head + BitVec.ofNat 32 s.hart.queue.length).setWidth 64) } :=
  (if_neg (not_or.mpr ⟨hs, Nat.not_le.mpr hq⟩)).trans ((if_pos hp).trans (if_neg ((Bool.not_eq_true _).mpr hb)))

/-- A read that meets it again raises no second machine check (log 109). -/
theorem refill_again (hb : s.ctx.refillBad = true) : s.refill s.cur = s :=
  (if_neg (not_or.mpr ⟨hs, Nat.not_le.mpr hq⟩)).trans ((if_pos hp).trans (if_pos hb))

end

end

/-- Settles O25: a command is read back word by word, and a refill is one of the three acts of State.refill. -/
theorem commandsReturn : Obligations.CommandsReturn := by
  unfold Obligations.CommandsReturn
  refine ⟨fun c hn hm hh ha => ⟨c.length_bytes, Command.ofBytes_bytes hn hm hh ha⟩, fun s hs hq => ?_⟩
  intro pa
  refine ⟨fun hp => ⟨_, congrArg Host.Outcome.next (refill_clean hs hq hp), onlyHart_mod s _, ?_⟩,
    fun hp hb => ⟨_, congrArg Host.Outcome.next (refill_poisoned hs hq hp hb),
      (onlyHart_mod s _).trans (onlyHart_mod _ _), ?_⟩,
    fun hp hb => congrArg Host.Outcome.next (refill_again hs hq hp hb)⟩
  · refine ⟨?_, ?_, ?_, ?_, sameX_mod s _ rfl rfl⟩ <;> simp [State.pc, pa]
  · obtain ⟨hv, hsrc, -, hkill, hpa⟩ := mcheckRecord_fields 6 0 false pa
    rw [State.mod_hart, State.mod_hart]
    exact ⟨rfl, hv, hsrc, hkill, hpa, rfl⟩

end Sys2Proof.Claims

/-! PROOFS. How a block ends, replies, and stops at the word itself (R53, R55-R57, R220-R223, R281, R367, R388). -/

namespace Sys2Proof.Machine

/-! ### Words that stop with none issued (R55, R281, R223) -/

/-- A word is taken back: of the context only what has issued changes. -/
theorem VCtx.unissue_eq (c : VCtx) : ∃ i r a, c.unissue = { c with issued := i, recent := r, acqM := a } := by
  unfold VCtx.unissue
  split
  · exact ⟨_, _, _, rfl⟩
  · exact ⟨_, _, _, rfl⟩

/-- A context in which a word has been taken back, with a suppression of kbrk. -/
def VCtx.takenBack (c : VCtx) (i : Option Instr) (r : List Instr) (a : Option (Sparse 1)) (v : Bool) : VCtx :=
  { c with issued := i, recent := r, acqM := a, vsup := v }

end Sys2Proof.Machine

namespace Sys2Proof.Claims
open Sys2Proof.Machine

/-- A fault at a word that has been taken back is a fault at the word. -/
theorem FaultsWord.takenBack {s u : State} {sub : Nat} {tval : Word} {o : Out} (ho : OnlyHart s u)
    (hu : ∃ i r a v, u.hart = s.hart.withCtx (s.ctx.takenBack i r a v)) (h : FaultsWord u sub tval o) : FaultsWord s sub tval o := by
  obtain ⟨i, r, a, v, hu⟩ := hu
  obtain ⟨t, ht, hot, hstop, hpend, htval, hsub, hpos, hhart, hctx⟩ := h
  have hc : u.ctx = s.ctx.takenBack i r a v := congrArg Hart.ctx hu
  rw [hc] at hpos hctx
  rw [hu] at hhart
  exact ⟨t, ht, ho.trans hot, hstop, hpend, htval, hsub, hpos, congrArg (fun y : Hart => y.withCtx s.ctx) hhart,
    congrArg (fun x : VCtx => x.takenBack s.ctx.issued s.ctx.recent s.ctx.acqM s.ctx.vsup) hctx⟩

theorem FaultsWord.unissued {s : State} {sub : Nat} {tval : Word} {o : Out} (h : FaultsWord s.unissued sub tval o) :
    FaultsWord s sub tval o := by
  obtain ⟨i, r, a, e⟩ := s.ctx.unissue_eq
  refine h.takenBack (onlyHart_modCtx s _) ⟨i, r, a, s.ctx.vsup, ?_⟩
  rw [modCtx_hart, e]
  rfl

/-- A vector fault of the word at the block pc. -/
theorem faultsWord_vfault (s : State) {sub : Nat} (tval : Word) (b : Bool) (hs : sub < 256) :
    FaultsWord s sub tval (.next (s.vfault s.cur sub tval b)) := by
  obtain ⟨n, r, hv, hn⟩ := vfault_hartAt s s.cur sub tval b
  have hh : (s.vfault s.cur sub tval b).hart = faultedHart s.hart n tval r := hv
  obtain ⟨hsub, hpos⟩ := fld_wordFaultRecord s.ctx hs
  rw [← show n = wordFaultRecord s.ctx sub from hn] at hsub hpos
  refine ⟨_, rfl, onlyHart_mod s _, ?_⟩
  rw [State.ctx, hh]
  exact ⟨rfl, rfl, rfl, hsub, hpos, rfl, rfl⟩

/-- A block word that cannot be read stops its block with none issued (R55). -/
theorem faultsWord_fetch {s : State} {b : Block} (hb : s.ctx.blk = some b) (hs : s.ctx.stopped = false) :
    FaultsWord s 0x02 b.pc (exec (.blockWordFetchFault .page) s)
    ∧ FaultsWord s 0x05 (if fld (s.vecView s.cur).katp 60 4 = 0 then BitVec.ofNat 64 (fld b.pc 0 56) else b.pc)
        (exec (.blockWordFetchFault .access) s) := by
  have hrun : ¬ (s.ctx.blk.isNone || s.ctx.stopped) = true := by
    rw [hb, hs]
    exact Bool.false_ne_true
  have hpage : exec (.blockWordFetchFault .page) s = .next (s.unissued.stopWord s.cur (.fault 0x02 (s.bpc s.cur))) := if_neg hrun
  have haccess : exec (.blockWordFetchFault .access) s = .next (s.unissued.stopWord s.cur (.fault 0x05 (s.bpcAccess s.cur))) :=
    if_neg hrun
  rw [hpage, haccess, State.bpcAccess, State.bpc_of_blk hb]
  exact ⟨(faultsWord_stop s.unissued _ (by decide)).unissued, (faultsWord_stop s.unissued _ (by decide)).unissued⟩

theorem faultsWord_illegalWord (s : State) : FaultsWord s 0x01 0 (exec .illegalWord s) :=
  (faultsWord_illegal s.unissued).unissued

/-- A word that kbrk names stops before it runs (R223). -/
theorem faultsWord_breakpoint {s : State} {b : Block} (hb : s.ctx.blk = some b) (hen : tst s.hart.kbrk 63 = true)
    (hvec : tst s.hart.kbrk 62 = true) (hhold : tst s.hart.kbrk 61 = false) (hsup : s.ctx.vsup = false)
    (hpc : fld s.hart.kbrk 3 54 = fld b.pc 3 54) : FaultsWord s 0x14 0 (exec (.breakpointHit true) s) := by
  have hits : s.hitsV s.cur = true := by
    rw [State.hitsV, State.bpc_of_blk hb]
    simp [show s.hartAt s.cur = s.hart from rfl, show s.hart.ctx = s.ctx from rfl, hen, hvec, hsup, hb, hpc]
  have hrun : exec (.breakpointHit true) s = .next (s.hitV s.cur) := if_pos hits
  obtain ⟨i, r, a, e⟩ := s.ctx.unissue_eq
  obtain ⟨u, hu⟩ : ∃ u, u = s.modCtx s.cur fun c => { c.unissue with vsup := true } := ⟨_, rfl⟩
  have hcur : u.cur = s.cur := hu ▸ rfl
  have hhit : s.hitV s.cur = u.vfault u.cur 0x14 0 false := by
    rw [hcur, hu]
    exact if_neg ((Bool.not_eq_true _).mpr hhold)
  rw [hrun, hhit]
  refine (faultsWord_vfault u 0 false (by decide)).takenBack (hu ▸ onlyHart_modCtx s _) ⟨i, r, a, true, ?_⟩
  rw [hu, modCtx_hart, e]
  rfl

/-! ### vbrk (R367) -/

/-- A vbrk stops its block after the word. -/
theorem vbrk_stops {s : State} (h : tst s.hart.kbrk 61 = false) : ∃ t, exec .vbrk s = .next t ∧ OnlyHart s t
    ∧ t.ctx.stopped = true ∧ t.hart.vfPend = true ∧ fld t.hart.kvfault 0 8 = 0x14 ∧ t.ctx.blk = (passed s).ctx.blk
    ∧ t.ctx.lc = (passed s).ctx.lc ∧ t.ctx.loops = (passed s).ctx.loops := by
  obtain ⟨u, hu⟩ : ∃ u, u = s.vfault s.cur 0x14 0 false := ⟨_, rfl⟩
  have hrun : exec .vbrk s = .next (passed u) := by
    rw [hu]
    exact if_neg ((Bool.not_eq_true _).mpr h)
  obtain ⟨n, r, hv, hn⟩ := vfault_hartAt s s.cur 0x14 0 false
  have hh : u.hart = faultedHart s.hart n 0 r := hu ▸ hv
  have hpass : (passed u).hart = u.hart.withCtx u.ctx.passed := modCtx_hart u VCtx.passed
  obtain ⟨bl, lc, l, ep⟩ := u.ctx.passed_eq
  have hstop : u.ctx.passed.stopped = u.ctx.stopped := by rw [ep]
  have hc : u.ctx = (faultedHart s.hart n 0 r).ctx := congrArg Hart.ctx hh
  obtain ⟨e1, e2, e3⟩ := VCtx.passed_congr (c := u.ctx) (d := s.ctx) (by rw [hc]; rfl) (by rw [hc]; rfl) (by rw [hc]; rfl)
  rw [passed_ctx s, hrun]
  refine ⟨_, rfl, (hu ▸ onlyHart_mod s _ : OnlyHart s u).trans (onlyHart_modCtx u VCtx.passed), ?_⟩
  rw [passed_ctx u, hpass, hstop, e1, e2, e3, hc, hh]
  exact ⟨rfl, rfl, hn ▸ (fld_wordFaultRecord s.ctx (by decide)).1, rfl, rfl, rfl⟩

/-- With HOLD a vbrk becalms the core after the word. -/
theorem vbrk_holds {s : State} (h : tst s.hart.kbrk 61 = true) : ∃ t, exec .vbrk s = .next t ∧ NextWord s t
    ∧ t.isBecalmed (coreOf s.cur) = true ∧ SameMemory s t ∧ t.ctx.stopped = s.ctx.stopped := by
  have hrun : exec .vbrk s = .next ((passed s).becalm (coreOf s.cur) 1) := if_pos h
  obtain ⟨bl, lc, l, ep⟩ := s.ctx.passed_eq
  have hc : ((passed s).becalm (coreOf s.cur) 1).ctx = s.ctx.passed := passed_ctx s
  refine ⟨_, hrun, nextWord_of_passed hc rfl rfl rfl, ?_, sameMemory_of_mem rfl rfl rfl fun c => ?_, by rw [hc, ep]⟩
  · rw [State.isBecalmed, State.becalm_eq, State.coreAt_modCore_self, Core.becalmedBy, tst_putBit]
    rfl
  · rw [State.becalm_eq, State.coreAt_modCore]
    split
    · rfl
    · rfl

end Sys2Proof.Claims

namespace Sys2Proof.Machine

/-! ### Replies (R56, R57, R388) -/

/-- A reply in its slot. -/
def Hart.replied (v : Hart) (w : Word) : Hart :=
  { v with replies := v.replies ++ [w], rsv := v.rsv - 1
           ctx := { v.ctx with blk := v.ctx.blk.map fun b => { b with sent := b.sent + 1 } } }

/-- A context with one more reply sent, and the strip o. -/
def VCtx.sending (x : VCtx) (o : Option Strip) : VCtx :=
  { x with blk := x.blk.map fun b => { b with sent := b.sent + 1 }, strip := o }

/-- The harts once a reply is in its slot and its word has passed. -/
theorem replied_passed (u : State) (w : Word) : let t := (u.mod fun v => v.replied w).passWord u.cur
    t.hart = (u.hart.replied w).withCtx (u.hart.replied w).ctx.passed ∧ ∀ j, j ≠ u.cur → t.hartAt j = u.hartAt j := by
  refine ⟨?_, fun j hj => ?_⟩
  · refine (Claims.modCtx_hart (u.mod fun v => v.replied w) VCtx.passed).trans ?_
    rw [State.ctx, State.mod_hart]
    rfl
  · rw [State.passWord_eq, State.modCtx_hartAt_ne _ _ hj]
    exact State.mod_hartAt_ne u _ hj

theorem State.replyOk_iff {s : State} {b : Block} (hb : s.ctx.blk = some b) : s.replyOk = true ↔ b.sent < b.cmd.nrep := by
  rw [State.replyOk, hb]
  exact decide_eq_true_iff

/-- A word that reads masks without poison consumes none (R207). -/
theorem poisonedReads_masks {x : VCtx} (w : Sweep) {l : List Nat} (h : ∀ e ∈ x.mpoison, hasNat l (e.1 % 8) = false) :
    poisonedReads x w { rm := l } = false := by
  have hm : (x.mpoison.any fun e => hasNat l (e.1 % 8) && decide (e.1 / 64 < w.vl) && decide (e.1 / 8 % 8 < w.vrows)) = false := by
    refine List.any_eq_false.mpr fun e he => ?_
    rw [h e he]
    exact Bool.false_ne_true
  rw [poisonedReads, hm]
  rfl

end Sys2Proof.Machine

namespace Sys2Proof.Claims
open Sys2Proof.Machine

/-- The block of s goes on with one more reply sent, the strip sealed first (R57, R81). -/
def Replied (s : State) (b : Block) (v : Word) (o : Out) : Prop :=
  ∃ t, o = .next t ∧ t.hart.replies = s.hart.replies ++ [v] ∧ t.hart.rsv = s.hart.rsv - 1
    ∧ t.ctx.blk = (passed s).ctx.blk.map (fun (y : Block) => { y with sent := b.sent + 1 })
    ∧ t.ctx.lc = (passed s).ctx.lc ∧ t.ctx.loops = (passed s).ctx.loops
    ∧ (∀ st, t.ctx.strip = some st → st.isSealed = true) ∧ (s.ctx.strip = none → t.ctx.strip = none)
    ∧ { t.hart with ctx := s.hart.ctx, replies := s.hart.replies, rsv := s.hart.rsv, monHit := s.hart.monHit
                    kmcheck := s.hart.kmcheck, mcPend := s.hart.mcPend } = s.hart
    ∧ (Linked s → t.hart.kmcheck = s.hart.kmcheck ∧ t.hart.mcPend = s.hart.mcPend)
    ∧ { atWord t.ctx s.ctx with strip := s.ctx.strip } = s.ctx
    ∧ (∀ k, Unbuffered s k → t.byteAt k = s.byteAt k)
    ∧ ∀ h, h ≠ s.cur → { t.hartAt h with monHit := (s.hartAt h).monHit } = s.hartAt h

/-- A context with one more reply sent and the strip o is passed to the next word as it would be without. -/
theorem sending_passed {x : VCtx} {b : Block} (hb : x.blk = some b) (o : Option Strip) : let y := (x.sending o).passed
    y.blk = x.passed.blk.map (fun (y : Block) => { y with sent := b.sent + 1 }) ∧ y.lc = x.passed.lc ∧ y.loops = x.passed.loops
    ∧ y.strip = o ∧ { atWord y x with strip := x.strip } = x := by
  intro y
  obtain ⟨hlc, hloops, hblk⟩ := VCtx.passed_block hb
  obtain ⟨ylc, yloops, yblk⟩ := VCtx.passed_block (c := x.sending o) (b := { b with sent := b.sent + 1 })
    (by rw [VCtx.sending, hb]; rfl)
  obtain ⟨_, _, _, ep⟩ := (x.sending o).passed_eq
  refine ⟨?_, ylc.trans hlc.symm, yloops.trans hloops.symm, ?_, ?_⟩
  · rw [hblk]
    exact yblk
  · rw [show y = _ from ep]
    rfl
  · rw [show y = _ from ep]
    rfl

/-- A reply that is sent once the strip alone has changed. -/
theorem replied_reply {s s1 : State} {b : Block} (hb : s.ctx.blk = some b) (hS : Strips s.cur s s1) (v : Word) :
    Replied s b v (endB s (.ok (s1.reply v))) := by
  obtain ⟨u, hu⟩ : ∃ u, u = s1.seal s1.cur := ⟨_, rfl⟩
  have hSu : Strips s.cur s u := hu ▸ hS.trans (hS.cur ▸ strips_seal s1 s1.cur)
  have hseal : ∀ st, u.ctx.strip = some st → st.isSealed = true := fun st h =>
    State.seal_sealed (s := s1) (h := s1.cur) (by rw [← hu, hS.cur, ← hSu.cur]; exact h)
  obtain ⟨o, m, k, p, e⟩ := hSu.hart
  have hkept : Linked s → k = s.hart.kmcheck ∧ p = s.hart.mcPend := fun hl => by
    have := hSu.kept hl
    rwa [e] at this
  obtain ⟨t, ht⟩ : ∃ t, t = (u.mod fun x => x.replied v).passWord u.cur := ⟨_, rfl⟩
  have hrun : endB s (.ok (s1.reply v)) = .next t := by rw [ht, hu]; rfl
  have huh : u.hart = { s.hart with ctx := s.ctx.withStrip o, monHit := m, kmcheck := k, mcPend := p } :=
    (congrArg u.hartAt hSu.cur).trans e
  have huc : u.ctx.strip = o := congrArg (fun x : Hart => x.ctx.strip) huh
  obtain ⟨hth, hne⟩ := replied_passed u v
  rw [← ht, huh] at hth
  rw [← ht, hSu.cur] at hne
  have htc : t.ctx = (s.ctx.sending o).passed := congrArg Hart.ctx hth
  obtain ⟨cblk, clc, cloops, cstrip, ckept⟩ := sending_passed hb o
  rw [hrun, Replied, passed_ctx]
  refine ⟨t, rfl, by rw [hth]; rfl, by rw [hth]; rfl, htc ▸ cblk, htc ▸ clc, htc ▸ cloops, ?_, fun hn => ?_, by rw [hth]; rfl,
    fun hl => by rw [hth]; exact hkept hl, htc ▸ ckept, fun c hc => ?_, fun j hj => ?_⟩
  · rw [htc, cstrip, ← huc]
    exact hseal
  · rw [htc, cstrip, ← huc]
    by_contra hq
    obtain ⟨q, hq⟩ := Option.ne_none_iff_exists'.mp hq
    obtain ⟨st, hst, -⟩ := hSu.buf q (by rw [← hSu.cur]; exact hq)
    exact absurd (hst.symm.trans hn) nofun
  · exact (by rw [ht]; rfl : t.byteAt c = u.byteAt c).trans (hSu.cell c (unbuffered_spares hc)).1
  · obtain ⟨_, ej⟩ := hSu.others j hj
    rw [hne j hj, ej]

section
variable {s : State} {b : Block} (hb : s.ctx.blk = some b)
include hb

/-- vreply sends its register (R56). -/
theorem replied_vreply (r : BReg) (h : b.sent < b.cmd.nrep) : Replied s b (s.ctx.br r) (exec (.vreply r) s) := by
  have e : exec (.vreply r) s = endB s (.ok (s.reply (s.ctx.br r))) :=
    congrArg (endB s) (if_pos ((State.replyOk_iff hb).mpr h))
  rw [e]
  exact replied_reply hb (.refl s.cur s) _

/-- A mask form sends a function of the count of true active positions (R388). -/
theorem replied_mask {m : MReg} (f : Nat → Nat) (h : b.sent < b.cmd.nrep) (hr : s.ctx.grant.g = 0 ∨ MaskClean s m) :
    Replied s b (BitVec.ofNat 64 (f (s.truePositions s.cur m.toNat).length)) (endB s (s.replyMask m f)) := by
  obtain ⟨l, hl, hlm⟩ : ∃ l : List Nat, l = (if s.ctx.grant.g = 0 then [] else [m.toNat])
      ∧ ∀ e ∈ s.ctx.mpoison, hasNat l (e.1 % 8) = false := by
    by_cases hg : s.ctx.grant.g = 0
    · exact ⟨_, rfl, fun e _ => by rw [if_pos hg]; rfl⟩
    · refine ⟨_, rfl, fun e he => ?_⟩
      rw [if_neg hg]
      simpa [hasNat] using Ne.symm (hr.resolve_left hg e he)
  have hreads : (if s.ctx.grant.g = 0 then {} else { rm := [m.toNat] } : Touch) = { rm := l } := by
    rw [hl]
    split
    · rfl
    · rfl
  obtain ⟨o, k, c, p, e⟩ := (strips_seal s s.cur).hart
  have hclean : poisonedReads ((s.seal s.cur).hartAt s.cur).ctx (s.sweep s.cur) { rm := l } = false := by
    rw [e]
    exact poisonedReads_masks _ hlm
  have hrun : s.replyMask m f = .ok (((s.seal s.cur).touch s.cur { rm := l }).reply
      (BitVec.ofNat 64 (f (s.truePositions s.cur m.toNat).length))) := by
    rw [State.replyMask, Machine.need, if_pos ((State.replyOk_iff hb).mpr h), hreads]
    show (State.sweepTouch _ _ _ _).bind _ = _
    rw [State.sweepTouch, hclean]
    rfl
  rw [hrun]
  exact replied_reply hb ((strips_seal s s.cur).trans (strips_touch _ s.cur _)) _

/-- Without a free slot no reply is sent (R57). -/
theorem faultsWord_reply (r : BReg) (m : MReg) (h : b.cmd.nrep ≤ b.sent) : FaultsWord s 0x09 0 (exec (.vreply r) s)
    ∧ FaultsWord s 0x09 0 (exec (.vreplyAny m) s) ∧ FaultsWord s 0x09 0 (exec (.vreplyNone m) s)
    ∧ FaultsWord s 0x09 0 (exec (.vreplyPop m) s) := by
  have hno : ¬ s.replyOk = true := fun e => Nat.not_le.mpr ((State.replyOk_iff hb).mp e) h
  have hfault : FaultsWord s 0x09 0 (endB s (.error (.fault 0x09 0))) := faultsWord_stop s 0 (by decide)
  have hmask : ∀ f, s.replyMask m f = .error (.fault 0x09 0) := fun f => by
    rw [State.replyMask, Machine.need, if_neg hno]
    rfl
  have hany : exec (.vreplyAny m) s = _ := congrArg (endB s) (hmask _)
  have hnone : exec (.vreplyNone m) s = _ := congrArg (endB s) (hmask _)
  have hpop : exec (.vreplyPop m) s = _ := congrArg (endB s) (hmask _)
  have hreg : exec (.vreply r) s = _ := congrArg (endB s) (if_neg hno)
  rw [hany, hnone, hpop, hreg]
  exact ⟨hfault, hfault, hfault, hfault⟩

end

end Sys2Proof.Claims

namespace Sys2Proof.Machine

/-! ### The end of the block (R53) -/

/-- A hart whose block has ended, with nothing that it waits for. -/
def Hart.blockEnded (v : Hart) : Hart :=
  { v with queue := v.queue.drop 1, head := v.head + 1
           rsv := v.rsv - (v.ctx.blk.map fun b => b.cmd.nrep - b.sent).getD 0
           ctx := { v.ctx with blk := none, loops := [], step := 0, waiting := none, vsup := false } }

/-- The block of hart h retires and its stream unit is free, before clusters move. -/
def State.blockEnded (s : State) (h : Nat) : State :=
  ((s.retireBlock h).modCtx h fun c => { c with waiting := none, vsup := false }).modCore (coreOf h) fun k => k.leaveStream h

theorem State.endBlock_eq (s : State) (h : Nat) : s.endBlock h = ((s.closeStrip h false false).blockEnded h).settle (coreOf h) := rfl

section
variable (s : State) (h : Nat)

theorem State.blockEnded_hartAt : (s.blockEnded h).hartAt h = (s.hartAt h).blockEnded := by
  rw [State.blockEnded, State.hartAt_modCore, State.modCtx_hartAt_self, State.retireBlock, State.hartAt_modHart_self]
  rfl

theorem State.blockEnded_hartAt_ne {j : Nat} (hj : j ≠ h) : (s.blockEnded h).hartAt j = s.hartAt j := by
  rw [State.blockEnded, State.hartAt_modCore, State.modCtx_hartAt_ne _ _ hj]
  exact State.hartAt_modHart_ne _ _ hj

theorem State.blockEnded_coreAt (k : Nat) :
    (s.blockEnded h).coreAt k = if k = coreOf h then (s.coreAt k).leaveStream h else s.coreAt k := by
  rw [State.blockEnded, State.coreAt_modCore]
  rfl

end

/-- A hart that leaves the stream unit does not own it (R131). -/
theorem Core.leaveStream_owner (k : Core) (h : Nat) : (k.leaveStream h).stream.owner ≠ some h :=
  Core.grantStream_owner (leave_owner _ _) (by simp)

theorem Core.leaveStream_junction (k : Core) (h : Nat) : (k.leaveStream h).junction = k.junction := by
  obtain ⟨_, _, _, e⟩ := Core.grantStream_frame { k with stream := { k.stream with
    owner := if k.stream.owner = some h then none else k.stream.owner
    waiting := k.stream.waiting.filter fun x => x != h } }
  rw [Core.leaveStream, e]
  rfl

/-- Of the other harts a strip that closes may wake a monitor. -/
theorem State.closeStrip_others (s : State) (h : Nat) (killed discarded : Bool) {j : Nat} (hj : j ≠ h) :
    ∃ m, (s.closeStrip h killed discarded).hartAt j = { s.hartAt j with monHit := m } := by
  cases hs : (s.hartAt h).ctx.strip with
  | none =>
    rw [State.closeStrip_none killed discarded hs]
    exact ⟨_, rfl⟩
  | some st =>
    obtain ⟨p1, -, -⟩ := performed_releaseBuf s h st
    obtain ⟨u, p2, -, hu⟩ := State.pennant_frame (s.releaseBuf h st) h st false killed discarded
    have hp := p1.trans p2
    obtain ⟨m, k, p, e⟩ := hp.harts j
    obtain ⟨hk, hm⟩ := hp.kept j (.inr hj)
    rw [e] at hk hm
    obtain rfl : k = (s.hartAt j).kmcheck := hk
    obtain rfl : p = (s.hartAt j).mcPend := hm
    rw [State.closeStrip_some killed discarded hs, State.modCtx_hartAt_ne _ _ hj]
    rcases hu with hu | ⟨f, hu⟩
    · exact ⟨m, hu ▸ e⟩
    · exact ⟨m, by rw [hu, State.hartAt_modHart_ne _ _ hj, e]⟩

end Sys2Proof.Machine

namespace Sys2Proof.Claims
open Sys2Proof.Machine

theorem sameMemory_blockEnded (s : State) (h : Nat) : SameMemory s (s.blockEnded h) :=
  sameMemory_of_mem rfl rfl rfl fun c => by
    rw [State.blockEnded_coreAt]
    split
    · exact Core.leaveStream_junction ..
    · rfl

/-- What the end of a block leaves of its hart: the strip has closed, and the block has retired. -/
theorem endBlock_hart (s : State) : ∃ x m k p q, (s.endBlock s.cur).hart =
      { (s.hart.withKpenc q).blockEnded with ctx := x, monHit := m, kmcheck := k, mcPend := p }
    ∧ x.blk = none ∧ x.strip = none ∧ x.b = s.ctx.b
    ∧ q = (s.closeStrip s.cur false false).hart.kpenc ∧ (Linked s → k = s.hart.kmcheck ∧ p = s.hart.mcPend) := by
  obtain ⟨u, hu⟩ : ∃ u, u = s.closeStrip s.cur false false := ⟨_, rfl⟩
  have hcl := closes_closeStrip s s.cur false false
  rw [← hu] at hcl
  obtain ⟨m, k, p, q, e⟩ := hcl.hart
  have hkept := hcl.kept
  have hset := settles_settle (c := coreOf s.cur) (u.blockEnded s.cur)
  have hcur : (u.blockEnded s.cur).cur = s.cur := hcl.cur
  obtain ⟨x, hx, hxc⟩ := hset.hart_regs
  have hw : (u.blockEnded s.cur).hart = (u.hartAt s.cur).blockEnded :=
    (congrArg (u.blockEnded s.cur).hartAt hcur).trans (u.blockEnded_hartAt s.cur)
  rw [hw, e] at hx hxc
  rw [e] at hkept
  have hkp : q = u.hart.kpenc := by
    rw [State.hart, hcl.cur, e]
    rfl
  rw [State.endBlock_eq, ← hu]
  refine ⟨x, m, k, p, q, hx, ?_, ?_, ?_, hkp, hkept⟩
  all_goals
    rcases hxc with h | h
    · rw [h]
      rfl
    · rw [h]
      rfl

/-- The end of a block changes memory as its strip does that closes. -/
theorem endBlock_memory (s : State) : (s.endBlock s.cur).part = (s.closeStrip s.cur false false).part
    ∧ SameMemory (s.closeStrip s.cur false false) (s.endBlock s.cur)
    ∧ ((s.endBlock s.cur).coreAt (coreOf s.cur)).stream.owner ≠ some s.cur := by
  have hset := settles_settle (c := coreOf s.cur) ((s.closeStrip s.cur false false).blockEnded s.cur)
  rw [← State.endBlock_eq] at hset
  refine ⟨hset.part, (sameMemory_blockEnded _ _).trans hset.sameMemory, ?_⟩
  rw [hset.core, State.blockEnded_coreAt, if_pos rfl]
  exact Core.leaveStream_owner _ _

/-- Of the other harts the end of a block may move clusters, and wake monitors. -/
theorem endBlock_others (s : State) {j : Nat} (hj : j ≠ s.cur) :
    { (s.endBlock s.cur).hartAt j with ctx := (s.hartAt j).ctx, monHit := (s.hartAt j).monHit } = s.hartAt j := by
  have hset := (settles_settle (c := coreOf s.cur) ((s.closeStrip s.cur false false).blockEnded s.cur)).hart_ctx j
  obtain ⟨m, e⟩ := s.closeStrip_others s.cur false false hj
  rw [← State.endBlock_eq, State.blockEnded_hartAt_ne _ _ hj, e] at hset
  exact congrArg (fun v : Hart => { v with monHit := (s.hartAt j).monHit }) hset

/-- vend ends the block (R53, R131, R220-R222). -/
theorem vend_ends {s : State} {b : Block} (hb : s.ctx.blk = some b) : ∃ t, exec .vend s = .next t ∧ t.ctx.blk = none
    ∧ t.ctx.strip = none ∧ t.hart.head = s.hart.head + 1
    ∧ t.hart.queue = s.hart.queue.drop 1 ∧ t.hart.rsv = s.hart.rsv - (b.cmd.nrep - b.sent)
    ∧ { t.hart with ctx := s.hart.ctx, head := s.hart.head, queue := s.hart.queue, rsv := s.hart.rsv,
                    kpenc := s.hart.kpenc, monHit := s.hart.monHit, kmcheck := s.hart.kmcheck
                    mcPend := s.hart.mcPend } = s.hart
    ∧ (Linked s → t.hart.kmcheck = s.hart.kmcheck ∧ t.hart.mcPend = s.hart.mcPend) ∧ (∀ r, t.ctx.br r = s.ctx.br r)
    ∧ (t.coreAt (coreOf s.cur)).stream.owner ≠ some s.cur
    ∧ (∀ h, h ≠ s.cur → { t.hartAt h with ctx := (s.hartAt h).ctx, monHit := (s.hartAt h).monHit } = s.hartAt h)
    ∧ (s.ctx.strip = none → SameMemory s t ∧ t.hart.kpenc = s.hart.kpenc)
    ∧ ∀ st, s.ctx.strip = some st → ClosesPennant (s.releaseBuf s.cur st) t st false false := by
  obtain ⟨x, m, k, p, q, hh, hblk, hstrip, hbr, hq, hkept⟩ := endBlock_hart s
  obtain ⟨hpart, hmem, hown⟩ := endBlock_memory s
  have hc : (s.endBlock s.cur).ctx = x := congrArg Hart.ctx hh
  have hk : (s.endBlock s.cur).hart.kpenc = (s.closeStrip s.cur false false).hart.kpenc := by
    rw [hh, ← hq]
    rfl
  have hrsv : (s.ctx.blk.map fun b => b.cmd.nrep - b.sent).getD 0 = b.cmd.nrep - b.sent := by
    rw [hb]
    rfl
  refine ⟨s.endBlock s.cur, rfl, hc ▸ hblk, hc ▸ hstrip, by rw [hh]; rfl, by rw [hh]; rfl, ?_, by rw [hh]; rfl,
    fun hl => by rw [hh]; exact hkept hl, fun r => ?_, hown, fun j hj => endBlock_others s hj, fun hn => ?_, fun st hst => ?_⟩
  · rw [hh, ← hrsv]
    rfl
  · rw [hc, VCtx.br, hbr]
    rfl
  · rw [State.closeStrip_none false false hn] at hmem hk
    exact ⟨hmem, hk⟩
  · exact (closesPennant_closeStrip false hst).after hk hpart hmem

/-- Settles O40: each word ends its block, sends its reply or stops the block by the rule of its own. -/
theorem blockEnds : Obligations.BlockEnds := by
  unfold Obligations.BlockEnds
  intro s b r m hb w trues replies readable
  refine ⟨vend_ends hb, fun h => ⟨replied_vreply hb r h, fun hr => ⟨?_, ?_, replied_mask hb (fun n => n) h hr⟩⟩,
    fun h => faultsWord_reply hb r m h, vbrk_stops, vbrk_holds, faultsWord_illegalWord s, faultsWord_fetch hb,
    faultsWord_breakpoint hb⟩
  · have hv : (if trues = 0 then 0 else 1 : Word) = BitVec.ofNat 64 (natOf (trues != 0)) := by
      by_cases h0 : trues = 0
      · rw [if_pos h0, h0]
        rfl
      · rw [if_neg h0, bne_iff_ne.mpr h0]
        rfl
    rw [hv]
    exact replied_mask hb (fun n => natOf (n != 0)) h hr
  · have hv : (if trues = 0 then 1 else 0 : Word) = BitVec.ofNat 64 (natOf (trues == 0)) := by
      by_cases h0 : trues = 0
      · rw [if_pos h0, h0]
        rfl
      · rw [if_neg h0, beq_false_of_ne h0]
        rfl
    rw [hv]
    exact replied_mask hb (fun n => natOf (n == 0)) h hr

end Sys2Proof.Claims
